-- ==== Sys2Proof/Word.lean ====
section
/-!
DEFINITION. The word types of the module: one byte, the widths the manual's registers and
formats have, and nothing else. Arithmetic on them is Lean's own `BitVec` arithmetic.
-/

namespace Sys2Proof

/-- One byte (R13 stores multi-byte values least significant byte first). -/
abbrev Byte := BitVec 8

/-- A register of the register space and a scalar register: 64 bits (R17, R95). -/
abbrev W64 := BitVec 64

/-- One FP32 or INT32 lane of a vector register (R122). -/
abbrev W32 := BitVec 32

/-- One AF40 accumulator value (R38). -/
abbrev AF40 := BitVec 40

/-- The 64 bytes of a descriptor, generator, command or control block, byte 0 in bits [7:0]. -/
abbrev Line := BitVec 512

/-- A device physical address as it is computed: 48 bits (R466). -/
abbrev Addr := BitVec 48

end Sys2Proof
end

