-- ==== Sys2Proof/Syntax.lean ====
section
/-!
DEFINITION. The commands of the block: one constructor per row of the opcode table, with the operands the spec gives the row.
Core and Bench instructions carry the operand bits of their encoding (R99, R205).
-/

namespace Sys2Proof

/-- Who makes an access: the control complex, a host function, a core, a DMA queue 4n + q, or a Bench engine (R467). -/
inductive Who where
  | ctl
  | fn (f : Nat)
  | core (n : Nat)
  | dma (n : Nat)
  | bench (e : Nat)
  deriving DecidableEq, Repr

/-- A write of PCIe configuration space that has an effect (R399, R403, R406, R408, R410): MSI-X Enable, ATS Enable, PASID Enable, a resize
of BAR2 to 2^k GiB, entry to D3hot, Initiate Function Level Reset, or VF Enable with NumVFs. -/
inductive Cfg where
  | msixEnable (on : Bool)
  | ats (on : Bool)
  | pasid (on : Bool)
  | bar2Size (k : Nat)
  | d3hot
  | flr
  | vf (en : Bool) (num : Nat)
  deriving DecidableEq, Repr

/-- The arrays of a core that carry the scratchpad word's code beside the scratchpad (R242). -/
inductive SramArray where
  | weightBuffer | feeders | bundleCache | drainCarries
  deriving DecidableEq, Repr

/-- The word that an SRAM read takes (R242, R243): one of a scratchpad, by its address, or the word at a position of an array of a core, with
what the array holds there and whether it was corrected before and not written since. [DESIGN CHOICE: log 191] -/
inductive SramWord where
  | pad (a : Nat)
  | array (n : Nat) (k : SramArray) (pos : Nat) (word : W64) (again : Bool)
  deriving DecidableEq, Repr

/-- What a certificate chain carries (R434), as X.509 reads it: the bytes of its root, product-line and device certificates, the public key (modulus and exponent), part
number and serial number of its device certificate, and whether each certificate is signed under the one before it. -/
structure Chain where
  root : List Byte
  line : List Byte := []
  device : List Byte := []
  key : List Byte
  part : List Byte
  serial : W64
  signed : Bool
  deriving DecidableEq, Repr, Inhabited

/-- What the partner sends for link authentication (R436): whether its signature over both first messages verifies, and its certificate chain. -/
structure Peer where
  ok : Bool
  chain : Chain
  deriving DecidableEq, Repr, Inhabited

/-- A debug unlock token (R437): the serial number, the nonce and the scope that it carries, and whether its signature verifies. -/
structure Token where
  serial : W64
  nonce : BitVec 256 := 0
  scope : W64 := 0
  ok : Bool
  deriving DecidableEq, Repr, Inhabited

/-- One command (one row of the opcode table). The docstring of a constructor is the row's meaning in one line and its rule. -/
inductive Instr where
  /-- `NOP` (R99). A slot holding opcode 0x00 issues and does nothing. -/
  | nop (c : Nat) (m : Bool) (k : Nat) (w : BitVec 64)
  /-- `WLOAD` (R108). Fills a weight buffer half with N K blocks from scratchpad through a descriptor and generator, and advances the generator. -/
  | wload (c : Nat) (m : Bool) (w : BitVec 57)
  /-- `ALOAD` (R109). Fills feeder half H of the selected arrays with N K blocks of 32 rows each, and advances the generator. -/
  | aload (c : Nat) (m : Bool) (w : BitVec 57)
  /-- `CASTON` (R111). Casts on the selected skeins, which become OPEN with zero partial and total. -/
  | caston (c : Nat) (m : Bool) (w : BitVec 57)
  /-- `MMA` (R112). Steps the selected skeins through N K blocks and merges the block sums into the granule partials. -/
  | mma (c : Nat) (m : Bool) (w : BitVec 57)
  /-- `CASTOFF` (R115). Casts off the selected skeins into the drain under a drain control block, through scale, bias, function, convert and route stages. -/
  | castoff (c : Nat) (m : Bool) (w : BitVec 57)
  /-- `SPOIL` (R117). Casts off the selected skeins to spoil; the drain is occupied but nothing is written or counted. -/
  | spoil (c : Nat) (m : Bool) (w : BitVec 57)
  /-- `PARK` (R119). Parks a skein into a save buffer (SAVE) or adds its scaled value into an add target (ADD). -/
  | park (c : Nat) (m : Bool) (w : BitVec 57)
  /-- `RESUME` (R119). Restores a skein from a save buffer or an add target. -/
  | resume (c : Nat) (m : Bool) (w : BitVec 57)
  /-- `SKEIN_DRAINED` (R86). The drain reads the last value of a cast-off skein and the slot becomes FREE. -/
  | skeinDrained (c : Nat) (k : Nat)
  /-- `PARK_COMPLETE` (R71). The last buffer write of a PARK is accepted and the slot becomes FREE. -/
  | parkComplete (c : Nat) (k : Nat)
  /-- `RESUME_COMPLETE` (R71). The last buffer read of a RESUME returns and the slot becomes OPEN or SEALED. -/
  | resumeComplete (c : Nat) (k : Nat)
  /-- `VADD` (R125). Lane-wise floating-point addition. -/
  | vadd (c : Nat) (m : Bool) (w : BitVec 57)
  /-- `VSUB` (R125). Lane-wise floating-point subtraction. -/
  | vsub (c : Nat) (m : Bool) (w : BitVec 57)
  /-- `VMUL` (R125). Lane-wise floating-point multiplication. -/
  | vmul (c : Nat) (m : Bool) (w : BitVec 57)
  /-- `VFMA` (R125). Lane-wise fused multiply-add with optional negations and one rounding. -/
  | vfma (c : Nat) (m : Bool) (w : BitVec 57)
  /-- `VMIN` (R125). Lane-wise minimum. -/
  | vmin (c : Nat) (m : Bool) (w : BitVec 57)
  /-- `VMAX` (R125). Lane-wise maximum. -/
  | vmax (c : Nat) (m : Bool) (w : BitVec 57)
  /-- `VABS` (R125). Lane-wise sign clear. -/
  | vabs (c : Nat) (m : Bool) (w : BitVec 57)
  /-- `VNEG` (R125). Lane-wise sign inversion. -/
  | vneg (c : Nat) (m : Bool) (w : BitVec 57)
  /-- `VDIV` (R124). Lane-wise correctly rounded division. -/
  | vdiv (c : Nat) (m : Bool) (w : BitVec 57)
  /-- `VSQRT` (R124). Lane-wise correctly rounded square root. -/
  | vsqrt (c : Nat) (m : Bool) (w : BitVec 57)
  /-- `VRSQRT` (R124). Lane-wise correctly rounded reciprocal square root. -/
  | vrsqrt (c : Nat) (m : Bool) (w : BitVec 57)
  /-- `VEXP` (R124). Lane-wise correctly rounded e to the power x. -/
  | vexp (c : Nat) (m : Bool) (w : BitVec 57)
  /-- `VEXP2` (R124). Lane-wise correctly rounded 2 to the power x. -/
  | vexp2 (c : Nat) (m : Bool) (w : BitVec 57)
  /-- `VLOG2` (R124). Lane-wise correctly rounded base-2 logarithm. -/
  | vlog2 (c : Nat) (m : Bool) (w : BitVec 57)
  /-- `VTANH` (R124). Lane-wise correctly rounded tanh. -/
  | vtanh (c : Nat) (m : Bool) (w : BitVec 57)
  /-- `VSIG` (R124). Lane-wise correctly rounded sigmoid. -/
  | vsig (c : Nat) (m : Bool) (w : BitVec 57)
  /-- `VFN` (R127). Evaluates a drain function or derivative by its function code with the shared algorithms. -/
  | vfn (c : Nat) (m : Bool) (w : BitVec 57)
  /-- `VCMP` (R129). Sets predicate bits from a lane-wise IEEE comparison. -/
  | vcmp (c : Nat) (m : Bool) (w : BitVec 57)
  /-- `VSEL` (R125). Selects lane-wise between two sources under a predicate. -/
  | vsel (c : Nat) (m : Bool) (w : BitVec 57)
  /-- `VIADD` (R125). Lane-wise 32-bit integer addition. -/
  | viadd (c : Nat) (m : Bool) (w : BitVec 57)
  /-- `VISUB` (R125). Lane-wise 32-bit integer subtraction. -/
  | visub (c : Nat) (m : Bool) (w : BitVec 57)
  /-- `VAND` (R125). Lane-wise bitwise and. -/
  | vand (c : Nat) (m : Bool) (w : BitVec 57)
  /-- `VOR` (R125). Lane-wise bitwise or. -/
  | vor (c : Nat) (m : Bool) (w : BitVec 57)
  /-- `VXOR` (R125). Lane-wise bitwise exclusive or. -/
  | vxor (c : Nat) (m : Bool) (w : BitVec 57)
  /-- `VSHL` (R125). Lane-wise left shift. -/
  | vshl (c : Nat) (m : Bool) (w : BitVec 57)
  /-- `VSHR` (R125). Lane-wise logical right shift. -/
  | vshr (c : Nat) (m : Bool) (w : BitVec 57)
  /-- `VSRA` (R125). Lane-wise arithmetic right shift. -/
  | vsra (c : Nat) (m : Bool) (w : BitVec 57)
  /-- `VCVT` (R126). Lane-wise conversion between FP32, BF16 and INT32 by code. -/
  | vcvt (c : Nat) (m : Bool) (w : BitVec 57)
  /-- `VBCAST` (R125). Broadcasts the low 32 bits of a scalar register to every lane. -/
  | vbcast (c : Nat) (m : Bool) (w : BitVec 57)
  /-- `VEXT` (R125). Extracts one lane of a vector register into a scalar register. -/
  | vext (c : Nat) (m : Bool) (w : BitVec 57)
  /-- `VPERM` (R125). Permutes the lanes of a vector register by an index vector. -/
  | vperm (c : Nat) (m : Bool) (w : BitVec 57)
  /-- `VRED` (R128). Reduces the 64 lanes by a fixed pairwise tree into every active lane. -/
  | vred (c : Nat) (m : Bool) (w : BitVec 57)
  /-- `VAMAX` (R128). Writes the largest finite magnitude of the active lanes into every active lane. -/
  | vamax (c : Nat) (m : Bool) (w : BitVec 57)
  /-- `VLD` (R130). Loads 256 bytes of scratchpad into a vector register. -/
  | vld (c : Nat) (m : Bool) (w : BitVec 57)
  /-- `VST` (R130). Stores a vector register's active lanes to scratchpad. -/
  | vst (c : Nat) (m : Bool) (w : BitVec 57)
  /-- `VDEC` (R131). Decodes two blocks of an ES tensor into FP32 lanes. -/
  | vdec (c : Nat) (m : Bool) (w : BitVec 57)
  /-- `VCVTES` (R132). Converts 64 lanes into two ES blocks and writes them with their block bytes and counters. -/
  | vcvtes (c : Nat) (m : Bool) (w : BitVec 57)
  /-- `TLD` (R143). Loads a tensor descriptor from a scratchpad line. -/
  | tld (c : Nat) (m : Bool) (w : BitVec 57)
  /-- `GLD` (R143). Loads an address generator from a scratchpad line. -/
  | gld (c : Nat) (m : Bool) (w : BitVec 57)
  /-- `GST` (R143). Stores an address generator's current state to scratchpad. -/
  | gst (c : Nat) (m : Bool) (w : BitVec 57)
  /-- `DMA` (R144). Enters a transfer into a DMA queue, waiting while the queue holds 16. -/
  | dma (c : Nat) (m : Bool) (w : BitVec 57)
  /-- `DMAT` (R147). Enters a transposing transfer into a DMA queue. -/
  | dmat (c : Nat) (m : Bool) (w : BitVec 57)
  /-- `DMA_COPY` (R144). A queued COPY transfer copies elements bit for bit. -/
  | dmaCopy (c : Nat) (q : Nat)
  /-- `DMA_CONVERT` (R144). A queued CONVERT transfer converts elements between formats with counters. -/
  | dmaConvert (c : Nat) (q : Nat)
  /-- `MX_IMPORT` (R60). A queued MX_IMPORT transfer imports OCP microscaling blocks into an ES tensor. -/
  | mxImport (c : Nat) (q : Nat)
  /-- `MX_EXPORT` (R61). A queued MX_EXPORT transfer exports ES blocks as OCP microscaling blocks. -/
  | mxExport (c : Nat) (q : Nat)
  /-- `DMA_ZERO` (R144). A queued ZERO transfer writes zero elements and zero blocks. -/
  | dmaZero (c : Nat) (q : Nat)
  /-- `DMAT_TRANSFER` (R148). A queued DMAT transfer writes the transpose, re-blocking an ES destination with RNE. -/
  | dmatTransfer (c : Nat) (q : Nat)
  /-- `DMA_COMPLETE` (R146). A transfer's writes become visible and it adds 1 to its completion semaphore. -/
  | dmaComplete (c : Nat) (q : Nat)
  /-- `SEND` (R149). Passes a request block to the collective engine. -/
  | send (c : Nat) (m : Bool) (w : BitVec 57)
  /-- `RECV` (R149). Passes a receiving request block to the collective engine. -/
  | recv (c : Nat) (m : Bool) (w : BitVec 57)
  /-- `CHAIN` (R149). Passes a chain-reduction request block to the collective engine. -/
  | chain (c : Nat) (m : Bool) (w : BitVec 57)
  /-- `SADD` (R150). Scalar addition modulo 2^64. -/
  | sadd (c : Nat) (m : Bool) (w : BitVec 57)
  /-- `SSUB` (R150). Scalar subtraction modulo 2^64. -/
  | ssub (c : Nat) (m : Bool) (w : BitVec 57)
  /-- `SMUL` (R150). Low 64 bits of a scalar product. -/
  | smul (c : Nat) (m : Bool) (w : BitVec 57)
  /-- `SAND` (R150). Scalar bitwise and. -/
  | sand (c : Nat) (m : Bool) (w : BitVec 57)
  /-- `SOR` (R150). Scalar bitwise or. -/
  | sor (c : Nat) (m : Bool) (w : BitVec 57)
  /-- `SXOR` (R150). Scalar bitwise exclusive or. -/
  | sxor (c : Nat) (m : Bool) (w : BitVec 57)
  /-- `SSHL` (R150). Scalar left shift. -/
  | sshl (c : Nat) (m : Bool) (w : BitVec 57)
  /-- `SSHR` (R150). Scalar logical right shift. -/
  | sshr (c : Nat) (m : Bool) (w : BitVec 57)
  /-- `SSRA` (R150). Scalar arithmetic right shift. -/
  | ssra (c : Nat) (m : Bool) (w : BitVec 57)
  /-- `SADDI` (R150). Adds a sign-extended immediate to a scalar. -/
  | saddi (c : Nat) (m : Bool) (w : BitVec 57)
  /-- `SLI` (R150). Loads a sign-extended immediate into a scalar. -/
  | sli (c : Nat) (m : Bool) (w : BitVec 57)
  /-- `SLUI` (R150). Loads an immediate into the upper half of a scalar. -/
  | slui (c : Nat) (m : Bool) (w : BitVec 57)
  /-- `SLD` (R150). Loads 8 bytes of scratchpad into a scalar. -/
  | sld (c : Nat) (m : Bool) (w : BitVec 57)
  /-- `SST` (R150). Stores a scalar to scratchpad. -/
  | sst (c : Nat) (m : Bool) (w : BitVec 57)
  /-- `BR` (R150). Unconditional branch by a signed bundle offset. -/
  | br (c : Nat) (m : Bool) (w : BitVec 57)
  /-- `BRC` (R150). Conditional branch by a signed bundle offset. -/
  | brc (c : Nat) (m : Bool) (w : BitVec 57)
  /-- `END` (R150). Ends the layer program and returns the core to idle. -/
  | coreEnd (c : Nat) (m : Bool) (w : BitVec 57)
  /-- `WAIT` (R152). Waits until a semaphore holds N, then subtracts N, filling the wait with fragments. -/
  | wait (c : Nat) (m : Bool) (w : BitVec 57)
  /-- `WAIT_DEADLINE` (R152). The course counter reaches a WAIT's deadline before it completes; the core halts. -/
  | waitDeadline (c : Nat)
  /-- `WAITC` (R154). Waits until the course counter reaches a given course. -/
  | waitc (c : Nat) (m : Bool) (w : BitVec 57)
  /-- `SIGNAL` (R151). Adds N to a semaphore of this or another core once earlier writes are visible. -/
  | signal (c : Nat) (m : Bool) (w : BitVec 57)
  /-- `DEFER` (R158). Appends a fragment to the W queue, first running the head when the queue is full. -/
  | defer (c : Nat) (m : Bool) (w : BitVec 57)
  /-- `WEND` (R159). Ends a fragment after its slot-3 skeins have settled. -/
  | wend (c : Nat) (m : Bool) (w : BitVec 57)
  /-- `WFLUSH` (R158). Runs fragments from the head until the W queue is empty. -/
  | wflush (c : Nat) (m : Bool) (w : BitVec 57)
  /-- `WMODE` (R156). Switches W mode on, reserving the W bank, or off after flushing the queue. -/
  | wmode (c : Nat) (m : Bool) (w : BitVec 57)
  /-- `SRD` (R155). Reads the course counter, step number, VSTATUS, logical core or width into a scalar. -/
  | srd (c : Nat) (m : Bool) (w : BitVec 57)
  /-- `VSCLR` (R150). Clears selected sticky flags of VSTATUS. -/
  | vsclr (c : Nat) (m : Bool) (w : BitVec 57)
  /-- `PREEMPT_REQ` (R165). A write of CORE_PREEMPT.REQ quiesces the core and starts its save. -/
  | preemptReq (w : Who) (n : Nat) (v : W64)
  /-- `SAVE_COMPLETE` (R165). The core's state and selected banks are written to the save area and DONE is set. -/
  | saveComplete (c : Nat)
  /-- `PREEMPT_RESTORE` (R167). A write of CORE_PREEMPT.RESTORE starts restoring the core from its save area. -/
  | preemptRestore (w : Who) (n : Nat) (v : W64)
  /-- `RESTORE_COMPLETE` (R167). The restore finishes and the core issues from BADDR or stays halted. -/
  | restoreComplete (c : Nat)
  /-- `CORE_CNT_CLEAR` (R94). Clears the four matrix counters of the core together. -/
  | coreCntClear (w : Who) (n : Nat) (v : W64)
  /-- `CORE_CNT_WCLEAR` (R170). Clears the fill, stall and late-course counters together. -/
  | coreCntWclear (w : Who) (n : Nat) (v : W64)
  /-- `SRAMCE_CLEAR` (R249). Clears the core's corrected-SRAM counter. -/
  | sramceClear (w : Who) (n : Nat) (v : W64)
  /-- `LAUNCH_ENTER` (R202). A launcher enters a launch block into a Bench engine's queue, waiting while it is full. -/
  | launchEnter (e : Nat) (own : Option Nat) (addr : Nat)
  /-- `LAUNCH_START` (R201). An idle engine takes the next launch, checks its streams and starts the program. -/
  | launchStart (e : Nat)
  /-- `BENCH_NOP` (R205). Bench instruction that does nothing. -/
  | benchNop (e : Nat) (w : BitVec 32)
  /-- `LDS` (R200). Loads the next unit of a stream into a register, decoding ES. -/
  | lds (e : Nat) (w : BitVec 26)
  /-- `STS` (R200). Stores a register to the next unit of a stream. -/
  | sts (e : Nat) (w : BitVec 26)
  /-- `FADD` (R205). Bench FP32 addition. -/
  | fadd (e : Nat) (w : BitVec 26)
  /-- `FSUB` (R205). Bench FP32 subtraction. -/
  | fsub (e : Nat) (w : BitVec 26)
  /-- `FMUL` (R205). Bench FP32 multiplication. -/
  | fmul (e : Nat) (w : BitVec 26)
  /-- `FMA` (R205). Bench fused multiply-add. -/
  | fma (e : Nat) (w : BitVec 26)
  /-- `FMM` (R205). Bench minimum or maximum. -/
  | fmm (e : Nat) (w : BitVec 26)
  /-- `FDIV` (R205). Bench correctly rounded division. -/
  | fdiv (e : Nat) (w : BitVec 26)
  /-- `FSQ` (R205). Bench square root or reciprocal square root. -/
  | fsq (e : Nat) (w : BitVec 26)
  /-- `FUN` (R205). Bench absolute value, negation or sign. -/
  | benchFun (e : Nat) (w : BitVec 26)
  /-- `AADD` (R205). Bench AF40 pair sum with one rounding. -/
  | aadd (e : Nat) (w : BitVec 26)
  /-- `CVT` (R205). Bench narrowing of AF40 to FP32 or widening of FP32 to AF40. -/
  | cvt (e : Nat) (w : BitVec 26)
  /-- `RED` (R205). Bench lane reduction by sum, max, min or amax. -/
  | red (e : Nat) (w : BitVec 26)
  /-- `STES` (R206). Converts 32 registers into 64 ES blocks and writes them to a stream with counters. -/
  | stes (e : Nat) (w : BitVec 26)
  /-- `HASH` (R218). Adds the digest terms of up to 32 words to the digest accumulator. -/
  | hash (e : Nat) (w : BitVec 26)
  /-- `BCST` (R205). Broadcasts a scalar's low 32 bits to every lane. -/
  | bcst (e : Nat) (w : BitVec 26)
  /-- `EXT` (R205). Extracts one lane into a scalar. -/
  | ext (e : Nat) (w : BitVec 26)
  /-- `BENCH_SLI` (R205). Loads a sign-extended immediate into a Bench scalar. -/
  | benchSli (e : Nat) (w : BitVec 26)
  /-- `SOP` (R205). Bench scalar arithmetic or logic operation. -/
  | sop (e : Nat) (w : BitVec 26)
  /-- `LOOP` (R205). Repeats the following body a scalar count of times. -/
  | loop (e : Nat) (w : BitVec 26)
  /-- `BRZ` (R205). Branches if a scalar is zero. -/
  | brz (e : Nat) (w : BitVec 26)
  /-- `OUT` (R205). Writes a scalar to a word of the result record. -/
  | out (e : Nat) (w : BitVec 26)
  /-- `DGET` (R205). Reads and optionally clears the digest accumulator. -/
  | dget (e : Nat) (w : BitVec 26)
  /-- `BENCH_END` (R205). Ends the Bench program and writes the result record if requested. -/
  | benchEnd (e : Nat) (w : BitVec 26)
  /-- `CAST_WITH_SCALE` (R215). Casts a slice's FP32 masters into its ES working copy and stamps it. -/
  | castWithScale (e : Nat)
  /-- `AMAX_HISTORY` (R213). Updates a scale entry's history, chooses the next T, runs the zero watch and copies counters to the ledger. -/
  | amaxHistory (e : Nat)
  /-- `CHAIN_ADD` (R216). Adds a member's local piece to an incoming running sum and writes its side slot. -/
  | chainAdd (e : Nat)
  /-- `DIGEST` (R219). Adds a slice's terms of the shard image to the shard digest. -/
  | digest (e : Nat)
  /-- `NOISE_STATISTICS` (R220). Accumulates the L and Q noise sums of reduced pieces. -/
  | noiseStatistics (e : Nat)
  /-- `ADAMW` (R217). Applies AdamW to a slice's masters and state. -/
  | adamw (e : Nat)
  /-- `LION` (R217). Applies Lion to a slice's masters and state. -/
  | lion (e : Nat)
  /-- `SGD_WITH_MOMENTUM` (R217). Applies SGD with momentum to a slice's masters and state. -/
  | sgdWithMomentum (e : Nat)
  /-- `FACTORED_SECOND_MOMENT` (R217). Applies the factored second-moment optimizer to a slice. -/
  | factoredSecondMoment (e : Nat)
  /-- `SNAPSHOT_COPY` (R224). Copies an engine's owned slice parts and scale entries into the snapshot slot. -/
  | snapshotCopy (e : Nat)
  /-- `SNAPSHOT_COMPLETE` (R224). Every part is visible and the snapshot header is written with complete set. -/
  | snapshotComplete (ok agreed : Bool)
  /-- `SNAPSHOT_RESTORE` (R226). Reads a snapshot slot, verifies it and restores it. -/
  | snapshotRestore (e : Nat) (img : List Byte)
  /-- `PIECE_ARRIVE` (R184). A reduced update piece reaches the owner and is folded or held in ascending MB. -/
  | pieceArrive
  /-- `FAN_OUT` (R313). After a slice's fold completes, the lead owner sends its accumulator to every fan-out target. -/
  | fanOut
  /-- `BNC_MAP_WRITE` (R194). A write of BNC_MAP changes the channel-local size or granule and starts sector initialisation. -/
  | bncMapWrite (w : Who) (v : W64)
  /-- `MEM_INIT_COMPLETE` (R234). Every data sector has been written as zero and GDDR7 accesses resume. -/
  | memInitComplete
  /-- `BNC_ENG_CNT_CLEAR` (R227). Clears both counters of a Bench engine. -/
  | bncEngCntClear (w : Who) (e : Nat) (v : W64)
  /-- `GDDR7_READ` (R231). A GDDR7 read decodes the sector with the access address and delivers clean or corrected data. -/
  | gddr7Read (who : Who) (a from_ : Nat) (e : BitVec 2112) (behind : Bool) (fails : Nat)
  /-- `GDDR7_WRITE` (R232). A whole aligned sector is written with new check symbols. -/
  | gddr7Write (who : Who) (sec : Nat) (d : BitVec 2048) (fails : Nat)
  /-- `PARTIAL_WRITE` (R232). A smaller write reads, decodes, merges and re-encodes its sector atomically. -/
  | partialWrite (who : Who) (a : Nat) (d : List Byte) (e : BitVec 2112) (fails : Nat)
  /-- `CHANNEL_RETRAIN_DONE` (R235). A channel retrain ends and the transfer is repeated once more. -/
  | channelRetrainDone (c : Nat) (ok : Bool)
  /-- `PATROL_READ` (R241). Patrol reads the next data sector of a channel in its period. -/
  | patrolRead (c : Nat) (e : BitVec 2112)
  /-- `BUCKET_LEAK` (R238). At each elapsed course that is a multiple of the leak period, bucket levels fall by 1. -/
  | bucketLeak
  /-- `SRAM_READ` (R243). An SRAM word read is checked with its index and corrected or reported. -/
  | sramRead (who : Who) (x : SramWord) (e : BitVec 72) (idx : Nat)
  /-- `CXL_READ_COMPLETION` (R244). A CXL tier read completes; poison or failure is handled as uncorrectable. -/
  | cxlReadCompletion (p : Nat) (w : Who) (a : Nat) (bad : Bool) (data : List Byte)
  /-- `CHECKER_SELF_TEST` (R245). At start-up every sector decoder and scratchpad checker is tested with fixed patterns. -/
  | checkerSelfTest (badCh badCore : List Nat)
  /-- `MEM_COMPAT_WRITE` (R240). A write of MEM_CTRL.COMPAT switches counting mode and clears levels, counters and log. -/
  | memCompatWrite (w : Who) (v : W64)
  /-- `MEM_LOG_CLEAR` (R239). Empties the compatibility log and clears DROPPED. -/
  | memLogClear (w : Who) (v : W64)
  /-- `MEM_CH_CNT_CLEAR` (R248). Clears a channel's correction, retry and compatibility counters. -/
  | memChCntClear (w : Who) (c : Nat) (v : W64)
  /-- `MEM_INJECT_ARM` (R248). Arms corruption of the stored symbols of the next write of a sector. -/
  | memInjectArm (w : Who) (v : W64)
  /-- `COURSE_BOUNDARY` (R251). The course counter advances to the next course number. -/
  | courseBoundary
  /-- `SYNC_SEND` (R254). Every 64 courses a device sends a sync message to each child link. -/
  | syncSend (ls : List Nat)
  /-- `SYNC_RECEIVE` (R254). A follower takes a sync message and steers its ticks towards the parent's time. -/
  | syncReceive (l stamp tick : Nat)
  /-- `DELAY_REQUEST` (R254). Every 1,024 courses a follower sends a delay request on each link. -/
  | delayRequest
  /-- `DELAY_REPLY` (R254). A delay reply arrives and the follower computes delay and offset. -/
  | delayReply (l t2 t3 t4 : Nat)
  /-- `HOLDOVER_ENTER` (R256). No sync arrives for 1,024 courses and the counter enters HOLDOVER. -/
  | holdoverEnter
  /-- `SYNC_LOST` (R256). Holdover lasts beyond HOLD courses and the state becomes LOST. -/
  | syncLost
  /-- `CRS_RUN_WRITE` (R252). A write of CRS_CTRL.RUN starts or stops the course counter. -/
  | crsRunWrite (w : Who) (v : W64)
  /-- `CRS_LEAD_WRITE` (R256). A write of CRS_CTRL.LEAD makes the device system lead. -/
  | crsLeadWrite (w : Who) (v : W64)
  /-- `CRS_PARENT_WRITE` (R256). A write of CRS_CTRL.PARENT makes the follower steer to a new parent. -/
  | crsParentWrite (w : Who) (v : W64)
  /-- `ARM_PUSH` (R257). A write of CRS_ARM_W3 pushes an arm entry after its checks. -/
  | armPush (w : Who) (v : W64)
  /-- `ARM_CANCEL` (R260). A write of CRS_ARM_STATUS.CANCEL removes every arm of an owner. -/
  | armCancel (w : Who) (v : W64)
  /-- `HANDOVER` (R343). A HANDOVER arm fires and changes the device's owners. -/
  | handover
  /-- `EPOCH_FENCE` (R329). An EPOCH_FENCE arm fires and switches the owner's layout epoch if nothing is open. -/
  | epochFence
  /-- `PATTERN` (R287). A PATTERN arm fires and makes a Pattern active. -/
  | pattern
  /-- `STEP` (R262). A STEP arm fires, sets the step number, launches the casts and closes the previous step. -/
  | step
  /-- `HISTORY` (R258). A HISTORY arm fires and launches the amax-history programs. -/
  | history
  /-- `SNAPSHOT` (R224). A SNAPSHOT arm fires and launches the snapshot copies. -/
  | snapshot
  /-- `DEADLINE` (R305). A DEADLINE arm fires against unfinished conversations or late slices. -/
  | deadline
  /-- `NOT_BEFORE` (R305). A NOT_BEFORE arm fires and raises a group's release mark. -/
  | notBefore
  /-- `BENCH_ARM` (R258). A BENCH arm fires and enters a launch block. -/
  | benchArm
  /-- `SIGNAL_ARM` (R489). A SIGNAL arm fires and adds its count to a core's semaphore. -/
  | signalArm
  /-- `LEDGER_RECORD_WRITE` (R264). A closed step's ledger record is written to the ring when room exists. -/
  | ledgerRecordWrite
  /-- `LEDGER_TAIL_WRITE` (R264). The host advances TAIL, letting waiting ledger records be written. -/
  | ledgerTailWrite (w : Who) (v : W64)
  /-- `FLIT_SEND` (R275). At a flit boundary a link output chooses and sends a TIME, retransmitted, VC or NULL flit. -/
  | flitSend (l : Nat)
  /-- `FLIT_RECEIVE` (R271). A sequenced flit is checked, accepted or discarded, and its ACK, NAK and credits are taken. -/
  | flitReceive (l : Nat) (f : BitVec 2048)
  /-- `TIME_FLIT_RECEIVE` (R273). A TIME flit carrying a sync or delay message arrives. -/
  | timeFlitReceive (l : Nat) (f : BitVec 2048) (tick : Nat)
  /-- `ACK_TIMEOUT` (R271). ACK has not advanced for 6,000 NOC cycles and the sender resends every unacknowledged flit. -/
  | ackTimeout (l : Nat)
  /-- `RETRAIN_COMPLETE` (R272). A link retrain ends and the link returns to UP or goes DOWN. -/
  | retrainComplete (l : Nat)
  /-- `LASER_OUT_OF_LIMITS` (R479). A laser-input wavelength stays outside limits for 10 courses and its links go DOWN. -/
  | laserOutOfLimits (g f n : Nat)
  /-- `LINK_ENABLE` (R280). A write of LNK_CFG.ENABLE brings a link up or returns it to DARK. -/
  | linkEnable (w : Who) (l : Nat) (v : W64)
  /-- `CALIBRATION_DONE` (R280). A link's wavelengths are tuned and it enters TRAINING. -/
  | calibrationDone (l : Nat) (ok : Bool)
  /-- `TRAINING_DONE` (R280). PMA and FEC lock and the link enters EXCHANGE. -/
  | trainingDone (l : Nat) (ok : Bool)
  /-- `EXCHANGE_DONE` (R280). The partners exchange addresses and credits and the link enters AUTHENTICATING or UP. -/
  | exchangeDone (l addr plink : Nat) (enc : Bool)
  /-- `AUTHENTICATION_DONE` (R436). The RTUs authenticate each other and agree keys, and the link becomes UP. -/
  | authenticationDone (l : Nat) (peer : Peer) (secret transcript : List Byte)
  /-- `REKEY` (R436). A key's count reaches 2^48 and the RTUs derive and install the idle key index. -/
  | rekey (l : Nat) (peer : Peer) (secret transcript : List Byte)
  /-- `PACKET_FORWARD` (R283). A packet at a hop is routed by its Pattern and forwarded. -/
  | packetForward
  /-- `PACKET_DELIVER` (R279). A packet reaches its destination, is CRC-checked and delivered to its tag holder. -/
  | packetDeliver
  /-- `CREDIT_STALL` (R276). A VC waits with data and no credit for STALL courses. -/
  | creditStall (l v : Nat)
  /-- `LNK_CNT_CLEAR` (R293). Clears a link's retry and FEC counters. -/
  | lnkCntClear (w : Who) (l : Nat) (v : W64)
  /-- `LNK_PAT_VALID_WRITE` (R288). A write of LNK_PAT_VALID sets or clears Pattern validity under the guard rules. -/
  | lnkPatValidWrite (w : Who) (v : W64)
  /-- `GATHER` (R316). A gather request sends the member's contribution to every member. -/
  | gather
  /-- `BROADCAST` (R318). A broadcast request forwards the root's bytes along the canonical ranks. -/
  | broadcast
  /-- `ALL_TO_ALL` (R318). An all-to-all request sends piece j directly to rank j. -/
  | allToAll
  /-- `POINT_TO_POINT` (R318). A point-to-point request sends bytes to the other member against its grants. -/
  | pointToPoint
  /-- `CHAIN_REDUCE` (R307). A chain-reduce request passes a running value through the canonical list. -/
  | chainReduce
  /-- `CHAIN_REDUCE_SCATTER` (R308). A chain-reduce-scatter request runs one chain per piece, each to its rank. -/
  | chainReduceScatter
  /-- `COURSE_BARRIER` (R319). A barrier request sends an arrival and completes at the barrier course. -/
  | courseBarrier
  /-- `CHAIN_STEP` (R310). A drained tile enters the engine as a chain contribution. -/
  | chainStep
  /-- `UPDATE_PIECE` (R182). A drained tile enters the update chain of its slice as a piece. -/
  | updatePiece
  /-- `COL_DATA` (R303). A collective data packet arrives and is written against its grant. -/
  | colData
  /-- `CHAIN_SUM` (R307). A chain running sum, segment total or side record arrives and the member adds its value. -/
  | chainSum
  /-- `P2P_DATA` (R318). A point-to-point data packet arrives. -/
  | p2pData
  /-- `SNAP_DATA` (R321). A snapshot data packet arrives and is written within the partner window. -/
  | snapData
  /-- `COL_GRANT` (R302). A grant arrives and lets the sender send further chunks. -/
  | colGrant
  /-- `COL_ARRIVE` (R319). A barrier arrival or release arrives. -/
  | colArrive
  /-- `COL_REJECT` (R298). An epoch reject arrives and the source freezes the issuing master. -/
  | colReject
  /-- `CONVERSATION_DONE` (R304). Every result byte is visible and the completion semaphore rises by 1. -/
  | conversationDone
  /-- `BARRIER_COURSE` (R319). The barrier course begins and each member completes or misses the barrier. -/
  | barrierCourse
  /-- `REQUEST_DEADLINE` (R305). A request's own DL course is reached before it is DONE. -/
  | requestDeadline
  /-- `COL_GROUP_LOAD` (R296). Loads a group-table entry, computing its hash and resetting its counters. -/
  | colGroupLoad (w : Who) (v : W64)
  /-- `COL_GROUP_UNLOAD` (R296). Unloads a group that has no open conversation. -/
  | colGroupUnload (w : Who) (v : W64)
  /-- `COL_SUBMIT` (R300). Submits an EDF request block as endpoint 0xFE. -/
  | colSubmit (w : Who) (v : W64)
  /-- `COL_BACKUP_SET` (R315). Registers or removes a backup member for a rank. -/
  | colBackupSet (w : Who) (v : W64)
  /-- `COL_CNT_CLEAR` (R323). Clears both duplicate counters. -/
  | colCntClear (w : Who) (v : W64)
  /-- `COL_EPOCH_WRITE` (R332). Writes an owner's current epoch or clears FAILED. -/
  | colEpochWrite (w : Who) (p : Nat) (v : W64)
  /-- `DOORBELL` (R351). A doorbell write sets a queue's tail. -/
  | doorbell (f q off n : Nat) (v : W64)
  /-- `DISPATCH` (R356). A DISPATCH command is placed on cores by affinity, passing the deadline monitor and KV admission. -/
  | dispatch (p : Nat)
  /-- `FENCE` (R354). A FENCE command completes once every earlier command of its queue has completed. -/
  | fence (p : Nat)
  /-- `RESERVE` (R361). A RESERVE command reserves or returns KV pages. -/
  | reserve (p : Nat)
  /-- `DISPATCH_COMPLETE` (R353). A dispatch's cores are idle; pages of leaving entries return and the completion record is written. -/
  | dispatchComplete (q k : Nat)
  /-- `COMMAND_EXPIRE` (R358). A waiting DROP_LATE command reaches its deadline and completes with status 0x02. -/
  | commandExpire (p : Nat)
  /-- `DRAIN_START` (R343). At course C minus DRAIN leaving partitions stop dispatching. -/
  | drainStart
  /-- `OWNER_ACTIVE` (R343). An entering owner's clusters and ranges are cleared and it becomes ACTIVE. -/
  | ownerActive (p : Nat)
  /-- `QUE_MODE_NOW` (R344). A write of QUE_MODE.NOW performs a handover at once while no owner exists. -/
  | queModeNow (w : Who) (v : W64)
  /-- `QUE_PART_RESET` (R366). A write of QUE_PART_STATE.RESET returns a partition to ACTIVE under its image. -/
  | quePartReset (w : Who) (p : Nat) (v : W64)
  /-- `QUE_PART_CNT_CLEAR` (R368). Clears the four counters of an owner. -/
  | quePartCntClear (w : Who) (p : Nat) (v : W64)
  /-- `FLT_ACK` (R379). A write of FLT_O_CTRL.ACK closes the handling window. -/
  | fltAck (w : Who) (p : Nat) (v : W64)
  /-- `FLT_STOP` (R375). A write of FLT_O_CTRL.STOP makes the owner FAULTED without an event. -/
  | fltStop (w : Who) (p : Nat) (v : W64)
  /-- `STOP_NOTICE` (R375). A stop notice arrives on VC 2 and stops the exclusive owner. -/
  | stopNotice
  /-- `FLT_FROG` (R394). A write of FLT_O_CTRL.FROG performs a frog reset. -/
  | fltFrog (w : Who) (p : Nat) (v : W64)
  /-- `REQUAL_START` (R392). A write of FLT_REQUAL.START starts requalification. -/
  | requalStart (w : Who) (v : W64)
  /-- `REQUAL_ABORT` (R392). A write of FLT_REQUAL.ABORT ends a running requalification. -/
  | requalAbort (w : Who) (v : W64)
  /-- `REQUAL_VERDICT` (R393). Requalification ends and its verdicts and convictions are applied. -/
  | requalVerdict (badCh badCore : List Nat)
  /-- `EVIDENCE_POST` (R396). A write of FLT_EVIDENCE.POST posts replay evidence against the device. -/
  | evidencePost (w : Who) (v : W64)
  /-- `HEALTH_DECAY` (R390). At each elapsed course that is a multiple of 2^26 the debt and entry weights decay. -/
  | healthDecay
  /-- `SWATCH_CHECK` (R62). A sampled tile's check completes against the Swatch bound. -/
  | swatchCheck
  /-- `IN_SERVICE_TEST` (R385). A core idle for 4 courses runs known-answer tiles on its arrays. -/
  | inServiceTest (n a : Nat) (mask : W32) (row col : Nat) (r v : W32)
  /-- `HOST_LINK_TRAINED` (R401). The host port settles at a rate and width. -/
  | hostLinkTrained (rate width : Nat) (flit : Bool) (light : BitVec 2)
  /-- `HOST_LINK_LOSS` (R402). The host Data Link Layer leaves DL_Active or its light is lost. -/
  | hostLinkLoss (active : Bool) (light : BitVec 2)
  /-- `HOST_LINK_WAIT_EXPIRY` (R402). 65,536 courses pass with the host link down and pending host requests end. -/
  | hostLinkWaitExpiry (k : Nat)
  /-- `BAR2_ACCESS` (R404). A host access through BAR2 reaches device memory by its function's mapping. -/
  | bar2Access (f off n : Nat) (wr : Option (List Byte))
  /-- `HOST_READ_COMPLETION` (R407). A completion returns for a device read of the host memory window. -/
  | hostReadCompletion (w : Who) (a status : Nat) (data : List Byte) (old : Bool)
  /-- `HOST_READ_TIMEOUT` (R407). A device read of host memory times out after 50 ms and the master is frozen. -/
  | hostReadTimeout (w : Who) (a : Nat)
  /-- `ATS_INVALIDATION` (R408). An ATS Invalidation Request is completed after dependent requests finish. -/
  | atsInvalidation (f page n : Nat)
  /-- `MSIX_UNMASK` (R406). Unmasking a vector sends its pending MSI-X message. -/
  | msixUnmask (f v : Nat)
  /-- `IDE_INTEGRITY_FAIL` (R409). A TLP on an IDE stream fails integrity check and is discarded. -/
  | ideIntegrityFail (k : Nat)
  /-- `FUNCTION_LEVEL_RESET` (R410). A function-level reset of the PF or a VF resets its owner and function. -/
  | functionLevelReset (f : Nat)
  /-- `D3HOT_EXIT` (R410). A function leaving D3hot with No_Soft_Reset clear is reset as a function-level reset. -/
  | d3hotExit (f : Nat)
  /-- `CXL_RETRAIN` (R415). A CXL port retrains and requests wait. -/
  | cxlRetrain (p : Nat)
  /-- `CXL_PORT_LOSS` (R415). A CXL port stays out of link-up for 1,000 courses or its target stops responding, and goes down. -/
  | cxlPortLoss (p : Nat)
  /-- `HDM_COMMIT` (R413). A write of HOST_HDM_CTRL.COMMIT commits an HDM decoder. -/
  | hdmCommit (w : Who) (p n : Nat) (v : W64)
  /-- `QUERY` (R423). The QUERY service returns versions and boot and RTU status. -/
  | query
  /-- `REGLIST` (R424). The REGLIST service makes a list of register writes with control-complex rights. -/
  | reglist
  /-- `START_JOB` (R425). The START_JOB service starts a job and returns its gauge word. -/
  | startJob
  /-- `FW_UPDATE` (R431). The FW_UPDATE service verifies an image and writes it to flash. -/
  | fwUpdate (fin : Bool)
  /-- `CAL_WRITE` (R440). The CAL_WRITE service replaces the calibration set. -/
  | calWrite
  /-- `CAL_RUN` (R440). The CAL_RUN service measures and writes a new calibration set. -/
  | calRun
  /-- `REQUAL` (R392). The REQUAL service starts or aborts requalification. -/
  | requal
  /-- `PROG_LOAD` (R426). The PROG_LOAD service installs or clears a job's Bench program slot. -/
  | progLoad
  /-- `PLDM_FW_UPDATE` (R430). A PLDM for Firmware Update transfer over MCTP delivers an image for verification. -/
  | pldmFwUpdate (img : Option (List Byte))
  /-- `MCTP_MESSAGE` (R441). A complete MCTP message arrives on I3C and is handled by type. -/
  | mctpMessage (ty : Nat) (b : List Byte)
  /-- `SPDM_REQUEST` (R435). The RTU answers an SPDM request over DOE or MCTP. -/
  | spdmRequest (doe : Bool) (b : List Byte) (sess : Option Bool) (ide : Option Nat)
  /-- `DEBUG_UNLOCK_TOKEN` (R437). A signed unlock token opens debug and makes the identity unusable. -/
  | debugUnlockToken (token : Token)
  /-- `CTLX_LOCK_SET` (R428). A write of CTLX_LOCK.SET sets every block lock and switches to logical indexing. -/
  | ctlxLockSet (w : Who) (v : W64)
  /-- `CTL_CACHE_ERROR` (R419). A control-complex cache detects an error. -/
  | ctlCacheError (unit : Nat) (ue : Bool)
  /-- `HEARTBEAT_TIMEOUT` (R419). The EDF heartbeat is unseen for 1,000 courses after boot, which is device-fatal. -/
  | heartbeatTimeout
  /-- `MODULE_RESET` (R472). Module reset returns every register to its reset value and starts the RTU. -/
  | moduleReset (inMv : Nat)
  /-- `RTU_SELF_TEST` (R428). The RTU runs its crypto and TRNG known-answer tests. -/
  | rtuSelfTest (ok : Bool)
  /-- `IMAGE_VERIFY` (R429). The RTU verifies the flash image and releases the control cores or enters recovery. -/
  | imageVerify (harts : W32)
  /-- `PLL_STABLE` (R446). After 65,536 reference cycles the root PLL is judged stable and domains start. -/
  | pllStable
  /-- `DOMAIN_RAMP_STEP` (R449). After 256 of its cycles a ramping domain takes the next divider. -/
  | domainRampStep (d : Nat)
  /-- `REFERENCE_LOST` (R451). No reference edge for 100 ns stops the clocks as a clock loss. -/
  | referenceLost
  /-- `PLL_LOCK_LOSS` (R451). The PLL reports loss of lock after stability, a clock loss. -/
  | pllLockLoss
  /-- `POWER_MANAGER_COURSE` (R455). Each course the power manager measures power, current and temperature and steps or requests a step. -/
  | powerManagerCourse (inW railA : Nat)
  /-- `FASTER_STEP` (R453). The core-rail voltage reaches its target and the ARITH divider steps faster. -/
  | fasterStep
  /-- `CORE_GATE` (R457). A core idle for GATE_DELAY courses requests clock gating. -/
  | coreGate (c : Nat)
  /-- `SENSOR_SAMPLE` (R458). Each course every sensor is sampled with its offset. -/
  | sensorSample (k : Nat) (raw : Int)
  /-- `SUPPLY_CHECK` (R462). An input or rail voltage out of range for 10 consecutive courses is reported. -/
  | supplyCheck (inMv railMv : Nat)
  /-- `INPUT_UNDERVOLTAGE` (R462). Below 38 V the power stages shut the module down. -/
  | inputUndervoltage (inMv : Nat)
  /-- `PWR_CNT_CLEAR` (R465). Clears both power counters. -/
  | pwrCntClear (w : Who) (v : W64)
  /-- `REGISTER_WRITE` (R18). A write to a register with no row of its own takes effect by its access codes. -/
  | registerWrite (w : Who) (x n : Nat) (v : W64)
  /-- `LASER_WITHIN_LIMITS` (R280). A laser-input wavelength returns within limits; LNK_GRP_STATUS.LIGHT is set and an enabled DARK link may enter CALIBRATING. -/
  | laserWithinLimits (g f n : Nat)
  /-- `WAVELENGTH_DRIFT` (R268). A wavelength drift that the heaters cannot follow takes the optical engine's links through RETRAINING. -/
  | wavelengthDrift (g : Nat)
  /-- `CXL_LINK_UP` (R415). A CXL port reaches the link-up state after training or retraining, and waiting requests proceed. -/
  | cxlLinkUp (p rate width : Nat) (target switch_ : Bool)
  /-- `CXL_MEDIA_ERROR_LOGGED` (R244). A type-3 memory device logs a corrected media error, and EDF reads it and reports 0x4106 CXL_MEDIA_CE. -/
  | cxlMediaErrorLogged (p : Nat)
  /-- `PCIE_CONFIG_WRITE` (R399). The host writes PCIe configuration space, such as VF Enable, NumVFs, MSI-X Enable, ATS, PASID, a BAR resize or entry to D3hot. -/
  | pcieConfigWrite (f : Nat) (c : Cfg)
  /-- `I3C_ADDRESS_ASSIGNMENT` (R441). The I3C controller assigns the target a dynamic address by SETDASA to static address 0x3A or by ENTDAA. -/
  | i3cAddressAssignment (setdasa : Bool) (static_ dyn : Nat)
  deriving DecidableEq, Repr

end Sys2Proof
end

