-- ==== Sys2Proof/Decode.lean ====
section
/-!
DEFINITION. The decoder over the opcode table's bits. The table gives no row any bits: the commands of the block reach it
as commands, and the encodings of core and Bench instructions are operand fields of theirs (R99, R205).
-/

namespace Sys2Proof

/-- The command that a word spells by the table's bits: none, because no row of the table gives bits. -/
def decodeTableWord (_nbits _w : Nat) : Option Instr := none

end Sys2Proof
end

