-- ==== Sys2Proof/Machine/SMap.lean ====
section
/-!
DEFINITION. A sparse table: pairs of a number and a value, numbers strictly rising. Every table of
the machine that is large and mostly at one value (memory, registers, the units' states) is one.
-/

namespace Sys2Proof

/-- A sparse table of `α` by number. What a missing number reads as is given at each read. -/
abbrev SMap (α : Type) := List (Nat × α)

/-- Read entry `k`; a number not listed reads `d`. -/
def SMap.get {α : Type} (d : α) (k : Nat) : SMap α → α
  | [] => d
  | (j, v) :: r => if j = k then v else SMap.get d k r

/-- The entry of `k`, if listed. -/
def SMap.find {α : Type} (k : Nat) : SMap α → Option α
  | [] => none
  | (j, v) :: r => if j = k then some v else SMap.find k r

/-- Write entry `k`, keeping the numbers strictly rising. -/
def SMap.set {α : Type} (k : Nat) (v : α) : SMap α → SMap α
  | [] => [(k, v)]
  | (j, u) :: r =>
    if k < j then (k, v) :: (j, u) :: r
    else if j = k then (k, v) :: r
    else (j, u) :: SMap.set k v r

/-- Remove entry `k`. -/
def SMap.erase {α : Type} (k : Nat) (m : SMap α) : SMap α := m.filter (fun e => e.1 != k)

/-- Write entry `k`, and list nothing where the value is what a missing number reads as. -/
def SMap.setD {α : Type} [DecidableEq α] (d : α) (k : Nat) (v : α) (m : SMap α) : SMap α :=
  if v = d then SMap.erase k m else SMap.set k v m

/-- Remove the entries numbered `lo` to `lo + n - 1`. -/
def SMap.clear {α : Type} (lo n : Nat) (m : SMap α) : SMap α :=
  m.filter (fun e => decide (e.1 < lo) || decide (lo + n ≤ e.1))

/-- The entries numbered `lo` to `lo + n - 1`. -/
def SMap.slice {α : Type} (lo n : Nat) (m : SMap α) : SMap α :=
  m.filter (fun e => decide (lo ≤ e.1) && decide (e.1 < lo + n))

/-- Merge two tables with disjoint numbers, keeping the numbers rising; on a shared number the second wins. -/
def SMap.onto {α : Type} (m : SMap α) : SMap α → SMap α
  | [] => m
  | (k, v) :: r => SMap.onto (SMap.set k v m) r

/-- The canonical form: numbers strictly rising, no entry at the value a missing number reads as. -/
def SMap.wf {α : Type} [DecidableEq α] (d : α) : SMap α → Bool
  | [] => true
  | (k, v) :: r => (v != d) && r.all (fun e => decide (k < e.1)) && SMap.wf d r

/-- Read `n` consecutive entries from `k`. -/
def SMap.getN {α : Type} (d : α) (k : Nat) (m : SMap α) : Nat → List α
  | 0 => []
  | n + 1 => SMap.get d k m :: SMap.getN d (k + 1) m n

/-- Write consecutive entries from `k`, keeping the canonical form. -/
def SMap.setN {α : Type} [DecidableEq α] (d : α) (k : Nat) : List α → SMap α → SMap α
  | [], m => m
  | v :: vs, m => SMap.setN d (k + 1) vs (SMap.setD d k v m)

end Sys2Proof
end

