-- ==== Sys2Proof/Machine/Bits.lean ====
section
/-!
DEFINITION. Bit fields, sign extension and byte order (R11 to R14): the helpers every other file of
the machine reads fields with.
-/

namespace Sys2Proof

/-- Bits [hi:lo] of a word, as a number (R12). -/
def bitsOf {w : Nat} (x : BitVec w) (hi lo : Nat) : Nat := (x.toNat >>> lo) % 2 ^ (hi + 1 - lo)

/-- Bit n of a word. -/
def bitOf {w : Nat} (x : BitVec w) (n : Nat) : Bool := x.getLsbD n

/-- A word with bits [hi:lo] replaced by the low bits of v. -/
def putBits {w : Nat} (x : BitVec w) (hi lo v : Nat) : BitVec w :=
  let n := hi + 1 - lo
  let old := (x.toNat >>> lo) % 2 ^ n
  BitVec.ofNat w (x.toNat - old <<< lo + (v % 2 ^ n) <<< lo)

/-- The value of an n-bit two's complement number. -/
def signed (n v : Nat) : Int := if v % 2 ^ n < 2 ^ (n - 1) then (v % 2 ^ n : Nat) else ((v % 2 ^ n : Nat) : Int) - 2 ^ n

/-- An integer as n bits of two's complement. -/
def unsign (n : Nat) (i : Int) : Nat := (i % (2 ^ n : Nat)).toNat

/-- Bytes, least significant first, as a number (R13). -/
def leNat : List Byte → Nat
  | [] => 0
  | b :: r => b.toNat + 256 * leNat r

/-- A number as n bytes, least significant first (R13). -/
def leBytes : Nat → Nat → List Byte
  | 0, _ => []
  | n + 1, v => BitVec.ofNat 8 v :: leBytes n (v / 256)

/-- The bytes of a number at bit offsets [8i+7 : 8i] of a wide word: byte `i`, `n` bytes. -/
def byteField {w : Nat} (x : BitVec w) (i n : Nat) : Nat := (x.toNat >>> (8 * i)) % 2 ^ (8 * n)

/-- A wide word with bytes i to i + n - 1 replaced. -/
def putBytes {w : Nat} (x : BitVec w) (i n v : Nat) : BitVec w := putBits x (8 * i + 8 * n - 1) (8 * i) v

/-- A counter that stops at its largest value (48-bit counters, R44). -/
def satAdd (bits a b : Nat) : Nat := min (a + b) (2 ^ bits - 1)

/-- Split a list into groups of n; fuel is the list's length. -/
def chunks {α : Type} (n : Nat) (l : List α) : List (List α) :=
  (List.range ((l.length + n - 1) / n)).map (fun i => (l.drop (n * i)).take n)

/-- Ceiling division. -/
def cdiv (a b : Nat) : Nat := (a + b - 1) / b

/-- The i-th element, or d. -/
def nth {α : Type} (d : α) (l : List α) (i : Nat) : α := l.getD i d

end Sys2Proof
end

