-- ==== Sys2Proof/Machine/Flags.lean ====
section
/-!
DEFINITION. The sticky flags of a core's vector unit (R134): how they join, how software reads them (R155) and clears them. Which
operation raises which flag stands with its arithmetic in Num.lean and Fn.lean.
-/

namespace Sys2Proof

/-- The status a computation leaves for the sticky flags (R134). -/
structure FlagSet where
  nv : Bool := false
  dz : Bool := false
  of : Bool := false
  uf : Bool := false
  deriving DecidableEq, Repr

def FlagSet.or (a b : FlagSet) : FlagSet := ⟨a.nv || b.nv, a.dz || b.dz, a.of || b.of, a.uf || b.uf⟩

namespace Machine

/-- The flags as bits 0 to 3, as `SRD` and a save area show them (R155, R166). -/
def vsBits (f : FlagSet) : Nat := (if f.nv then 1 else 0) + (if f.dz then 2 else 0) + (if f.of then 4 else 0) + (if f.uf then 8 else 0)

/-- The flags after `VSCLR` with operand bits w (R134). -/
def vsClear (f : FlagSet) (w : BitVec 57) : FlagSet := ⟨f.nv && !bitOf w 0, f.dz && !bitOf w 1, f.of && !bitOf w 2, f.uf && !bitOf w 3⟩

end Machine

end Sys2Proof
end

