-- ==== Sys2Proof/Machine/Num.lean ====
section
/-!
DEFINITION. Exact numbers and their rounding: BF16, FP32 and AF40 (R37 to R39, R123). The three formats have
one exponent layout (8 bits, bias 127), so one function rounds them all, told the number of fraction bits:
7 for BF16, 23 for FP32, 31 for AF40.
-/

namespace Sys2Proof

/-- A number read out of a format: a NaN, an infinity, or (-1)^neg * m * 2^e exactly (a zero keeps its sign). -/
inductive Fl where
  | nan
  | inf (neg : Bool)
  | fin (neg : Bool) (m : Nat) (e : Int)
  deriving DecidableEq, Repr

/-- A result in a format and the flags it sets. -/
structure FRes where
  bits : Nat
  fl : FlagSet := {}
  deriving DecidableEq, Repr

/-- Decode a value with `fb` fraction bits (R37, R38). -/
def flDecode (fb x : Nat) : Fl :=
  let e := (x >>> fb) % 256
  let f := x % 2 ^ fb
  let s := (x >>> (fb + 8)) % 2 == 1
  if e = 255 then (if f = 0 then .inf s else .nan)
  else if e = 0 then .fin s f (-126 - (fb : Int))
  else .fin s (2 ^ fb + f) ((e : Int) - 127 - fb)

/-- The canonical NaN: 0x7FC0_0000, 0x7FC0, 0x7F_C000_0000 (R39, R123). [DEDUCED: log 14] -/
def canonNan (fb : Nat) : Nat := 255 <<< fb + 2 ^ (fb - 1)

def signBit (fb : Nat) (neg : Bool) : Nat := if neg then 2 ^ (fb + 8) else 0

def infBits (fb : Nat) (neg : Bool) : Nat := signBit fb neg + 255 <<< fb

/-- floor(log2(num / den)) for positive num and den. -/
def floorLog2 (num den : Nat) : Int :=
  let l : Int := (num.log2 : Int) - den.log2
  let ge := if 0 ≤ l then decide (den <<< l.toNat ≤ num) else decide (den ≤ num <<< (-l).toNat)
  if ge then l else l - 1

/-- num / den / 2^u as a quotient and whether a remainder is left, with the rounding bit: (n, 2 * remainder compared with the divisor). -/
def scaledDiv (num den : Nat) (u : Int) : Nat × Ordering × Bool :=
  let nd : Nat × Nat := if 0 ≤ u then (num, den <<< u.toNat) else (num <<< (-u).toNat, den)
  let n := nd.1 / nd.2
  let r := nd.1 % nd.2
  (n, compare (2 * r) nd.2, r != 0)

/-- Round a quotient to nearest, ties to even. -/
def rneQ (q : Nat × Ordering × Bool) : Nat :=
  match q.2.1 with
  | .lt => q.1
  | .gt => q.1 + 1
  | .eq => if q.1 % 2 = 1 then q.1 + 1 else q.1

/-- Round (-1)^neg * num / den (den > 0) to nearest, ties to even, with `fb` fraction bits; subnormals are kept, and a
magnitude beyond the largest finite value becomes an infinity (R39, R123). `tiny` says how a result that rounds up to
the smallest normal counts for UF. -/
def roundRat (fb : Nat) (neg : Bool) (num den : Nat) (tinyEdge : Bool) : FRes :=
  if num = 0 then ⟨signBit fb neg, {}⟩
  else
    let ex := floorLog2 num den
    let e' := max ex (-126)
    let q := scaledDiv num den (e' - fb)
    let n := rneQ q
    let bits := ((e' + 126).toNat) <<< fb + n
    if 255 <<< fb ≤ bits then ⟨infBits fb neg, { of := true }⟩
    else
      let below := decide (ex < -126)
      let tiny := below && (if decide (bits < 1 <<< fb) then true else tinyEdge)
      ⟨signBit fb neg + bits, { uf := tiny && q.2.2 }⟩

/-- A finite number m * 2^e as a quotient. -/
def dyad (m : Nat) (e : Int) : Nat × Nat := if 0 ≤ e then (m <<< e.toNat, 1) else (m, 1 <<< (-e).toNat)

/-- Round an exact number into a format. -/
def flRound (fb : Nat) (edge : Bool) : Fl → FRes
  | .nan => ⟨canonNan fb, {}⟩
  | .inf s => ⟨infBits fb s, {}⟩
  | .fin s m e => let d := dyad m e; roundRat fb s d.1 d.2 edge

/-- A signed dyadic from an integer; `zneg` is the sign of a zero. -/
def flOfInt (i : Int) (e : Int) (zneg : Bool) : Fl :=
  if i = 0 then .fin zneg 0 e else .fin (decide (i < 0)) i.natAbs e

def sgn (neg : Bool) (m : Nat) : Int := if neg then -(m : Int) else (m : Int)

/-- Exact sum; an exact zero of opposite signs is +0 (IEEE 754, R51). -/
def flAdd : Fl → Fl → Fl
  | .nan, _ => .nan
  | _, .nan => .nan
  | .inf a, .inf b => if a = b then .inf a else .nan
  | .inf a, _ => .inf a
  | _, .inf b => .inf b
  | .fin sa ma ea, .fin sb mb eb =>
    let e := min ea eb
    let x := sgn sa (ma <<< (ea - e).toNat) + sgn sb (mb <<< (eb - e).toNat)
    flOfInt x e (sa && sb)

def flNeg : Fl → Fl
  | .nan => .nan
  | .inf s => .inf (!s)
  | .fin s m e => .fin (!s) m e

def flAbs : Fl → Fl
  | .nan => .nan
  | .inf _ => .inf false
  | .fin _ m e => .fin false m e

/-- Exact product. -/
def flMul : Fl → Fl → Fl
  | .nan, _ => .nan
  | _, .nan => .nan
  | .inf a, .inf b => .inf (a != b)
  | .inf a, .fin b m _ => if m = 0 then .nan else .inf (a != b)
  | .fin b m _, .inf a => if m = 0 then .nan else .inf (a != b)
  | .fin sa ma ea, .fin sb mb eb => .fin (sa != sb) (ma * mb) (ea + eb)

/-- x * 2^k. -/
def flScale (k : Int) : Fl → Fl
  | .nan => .nan
  | .inf s => .inf s
  | .fin s m e => .fin s m (e + k)

def flIsNan : Fl → Bool
  | .nan => true
  | _ => false

def flIsFin : Fl → Bool
  | .fin _ _ _ => true
  | _ => false

def flIsZero : Fl → Bool
  | .fin _ m _ => m == 0
  | _ => false

/-- Compare two numbers that are not NaN; zeros are equal. -/
def flCmp : Fl → Fl → Ordering
  | .inf a, .inf b => if a = b then .eq else if a then .lt else .gt
  | .inf a, _ => if a then .lt else .gt
  | _, .inf b => if b then .gt else .lt
  | .fin sa ma ea, .fin sb mb eb =>
    let e := min ea eb
    compare (sgn sa (ma <<< (ea - e).toNat)) (sgn sb (mb <<< (eb - e).toNat))
  | _, _ => .eq

/-- NV: a NaN produced from operands of which none is a NaN (R134). -/
def withNv (anyNan : Bool) (r : Fl) (f : FRes) : FRes :=
  if flIsNan r && !anyNan then { f with fl := { f.fl with nv := true } } else f

/-- va + vb (R123). -/
def fAdd (fb : Nat) (edge : Bool) (a b : Nat) : FRes :=
  let x := flDecode fb a; let y := flDecode fb b; let r := flAdd x y
  withNv (flIsNan x || flIsNan y) r (flRound fb edge r)

def fSub (fb : Nat) (edge : Bool) (a b : Nat) : FRes :=
  let x := flDecode fb a; let y := flNeg (flDecode fb b); let r := flAdd x y
  withNv (flIsNan x || flIsNan y) r (flRound fb edge r)

def fMul (fb : Nat) (edge : Bool) (a b : Nat) : FRes :=
  let x := flDecode fb a; let y := flDecode fb b; let r := flMul x y
  withNv (flIsNan x || flIsNan y) r (flRound fb edge r)

/-- ±(a × b) ± c with one rounding (R125). -/
def fFma (fb : Nat) (edge : Bool) (np na : Bool) (a b c : Nat) : FRes :=
  let x := flDecode fb a; let y := flDecode fb b; let z := flDecode fb c
  let p := if np then flNeg (flMul x y) else flMul x y
  let z' := if na then flNeg z else z
  let r := flAdd p z'
  withNv (flIsNan x || flIsNan y || flIsNan z) r (flRound fb edge r)

/-- Minimum or maximum; -0 below +0, any NaN gives NaN (R125). -/
def fMinMax (fb : Nat) (isMax : Bool) (a b : Nat) : FRes :=
  let x := flDecode fb a; let y := flDecode fb b
  if flIsNan x || flIsNan y then ⟨canonNan fb, {}⟩
  else
    let aLess := match flCmp x y with
      | .lt => true
      | .gt => false
      | .eq => decide (1 <<< (fb + 8) ≤ a)
    ⟨if aLess == isMax then b else a, {}⟩

def fAbs (fb a : Nat) : FRes :=
  if flIsNan (flDecode fb a) then ⟨canonNan fb, {}⟩ else ⟨a % 2 ^ (fb + 8), {}⟩

def fNeg (fb a : Nat) : FRes :=
  if flIsNan (flDecode fb a) then ⟨canonNan fb, {}⟩ else ⟨(a + 2 ^ (fb + 8)) % 2 ^ (fb + 9), {}⟩

/-- IEEE 754 division, correctly rounded (R124). -/
def fDiv (fb : Nat) (edge : Bool) (a b : Nat) : FRes :=
  match flDecode fb a, flDecode fb b with
  | .nan, _ => ⟨canonNan fb, {}⟩
  | _, .nan => ⟨canonNan fb, {}⟩
  | .inf _, .inf _ => ⟨canonNan fb, { nv := true }⟩
  | .inf s, .fin t _ _ => ⟨infBits fb (s != t), {}⟩
  | .fin s _ _, .inf t => ⟨signBit fb (s != t), {}⟩
  | .fin s m e, .fin t n g =>
    if n = 0 then (if m = 0 then ⟨canonNan fb, { nv := true }⟩ else ⟨infBits fb (s != t), { dz := true }⟩)
    else
      let d := dyad 1 (e - g)
      roundRat fb (s != t) (m * d.1) (n * d.2) edge

/-- One step of the bitwise square root, from bit k downward. -/
def isqrtBits (n : Nat) : Nat → Nat → Nat
  | 0, r => r
  | k + 1, r => let t := r + 2 ^ k; isqrtBits n k (if t * t ≤ n then t else r)

/-- floor(sqrt n). -/
def isqrt (n : Nat) : Nat := isqrtBits n (n.log2 / 2 + 1) 0

/-- √(m * 2^e) as a quotient that rounds as the root does: the root to 80 extra bits with a sticky bit below. -/
def sqrtRat (m : Nat) (e : Int) : Nat × Nat :=
  let d := dyad m e
  -- num / den = num * den / den^2 ; scale by 2^400
  let v := (d.1 * d.2) <<< 800
  let r := isqrt v
  let st := if r * r = v then 0 else 1
  (2 * r + st, 2 * d.2 <<< 400)

def fSqrt (fb : Nat) (edge : Bool) (a : Nat) : FRes :=
  match flDecode fb a with
  | .nan => ⟨canonNan fb, {}⟩
  | .inf s => if s then ⟨canonNan fb, { nv := true }⟩ else ⟨infBits fb false, {}⟩
  | .fin s m e =>
    if m = 0 then ⟨signBit fb s, {}⟩
    else if s then ⟨canonNan fb, { nv := true }⟩
    else let q := sqrtRat m e; roundRat fb false q.1 q.2 edge

/-- 1 ÷ √x, correctly rounded; ±0 gives ±∞ (R124). -/
def fRsqrt (fb : Nat) (edge : Bool) (a : Nat) : FRes :=
  match flDecode fb a with
  | .nan => ⟨canonNan fb, {}⟩
  | .inf s => if s then ⟨canonNan fb, { nv := true }⟩ else ⟨0, {}⟩
  | .fin s m e =>
    if m = 0 then ⟨infBits fb s, { dz := true }⟩
    else if s then ⟨canonNan fb, { nv := true }⟩
    else let q := sqrtRat m e; roundRat fb false q.2 q.1 edge

/-- Convert between formats: round once into `fb2` fraction bits (R39, R126). -/
def fCvt (edge : Bool) (fb1 fb2 a : Nat) : FRes := flRound fb2 edge (flDecode fb1 a)

/-- FP32 to INT32, nearest with ties to even, saturating; a NaN gives 0 and sets NV (R126). -/
def fToInt32 (a : Nat) : FRes :=
  match flDecode 23 a with
  | .nan => ⟨0, { nv := true }⟩
  | .inf s => ⟨if s then 2 ^ 31 else 2 ^ 31 - 1, {}⟩
  | .fin s m e =>
    let d := dyad m e
    let n := rneQ (scaledDiv d.1 d.2 0)
    if s then ⟨if 2 ^ 31 ≤ n then 2 ^ 31 else (2 ^ 32 - n) % 2 ^ 32, {}⟩
    else ⟨if 2 ^ 31 ≤ n then 2 ^ 31 - 1 else n, {}⟩

/-- INT32 to FP32, nearest with ties to even (R126). -/
def fOfInt32 (a : Nat) : FRes := flRound 23 false (flOfInt (signed 32 a) 0 false)

/-- Add two AF40 values with one rounding (R39). -/
def afAdd (a b : AF40) : AF40 := BitVec.ofNat 40 (fAdd 31 false a.toNat b.toNat).bits

/-- AF40 maximum and minimum, as VMAX and VMIN (R307). -/
def afMinMax (isMax : Bool) (a b : AF40) : AF40 := BitVec.ofNat 40 (fMinMax 31 isMax a.toNat b.toNat).bits

/-- x × 2^k rounded into AF40 (R53). -/
def afScale (k : Int) (a : AF40) : AF40 := BitVec.ofNat 40 (flRound 31 false (flScale k (flDecode 31 a.toNat))).bits

/-- AF40 narrowed to FP32 (R39). -/
def afNarrow (a : AF40) : W32 := BitVec.ofNat 32 (fCvt false 31 23 a.toNat).bits

/-- FP32 widened to AF40, exactly; any NaN becomes the canonical NaN (R39). -/
def afWiden (x : W32) : AF40 := BitVec.ofNat 40 (fCvt false 23 31 x.toNat).bits

end Sys2Proof
end

