-- ==== Sys2Proof/Machine/Fn.lean ====
section
/-!
DEFINITION. The correctly rounded functions of R124 and the drain and VFN functions of R127. Each function is
evaluated in fixed point with 640 bits below the point, marked as inexact below that, and rounded once.
DEDUCED: the value so rounded is the one R124 asks for (the exact result is never that close to a rounding
boundary for a 24-bit operand; assumption 9).
-/

namespace Sys2Proof

/-- Fixed-point fraction bits of the function evaluation. [DEDUCED: log 9] -/
def fxP : Nat := 640

/-- ln 2 × 2^640, rounded down. -/
def ln2Fx : Nat := 0xb17217f7d1cf79abc9e3b39803f2f6af40f343267298b62d8a0d175b8baafa2be7b876206debac98559552fb4afa1b10ed2eae35c138214427573b291169b8253e96ca16224ae8c51acbda11317c387e

/-- Taylor series of e^r: sum of terms r^k / k!, from term k on, for r in fixed point. -/
def expSeries (r : Nat) : Nat → Nat → Nat → Nat
  | 0, _, _ => 0
  | fuel + 1, k, term => if term = 0 then 0 else term + expSeries r fuel (k + 1) (((term * r) >>> fxP) / k)

/-- e^x for x = i / 2^640: (mantissa in fixed point, power of two). -/
def expFx (i : Int) : Nat × Int :=
  let k := i / (ln2Fx : Int)
  let r := (i - k * ln2Fx).toNat
  (expSeries r 200 1 (1 <<< fxP), k)

/-- A finite number in fixed point (exact for FP32 values, whose bits end at 2^-149). -/
def toFx (neg : Bool) (m : Nat) (e : Int) : Int :=
  let j := e + fxP
  let v : Nat := if 0 ≤ j then m <<< j.toNat else m >>> (-j).toNat
  sgn neg v

/-- A positive fixed-point value times 2^k, as a quotient with a sticky bit below. -/
def fxRat (v : Nat) (k : Int) : Nat × Nat :=
  let d := dyad 1 k
  ((2 * v + 1) * d.1, (2 <<< fxP) * d.2)

/-- 2 atanh(z) by its odd series, z in fixed point: sum of 2 z^(2j+1) / (2j+1). -/
def atanhSeries (z2 : Nat) : Nat → Nat → Nat → Nat
  | 0, _, _ => 0
  | fuel + 1, n, t => if t = 0 then 0 else 2 * t / n + atanhSeries z2 fuel (n + 2) ((t * z2) >>> fxP)

/-- A quotient num / den (den > 0) in fixed point. -/
def fxDiv (num den : Nat) : Nat := (num <<< fxP) / den

/-- e^x (R124). -/
def fExp (edge : Bool) (a : Nat) : FRes :=
  match flDecode 23 a with
  | .nan => ⟨canonNan 23, {}⟩
  | .inf s => if s then ⟨0, {}⟩ else ⟨infBits 23 false, {}⟩
  | .fin s m e =>
    if m = 0 then ⟨127 <<< 23, {}⟩
    else if flCmp (.fin false m e) (.fin false 110 0) == .gt then
      (if s then roundRat 23 false 1 (1 <<< 400) edge else roundRat 23 false (1 <<< 400) 1 edge)
    else
      let v := expFx (toFx s m e); let q := fxRat v.1 v.2
      roundRat 23 false q.1 q.2 edge

/-- 2^x (R124); exact at an integer. -/
def fExp2 (edge : Bool) (a : Nat) : FRes :=
  match flDecode 23 a with
  | .nan => ⟨canonNan 23, {}⟩
  | .inf s => if s then ⟨0, {}⟩ else ⟨infBits 23 false, {}⟩
  | .fin s m e =>
    if flCmp (.fin false m e) (.fin false 160 0) == .gt then
      (if s then roundRat 23 false 1 (1 <<< 400) edge else roundRat 23 false (1 <<< 400) 1 edge)
    else
      let i := toFx s m e
      let k := i / ((1 <<< fxP : Nat) : Int)
      let f := (i - k * ((1 <<< fxP : Nat) : Int)).toNat
      if f = 0 then let d := dyad 1 k; roundRat 23 false d.1 d.2 edge
      else
        let v := expSeries ((f * ln2Fx) >>> fxP) 200 1 (1 <<< fxP)
        let q := fxRat v k
        roundRat 23 false q.1 q.2 edge

/-- log2 x (R124); exact at a power of two. -/
def fLog2 (edge : Bool) (a : Nat) : FRes :=
  match flDecode 23 a with
  | .nan => ⟨canonNan 23, {}⟩
  | .inf s => if s then ⟨canonNan 23, { nv := true }⟩ else ⟨infBits 23 false, {}⟩
  | .fin s m e =>
    if m = 0 then ⟨infBits 23 true, { dz := true }⟩
    else if s then ⟨canonNan 23, { nv := true }⟩
    else
      let l := m.log2
      let k : Int := e + l
      let top := 1 <<< l
      if m = top then flRound 23 edge (flOfInt k 0 false)
      else
        let z := fxDiv (m - top) (m + top)
        let ln := atanhSeries ((z * z) >>> fxP) 400 1 z
        let lg := fxDiv ln ln2Fx
        let t : Int := k * ((1 <<< fxP : Nat) : Int) + lg
        let q := fxRat t.natAbs 0
        roundRat 23 (decide (t < 0)) q.1 q.2 edge

/-- tanh x (R124). -/
def fTanh (edge : Bool) (a : Nat) : FRes :=
  match flDecode 23 a with
  | .nan => ⟨canonNan 23, {}⟩
  | .inf s => ⟨signBit 23 s + 127 <<< 23, {}⟩
  | .fin s m e =>
    if m = 0 then ⟨signBit 23 s, {}⟩
    else if flCmp (.fin false m e) (.fin false 20 0) == .gt then roundRat 23 s ((1 <<< 100) - 1) (1 <<< 100) edge
    else
      let v := expFx (2 * toFx false m e)
      let d := dyad 1 v.2
      let n := v.1 * d.1
      let one := (1 <<< fxP) * d.2
      roundRat 23 s (2 * (n - one) + 1) (2 * (n + one)) edge

/-- σ(x) = 1 ÷ (1 + e^-x) (R124). -/
def fSig (edge : Bool) (a : Nat) : FRes :=
  match flDecode 23 a with
  | .nan => ⟨canonNan 23, {}⟩
  | .inf s => if s then ⟨0, {}⟩ else ⟨127 <<< 23, {}⟩
  | .fin s m e =>
    if m = 0 then ⟨126 <<< 23, {}⟩
    else if flCmp (.fin false m e) (.fin false 200 0) == .gt then
      (if s then roundRat 23 false 1 (1 <<< 400) edge else roundRat 23 false ((1 <<< 100) - 1) (1 <<< 100) edge)
    else
      let v := expFx (toFx s m e)
      let d := dyad 1 v.2
      let n := v.1 * d.1
      let one := (1 <<< fxP) * d.2
      roundRat 23 false (2 * n + 1) (2 * (n + one)) edge

/-! The functions of the table "Function codes" (R127), each step rounding as the pseudocode writes it. -/

/-- A running FP32 computation that gathers flags. -/
structure FW where
  v : Nat
  fl : FlagSet := {}
  deriving DecidableEq, Repr

def FW.ofRes (r : FRes) : FW := ⟨r.bits, r.fl⟩

def fw1 (f : Nat → FRes) (a : FW) : FW := let r := f a.v; ⟨r.bits, a.fl.or r.fl⟩
/-- [DEDUCED: log 205] -/
def fw2 (f : Nat → Nat → FRes) (a b : FW) : FW := let r := f a.v b.v; ⟨r.bits, (a.fl.or b.fl).or r.fl⟩
def fw3 (f : Nat → Nat → Nat → FRes) (a b c : FW) : FW :=
  let r := f a.v b.v c.v; ⟨r.bits, ((a.fl.or b.fl).or c.fl).or r.fl⟩

def fOne : FW := ⟨0x3F800000, {}⟩
def fHalf : FW := ⟨0x3F000000, {}⟩
/-- c1 = fp32(0.044_715). -/
def fC1 : FW := ⟨(roundRat 23 false 44715 1000000 false).bits, {}⟩
/-- c3 = fp32(0.134_145). -/
def fC3 : FW := ⟨(roundRat 23 false 134145 1000000 false).bits, {}⟩
/-- kk = fp32(0.797_884_6). -/
def fKk : FW := ⟨(roundRat 23 false 7978846 10000000 false).bits, {}⟩

/-- The shared part of GELU-tanh: (z², t). -/
def geluT (ed : Bool) (z : FW) : FW × FW :=
  let a := fw2 (fMul 23 ed) z z
  let b := fw2 (fMul 23 ed) a z
  let t := fw1 (fTanh ed) (fw2 (fMul 23 ed) fKk (fw3 (fFma 23 ed false false) fC1 b z))
  (a, t)

/-- Whether a function code is in the table "Function codes" and accepted (R127). -/
def funcOk (code : Nat) : Bool :=
  [0x00, 0x01, 0x02, 0x03, 0x04, 0x05, 0x06, 0x11, 0x12, 0x13, 0x14, 0x15, 0x16, 0x21, 0x24, 0x25, 0x26].contains code

/-- A derivative code: it takes a saved operand. -/
def funcDeriv (code : Nat) : Bool := decide (0x10 ≤ code)

/-- x > 0 for an FP32 value; a NaN is not (R127). -/
def fPos (x : Nat) : Bool :=
  match flDecode 23 x with
  | .nan => false
  | .inf s => !s
  | .fin s m _ => !s && m != 0

/-- The functions of R127: z (or y) in x, and g. [DEDUCED: log 204] -/
def drainFn (ed : Bool) (code : Nat) (x g : Nat) : FW :=
  let z : FW := ⟨x, {}⟩
  let gg : FW := ⟨g, {}⟩
  let mul := fw2 (fMul 23 ed)
  let add := fw2 (fAdd 23 ed)
  let sub := fw2 (fSub 23 ed)
  let fma := fw3 (fFma 23 ed false false)
  let fnma := fw3 (fFma 23 ed true false)
  match code with
  | 0x01 => fw2 (fMinMax 23 true) z ⟨0, {}⟩
  | 0x02 => let p := geluT ed z; mul (mul fHalf z) (add fOne p.2)
  | 0x03 => mul z (fw1 (fSig ed) z)
  | 0x04 => fw1 (fSig ed) z
  | 0x05 => fw1 (fTanh ed) z
  | 0x06 => fw1 (fExp ed) z
  | 0x11 => if fPos x then gg else ⟨0, {}⟩
  | 0x21 => if fPos x then gg else ⟨0, {}⟩
  | 0x12 =>
    let p := geluT ed z
    let q := fnma p.2 p.2 fOne
    let h := mul fKk (fma fC3 p.1 fOne)
    let n := mul z (mul q h)
    mul gg (mul fHalf (add (add fOne p.2) n))
  | 0x13 => let s := fw1 (fSig ed) z; mul gg (mul s (fma z (sub fOne s) fOne))
  | 0x14 => let s := fw1 (fSig ed) z; mul gg (mul s (sub fOne s))
  | 0x24 => mul gg (mul z (sub fOne z))
  | 0x15 => let t := fw1 (fTanh ed) z; mul gg (fnma t t fOne)
  | 0x25 => mul gg (fnma z z fOne)
  | 0x16 => mul gg (fw1 (fExp ed) z)
  | 0x26 => mul gg z
  | _ => z

end Sys2Proof
end

