-- ==== Sys2Proof/Machine/Hash.lean ====
section
/-!
DEFINITION. The hashes and cyclic codes the manual fixes: mix64 (R48), dhash (R299), digest (R218), CRC-32 (R270)
and SHA-256 for the gauge word and the image checks (R57, R429).
-/

namespace Sys2Proof

/-- mix64 of R48, modulo 2^64. -/
def mix64 (z : W64) : W64 :=
  let a := (z ^^^ (z >>> 30)) * 0xBF58476D1CE4E5B9#64
  let b := (a ^^^ (a >>> 27)) * 0x94D049BB133111EB#64
  b ^^^ (b >>> 31)

/-- dhash of R299. -/
def dhash (ws : List W64) : W64 :=
  ws.foldl (fun h w => mix64 (h ^^^ w)) (mix64 (0x5A434844#64 ^^^ BitVec.ofNat 64 ws.length))

/-- The term of word i of a digest under a domain (R218). -/
def digestTerm (dom : Nat) (i : Nat) (w : W64) : W64 := mix64 (w ^^^ mix64 (BitVec.ofNat 64 (dom * 2 ^ 56 + i)))

/-- The 64-bit words of a byte sequence, padded with zero bytes (R218). -/
def words64 (bs : List Byte) : List W64 := (chunks 8 bs).map (fun c => BitVec.ofNat 64 (leNat c))

/-- Sum of the digest terms of words from index i on. -/
def digestSum (dom : Nat) : Nat → List W64 → W64
  | _, [] => 0
  | i, w :: r => digestTerm dom i w + digestSum dom (i + 1) r

/-- digest of R218. -/
def digest (bs : List Byte) (dom : Nat) : W64 :=
  mix64 (digestSum dom 0 (words64 bs) ^^^ mix64 (BitVec.ofNat 64 bs.length))

/-- One bit of the reflected CRC-32. -/
def crcBit (c : W32) : W32 := if c.getLsbD 0 then (c >>> 1) ^^^ 0xEDB88320#32 else c >>> 1

/-- One byte of the CRC-32 of R270. -/
def crcByte (c : W32) (b : Byte) : W32 :=
  let x := c ^^^ b.zeroExtend 32
  crcBit (crcBit (crcBit (crcBit (crcBit (crcBit (crcBit (crcBit x)))))))

/-- CRC-32 of R270. -/
def crc32 (bs : List Byte) : W32 := (bs.foldl crcByte 0xFFFFFFFF#32) ^^^ 0xFFFFFFFF#32

/-! ### SHA-256 (FIPS 180-4, by which R57 and R429 name it) -/

def shaK : List W32 :=
  [0x428a2f98#32, 0x71374491#32, 0xb5c0fbcf#32, 0xe9b5dba5#32, 0x3956c25b#32, 0x59f111f1#32, 0x923f82a4#32, 0xab1c5ed5#32,
   0xd807aa98#32, 0x12835b01#32, 0x243185be#32, 0x550c7dc3#32, 0x72be5d74#32, 0x80deb1fe#32, 0x9bdc06a7#32, 0xc19bf174#32,
   0xe49b69c1#32, 0xefbe4786#32, 0x0fc19dc6#32, 0x240ca1cc#32, 0x2de92c6f#32, 0x4a7484aa#32, 0x5cb0a9dc#32, 0x76f988da#32,
   0x983e5152#32, 0xa831c66d#32, 0xb00327c8#32, 0xbf597fc7#32, 0xc6e00bf3#32, 0xd5a79147#32, 0x06ca6351#32, 0x14292967#32,
   0x27b70a85#32, 0x2e1b2138#32, 0x4d2c6dfc#32, 0x53380d13#32, 0x650a7354#32, 0x766a0abb#32, 0x81c2c92e#32, 0x92722c85#32,
   0xa2bfe8a1#32, 0xa81a664b#32, 0xc24b8b70#32, 0xc76c51a3#32, 0xd192e819#32, 0xd6990624#32, 0xf40e3585#32, 0x106aa070#32,
   0x19a4c116#32, 0x1e376c08#32, 0x2748774c#32, 0x34b0bcb5#32, 0x391c0cb3#32, 0x4ed8aa4a#32, 0x5b9cca4f#32, 0x682e6ff3#32,
   0x748f82ee#32, 0x78a5636f#32, 0x84c87814#32, 0x8cc70208#32, 0x90befffa#32, 0xa4506ceb#32, 0xbef9a3f7#32, 0xc67178f2#32]

def shaInit : List W32 :=
  [0x6a09e667#32, 0xbb67ae85#32, 0x3c6ef372#32, 0xa54ff53a#32, 0x510e527f#32, 0x9b05688c#32, 0x1f83d9ab#32, 0x5be0cd19#32]

def rotr (x : W32) (n : Nat) : W32 := x.rotateRight n

/-- The message schedule: extend the newest-first list of words to 64. -/
def shaSched : Nat → List W32 → List W32
  | 0, ws => ws
  | n + 1, ws =>
    let w15 := nth 0 ws 14
    let w2 := nth 0 ws 1
    let s0 := rotr w15 7 ^^^ rotr w15 18 ^^^ (w15 >>> 3)
    let s1 := rotr w2 17 ^^^ rotr w2 19 ^^^ (w2 >>> 10)
    shaSched n ((nth 0 ws 15 + s0 + nth 0 ws 6 + s1) :: ws)

structure ShaSt where
  a : W32
  b : W32
  c : W32
  d : W32
  e : W32
  f : W32
  g : W32
  h : W32
  deriving DecidableEq, Repr

def shaRound (st : ShaSt) (kw : W32 × W32) : ShaSt :=
  let s1 := rotr st.e 6 ^^^ rotr st.e 11 ^^^ rotr st.e 25
  let ch := (st.e &&& st.f) ^^^ (~~~st.e &&& st.g)
  let t1 := st.h + s1 + ch + kw.1 + kw.2
  let s0 := rotr st.a 2 ^^^ rotr st.a 13 ^^^ rotr st.a 22
  let mj := (st.a &&& st.b) ^^^ (st.a &&& st.c) ^^^ (st.b &&& st.c)
  ⟨t1 + s0 + mj, st.a, st.b, st.c, st.d + t1, st.e, st.f, st.g⟩

def shaBlock (hs : List W32) (blk : List Byte) : List W32 :=
  let ws := (chunks 4 blk).map (fun c => BitVec.ofNat 32 (leNat c.reverse))
  let sched := (shaSched 48 ws.reverse).reverse
  let g := fun i => nth 0 hs i
  let r := (shaK.zip sched).foldl shaRound ⟨g 0, g 1, g 2, g 3, g 4, g 5, g 6, g 7⟩
  [g 0 + r.a, g 1 + r.b, g 2 + r.c, g 3 + r.d, g 4 + r.e, g 5 + r.f, g 6 + r.g, g 7 + r.h]

/-- SHA-256 of a byte sequence, 32 bytes. -/
def sha256 (bs : List Byte) : List Byte :=
  let n := bs.length
  let padn := (119 - n % 64) % 64
  let msg := bs ++ (0x80#8 :: List.replicate padn 0#8) ++ (leBytes 8 (8 * n)).reverse
  let hs := (chunks 64 msg).foldl shaBlock shaInit
  hs.flatMap (fun w => (leBytes 4 w.toNat).reverse)

/-! ### RSASSA-PSS verification (R429): RFC 8017 with SHA-256, MGF1-SHA-256 and a 32-byte salt -/

/-- base^exp mod n by squaring; `bits` bounds the exponent's length. -/
def powMod (n : Nat) : Nat → Nat → Nat → Nat
  | 0, _, _ => 1 % n
  | bits + 1, base, exp =>
    if exp = 0 then 1 % n
    else
      let h := powMod n bits ((base * base) % n) (exp / 2)
      if exp % 2 = 1 then (h * base) % n else h

/-- A big-endian byte string as a number. -/
def beNat (bs : List Byte) : Nat := leNat bs.reverse

def beBytes (n v : Nat) : List Byte := (leBytes n v).reverse

/-- MGF1 with SHA-256. -/
def mgf1 (seed : List Byte) (len : Nat) : List Byte :=
  ((List.range (cdiv len 32)).flatMap (fun i => sha256 (seed ++ beBytes 4 i))).take len

def xorBytes (a b : List Byte) : List Byte := (a.zip b).map (fun p => p.1 ^^^ p.2)

/-- Whether `sig` is a valid RSASSA-PSS signature of `msg` under a 3,072-bit modulus and an exponent. -/
def pssVerify (modulus e : Nat) (msg sig : List Byte) : Bool :=
  let s := beNat sig
  if modulus = 0 || sig.length != 384 || decide (modulus ≤ s) then false
  else
    let em := beBytes 384 (powMod modulus (e.log2 + 1) s e)
    let db := em.take 351
    let h := (em.drop 351).take 32
    let tail := nth 0 em 383
    let un := xorBytes db (mgf1 h 351)
    let un0 := match un with
      | b :: r => (b &&& 0x7F#8) :: r
      | [] => []
    let zeros := (un0.take 318).all (fun b => b == 0#8)
    let one := nth 0 un0 318 == 1#8
    let salt := un0.drop 319
    let h' := sha256 (List.replicate 8 0#8 ++ sha256 msg ++ salt)
    tail == 0xBC#8 && !((nth 0 db 0).getLsbD 7) && zeros && one && h == h'

/-! ### HKDF-SHA-256 (RFC 5869) for link keys (R436) -/

def hmac256 (key msg : List Byte) : List Byte :=
  let k := if 64 < key.length then sha256 key else key
  let k64 := (List.range 64).map (fun i => nth 0#8 k i)
  sha256 (k64.map (fun b => b ^^^ 0x5C#8) ++ sha256 (k64.map (fun b => b ^^^ 0x36#8) ++ msg))

/-- The first n bytes, at most 32, of HKDF-SHA-256 of input key material, salt and info. -/
def hkdf (ikm salt info : List Byte) (n : Nat) : List Byte := (hmac256 (hmac256 salt ikm) (info ++ [1#8])).take n

end Sys2Proof
end

