-- ==== Sys2Proof/Machine/Es.lean ====
section
/-!
DEFINITION. The scaled formats: element encodings (R32, R33), blocks and their bytes (R34 to R36), conversion
(R43 to R46), stochastic rounding (R48), and the block sums of the arrays (R49 to R52).
-/

namespace Sys2Proof

/-- Parameters of an ES element format (R32). -/
structure EsFmt where
  width : Nat
  ebits : Nat
  mbits : Nat
  bias : Int
  /-- largest finite value, as m × 2^e -/
  maxM : Nat
  maxE : Int
  deriving DecidableEq, Repr

/-- The ES formats by format code (R104). -/
def esFmt : Nat → Option EsFmt
  | 0x0 => some ⟨8, 4, 3, 7, 14, 5⟩
  | 0x1 => some ⟨8, 5, 2, 15, 7, 13⟩
  | 0x2 => some ⟨6, 3, 2, 3, 7, 2⟩
  | 0x3 => some ⟨6, 2, 3, 1, 15, -1⟩
  | 0x4 => some ⟨4, 2, 1, 1, 3, 1⟩
  | _ => none

/-- The parameters for a code, ES8M3 for a code that names no ES format. -/
def esOf (code : Nat) : EsFmt := (esFmt code).getD ⟨8, 4, 3, 7, 14, 5⟩

def fmtIsEs (code : Nat) : Bool := decide (code ≤ 4)

/-- An assigned format code (R104). -/
def fmtOk (code : Nat) : Bool := [0x0, 0x1, 0x2, 0x3, 0x4, 0x8, 0x9, 0xA].contains code

/-- A format the arrays accept (R104). -/
def fmtArray (code : Nat) : Bool := [0x0, 0x1, 0x2, 0x3, 0x4, 0x8].contains code

/-- Bytes of one element of a format that is not ES (R136). -/
def fmtBytes : Nat → Nat
  | 0x8 => 2
  | 0x9 => 4
  | 0xA => 5
  | _ => 1

/-- Fraction bits of BF16, FP32 and AF40. -/
def fmtFrac : Nat → Nat
  | 0x8 => 7
  | 0x9 => 23
  | _ => 31

/-- The value of an ES element (R32, R33). -/
def esDecode (code x : Nat) : Fl :=
  let f := esOf code
  let mb := f.mbits
  let e := (x >>> mb) % 2 ^ f.ebits
  let m := x % 2 ^ mb
  let s := (x >>> (f.width - 1)) % 2 == 1
  if code = 0 && e = 15 && m = 7 then .nan
  else if code = 1 && e = 31 then (if m = 0 then .inf s else .nan)
  else if e = 0 then (if m = 0 then .fin false 0 0 else .fin s m (1 - f.bias - mb))
  else .fin s (2 ^ mb + m) ((e : Int) - f.bias - mb)

/-- The largest finite value as a number. -/
def esMax (code : Nat) : Fl := let f := esOf code; .fin false f.maxM f.maxE

/-- ceil(log2(num / den)) for positive num and den. -/
def ceilLog2 (num den : Nat) : Int :=
  let l := floorLog2 num den
  let d := dyad 1 l
  if num * d.2 = den * d.1 then l else l + 1

/-- ceil(log2(m × 2^e ÷ emax)), exact on the real values (R40, R43). -/
def shiftFor (code : Nat) (m : Nat) (e : Int) : Int :=
  let f := esOf code
  let d := dyad 1 (e - f.maxE)
  ceilLog2 (m * d.1) (f.maxM * d.2)

/-- A rounding mode: to nearest with ties to even, or stochastic with a 16-bit draw (R43, R48). -/
inductive RMode where
  | rne
  | sr (r : Nat)
  deriving DecidableEq, Repr

/-- encode of R43 for a finite non-zero y = (-1)^s m 2^e: the element bits. -/
def esEncode (code : Nat) (mode : RMode) (s : Bool) (m : Nat) (e : Int) : Nat :=
  if m = 0 then 0
  else
    let f := esOf code
    let d := dyad m e
    let ex := max (floorLog2 d.1 d.2) (1 - f.bias)
    let q := scaledDiv d.1 d.2 (ex - f.mbits)
    let n : Nat := match mode with
      | .rne => rneQ q
      | .sr r =>
        let nd : Nat × Nat :=
          let u := ex - f.mbits
          if 0 ≤ u then (d.1, d.2 <<< u.toNat) else (d.1 <<< (-u).toNat, d.2)
        if 65536 ≤ ((nd.1 % nd.2) * 65536) / nd.2 + r then q.1 + 1 else q.1
    -- n × 2^(ex - mbits), capped at emax
    let big := match flCmp (.fin false n (ex - f.mbits)) (esMax code) with
      | .gt => true
      | _ => false
    let body : Nat :=
      if big then
        -- the encoding of emax
        (match code with | 0 => 0x7E | 1 => 0x7B | 2 => 0x1F | 3 => 0x1F | _ => 0x7)
      else (ex - (1 - f.bias)).toNat * 2 ^ f.mbits + n
    if body = 0 then 0 else body + (if s then 2 ^ (f.width - 1) else 0)

/-- The non-finite rule (R46): NaN is 0x7F in the ES8 formats, an infinity is kept only by ES8M2, and ES6 and ES4 write +0. -/
def esSpecial (code : Nat) : Fl → Nat
  | .inf s => if code = 1 then (if s then 0xFC else 0x7C) else if code = 0 then 0x7F else 0
  | _ => if code ≤ 1 then 0x7F else 0

/-- One block: its element patterns (32) and block byte fields (R35). -/
structure Block where
  z : Bool := true
  l : Bool := false
  shift : Int := 0
  el : List Nat := []
  deriving DecidableEq, Repr

/-- The counters one conversion adds (R44), amax as FP32 bits. -/
structure ConvCnt where
  nzIn : Nat := 0
  flushed : Nat := 0
  clampLow : Nat := 0
  saturated : Nat := 0
  nonfinite : Nat := 0
  amax : Nat := 0
  deriving DecidableEq, Repr

/-- The larger of two non-negative finite FP32 patterns. -/
def maxPat (a b : Nat) : Nat := max a b

def ConvCnt.add (a b : ConvCnt) : ConvCnt :=
  { nzIn := satAdd 48 a.nzIn b.nzIn, flushed := satAdd 48 a.flushed b.flushed, clampLow := satAdd 48 a.clampLow b.clampLow
    saturated := satAdd 48 a.saturated b.saturated, nonfinite := satAdd 48 a.nonfinite b.nonfinite
    amax := maxPat a.amax b.amax }

/-- The larger magnitude of two finite numbers (a NaN or an infinity is skipped, R46). -/
def maxMag (acc : Nat × Int) : Fl → Nat × Int
  | .fin _ m e => match flCmp (.fin false m e) (.fin false acc.1 acc.2) with
    | .gt => (m, e)
    | _ => acc
  | _ => acc

/-- convert_block of R43 with the counters of R44. The amax is the largest finite source magnitude, as FP32 (R41). -/
def convertBlock (code : Nat) (t : Int) (modes : List RMode) (x : List Fl) : Block × ConvCnt :=
  let mm := x.foldl maxMag (0, 0)
  let s0 : Int := if mm.1 = 0 then 0 else shiftFor code mm.1 (mm.2 - t)
  let hi := decide (31 < s0)
  let lo := decide (s0 < -32)
  let s := min (max s0 (-32)) 31
  let el := (List.range 32).map (fun i =>
    match nth (.fin false 0 0) x i with
    | .fin sg m e => esEncode code (nth .rne modes i) sg m (e - (t + s))
    | v => esSpecial code v)
  let zs := el.map (fun p => p == 0)
  let z := zs.all id
  let nz := x.map (fun v => match v with | .fin _ m _ => m != 0 | _ => false)
  let fl := (List.range 32).filter (fun i => nth false nz i && nth false zs i)
  let cnt : ConvCnt :=
    { nzIn := (nz.filter id).length, flushed := fl.length, clampLow := if lo then 1 else 0
      saturated := if hi then 1 else 0, nonfinite := (x.filter (fun v => !flIsFin v)).length
      amax := (flRound 23 false (.fin false mm.1 mm.2)).bits }
  (⟨z, !fl.isEmpty, if z then 0 else s, el⟩, cnt)

/-- The sticky flags of converting values x to block b (R134): an infinity that becomes a NaN, and a non-zero value whose element lies below
the smallest normal number and is inexact. A conversion saturates and never overflows to infinity. -/
def esFlags (code : Nat) (t : Int) (b : Block) (x : List Fl) : FlagSet :=
  (List.range 32).foldl (fun a i =>
    match nth (.fin false 0 0) x i with
    | .inf _ => if code = 0 then { a with nv := true } else a
    | .fin sg m e =>
      let y : Fl := .fin sg m (e - (t + b.shift))
      let tiny := flCmp (.fin false m (e - (t + b.shift))) (.fin false 1 (1 - (esOf code).bias)) == .lt
      if m = 0 then a
      else if nth 0 b.el i = 0 || (tiny && flCmp (esDecode code (nth 0 b.el i)) y != .eq) then { a with uf := true } else a
    | .nan => a) {}

/-- The block byte (R35, R36). -/
def blockByte (b : Block) : Byte :=
  BitVec.ofNat 8 ((if b.z then 128 else 0) + (if b.l then 64 else 0) + (if b.z then 0 else unsign 6 b.shift))

/-- Read a block from its element bytes (packed) and block byte (R34 to R36): a Z block is all zero. -/
def readBlock (code : Nat) (data : List Byte) (bb : Byte) : Block :=
  let w := (esOf code).width
  let v := leNat data
  let z := bb.getLsbD 7
  ⟨z, bb.getLsbD 6, signed 6 bb.toNat,
    (List.range 32).map (fun i => if z then 0 else (v >>> (w * i)) % 2 ^ w)⟩

/-- The packed element bytes of a block (R34). -/
def blockData (code : Nat) (b : Block) : List Byte :=
  let w := (esOf code).width
  leBytes (4 * w) ((List.range 32).foldl (fun acc i => acc + (nth 0 b.el i) <<< (w * i)) 0)

/-- Bytes of one block's elements. -/
def blockBytes (code : Nat) : Nat := 4 * (esOf code).width

/-- Bytes of one block group of 32 blocks: elements, then block bytes (R34). -/
def groupBytes (code : Nat) : Nat := 32 * blockBytes code + 32

/-- Byte offset of block k's elements from the tensor's base, and of its block byte (R34). -/
def blockOff (code k : Nat) : Nat × Nat :=
  let g := (k / 32) * groupBytes code
  (g + (k % 32) * blockBytes code, g + 32 * blockBytes code + k % 32)

/-- The exact value of element i of a block times 2^k (R35). [DEDUCED: log 15] -/
def blockVal (code : Nat) (b : Block) (k : Int) (i : Nat) : Fl :=
  if b.z then .fin false 0 0 else flScale (b.shift + k) (esDecode code (nth 0 b.el i))

/-! ### Stochastic values (R48) -/

/-- sr_values: the 32 draws of block index b. -/
def srValues (seed step tid b : W64) : List Nat :=
  let k := mix64 (seed ^^^ mix64 step)
  let t := mix64 (k ^^^ tid)
  (List.range 32).map (fun i =>
    let h := mix64 (t ^^^ (8 * b + BitVec.ofNat 64 (i / 4)))
    (h.toNat >>> (16 * (i % 4))) % 65536)

/-! ### Products and block sums (R49 to R52) -/

/-- The block register: value as an integer of weight 2^lsb, and three flags (R50, R51). -/
structure BlkReg where
  v : Int := 0
  lsb : Int := 0
  nan : Bool := false
  pinf : Bool := false
  ninf : Bool := false
  deriving DecidableEq, Repr

def isEs6 (c : Nat) : Bool := c = 2 || c = 3

/-- The register's lsb exponent for an operand pair, none for a pair not listed (R49, R50). BF16 × BF16 finds its own. -/
def pairLsb (a b : Nat) : Option Int :=
  if a = 0 && b = 0 then some (-18)
  else if (a = 0 && b = 1) || (a = 1 && b = 0) then some (-25)
  else if a = 1 && b = 1 then some (-18)
  else if isEs6 a && isEs6 b then some (-8)
  else if (a = 4 && b = 0) || (a = 0 && b = 4) then some (-10)
  else if (a = 4 && b = 1) || (a = 1 && b = 4) then some (-17)
  else if a = 4 && b = 4 then some (-2)
  else if a = 8 && b = 8 then some 0
  else none

/-- Round a signed dyadic to a multiple of 2^lsb, ties to even. -/
def toLsb (lsb : Int) (neg : Bool) (m : Nat) (e : Int) : Int :=
  let d := dyad m e
  sgn neg (rneQ (scaledDiv d.1 d.2 lsb))

/-- Sum the 32 products of a block into the block register (R50, R51). -/
def blockSum (lsb : Int) (bf : Bool) (a b : List Fl) : BlkReg :=
  let ps := (List.range 32).map (fun i => flMul (nth (.fin false 0 0) a i) (nth (.fin false 0 0) b i))
  let top : Option Int := ps.foldl (fun acc p => match p with
    | .fin _ m e => if m = 0 then acc else
        let l := (m.log2 : Int) + e
        match acc with
        | none => some l
        | some x => some (max x l)
    | _ => acc) none
  let ls := if bf then (match top with | some x => x - 48 | none => 0) else lsb
  ps.foldl (fun r p => match p with
    | .nan => { r with nan := true }
    | .inf s => if s then { r with ninf := true } else { r with pinf := true }
    | .fin s m e => { r with v := r.v + toLsb ls s m e }) { lsb := ls }

/-- The merge of R51 and R52 into an AF40 accumulator. -/
def mergeBlk (acc : AF40) (r : BlkReg) (sh : Int) : AF40 :=
  if r.nan || (r.pinf && r.ninf) then BitVec.ofNat 40 (canonNan 31)
  else if r.pinf || r.ninf then
    BitVec.ofNat 40 (flRound 31 false (flAdd (flDecode 31 acc.toNat) (.inf r.ninf))).bits
  else if r.v = 0 then acc
  else BitVec.ofNat 40 (flRound 31 false (flAdd (flDecode 31 acc.toNat) (flOfInt r.v (r.lsb + sh) false))).bits

/-- The P of a BF16 block, floor(log2 of the largest product), for the Swatch bound (R62). -/
def blockTop (a b : List Fl) : Option Int :=
  (List.range 32).foldl (fun acc i => match flMul (nth (.fin false 0 0) a i) (nth (.fin false 0 0) b i) with
    | .fin _ m e => if m = 0 then acc else some (match acc with | none => (m.log2 : Int) + e | some x => max x ((m.log2 : Int) + e))
    | _ => acc) none

/-- The tensor scale exponent of R40 and R42 for an amax A > 0. -/
def scaleFor (code : Nat) (amax : Nat) (margin : Int) : Int :=
  match flDecode 23 amax with
  | .fin _ m e => if m = 0 then 0 else min (max (shiftFor code m e + margin) (-126)) 127
  | _ => 0

/-- import_block of R60: an MX block with scale byte X into an ES block of tensor exponent T. [DEDUCED: log 175] -/
def mxImport (code : Nat) (el : List Nat) (x : Nat) (t : Int) : Block × ConvCnt :=
  if x = 255 then
    let b : Block := ⟨decide (2 ≤ code), false, 0, List.replicate 32 (if code ≤ 1 then 0x7F else 0)⟩
    (b, { nonfinite := 32 })
  else
    let s : Int := (x : Int) - 127 - t
    let sc : Int := if s > 31 then s - 31 else if s < -32 then s + 32 else 0
    let sh : Int := if s > 31 then 31 else if s < -32 then -32 else s
    let vals := (List.range 32).map (fun i => esDecode code (nth 0 el i))
    let out := if sc = 0 then vals.zip (el.take 32) |>.map (fun p => match p.1 with
        | .nan => esSpecial code .nan
        | .fin _ m _ => if m = 0 then 0 else p.2
        | .inf _ => p.2)
      else vals.map (fun v => match v with
        | .fin g m e => esEncode code .rne g m (e + sc)
        | w => esSpecial code w)
    let z := out.all (fun p => p == 0)
    let nz := vals.map (fun v => match v with | .fin _ m _ => m != 0 | _ => false)
    let fl := (List.range 32).filter (fun i => nth false nz i && nth 1 out i == 0)
    let mm := vals.foldl maxMag (0, 0)
    (⟨z, !fl.isEmpty, if z then 0 else sh, out⟩,
     { nzIn := (nz.filter id).length, flushed := fl.length, clampLow := if s < -32 then 1 else 0
       saturated := if s > 31 then 1 else 0, nonfinite := (vals.filter (fun v => !flIsFin v)).length
       amax := (flRound 23 false (.fin false mm.1 (mm.2 + (x : Int) - 127))).bits })

/-- Export of R61: elements and scale byte of an ES block with tensor exponent T, and what it counted. [DEDUCED: log 176] -/
def mxExport (code : Nat) (b : Block) (t : Int) : List Nat × Nat × ConvCnt :=
  if b.z then (List.replicate 32 0, 127, {})
  else
    let x : Int := b.shift + t + 127
    let adj : Int := if x > 254 then x - 254 else if x < 0 then x else 0
    let xb : Nat := (min (max x 0) 254).toNat
    let vals := (List.range 32).map (fun i => esDecode code (nth 0 b.el i))
    if adj = 0 then (b.el, xb, {})
    else
      let out := vals.map (fun v => match v with
        | .fin g m e => esEncode code .rne g m (e + adj)
        | w => esSpecial code w)
      let nz := vals.map (fun v => match v with | .fin _ m _ => m != 0 | _ => false)
      let fl := (List.range 32).filter (fun i => nth false nz i && nth 1 out i == 0)
      (out, xb, { flushed := fl.length, saturated := if x > 254 then 1 else 0 })

end Sys2Proof
end

