-- ==== Sys2Proof/Machine/Gf.lean ====
section
/-!
DEFINITION. The codes over stored words: the sector code over GF(2^8) (R228 to R231) and the SRAM code (R242, R243).
-/

namespace Sys2Proof

/-- x times the primitive element 0x02 in GF(2^8), polynomial 0x11D (R228). -/
def gfDouble (a : Byte) : Byte := if a.getLsbD 7 then (a <<< 1) ^^^ 0x1D#8 else a <<< 1

/-- alpha^e for an exponent. -/
def gfPow : Nat → Byte
  | 0 => 1
  | n + 1 => gfDouble (gfPow n)

/-- Product in GF(2^8), over the low bits of b. -/
def gfMulBits (a : Byte) (b : Byte) : Nat → Byte
  | 0 => 0
  | n + 1 => gfDouble (gfMulBits a b n) ^^^ (if b.getLsbD (7 - n) then a else 0)

def gfMul (a b : Byte) : Byte := gfMulBits a b 8

/-- The remainder of (c_0 x^136 + ... + c_132 x^4) mod g(x), most significant first: P_0 to P_3 (R229).
Each symbol is shifted into the register of g(x) = x^4 + 0x0F x^3 + 0x36 x^2 + 0x78 x + 0x40. -/
def rsShift (r : Byte × Byte × Byte × Byte) (c : Byte) : Byte × Byte × Byte × Byte :=
  let f := r.1 ^^^ c
  (r.2.1 ^^^ gfMul f 0x0F#8, r.2.2.1 ^^^ gfMul f 0x36#8, r.2.2.2 ^^^ gfMul f 0x78#8, gfMul f 0x40#8)

/-- The address symbols c_0 to c_4 of a sector address (R229). -/
def addrSyms (a : Nat) : List Byte := beBytes 5 (a % 2 ^ 40)

/-- The data symbols of codeword w: sector bytes 2k + w (R229). -/
def dataSyms (w : Nat) (b : List Byte) : List Byte := (List.range 128).map (fun k => nth 0 b (2 * k + w))

/-- The check symbols of one codeword. -/
def rsCheck (syms : List Byte) : List Byte :=
  let r := syms.foldl rsShift (0, 0, 0, 0)
  [r.1, r.2.1, r.2.2.1, r.2.2.2]

/-- The eight check bytes of a sector written at an address (R229, R230). -/
def sectorCheck (a : Nat) (b : List Byte) : List Byte :=
  rsCheck (addrSyms a ++ dataSyms 0 b) ++ rsCheck (addrSyms a ++ dataSyms 1 b)

/-- Syndrome i of a codeword: Horner over its 137 symbols at alpha^i (R231). -/
def syndrome (syms : List Byte) (i : Nat) : Byte :=
  let x := gfPow i
  syms.foldl (fun acc c => gfMul acc x ^^^ c) 0

def syndromes (syms : List Byte) : List Byte := [syndrome syms 0, syndrome syms 1, syndrome syms 2, syndrome syms 3]

/-- Outcomes of a codeword or an access, coded as the detail words code them (R231, R370). -/
inductive EccOut where
  | clean | corrected | uncorrectable | mismatch
  deriving DecidableEq, Repr

def EccOut.code : EccOut → Nat
  | .clean => 0 | .corrected => 1 | .uncorrectable => 2 | .mismatch => 3

/-- The exponent e with s1 = s0 alpha^e, searched from e = n - 1 down. -/
def gfLogRatio (s : List Byte) : Nat → Option Nat
  | 0 => none
  | n + 1 =>
    let p := gfPow n
    if gfMul (nth 0 s 0) p == nth 0 s 1 && gfMul (nth 0 s 1) p == nth 0 s 2 && gfMul (nth 0 s 2) p == nth 0 s 3 then some n
    else gfLogRatio s n

/-- One codeword's outcome on its own: (outcome, corrected stored position 0-131, error value). -/
def cwDecode (s : List Byte) : EccOut × Nat × Byte :=
  if s == [0, 0, 0, 0] then (.clean, 0, 0)
  else if nth 0 s 0 == 0 then (.uncorrectable, 0, 0)
  else match gfLogRatio s 255 with
    | none => (.uncorrectable, 0, 0)
    | some e =>
      if 136 < e then (.uncorrectable, 0, 0)
      else
        let j := 136 - e
        if j ≤ 4 then (.mismatch, 0, 0) else (.corrected, j - 5, nth 0 s 0)

/-- The result of decoding a sector (R231). -/
structure EccRes where
  out : EccOut
  cw0 : EccOut
  cw1 : EccOut
  pos0 : Nat
  pos1 : Nat
  data : List Byte
  deriving DecidableEq, Repr

/-- A sector's bytes with stored position p of codeword w xored by v (check symbols are positions 128 to 131). -/
def flipData (b : List Byte) (w p : Nat) (v : Byte) : List Byte :=
  if p < 128 then b.set (2 * p + w) (nth 0 b (2 * p + w) ^^^ v) else b

/-- decode of R231: bytes and check bytes read under sector address a. -/
def sectorDecode (a : Nat) (b p : List Byte) : EccRes :=
  let s0 := syndromes (addrSyms a ++ dataSyms 0 b ++ p.take 4)
  let s1 := syndromes (addrSyms a ++ dataSyms 1 b ++ (p.drop 4).take 4)
  if s0 != [0, 0, 0, 0] && s0 == s1 then ⟨.mismatch, .mismatch, .mismatch, 0, 0, b⟩
  else
    let r0 := cwDecode s0
    let r1 := cwDecode s1
    let b0 := if r0.1 == .corrected then flipData b 0 r0.2.1 r0.2.2 else b
    let b1 := if r1.1 == .corrected then flipData b0 1 r1.2.1 r1.2.2 else b0
    let o : EccOut :=
      if r0.1 == .mismatch || r1.1 == .mismatch then .mismatch
      else if r0.1 == .uncorrectable || r1.1 == .uncorrectable then .uncorrectable
      else if r0.1 == .corrected || r1.1 == .corrected then .corrected
      else .clean
    ⟨o, r0.1, r1.1, r0.2.1, r1.2.1, if o == .corrected then b1 else b⟩

/-! ### The SRAM code (R242, R243) -/

def popcount8 (n : Nat) : Nat := (List.range 8).foldl (fun a i => a + (n >>> i) % 2) 0

/-- The data columns: the 56 weight-3 bytes in ascending order, then eight given columns (R242). -/
def sramDataCols : List Nat :=
  (List.range 256).filter (fun n => popcount8 n == 3) ++ [0x1F, 0x2F, 0x37, 0x3B, 0x3D, 0x3E, 0x4F, 0x57]

/-- The index columns: the first weight-2 bytes in ascending order (R242). -/
def sramIdxCols : List Nat :=
  [0x03, 0x05, 0x06, 0x09, 0x0A, 0x0C, 0x11, 0x12, 0x14, 0x18, 0x21, 0x22, 0x24, 0x28, 0x30, 0x41, 0x42, 0x44, 0x48, 0x50, 0x60, 0x81]

/-- The xor of the columns of a value's set bits. -/
def colXor (cols : List Nat) (v : Nat) : Nat :=
  (List.range cols.length).foldl (fun a i => if (v >>> i) % 2 = 1 then a ^^^ nth 0 cols i else a) 0

/-- The check byte of a word at a word index (R242). -/
def sramCheck (word idx : Nat) : Nat := colXor sramDataCols word ^^^ colXor sramIdxCols idx

/-- The position of a value in a list of columns. -/
def colFind (v : Nat) : List Nat → Nat → Option Nat
  | [], _ => none
  | c :: r, i => if c = v then some i else colFind v r (i + 1)

/-- A read of a word with its stored check byte under an index (R243): outcome and the word delivered. -/
def sramRead (word chk idx : Nat) : EccOut × Nat :=
  let syn := chk ^^^ sramCheck word idx
  if syn = 0 then (.clean, word)
  else match colFind syn sramDataCols 0 with
    | some i => (.corrected, word ^^^ (1 <<< i))
    | none => if popcount8 syn = 1 then (.corrected, word) else (.uncorrectable, word)

end Sys2Proof
end

