-- ==== Sys2Proof/Config.lean ====
section
/-!
DEFINITION. What the manual leaves to each device and the free values: constants without a body, so that no proof can
see a value of theirs. A claim about the model holds whatever they are.
-/

namespace Sys2Proof.Config

open Sys2Proof

/-- Whether a result that rounds up to the smallest normal number counts as tiny (the manual does not say when tininess is judged, R134). [DESIGN CHOICE: log 13] -/
opaque tinyEdge : Bool

/-- DEV_ID.VENDOR as fused (R473). [DESIGN CHOICE: log 7] -/
opaque vendor : BitVec 16

/-- DEV_ID.STEPPING as fused (R473). -/
opaque stepping : BitVec 8

/-- DEV_SERIAL as fused (R473). -/
opaque serial : W64

/-- A free number of clock cycles, for the counters that count cycles (R91, R94, R170): the n-th draw. [DESIGN CHOICE: log 25; DESIGN CHOICE: log 74] -/
opaque cycles : Nat → Nat

/-- The payload of the NULL flits of EXCHANGE, of the device address, link number and ENC_REQ that they carry (R280 gives no layout). -/
opaque exchangePayload : Nat → Nat → Bool → BitVec 1952

/-- The payload of a TIME flit of kind 0 sync, 1 delay request, 2 delay reply, with its departure stamp and, in a reply, t2; and the
fields of one that arrives (R254 and R273 give no layout). -/
opaque timeMsg : Nat → Nat → Nat → BitVec 1952
opaque timeKind : BitVec 1952 → Nat
opaque timeStamp : BitVec 1952 → Nat
opaque timeT2 : BitVec 1952 → Nat

/-- A free 64-bit value: the n-th draw. [DESIGN CHOICE: log 28] -/
opaque word : Nat → W64

/-- Whether a Bench program sees a parameter block that was written after the step course (R217): at the n-th draw. -/
opaque seen : Nat → Bool

/-- The 64-byte entry that stands for a saved DMA transfer in a save area, whose coding the manual does not give (R166): the n-th draw; and,
for an entry that this device did not write, the fields that it stands for. [DESIGN CHOICE: log 42] -/
opaque dmaEntry : Nat → Line
opaque dmaField : Line → Nat → Line

/-- A free byte: the n-th draw. -/
opaque byte : Nat → Byte

/-- What the OTP fuses hold at reset: the four firmware-key hashes with their revoke bits (R429), the minimum security version, and the
count of debug unlocks (R437). -/
opaque otpKeyHash : Nat → List Byte
opaque otpRevoked : Nat → Bool
opaque otpSvn : Nat
opaque otpUnlocks : Nat

/-- What module flash holds at reset (the table "Module flash" before R429): the key record, the image (header and body), and the
calibration set; the health records A and B as sequence number and pairs of array and column mask, where valid (R438). -/
opaque flashKey : List Byte
opaque flashImage : List Byte
opaque flashCal : List Byte
opaque flashHealth : Nat → Option (Nat × List (Nat × Nat))

/-- The certificate chain in flash at reset: its certificates and what the device certificate carries (R434). -/
opaque flashChain : Chain

/-- The nonce that the RTU gives out for a debug unlock token (R437): the n-th draw. -/
opaque debugNonce : Nat → BitVec 256

/-- The provisional ID of the I3C target, from the serial number (R441; the manual does not give how). [DESIGN CHOICE: log 201] -/
opaque provisionalId : W64 → BitVec 48

/-- The packet type of link authentication, the random values of a side's first message (nonce and FFDHE3072 public value) and its signature:
the n-th draw (R303 lists no type for VC 3; R436). [DESIGN CHOICE: log 194] -/
opaque authType : Nat
opaque authNonce : Nat → BitVec 256
opaque authPublic : Nat → BitVec 3072
opaque authSign : Nat → List Byte → BitVec 3072

/-- The optical power that is measured on a laser-input fibre (R268, R442): the n-th draw, by receptacle position (R477). -/
opaque lightPower : Nat → Nat → Int

/-- The modulus and exponent that a key record holds (its layout is not given). -/
opaque keyModulus : List Byte → Nat
opaque keyExponent : List Byte → Nat

/-- Length, flags and digest in the 64-byte header of a calibration set, behind its `MAGIC` (R439 gives their order, not their places). -/
opaque calLength : List Byte → Nat
opaque calFlags : List Byte → Nat
opaque calDigest : List Byte → List Byte

/-- What a calibration set gives (R439; its layout is not given): `ASYM` of a link in ticks, the offset of a sensor in quarter degrees, the
V/F margin of a core at an operating point in mV. -/
opaque calAsym : List Byte → Nat → BitVec 16
opaque calOffset : List Byte → Nat → Int
opaque calMargin : List Byte → Nat → Nat → Nat

/-- The set that CAL_RUN measures: the n-th draw. -/
opaque calMeasured : Nat → List Byte

/-- The RTU's and EDF's answers over SPDM, PLDM and MCTP control, whose encodings published standards give: the n-th draw, the
request, the identity's state with the measurement blocks and the certificate chain, and the sensors' readings. -/
opaque reply : Nat → List Byte → List Byte → List (Option Int) → List Byte

/-- RTU ROM version and OTP configuration, behind measurement 1 (R435). -/
opaque rtuRom : List Byte

/-- The standard Bench program image of a slot in an image body (the place of the images in the body and their instructions are not given,
R203, R429). [DESIGN CHOICE: log 60] -/
opaque stdProgram : List Byte → Nat → List Byte

/-- No_Soft_Reset of a function (R410 names the bit, not its value). [DESIGN CHOICE: log 121] -/
opaque noSoftReset : Nat → Bool

/-- The numbers of the input (0) and the core rail (1) among the power and thermal source units (R369 names no numbers). [DESIGN CHOICE: log 151] -/
opaque railNo : Nat → BitVec 12

/-- Whether the arrays of a core merged in at least half the ARITH cycles of the course before (R384): the n-th draw. -/
opaque duty : Nat → Bool

end Sys2Proof.Config
end

