-- ==== Sys2Proof/Machine/StBench.lean ====
section
/-!
DEFINITION. The state of the Bench side (R195, R198, R202, R207, R184, R222): engines, folds, and snapshots.
-/

namespace Sys2Proof.Machine

open Sys2Proof

/-- States of BNC_ENG_STATE.STATE (R227). -/
inductive EngSt where
  | idle
  | runFg
  | runBg
  | halted
  | frozen
  deriving DecidableEq, Repr

def EngSt.code : EngSt → Nat
  | .idle => 0
  | .runFg => 1
  | .runBg => 2
  | .halted => 3
  | .frozen => 4

/-- A reduced update piece on its way to its owner (R184, R312): descriptor of R180 with its row block, values, side slots. -/
structure Piece where
  desc : BitVec 128
  vals : List (BitVec 40)
  side : List Nat := []
  own : Option Nat := none
  gid : Nat := 0
  seq : Nat := 0
  hash : Nat := 0
  deriving DecidableEq, Repr

/-- A launch (R198): the owner it carries (R337), the address of its block (0 for one the device makes itself), its 512 bytes and its launcher
(R208); `fold` is the piece of a launch that folds (R184, R202); `edf` says that
EDF entered it (R422); `line` is the slice-table entry of a started launch as its start read it: address and bytes (R328).
`snap` is the snapshot slot of a launch of slots 9 and 10 and the scale
domain of a launch of slot 1, and `conv` the number of the collective engine's piece that a chain
add serves, and for slot 9 the group scope whose scale entries it copies (0: everything that waits for no amax reduction, R224). [DEDUCED: log 161] -/
structure Launch where
  own : Option Nat := none
  addr : Nat := 0
  blk : BitVec 4096 := 0
  snap : Nat := 0
  conv : Nat := 0
  src : Nat := 0x9000
  fold : Option Piece := none
  edf : Bool := false
  line : Option (Nat × List Byte) := none
  deriving DecidableEq, Repr

/-- A running loop (R205): the body's first instruction, one past its last, and the runs still to make. -/
structure BLoop where
  first : Nat
  last : Nat
  left : Nat
  deriving DecidableEq, Repr

/-- One Bench engine (R195): queues of launches (foreground and background, and the launches that wait to enter them),
the running or kept launch, registers, the digest accumulator, stream positions and the result record. `drop` lists owners
whose launches it drops (R207, R373). [DESIGN CHOICE: log 4] -/
structure Engine where
  st : EngSt := .idle
  cur : Option Launch := none
  fg : List Launch := []
  bg : List Launch := []
  fgw : List Launch := []
  bgw : List Launch := []
  pc : Nat := 0
  q : SMap (BitVec 2048) := []
  k : SMap W64 := []
  dig : W64 := 0
  pos : SMap Nat := []
  loops : List BLoop := []
  res : BitVec 512 := 0
  drop : List Nat := []
  cntBusy : Nat := 0
  cntLines : Nat := 0
  ok : Bool := true
  deriving DecidableEq, Repr

/-- The fold of one piece position (R184), and its noise sums (R220). -/
structure Fold where
  slice : Nat
  rb : Nat
  col0 : Nat
  cols : Nat := 32
  next : Nat := 0
  l : W32 := 0
  q : W32 := 0
  deriving DecidableEq, Repr

/-- What a step has done for a slice: folds complete, optimizer ended, digest terms added (R221); the version stamp of its working copy
(R215); its parameter block as the step course found it (R217); and whether the step course found it frozen (R177). -/
structure SliceSt where
  folded : Bool := false
  fanned : Bool := false
  opted : Bool := false
  digested : Bool := false
  cast : Bool := false
  stampStep : W64 := 0
  stampDig : W32 := 0
  par : Option Line := none
  frozen : Option Bool := none
  deriving DecidableEq, Repr

/-- What a reduced piece adds to the noise sums of its position (R220). -/
structure NoiseIn where
  slice : Nat
  rb : Nat
  col0 : Nat
  mb : Nat
  l : W32
  q : W32
  deriving DecidableEq, Repr

/-- A snapshot being written (R224): its slot, owner, step, gauge word, seed and deadline course, the copies still to
make (engine, and the group scope as in `Launch.conv`), the scopes whose entries waited at its course, the sum of
the image digest's terms so far, the scale entries it holds, the shard digest once it is ready, and for a remote slot the partner, whether
the header has been sent, and whether the partner has acknowledged it (R321). -/
structure Snap where
  slot : Nat
  own : Option Nat
  step : W64
  gauge : W64 := 0
  seed : W64 := 0
  deadline : Nat := 0
  parts : List (Nat × Nat) := []
  late : List Nat := []
  sum : W64 := 0
  entries : List Nat := []
  shard : Option W64 := none
  partner : Option Nat := none
  sent : Bool := false
  acked : Bool := false
  deriving DecidableEq, Repr

/-- The Bench side: engines by number, folds, slices by ID, the accumulated digest terms, noise contributions not yet added, the
scale entries converted by 2 × index + parity of the step, the snapshot being written, BNC_SNAP_STATUS, and the slot written last. -/
structure BenchSt where
  eng : SMap Engine := []
  folds : List Fold := []
  slices : SMap SliceSt := []
  digSum : W64 := 0
  noise : List NoiseIn := []
  ran : List Nat := []
  snap : Option Snap := none
  snapFailed : Bool := false
  lastValid : Bool := false
  lastSlot : Nat := 0
  snapUsed : Option Nat := none
  deriving DecidableEq, Repr

end Sys2Proof.Machine
end

