-- ==== Sys2Proof/Machine/StNet.lean ====
section
/-!
DEFINITION. The state of the optical links (R266 to R293): plain data.
-/

namespace Sys2Proof.Machine

open Sys2Proof

/-- A packet (R277): its virtual channel, its 24-byte transport header, its payload, and the end-to-end CRC it carries. -/
structure Pkt where
  vc : Nat
  hdr : BitVec 192
  body : List Byte
  crc : W32
  deriving DecidableEq, Repr

/-- A packet at this device on its way out: injected here or in transit, the link it came on, and the flits of that link's input buffer
that it holds (R274). -/
structure Hop where
  pkt : Pkt
  local_ : Bool := false
  from_ : Option Nat := none
  flits : Nat := 0
  deriving DecidableEq, Repr

/-- A packet in a link's queue of one VC: the packet, and once its `SOP` flit is sent the 244-byte pieces still to send. -/
structure TxPkt where
  hop : Hop
  rest : Option (List (List Byte)) := none
  deriving DecidableEq, Repr

/-- A flit in the retry buffer (R271): its SEQ, VC, SOP and EOP, payload, the job tag and header of its packet, and how often in a row it was
resent. -/
structure RFlit where
  seq : Nat
  vc : Nat
  sop : Bool
  eop : Bool
  pay : List Byte
  tag : Nat
  hdr : BitVec 192 := 0
  tries : Nat := 0
  deriving DecidableEq, Repr

/-- A link's sender (R271 to R276): next SEQ, retry buffer oldest first, the position in it of the next flit to resend, credits by VC and
the last credit byte seen, the cumulative credits last sent back, queues by VC, TIME messages waiting (kind 0 sync, 1 delay request, 2 delay reply with its t2), the rotation of R275 (flits left of
VC 0, 1 and 3), a NAK to send, and by VC the course since which data waits without credit, with whether that has been reported (R276). [DESIGN CHOICE: log 5] -/
structure LinkTx where
  seq : Nat := 0
  buf : List RFlit := []
  resend : Option Nat := none
  cred : List Nat := [768, 256, 32, 32]
  last : List Nat := [0, 0, 32, 32]
  told : List Nat := [768, 256, 32, 32]
  q : SMap (List TxPkt) := []
  time : List (Nat × Nat) := []
  rot : List Nat := [8, 4, 1]
  nak : Bool := false
  stall : SMap (Nat × Bool) := []
  deriving DecidableEq, Repr

/-- A link's receiver: next SEQ expected, whether the present gap has been NAKed, cumulative credits returned by VC, and by VC the payloads of
the flits of the packet in part, with the count and the key under which it is sealed, taken at its SOP (R289). -/
structure LinkRx where
  exp : Nat := 0
  gap : Bool := false
  ret : List Nat := [768, 256, 32, 32]
  part : SMap (List (List Byte)) := []
  opens : SMap (Nat × BitVec 256) := []
  deriving DecidableEq, Repr

/-- The keys of an encrypted link (R289): salt, keys by index and counts by index for each direction, the index that the sender uses and
the one last received, and which of the receiver's keys it still holds. -/
structure LinkKeys where
  salt : W32 := 0
  tx : List (BitVec 256) := [0, 0]
  rx : List (BitVec 256) := [0, 0]
  txN : List Nat := [0, 0]
  rxN : List Nat := [0, 0]
  cur : Nat := 0
  rxCur : Nat := 0
  rxHeld : List Bool := [true, true]
  deriving DecidableEq, Repr

/-- A link (R280, R293): state code, encryption, partner, failed bring-up steps, retrains with no flit accepted between them, whether it
retrains out of AUTHENTICATING, this side's first message of the key agreement under way and the partner's (R436), sender, receiver, keys,
counters, and the flits it has sent. -/
structure Link where
  st : Nat := 0
  enc : Bool := false
  peerLink : Nat := 0
  peerAddr : Nat := 0
  fails : Nat := 0
  retrains : Nat := 0
  authing : Bool := false
  hello : List Byte := []
  peerHello : List Byte := []
  tx : LinkTx := {}
  rx : LinkRx := {}
  keys : LinkKeys := {}
  retry : Nat := 0
  fecCorr : Nat := 0
  fecUnc : Nat := 0
  outs : List (List Byte) := []
  deriving DecidableEq, Repr

/-- The links by number, light and engine of the groups, packets at this device that wait to be forwarded or delivered, packets delivered
to their unit, and the course until which each Pattern was last active (R288). -/
structure NetSt where
  links : SMap Link := []
  light : SMap Nat := []
  engine : SMap Nat := []
  hop : List Hop := []
  inbox : List Pkt := []
  patLast : SMap Nat := []
  deriving DecidableEq, Repr

end Sys2Proof.Machine
end

