-- ==== Sys2Proof/Machine/StCol.lean ====
section
/-!
DEFINITION. The state of the collective engine (R294 to R324): plain data.
-/

namespace Sys2Proof.Machine

open Sys2Proof

/-- A loaded group (R295, R296): its entry and lists, its hash, the release mark, the sequence counters of the local positions by
65,536 × rank + position, the backup words by rank (R315), and the highest sequence whose DEADLINE has fired (R305). -/
structure Group where
  e : Line := 0
  members : List Nat := []
  pcount : List Nat := []
  fanout : List Nat := []
  ghash : W64 := 0
  mark : Option Nat := none
  seqs : SMap Nat := []
  backups : SMap Nat := []
  late : Option Nat := none
  deriving DecidableEq, Repr

/-- Conversation states (R304). -/
inductive CvSt where
  | gated
  | opened
  | moving
  | done
  deriving DecidableEq, Repr

/-- One stream between a conversation and a partner: chunks granted to us and packets sent; packets taken in and chunks we granted; of
those taken in, how many lie before the first that is missing, and the numbers of those behind it (R287); the stamp that came with them
(R317), and whether the next grant is the first one after a resumption (R348). -/
structure Stream where
  granted : Nat := 0
  sent : Nat := 0
  got : Nat := 0
  gave : Nat := 0
  front : Nat := 0
  gaps : List Nat := []
  stampStep : W64 := 0
  stampDig : W32 := 0
  resumed : Bool := false
  deriving DecidableEq, Repr

/-- A conversation at one local position (R297 to R304): its group, sequence, operation, rank and position; the issuing endpoint, and
whether it is a backup's; hash and epoch; its semaphore; state; its request block, or the descriptor and array number of a drained
contribution with its values; the streams by 4 × rank + kind; the running, segment and result values by packet, with side records; the
values made and not yet handed on; a barrier's arrivals and release; chunks signalled (R316); the step at its issue. `data` is an
engine-made contribution, `kind` 0 a request, 1 a drained piece, 2 an amax reduction (of the scale domain in `desc`), 3 a digest gather;
`accepted` says that a terminal that is no member has taken the reduced piece (R312). -/
structure Conv where
  id : Nat
  kind : Nat := 0
  own : Option Nat
  gid : Nat
  seq : Nat
  op : Nat
  rank : Nat
  pos : Nat := 0
  ep : Nat
  backup : Bool := false
  hash : Nat
  epoch : Nat
  sem : Option Nat := none
  recv : Bool := false
  st : CvSt := .opened
  blk : Line := 0
  desc : BitVec 128 := 0
  array : Nat := 0
  staged : Bool := false
  vals : List (BitVec 40) := []
  data : List Byte := []
  streams : SMap Stream := []
  runs : SMap (List (BitVec 40)) := []
  segs : SMap (List (BitVec 40)) := []
  side : Option (List Nat) := none
  segSide : Option (List Nat) := none
  own_ : Option (List (BitVec 40)) := none
  asked : Bool := false
  made : SMap (List (BitVec 40)) := []
  outSide : List Nat := []
  next : Nat := 0
  res : SMap (List (BitVec 40)) := []
  got : SMap (List Byte) := []
  arrived : List Nat := []
  released : Bool := false
  signalled : Nat := 0
  step : W64 := 0
  accepted : Bool := false
  deriving DecidableEq, Repr

/-- A first arrival kept for the compare window (R315): where it went, its type and header, the course it came in, and its data. -/
structure Arrival where
  conv : Nat
  gid : Nat
  seq : Nat
  key : List Nat
  course : Nat
  hash : Nat
  data : List Byte
  src : Nat
  deriving DecidableEq, Repr

/-- A drained tile on its way to the collective engine (R182, R310): core, array, and its number q among the selected arrays. -/
structure Tile where
  core : Nat
  array : Nat
  q : Nat
  own : Option Nat
  chain : Bool
  arg : BitVec 128
  width : Nat
  vals : List AF40
  deriving DecidableEq, Repr

/-- A request that a core handed to the collective engine (R149): kind 0 SEND, 1 RECV, 2 CHAIN; 3 one that EDF submits as endpoint 0xFE. -/
structure CReq where
  core : Nat
  kind : Nat
  sem : Nat
  line : Line
  deriving DecidableEq, Repr

/-- A reduced piece whose side record and values come in two packets (R312). -/
structure TermIn where
  gid : Nat
  seq : Nat
  side : List Nat
  deriving DecidableEq, Repr

/-- A fan-out under way to a slice of this device (R313): its group and sequence, and the offsets that have arrived. -/
structure FanIn where
  slice : Nat
  gid : Nat
  seq : Nat
  offs : List Nat
  deriving DecidableEq, Repr

/-- A conversation that the engine itself begins once fewer than 16,384 are open (R306): an amax reduction of a scale domain, or the gather
of a shard digest; `step` is the step of the one, the digest of the other. -/
structure EngReq where
  amax : Bool
  own : Option Nat
  scope : Nat
  step : W64
  deriving DecidableEq, Repr

/-- A snapshot image that arrives from a partner (R321): its device, the spans that have been written, and where the complete header lies, once it
has come. -/
structure SnapIn where
  src : Nat
  spans : List (Nat × Nat) := []
  hdr : Option Nat := none
  deriving DecidableEq, Repr

/-- The collective engine: groups, conversations, abandoned conversations (group, sequence), first arrivals, packets that came before
their conversation or that a fence holds (R327), reduced pieces that have reached their owner and those that it has left with their sender until
it has room (R312; without their values), staging slots in use by core, whether some conversation waits for memory (R234, R402, R415), fan-outs
under way, the completions of the present course (group, sequence, course; R260), what waits for room among the open conversations
(R306), COL_STATUS.SUBMIT_DONE and the duplicate counters. -/
structure ColSt where
  groups : SMap Group := []
  convs : List Conv := []
  gone : List (Nat × Nat) := []
  seen : List Arrival := []
  early : List Pkt := []
  held : List Pkt := []
  pieces : List Piece := []
  asks : List Piece := []
  stuck : Bool := false
  terms : List TermIn := []
  staged : SMap Nat := []
  fans : List FanIn := []
  fin : List (Nat × Nat × Nat) := []
  wait : List EngReq := []
  back : List Conv := []
  nextId : Nat := 1
  submitDone : Nat := 0
  dup : Nat := 0
  dupLate : Nat := 0
  snapIn : List SnapIn := []
  deriving DecidableEq, Repr

end Sys2Proof.Machine
end

