-- ==== Sys2Proof/Machine/StCore.lean ====
section
/-!
DEFINITION. The state of one compute core (R95, R70, R107, R83, R142 to R170): plain data.
-/

namespace Sys2Proof.Machine

open Sys2Proof

/-- One slot of a bundle: slot number k (0 M, 1 V, 2 X, 3 S), opcode [63:57] and operand bits [56:0] (R97, R99). -/
structure SlotI where
  k : Nat
  op : Nat
  w : BitVec 57
  deriving DecidableEq, Repr

/-- Run states of CORE_STATUS.STATE (R170). -/
inductive RunSt where
  | idle
  | running
  | waiting
  | halted
  | quiescing
  | saved
  | restoring
  deriving DecidableEq, Repr

/-- The code of a run state in CORE_STATUS (R170). -/
def RunSt.code : RunSt → Nat
  | .idle => 0
  | .running => 1
  | .waiting => 2
  | .halted => 3
  | .quiescing => 4
  | .saved => 5
  | .restoring => 6

/-- Skein states (R71). A RESUMING slot knows whether it becomes SEALED or OPEN. -/
inductive SkSt where
  | free
  | opened
  | sealed
  | draining
  | parking
  | resuming (toSealed : Bool)
  deriving DecidableEq, Repr

/-- The CORE_SKEIN code of a skein state (R71). -/
def SkSt.code : SkSt → Nat
  | .free => 0
  | .opened => 1
  | .sealed => 2
  | .draining => 3
  | .parking => 4
  | .resuming _ => 5

/-- A slot in a transient state makes an instruction that names it wait (R71). -/
def SkSt.transient : SkSt → Bool
  | .draining => true
  | .parking => true
  | .resuming _ => true
  | _ => false

/-- A skein slot (R70): granule partials and running totals by output 32 i + j (an entry not listed is +0),
the count of K blocks in the granule, total-valid, the scale sum and the total of K blocks merged. `parked`, `trace` and `reads` serve
Swatch (R62, R382): whether the skein was ever parked, the operand blocks merged since CASTON, and the scratchpad lines they came from with the
time of the load that first read each. -/
structure Skein where
  st : SkSt := .free
  part : List AF40 := []
  total : List AF40 := []
  cnt : Nat := 0
  valid : Bool := false
  scale : Int := 0
  blocks : Nat := 0
  parked : Bool := false
  fmtW : Nat := 0
  fmtA : Nat := 0
  trace : List (List Block × List Block) := []
  reads : SMap Nat := []
  deriving DecidableEq, Repr

/-- A weight or feeder half with its tag (R107): for each K block, the block of every column or row; and for Swatch, the scratchpad lines
that each K block was read from, the time of the load, and whether they are known (a half that came back from a save area has none). -/
structure Half where
  fmt : Nat := 0
  t : Int := 0
  tid : Nat := 0
  blocks : List (List Block) := []
  src : List (List Nat) := []
  time : Nat := 0
  known : Bool := true
  deriving DecidableEq, Repr

/-- A drain carry of one array (R83, R488): the stream, the column count and, for an ES destination, per row the AF40
values of the columns that wait for the rest of their block. -/
structure Carry where
  stream : Nat := 0
  cols : Nat := 0
  vals : List (List AF40) := []
  deriving DecidableEq, Repr

/-- A W-queue entry (R158). -/
structure WEntry where
  addr : W64
  arg : W64
  tag : Nat
  deriving DecidableEq, Repr

/-- A queued DMA or DMAT transfer (R144, R147) with its captured operands. `pos` is its progress: the destination blocks, or elements of a
format that is not ES, that it has written (R165); `live` is the T that a conversion in warm-up found over the whole instance (R42); `done`
says its writes are made and it waits to complete. -/
structure Xfer where
  kind : Nat
  transpose : Bool
  ts : Line
  td : Line
  so : W64
  dst : W64
  sn : W64
  sem : Nat
  pos : Nat := 0
  live : Option Int := none
  done : Bool := false
  deriving DecidableEq, Repr

/-- One DMA queue of a core (R144), oldest transfer first, and whether it is frozen (R373). -/
structure DmaQ where
  xs : List Xfer := []
  frozen : Bool := false
  deriving DecidableEq, Repr

/-- The register part of a core's state (R95); a register not listed holds zero (R96). -/
structure CoreRegs where
  s : SMap W64 := []
  v : SMap (BitVec 2048) := []
  p : SMap W64 := []
  vs : FlagSet := {}
  t : SMap Line := []
  g : SMap Line := []
  sem : SMap Nat := []
  deriving DecidableEq, Repr

/-- The matrix part of a core's state (R70, R83, R94, R107): slots by 4a + s, feeder halves by 2a + h. `dcbs` holds the control block of each
pending cast-off by its slot (R166). -/
structure CoreMat where
  sk : SMap Skein := []
  wh : SMap Half := []
  fh : SMap Half := []
  carry : SMap Carry := []
  pend : List Nat := []
  dcbs : SMap Line := []
  cntMma : Nat := 0
  cntZskip : Nat := 0
  cntDrain : Nat := 0
  cntBank : Nat := 0
  deriving DecidableEq, Repr

/-- The sequencer (R97 to R103, R150 to R170). `openB` holds the slots of a bundle still being given, `q` the bundles that
wait, oldest first, and `main` the main program's waiting bundle while a fragment runs. `stalled` says that the oldest bundle has waited,
`unmet` that it has waited for its own `WAIT` or `WAITC`, and `held` is the run state that a quiescing core left. [DESIGN CHOICE: log 36] -/
structure CoreSeq where
  run : RunSt := .idle
  frozen : Bool := false
  ending : Bool := false
  baddr : Addr := 0
  raddr : Addr := 0
  infrag : Bool := false
  wmode : Bool := false
  wq : List WEntry := []
  openB : List SlotI := []
  q : List (List SlotI) := []
  main : Option (List SlotI) := none
  stalled : Bool := false
  unmet : Bool := false
  held : RunSt := .idle
  cntFill : Nat := 0
  cntStall : Nat := 0
  cntLatec : Nat := 0
  done : Bool := false
  deriving DecidableEq, Repr

/-- One compute core. `reqs` holds the collective requests outstanding (R149); `tag` is the resident working-set tag (R356). -/
structure Core where
  r : CoreRegs := {}
  m : CoreMat := {}
  seq : CoreSeq := {}
  dma : SMap DmaQ := []
  reqs : List Nat := []
  tag : W64 := 0
  deriving DecidableEq, Repr

end Sys2Proof.Machine
end

