-- ==== Sys2Proof/Machine/StCrs.lean ====
section
/-!
DEFINITION. The state of the course-time unit (R250 to R265, R489): plain data.
-/

namespace Sys2Proof.Machine

open Sys2Proof

/-- An armed entry (R257): its 32 bytes, the course of its next firing, its place in the order of pushes, and for a HANDOVER
the captured descriptor and images (R342). -/
structure Arm where
  e : BitVec 256
  course : Nat
  seq : Nat
  desc : Line := 0
  imgs : List Line := []
  deriving DecidableEq, Repr

/-- A step's ledger record as it grows (R261 to R263): owner, step number, courses, flags, phase marks, shard digest, L, Q, N, b and s of R220
where they are reported, Swatch and cycle counts (those at the step's start with 0), event counts, job and gauge word, and the tensor
entries by scale-table index. `ready` says that its last amax-history program has ended, `members` is N of R335 where the groups of the step
course allow noise statistics. -/
structure StepRec where
  own : Nat
  step : W64
  start : Nat
  stop : Nat := 0
  flags : Nat := 0
  marks : SMap Nat := []
  shard : W64 := 0
  noise : Option (List Nat) := none
  swatch0 : List Nat := [0, 0, 0]
  swatch : List Nat := [0, 0, 0]
  fill0 : Nat := 0
  stall0 : Nat := 0
  fill : Nat := 0
  stall : Nat := 0
  evInfo : Nat := 0
  evCorr : Nat := 0
  job : W64 := 0
  gauge : W64 := 0
  entries : SMap Line := []
  ready : Bool := false
  members : Option Nat := none
  deriving DecidableEq, Repr

/-- Delay and offset of a link, in ticks (R254), and t1 of a delay request under way. -/
structure CrsLink where
  delay : Int := 0
  offset : Int := 0
  t1 : Option Int := none
  deriving DecidableEq, Repr

/-- The course-time unit: CRS_CTRL.STATE code, tick, the arm words written, arms, the state of synchronisation (a sync has come, syncs
in a row within TOL, an excursion under way, the ticks still to steer, the course of the last sync and of the entry into HOLDOVER), links, the
open step records by owner, the closed records that wait, the ledger's head, the elapsed course, the highest step recorded by owner (R395), the
owners whose record was lost and not yet reported (R264), the steps that each owner's job has begun (R262), and the events of class 1 and 4 raised
in the course that `evAt` names, by owner and class (R263). -/
structure CrsSt where
  st : Nat := 0
  tick : Nat := 0
  w0 : W64 := 0
  w1 : W64 := 0
  w2 : W64 := 0
  arms : List Arm := []
  armSeq : Nat := 0
  synced : Bool := false
  good : Nat := 0
  beyond : Bool := false
  steer : Int := 0
  lastSync : Nat := 0
  heldAt : Nat := 0
  links : SMap CrsLink := []
  steps : SMap StepRec := []
  closed : List StepRec := []
  head : Nat := 0
  elapsed : Nat := 0
  written : SMap Nat := []
  lost : List Nat := []
  begun : SMap (List Nat) := []
  evs : List (Option Nat × Nat) := []
  evAt : Nat := 0
  deriving DecidableEq, Repr

end Sys2Proof.Machine
end

