-- ==== Sys2Proof/Machine/StCtl.lean ====
section
/-!
DEFINITION. The state of the control complex, the RTU, module flash, clocks and power (R418 to R465): plain data.
-/

namespace Sys2Proof.Machine

open Sys2Proof

/-- A service request that waits (R423): whether it came over MCTP, its block's address (PF) or bytes (MCTP). -/
structure Svc where
  mctp : Bool
  addr : Nat := 0
  blk : BitVec 512 := 0
  deriving DecidableEq, Repr

/-- The running image (R57, R429): bytes 0 to 63 of its header. -/
structure RunImg where
  head : List Byte := []
  edfVer : W64 := 0
  ucodeVer : W64 := 0
  deriving DecidableEq, Repr

/-- The control complex and the RTU: CTLX_BOOT and RTU_STATUS fields; the OTP's minimum security version and count of unlocks; the running
image; module flash: key record, image (none while it is being written or invalid), calibration set, whether it is still the factory's, and
the set whose `ASYM` values stand in it (R440), whether CAL_RUN made it, health records A and B; the calibration set applied; the image being written and whether a
PLDM update is under way; the FW_UPDATE request that it serves; waiting service requests; the I3C address; SPDM sessions; the 16 KiB certificate-chain region of
flash and what its certificates carry, and the SHA-256 of the root certificate in RTU ROM (R434); the nonce for the next debug unlock token and the scope of the one that was accepted (R437); the pending bit of each interrupt source (R422). [DESIGN CHOICE: log 214] -/
structure CtlSt where
  boot : Nat := 0
  harts : Nat := 0
  hrecLost : Bool := false
  calValid : Bool := false
  calFactory : Bool := false
  updPending : Bool := false
  svn : Nat := 0
  svnMin : Nat := 0
  idUsable : Bool := false
  debugOpen : Bool := false
  imgOk : Bool := false
  recovery : Bool := false
  otpSvn : Nat := Config.otpSvn
  unlocks : Nat := Config.otpUnlocks
  run : RunImg := {}
  flashKey : List Byte := Config.flashKey
  flashImg : Option (List Byte) := some Config.flashImage
  flashCal : List Byte := Config.flashCal
  flashAsym : List Byte := Config.flashCal
  calWritten : Bool := false
  flashHr : List (Option (Nat × List (Nat × Nat))) := [Config.flashHealth 0, Config.flashHealth 1]
  cal : Option (List Byte) := none
  calAsym : List Byte := []
  writing : Option (List Byte) := none
  pldm : Bool := false
  fwReq : Option Svc := none
  calMade : Bool := false
  svc : List Svc := []
  i3c : Option Nat := none
  sessions : Nat := 0
  certs : List Byte := Config.flashChain.root ++ Config.flashChain.line ++ Config.flashChain.device
  chain : Chain := { Config.flashChain with serial := Config.serial }
  rtuRoot : List Byte := sha256 Config.flashChain.root
  debugNonce : BitVec 256 := 0
  debugScope : W64 := 0
  pend : BitVec 9 := 0
  deriving DecidableEq, Repr

/-- A request for the slew budget (R457): the power-manager course it came in, and the core that wakes or gates (none: the faster step). -/
structure SlewReq where
  at_ : Nat
  core : Option Nat
  wake : Bool := true
  deriving DecidableEq, Repr

/-- Clocks: PLL state, loss, internal oscillator, per domain (0 ARITH, 1 CTL, 2 NOC, 3 BENCH, 4 SLOW) whether it is on the PLL, its divider
(0 the reference) and the divider it ramps to (0 none). Power: whether the manager runs and how many courses it has; the point and the
target of a faster step, asked for and admitted; last change and quiet count; core-rail setpoint in mV; input power by course, newest
first; the measures of the last course; sensors in quarter degrees; flags; throttled Bench tiles, the coolant
excursion, the trip; counters; cores not gated; requests that wait for the budget; courses in a
row with the input or the rail out of range; whether the power stages hold the module in reset, for how many courses the input has then stood at
or above 40.0 V (R480), and whether a reset waits for the input (R482). -/
structure PowSt where
  pll : Nat := 0
  loss : Nat := 0
  intOsc : Bool := false
  src : List Bool := [false, false, false, false, false]
  div : List Nat := [0, 0, 0, 0, 0]
  goal : List Nat := [0, 0, 0, 0, 0]
  run : Bool := false
  n : Nat := 0
  point : Nat := 0
  faster : Option Nat := none
  admitted : Bool := false
  lastChange : Nat := 0
  quiet : Nat := 0
  rail : Nat := 0
  hist : List Nat := []
  inW : Nat := 0
  inMv : Nat := 0
  railA : Nat := 0
  railMv : Nat := 0
  sens : SMap Int := []
  floor : Bool := false
  hot : Bool := false
  thermal : Bool := false
  limited : Bool := false
  benchHot : List Nat := []
  coolHot : Bool := false
  tripped : Bool := false
  overs : Nat := 0
  defers : Nat := 0
  awake : List Nat := []
  reqs : List SlewReq := []
  badIn : Nat := 0
  badRail : Nat := 0
  shut : Bool := false
  okIn : Nat := 0
  rst : Bool := false
  deriving DecidableEq, Repr

end Sys2Proof.Machine
end

