-- ==== Sys2Proof/Machine/StHost.lean ====
section
/-!
DEFINITION. The state of the host port and the CXL ports (R399 to R417): plain data.
-/

namespace Sys2Proof.Machine

open Sys2Proof

/-- One PCIe function (R399, R403, R406, R408, R410): MSI-X Enable, the unmasked vectors, the PBA in the order in which its bits were
set, the address and data dwords of the MSI-X table by dword number, ATS and PASID Enable, D3hot, and log2 of BAR2's size in GiB where it was resized. -/
structure HFn where
  msixEn : Bool := false
  unmasked : List Nat := []
  pba : List Nat := []
  tbl : SMap Nat := []
  ats : Bool := false
  pasid : Bool := false
  d3hot : Bool := false
  bar2 : Option Nat := none
  deriving DecidableEq, Repr

/-- A host access through BAR2 that waits while a unit of the function's owner is cleared (R405): its function, offset, length, and the data
of a write. -/
structure BarOp where
  f : Nat
  off : Nat
  n : Nat
  wr : Option (List Byte)
  deriving DecidableEq, Repr

/-- A write of the device's own that waits for its memory: its pieces by address, the function that it is made for if any, and the function and vector of the message that follows it
(R234, R235, R353, R372, R402, R406). -/
structure Held where
  ws : List (Nat × List Byte)
  fn : Option Nat := none
  msg : Option (Nat × Nat) := none
  deriving DecidableEq, Repr

/-- A CXL port (R411, R415, R417): HOST_CXL_STATUS fields. -/
structure CxlPort where
  st : Nat := 0
  rate : Nat := 0
  width : Nat := 0
  target : Bool := false
  switch : Bool := false
  deriving DecidableEq, Repr

/-- The host port: HOST_LINK fields, functions, frozen host functions (R373), BAR2 accesses that wait, ATC entries as (function, host page),
the course at which the link went down (R402), the device's own writes that wait, oldest first, VF Enable and NumVFs, IDE streams enabled and insecure (0 the link stream, 1 to 4 selective), the
CXL ports, and per port the bytes of its memory devices that no committed decoder maps, by device physical address (R412). -/
structure HostSt where
  st : Nat := 0
  rate : Nat := 0
  width : Nat := 0
  flit : Bool := false
  light : Nat := 0
  fns : SMap HFn := []
  frozen : List Nat := []
  barw : List BarOp := []
  atc : List (Nat × Nat) := []
  downAt : Option Nat := none
  hostw : List Held := []
  vfEn : Bool := false
  numVf : Nat := 0
  ideOn : List Nat := []
  ideBad : List Nat := []
  cxl : SMap CxlPort := []
  cxlDev : SMap (SMap Byte) := []
  deriving DecidableEq, Repr

/-- An answer of PLDM for Firmware Update: the image is taken, ALREADY_IN_UPDATE_MODE, its verification failed, or the activation needs a reset. -/
inductive PldmReply where
  | taken
  | alreadyInUpdateMode
  | rejected
  | resetRequired
  deriving DecidableEq, Repr

/-- What the block sends out of itself towards the host, the baseboard or another device's EDF, oldest first. [DESIGN CHOICE: log 156] -/
inductive Out where
  /-- An MSI-X message of a function (R406). -/
  | msix (f v : Nat)
  /-- A stop notice of an owner to the job lead's EDF on VC 2 (R375). -/
  | stopNotice (p : Nat)
  | stopForward (p : Nat)
  /-- A read completion towards the host: function, status (0 successful, 4 Completer Abort), data. -/
  | completion (f status : Nat) (data : List Byte)
  /-- A message over MCTP on I3C: message type and bytes (R441). -/
  | mctp (ty : Nat) (b : List Byte)
  /-- A response over the DOE mailbox (R435). -/
  | doe (b : List Byte)
  /-- A Translation Completion of an Invalidation Request (R408). -/
  | atsDone (f : Nat)
  /-- A snapshot of an owner's step is complete at this device, towards the job lead (R224). -/
  | snapReport (own : Option Nat) (step : BitVec 64)
  /-- The provisional ID that the I3C target gives in ENTDAA, and an in-band interrupt that announces an MCTP message (R441). -/
  | entdaa (id : BitVec 48)
  | ibi
  /-- The answer to an image over PLDM for Firmware Update (R430 to R432). -/
  | pldmFw (r : PldmReply)
  /-- The SPDM-style error ERROR_INVALID_REQUEST over MCTP (R437). -/
  | invalidRequest
  /-- A level on a pin of the module: pin number and level. -/
  | pin (n : Nat) (high : Bool)
  deriving DecidableEq, Repr

end Sys2Proof.Machine
end

