-- ==== Sys2Proof/Machine/StMem.lean ====
section
/-!
DEFINITION. The state behind the memory and fault-manager registers (R228 to R249, R369 to R398): plain data.
-/

namespace Sys2Proof.Machine

open Sys2Proof

/-- A GDDR7 access that waits for its channel (R234, R235): kind 0 read, 1 write of a whole sector, 2 smaller write; the master, the
address, the data written, the sector whose stored symbols the access reaches, and whether another access is queued behind it. [DESIGN CHOICE: log 63] -/
structure MemOp where
  kind : Nat
  who : Who
  a : Nat
  data : List Byte := []
  from_ : Nat := 0
  behind : Bool := false
  deriving DecidableEq, Repr

/-- One GDDR7 channel (R238, R239, R248): MEM_CH_STATUS.STATE, self-test result, bucket levels, counters, the sector patrol reads next,
the accesses that wait, the sector whose corrected data an access queued behind takes (R233), and the elapsed course in which the pass of patrol
began (R241). -/
structure MemCh where
  state : Nat := 0
  testOk : Bool := false
  lvl : Nat := 0
  bg : List Nat := [0, 0, 0, 0]
  ce : Nat := 0
  retry : Nat := 0
  compat : Nat := 0
  patrol : Nat := 0
  wait : List MemOp := []
  fwd : Option Nat := none
  pass : Option Nat := none
  deriving DecidableEq, Repr

/-- The memory side: channels, the compatibility log (R239), MEM_LAST_UE (R248), MEM_BUCKET in force (R238), and
CORE_CNT_SRAMCE by core (R249). `keep` is what EDF keeps of its region across a change of map (R234), `leakAt` the elapsed course in which
the buckets last leaked. -/
structure MemSt where
  ch : SMap MemCh := []
  log : List W64 := []
  dropped : Bool := false
  lastUe : W64 := 0
  bucket : W64 := 0x1040989680989680
  sramCe : SMap Nat := []
  keep : SMap Byte := []
  leakAt : Option Nat := none
  deriving DecidableEq, Repr

/-- What is remembered of stored words: the scratchpad words corrected, written back and not written since (R243), by address / 8, the
writes of 64-byte lines as (first, last, time), newest first, times being the numbers of writes (R382), the errors stored in scratchpad
words (R243: bits 63 to 0 the word, 71 to 64 its check byte) by address / 8, and what the device's own smaller writes found in sectors, and in words
(uncorrectable or not), that is still to be counted. [DEDUCED: log 68] -/
structure SpTrack where
  ce : List Nat := []
  err : SMap (BitVec 72) := []
  notes : List (Nat × EccRes) := []
  words : List (Nat × Bool) := []
  wlog : List (Nat × Nat × Nat) := []
  time : Nat := 0
  deriving DecidableEq, Repr

/-- A suspect-list entry (R391): its unit, weight and when it was entered. -/
structure Suspect where
  unit : Nat
  weight : Nat
  seq : Nat
  deriving DecidableEq, Repr

/-- Suppression of one pair of code and source (R371): elapsed course of its last record, and events counted since. -/
structure Supp where
  code : Nat
  src : Nat
  last : Nat
  count : Nat
  deriving DecidableEq, Repr

/-- A condition-matrix cell (R385). -/
structure Cell where
  stmask : Nat := 0
  stmis : Nat := 0
  swmis : Nat := 0
  checks : Nat := 0
  deriving DecidableEq, Repr

/-- An owner's part of the fault manager (R376, R377, R395). -/
structure FltOwner where
  first : BitVec 256 := 0
  ovf : BitVec 256 := 0
  ovfCount : Nat := 0
  handling : Bool := false
  escalated : Bool := false
  frogReq : Bool := false
  horizon : Option Nat := none
  cntFrog : Nat := 0
  head : Nat := 0
  dropped : Nat := 0
  deriving DecidableEq, Repr

/-- A tile sampled for Swatch (R381, R62): its core, array and condition cell, its owner, the presented width, for each K block merged the
weight and the activation blocks with their formats, the skein's values, and the scratchpad lines read with their times. -/
structure Sample where
  core : Nat
  array : Nat
  cell : Nat
  own : Option Nat
  width : Nat
  fmtW : Nat
  fmtA : Nat
  trace : List (List Block × List Block)
  vals : List AF40
  reads : SMap Nat
  deriving DecidableEq, Repr

/-- The device's part of the fault manager (R369 to R398). `pend` holds convicted columns not yet in a bypass mask, by array (R386);
`hr` the health record in force (R438); `coreOut` the cores taken out of service by self-test (R246); `decayAt` the elapsed course of the last
decay (R390); `reqAt` the elapsed course in which requalification began, `reqTested` that its patterns have run, `reqBad` the units whose patterns
failed, `reqConv` that it has convicted an array, `reqLoad` by array the band of its last tile of a segment and how many it has run there (R392). -/
structure FltSt where
  debt : Nat := 0
  suspects : SMap Suspect := []
  seq : Nat := 0
  low : Bool := false
  supp : List Supp := []
  dfirst : BitVec 256 := 0
  head : Nat := 0
  dropped : Nat := 0
  degraded : Bool := false
  out : Bool := false
  running : Bool := false
  verdict : Nat := 0
  uncovered : Nat := 0
  cmat : SMap Cell := []
  pend : SMap Nat := []
  hr : SMap Nat := []
  coreOut : List Nat := []
  decayAt : Option Nat := none
  reqAt : Nat := 0
  reqTested : Bool := false
  reqBad : List Nat := []
  reqConv : Bool := false
  reqLoad : SMap (Nat × Nat) := []
  own : SMap FltOwner := []
  deriving DecidableEq, Repr

/-- Swatch (R381, R382): tiles numbered by core, sampled tiles whose check is open, oldest first, the ledger's counts, the course from which
each core is idle (R385, R457), and the arrays of it that in-service tests have taken since (R385). -/
structure SwatchSt where
  tileNo : SMap Nat := []
  live : List Sample := []
  sampled : Nat := 0
  failed : Nat := 0
  abandoned : Nat := 0
  idle : SMap Nat := []
  tested : SMap (List Nat) := []
  deriving DecidableEq, Repr

end Sys2Proof.Machine
end

