-- ==== Sys2Proof/Machine/StQue.lean ====
section
/-!
DEFINITION. The state of owners' queues and dispatchers (R336 to R368): plain data.
-/

namespace Sys2Proof.Machine

open Sys2Proof

/-- A job started by START_JOB (R425): seed, step number (R262), policy word (R58), gauge word (R57), job identifier, and whether a STEP has
fired since the job started or was frogged (R394). -/
structure Job where
  seed : W64 := 0
  step : W64 := 0
  policy : W32 := 0
  gauge : W64 := 0
  id : W64 := 0
  lead : Nat := 0
  ran : Bool := true
  deriving DecidableEq, Repr

/-- A command queue (R350, R351): its owner, the descriptor the device read, whether it stands in error, tail, commands taken
(HEAD), and completion records written (DONE). -/
structure Queue where
  desc : Line := 0
  err : Bool := false
  tail : Nat := 0
  head : Nat := 0
  done : Nat := 0
  deriving DecidableEq, Repr

/-- A command taken and not completed (R353 to R358): queue, index, owner, its 64 bytes, the kernel that runs and whether it is the fallback,
its weight set and measured cores, those not yet idle, the courses of start and of the last core's end, batch entries admitted and deferred. -/
structure Disp where
  q : Nat
  i : Nat
  own : Nat
  cmd : Line
  kernel : Nat
  fb : Bool := false
  wset : Nat := 0
  cores : List Nat := []
  left : List Nat := []
  start : Nat := 0
  stop : Nat := 0
  admitted : Nat := 0
  deferred : Nat := 0
  deriving DecidableEq, Repr

/-- The dispatcher of an owner (R354): the queue whose turn it is in each class and the dispatches left in the turn; the counters of R368. -/
structure Disper where
  turnQ : SMap Nat := []
  left : SMap Nat := []
  cntDispatch : Nat := 0
  cntFallback : Nat := 0
  cntLate : Nat := 0
  cntDefer : Nat := 0
  deriving DecidableEq, Repr

/-- The suspended owner (R346): its image, save region, job, COL_EPOCH, conversations, and what the collective engine holds for it outside
them: requests, tiles and conversations of its own that it has not begun, reduced pieces, and staging slots in use; its queues and the commands
in progress; and of each core that was already being saved or restored its run state, the run state that it had left, and DONE. -/
structure Susp where
  cfg : Line
  save : Nat
  job : Option Job := none
  epoch : W64 := 0
  convs : List Conv := []
  creqs : List CReq := []
  tiles : List Tile := []
  pieces : List Piece := []
  asks : List Piece := []
  staged : SMap Nat := []
  wait : List EngReq := []
  qs : SMap Queue := []
  disp : List Disp := []
  runs : List (Nat × RunSt × RunSt × Bool) := []
  deriving DecidableEq, Repr

/-- Queues by number, commands in progress, dispatchers by owner, mode, the suspended owner and whether it is being resumed, and the address
ranges and clusters that owners who left have held (R347). -/
structure QueSt where
  qs : SMap Queue := []
  disp : List Disp := []
  dper : SMap Disper := []
  shared : Bool := false
  susp : Option Susp := none
  resuming : Bool := false
  dirty : List (Nat × Nat) := []
  dirtyCl : Nat := 0
  deriving DecidableEq, Repr

end Sys2Proof.Machine
end

