-- ==== Sys2Proof/Machine/State.lean ====
section
/-!
DEFINITION. The state of the machine as plain data, the reasons a step can stop, and the state after reset.
-/

namespace Sys2Proof.Machine

open Sys2Proof

/-- Why a step faults. There is no such reason: every error the manual describes is an event and a state that goes on (R20, R373,
R374), so the type is empty and no step faults (safe: nothing is left out by it). [DEDUCED: log 160] -/
inductive Fault where
  deriving DecidableEq, Repr

/-- Why a command is refused. [DESIGN CHOICE: log 10] -/
inductive Refusal where
  /-- A command whose meaning is not written, by its mnemonic: only the dispatch raises it. Safe: nothing is proved of the command. -/
  | notModelled (mnemonic : String)
  /-- A command that names a unit by a number the part does not have (R2, R3, R6): any meaning that takes a unit number raises it.
  Safe: the manual gives such a command no effect, and the state is left as it was. -/
  | noSuchUnit
  deriving DecidableEq, Repr

/-- The two parts (R1, R2). [DESIGN CHOICE: log 2] -/
inductive Part where
  | evz7100
  | evz7096
  deriving DecidableEq, Repr

/-- The state of an owner (R343, R346, R365, R368). -/
inductive OwnSt where
  | absent
  | active
  | draining
  | faulted
  | creating
  deriving DecidableEq, Repr

/-- The code of QUE_PART_STATE.STATE (R368). -/
def OwnSt.code : OwnSt → Nat
  | .absent => 0
  | .active => 1
  | .draining => 2
  | .faulted => 3
  | .creating => 4

/-- An owner: its state, configuration image (R338), job, and the KV-pool descriptor that it was created with (R360). -/
structure Owner where
  st : OwnSt := .absent
  cfg : Line := 0
  job : Option Job := none
  pool : Line := 0
  deriving DecidableEq, Repr

/-- The units beside the cores and Bench engines. -/
structure Units where
  mem : MemSt := {}
  flt : FltSt := {}
  sw : SwatchSt := {}
  crs : CrsSt := {}
  net : NetSt := {}
  col : ColSt := {}
  que : QueSt := {}
  host : HostSt := {}
  ctl : CtlSt := {}
  pow : PowSt := {}
  outs : List Out := []
  deriving DecidableEq, Repr

/-- The machine. `regs` holds the stored bits of registers by register-space offset (one not listed is at its Reset value), `mem` the
bytes of the device physical address space (one not listed reads 0, R234), `ecc` by sector the errors in its stored symbols, `sp` what is
remembered of scratchpad writes, `images` the
transfers that the 64-byte DMA entries of save areas stand for, by the entry's value, `fresh` the number of the next free value, and `pending` the
commands that wait. -/
structure State where
  part : Part := .evz7100
  regs : SMap W64 := []
  mem : SMap Byte := []
  ecc : SMap (BitVec 2112) := []
  sp : SpTrack := {}
  cores : SMap Core := []
  owners : SMap Owner := []
  images : SMap Xfer := []
  course : W64 := 0
  bench : BenchSt := {}
  tiles : List Tile := []
  creqs : List CReq := []
  u : Units := {}
  fresh : Nat := 0
  pending : List Instr := []
  deriving DecidableEq, Repr

/-- The machine right after module reset (R472): every register at its reset value, memory with nothing listed, nothing running. -/
def State.reset : State := {}

end Sys2Proof.Machine
end

