-- ==== Sys2Proof/Machine/Ops.lean ====
section
/-!
DEFINITION. The named operations over memory, registers, cores and owners: every command reads and
writes the state through them.
-/

namespace Sys2Proof.Machine

open Sys2Proof

/-! ### The part (R2) -/

/-- The module is an EVZ7096-A. -/
def State.is96 (s : State) : Bool := decide (s.part = .evz7096)

/-- Cores, clusters, Bench engines and GDDR7 channels, tiles, links and link groups of the part (R2). -/
def State.nCores (s : State) : Nat := if s.is96 then 96 else 128
def State.nClusters (s : State) : Nat := if s.is96 then 12 else 16
def State.nCh (s : State) : Nat := if s.is96 then 48 else 64
def State.nTiles (s : State) : Nat := if s.is96 then 6 else 8
def State.nLinks (s : State) : Nat := if s.is96 then 48 else 64
def State.nGroups (s : State) : Nat := if s.is96 then 6 else 8
/-- Partitions at most (R31), and so owner instances. -/
def State.nOwners (s : State) : Nat := if s.is96 then 12 else 16

/-- Bytes of usable GDDR7, and where the EDF region of its top 1 GiB begins (R2, R421, R466). -/
def State.gddrTop (s : State) : Nat := if s.is96 then 0x45C0000000 else 0x5D00000000
def State.edfBase (s : State) : Nat := s.gddrTop - 0x40000000

/-! ### Memory (R13, R466) -/

/-- Scratchpad base of logical core n (R466). -/
def spBase (n : Nat) : Nat := 0x010000000000 + n * 0x2000000
/-- Populated bytes of a scratchpad (R90). -/
def spSize : Nat := 0x1800000

/-- Read one byte of the device physical address space; an address nothing has written reads 0 (R234). [DESIGN CHOICE: log 3] -/
def State.byte (s : State) (a : Nat) : Byte := SMap.get 0 a s.mem

/-- Read n bytes from address a. -/
def State.bytes (s : State) (a n : Nat) : List Byte := (List.range n).map (fun i => s.byte (a + i))

/-- Read an n-byte little-endian number from address a (R13). -/
def State.rd (s : State) (a n : Nat) : Nat := leNat (s.bytes a n)

/-- Remember a write of bytes [a, a + n) of the scratchpads (R243, R382). [DEDUCED: log 69] -/
def SpTrack.note (t : SpTrack) (a n : Nat) : SpTrack :=
  if 0x010000000000 ≤ a && a < 0x020000000000 && 0 < n then
    { t with
      ce := t.ce.filter (fun w => decide (w < a / 8) || decide ((a + n - 1) / 8 < w))
      wlog := match t.wlog with
        | (lo, hi, x) :: r => if lo = a / 64 && hi = (a + n - 1) / 64 then (lo, hi, t.time) :: r else (a / 64, (a + n - 1) / 64, t.time) :: (lo, hi, x) :: r
        | [] => [(a / 64, (a + n - 1) / 64, t.time)]
      time := t.time + 1 }
  else t

/-- Write one byte, keeping the memory's canonical form. The sector is encoded afresh, so an error in its stored symbols is gone (R232). -/
def State.putByte (s : State) (a : Nat) (b : Byte) : State :=
  { s with mem := SMap.setD 0 a b s.mem, ecc := SMap.erase (a / 256) s.ecc, sp := s.sp.note a 1 }

/-- Write bytes at address a upward, one by one. -/
def State.putAll (s : State) (a : Nat) : List Byte → State
  | [] => s
  | b :: r => State.putAll (s.putByte a b) (a + 1) r

/-- The check of a GDDR7 sector as it is read (R231): its data and check bytes with the errors of its stored symbols. `ecc`
holds, by sector, the xor of the errors: byte i of the data in byte i, check byte j in byte 256 + j. -/
def State.sectorRead (s : State) (sec : Nat) : EccRes :=
  let m := SMap.get 0 sec s.ecc
  let d := s.bytes (256 * sec) 256
  let p := sectorCheck sec d
  let x := fun (l : List Byte) (o : Nat) => (List.range l.length).map (fun i => nth 0 l i ^^^ BitVec.ofNat 8 (byteField m (o + i) 1))
  sectorDecode sec (x d 0) (x p 256)

/-- A scratchpad word as it is read under its own index (R243), by its address / 8: `sp.err` holds the bits in which the stored word and its
check byte differ from what was written. -/
def State.wordRead (s : State) (w : Nat) : EccOut × Nat :=
  let e := SMap.get 0 w s.sp.err
  let v := s.rd (8 * w) 8
  let i := w % 0x400000
  sramRead (v ^^^ bitsOf e 63 0) (sramCheck v i ^^^ bitsOf e 71 64) i

/-- Channel and channel offset of a GDDR7 address (R192, R193), by BNC_MAP.LOCAL and BNC_MAP.GRANULE. -/
def State.gddrMap (s : State) (a : Nat) : Nat × Nat :=
  let r := SMap.get 0x80 0xE00000 s.regs
  let l := bitsOf r 6 0
  let g := match bitsOf r 8 7 with | 0 => 256 | 2 => 16384 | _ => 2048
  let u := 0x4000000
  let i := s.nCh * (93 - l) * u
  let inter := fun (v : Nat) => ((v / g) % s.nCh, (v / g) / s.nCh * g + v % g)
  if a < i - 0x40000000 then inter a
  else if s.edfBase ≤ a then inter (a - s.nCh * l * u)
  else
    let b := a - (i - 0x40000000)
    (b / (l * u), (93 - l) * u + b % (l * u))

/-- What a write of bytes [a, a + n) makes of the errors in a GDDR7 sector (R232): one that it covers whole is encoded afresh, otherwise the
sector is decoded first. `sp.notes` keeps what was found until it is counted (R233, R236). [DESIGN CHOICE: log 41] -/
def State.settleSector (a n : Nat) (s : State) (sec : Nat) : State :=
  if a ≤ 256 * sec && 256 * sec + 256 ≤ a + n then { s with ecc := SMap.erase sec s.ecc }
  else
    let r := s.sectorRead sec
    let ch := (s.gddrMap (256 * sec)).1
    let c := SMap.get {} ch s.u.mem.ch
    if r.out == .clean then s
    else if c.fwd == some sec && r.out == .corrected then
      let s1 := s.putAll (256 * sec) r.data
      { s1 with u := { s1.u with mem := { s1.u.mem with ch := SMap.set ch { c with fwd := none } s1.u.mem.ch } } }
    else
      let s1 := if r.out == .corrected then s.putAll (256 * sec) r.data else s
      { s1 with sp := { s1.sp with notes := s1.sp.notes ++ [(sec, r)] } }

/-- The same for a scratchpad word, by its address / 8 (R243). -/
def State.settleWord (a n : Nat) (s : State) (w : Nat) : State :=
  if a ≤ 8 * w && 8 * w + 8 ≤ a + n then { s with sp := { s.sp with err := SMap.erase w s.sp.err } }
  else
    let r := s.wordRead w
    if r.1 == .corrected then
      let s1 := s.putAll (8 * w) (leBytes 8 r.2)
      { s1 with sp := { s1.sp with err := SMap.erase w s1.sp.err, words := s1.sp.words ++ [(w, false)] } }
    else if r.1 == .clean then s else { s with sp := { s.sp with words := s.sp.words ++ [(w, true)] } }

/-- Sectors and scratchpad words with stored errors that bytes [a, a + n) reach. -/
def State.eccIn (s : State) (a n : Nat) : List Nat :=
  (s.ecc.filter (fun e => decide (256 * e.1 < a + n) && decide (a < 256 * e.1 + 256))).map (fun e => e.1)
def State.errIn (s : State) (a n : Nat) : List Nat :=
  (s.sp.err.filter (fun e => decide (8 * e.1 < a + n) && decide (a < 8 * e.1 + 8))).map (fun e => e.1)

/-- Write bytes at address a upward, but for those whose sector or word reads uncorrectable: they are discarded (R232, R243). -/
def State.putKept (s : State) (a : Nat) : List Byte → State
  | [] => s
  | b :: r => State.putKept (if (SMap.find (a / 256) s.ecc).isSome || (SMap.find (a / 8) s.sp.err).isSome then s else s.putByte a b) (a + 1) r

/-- Write bytes at address a upward: one write, under R232 and R243 where the stored words have errors. -/
def State.putRaw (s : State) (a : Nat) (l : List Byte) : State :=
  if s.ecc.isEmpty && s.sp.err.isEmpty then s.putAll a l
  else
    let s1 := (s.eccIn a l.length).foldl (State.settleSector a l.length) s
    ((s1.errIn a l.length).foldl (State.settleWord a l.length) s1).putKept a l

/-- `MEM_INJECT` (R248): a write that reaches the armed sector corrupts one of its stored symbols, and ARM is cleared. Byte i of the data
is error byte i, check byte j error byte 256 + j. -/
def State.inject (s : State) (a n : Nat) : State :=
  let r := SMap.get 0 0xC00018 s.regs
  let sec := bitsOf r 39 0
  if bitOf r 63 && decide (0 < n) && decide (256 * sec < a + n) && decide (a < 256 * sec + 256) then
    let cw := bitsOf r 56 56
    let pos := bitsOf r 55 48
    let i := if pos < 128 then 2 * pos + cw else 256 + 4 * cw + (pos - 128) % 4
    { s with regs := SMap.set 0xC00018 (putBits r 63 63 0) s.regs
             ecc := SMap.setD 0 sec (SMap.get 0 sec s.ecc ^^^ (BitVec.ofNat 2112 (bitsOf r 47 40) <<< (8 * i))) s.ecc }
  else s

/-- Write bytes at address a upward: one write. -/
def State.putBytes (s : State) (a : Nat) (l : List Byte) : State := (s.putRaw a l).inject a l.length

/-- A write that f makes in pieces of the given spans counts as one for `MEM_INJECT` (R248). [DEDUCED: log 40] -/
def State.asOne (sp : List (Nat × Nat)) (f : State → State) (s : State) : State :=
  let r := SMap.get 0 0xC00018 s.regs
  if bitOf r 63 then
    let t := f { s with regs := SMap.set 0xC00018 (putBits r 63 63 0) s.regs }
    sp.foldl (fun u p => u.inject p.1 p.2) { t with regs := SMap.set 0xC00018 r t.regs }
  else f s

/-- Write an n-byte little-endian number at address a (R13). -/
def State.wr (s : State) (a n v : Nat) : State := s.putBytes a (leBytes n v)

/-- Sectors that bytes [a, a + n) reach. -/
def sectorsOf (a n : Nat) : Nat := if n = 0 then 0 else (a + n - 1) / 256 - a / 256 + 1

/-- Write n zero bytes at address a: an unlisted address reads 0. -/
def State.zero (s : State) (a n : Nat) : State :=
  if s.ecc.isEmpty && s.sp.err.isEmpty then { s with mem := SMap.clear a n s.mem, sp := s.sp.note a n }
  else s.putRaw a (List.replicate n 0)

/-- Copy n bytes from address a to address b, the two ranges apart. -/
def State.copyMem (s : State) (a b n : Nat) : State :=
  if s.ecc.isEmpty && s.sp.err.isEmpty then
    { s with mem := SMap.onto (SMap.clear b n s.mem) ((SMap.slice a n s.mem).map (fun e => (e.1 - a + b, e.2))), sp := s.sp.note b n }
  else s.putRaw b (s.bytes a n)

/-- Read a 64-byte line. -/
def State.line (s : State) (a : Nat) : Line := BitVec.ofNat 512 (s.rd a 64)

/-- The first sector of bytes [a, a + n) that reads as uncorrectable or as an address mismatch (R236), or the first scratchpad word that reads
uncorrectable (R243) by its address / 8, which no sector's number reaches. -/
def State.memUe (s : State) (a n : Nat) : Option Nat :=
  ((s.eccIn a n).find? (fun x => decide (2 ≤ (s.sectorRead x).out.code))).or ((s.errIn a n).find? (fun w => decide (2 ≤ (s.wordRead w).1.code)))

/-! ### Memory that is out of reach for a while -/

/-- Bytes [a, a + n) lie in the window of a CXL port that retrains: requests wait (R415). -/
def cxlBusy (s : State) (a n : Nat) : Bool :=
  s.u.host.cxl.any (fun e => decide (e.2.st = 3) && decide (a < 0x140000000000 + 0x40000000000 * e.1) && decide (0x100000000000 + 0x40000000000 * e.1 < a + n))

/-- 65,536 courses have passed since the host link went down: requests to the host memory window no longer wait (R402). -/
def linkGone (s : State) : Bool := match s.u.host.downAt with
  | some t => s.u.host.st != 2 && decide (t + 65536 ≤ s.course.toNat)
  | none => false

/-- Bytes [a, a + n) reach into the host memory window. -/
def hitsHost (a n : Nat) : Bool := decide (a < 0x800000000000) && decide (0x400000000000 < a + n)

/-- Requests to these bytes of the host memory window wait for the link (R402). -/
def hostBusy (s : State) (a n : Nat) : Bool := hitsHost a n && s.u.host.st != 2 && !linkGone s

/-- Bytes [a, a + n) reach a GDDR7 channel that is being initialised or retrained, a CXL port that retrains, or the host while its link is down:
accesses wait (R234, R235, R402, R415). [DESIGN CHOICE: log 64] -/
def memBusy (s : State) (a n : Nat) : Bool :=
  (decide (a < s.gddrTop) && s.u.mem.ch.any (fun e => (decide (e.2.state = 1) || decide (e.2.state = 3)) &&
    (List.range (sectorsOf a n)).any (fun i => decide ((s.gddrMap (256 * (a / 256 + i))).1 = e.1)))) || cxlBusy s a n || hostBusy s a n

/-- Whether CXL port p is up, or retrains without having gone down, with a target (R411, R415). -/
def State.cxlUp (s : State) (p : Nat) : Bool :=
  let c := SMap.get {} p s.u.host.cxl
  (c.st == 2 || c.st == 3) && c.target

/-- Bytes [a, a + n) are out of reach for good: the host link's wait is over (R402), or their CXL port is not up (R415). -/
def memGone (s : State) (a n : Nat) : Bool :=
  (hitsHost a n && linkGone s) || (decide (0x100000000000 ≤ a) && decide (a < 0x180000000000) && !s.cxlUp (if a < 0x140000000000 then 0 else 1))

/-- What the collective engine writes to memory that is out of reach for good is discarded (R402, R415). [DEDUCED: log 189] -/
def State.store (s : State) (a : Nat) (b : List Byte) : State := if memGone s a b.length then s else s.putBytes a b

/-- The same for everything that f writes there. -/
def hostKept (f : State → State) (s : State) : State :=
  let t := f s
  if linkGone s then { t with mem := SMap.onto (SMap.clear 0x400000000000 0x400000000000 t.mem) (SMap.slice 0x400000000000 0x400000000000 s.mem) } else t

/-! ### Cores -/

/-- Core n; one not listed is as reset leaves it (R96). -/
def State.core (s : State) (n : Nat) : Core := SMap.get {} n s.cores
def State.setCore (s : State) (n : Nat) (c : Core) : State := { s with cores := SMap.set n c s.cores }
def State.updCore (s : State) (n : Nat) (f : Core → Core) : State := s.setCore n (f (s.core n))
def State.updRegs (s : State) (n : Nat) (f : CoreRegs → CoreRegs) : State := s.updCore n (fun c => { c with r := f c.r })
def State.updMat (s : State) (n : Nat) (f : CoreMat → CoreMat) : State := s.updCore n (fun c => { c with m := f c.m })
def State.updSeq (s : State) (n : Nat) (f : CoreSeq → CoreSeq) : State := s.updCore n (fun c => { c with seq := f c.seq })

def CoreRegs.sreg (r : CoreRegs) (i : Nat) : W64 := SMap.get 0 i r.s
def CoreRegs.setS (r : CoreRegs) (i : Nat) (v : W64) : CoreRegs := { r with s := SMap.set i v r.s }
def CoreRegs.vreg (r : CoreRegs) (i : Nat) : BitVec 2048 := SMap.get 0 i r.v
def CoreRegs.setV (r : CoreRegs) (i : Nat) (v : BitVec 2048) : CoreRegs := { r with v := SMap.set i v r.v }
def CoreRegs.preg (r : CoreRegs) (i : Nat) : W64 := SMap.get 0 i r.p
def CoreRegs.setP (r : CoreRegs) (i : Nat) (v : W64) : CoreRegs := { r with p := SMap.set i v r.p }
def CoreRegs.tdesc (r : CoreRegs) (i : Nat) : Line := SMap.get 0 i r.t
def CoreRegs.setT (r : CoreRegs) (i : Nat) (v : Line) : CoreRegs := { r with t := SMap.set i v r.t }
def CoreRegs.gen (r : CoreRegs) (i : Nat) : Line := SMap.get 0 i r.g
def CoreRegs.setG (r : CoreRegs) (i : Nat) (v : Line) : CoreRegs := { r with g := SMap.set i v r.g }
def CoreRegs.semv (r : CoreRegs) (i : Nat) : Nat := SMap.get 0 i r.sem
def CoreRegs.setSem (r : CoreRegs) (i v : Nat) : CoreRegs := { r with sem := SMap.set i v r.sem }

def CoreMat.skein (m : CoreMat) (k : Nat) : Skein := SMap.get {} k m.sk
def CoreMat.setSkein (m : CoreMat) (k : Nat) (v : Skein) : CoreMat := { m with sk := SMap.set k v m.sk }
def CoreMat.whalf (m : CoreMat) (h : Nat) : Half := SMap.get {} h m.wh
def CoreMat.fhalf (m : CoreMat) (a h : Nat) : Half := SMap.get {} (2 * a + h) m.fh
def CoreMat.carryOf (m : CoreMat) (a : Nat) : Carry := SMap.get {} a m.carry
def Core.dmaq (c : Core) (q : Nat) : DmaQ := SMap.get {} q c.dma
def State.setDmaq (s : State) (n q : Nat) (d : DmaQ) : State := s.updCore n (fun c => { c with dma := SMap.set q d c.dma })

/-! ### Registers of the register space -/

/-- Stored bits of the register at a register-space offset; an offset not listed holds its Reset value `d`. -/
def State.reg (s : State) (d : W64) (off : Nat) : W64 := SMap.get d off s.regs
def State.setReg (s : State) (off : Nat) (v : W64) : State := { s with regs := SMap.set off v s.regs }

/-- Offset of register `o` of core n's instance (R468). -/
def coreOff (n o : Nat) : Nat := 0x1000000 + n * 0x10000 + o

/-- The physical core that CORE_MAP gives logical number n: an enabled one whose LOGICAL is n, or where firmware has mapped none, core n itself
(R3). [DESIGN CHOICE: log 127] -/
def physCore (s : State) (n : Nat) : Nat :=
  ((List.range 128).find? (fun p => let w := s.reg 0xFF (coreOff p 0); bitOf w 8 && decide (bitsOf w 7 0 = n))).getD n

/-- A core that is clocked: once the power manager runs, one whose last wake was admitted and that no gating has stopped since (R457). -/
def coreAwake (s : State) (n : Nat) : Bool := !s.u.pow.run || s.u.pow.awake.contains n

/-- Column bypass mask of array a of core n (R87). -/
def State.bypass (s : State) (n a : Nat) : Nat :=
  bitsOf (s.reg 0 (coreOff n (if a < 2 then 0x10 else 0x18))) (if a % 2 = 0 then 31 else 63) (if a % 2 = 0 then 0 else 32)

def popcount (w x : Nat) : Nat := ((List.range w).filter (fun i => Nat.testBit x i)).length

/-- Whether array a of core n is enabled (R87): not disabled, at most four bypassed columns. -/
def State.arrayOn (s : State) (n a : Nat) : Bool :=
  !Nat.testBit (s.reg 0 (coreOff n 8)).toNat a && decide (popcount 32 (s.bypass n a) ≤ 4)

/-- At least one array of core n is enabled (R94). -/
def hasArray (s : State) (n : Nat) : Bool := (List.range 4).any (fun a => s.arrayOn n a)

/-- The presented width W of core n, 0 when no array is enabled (R87). -/
def State.width (s : State) (n : Nat) : Nat :=
  let on := (List.range 4).filter (fun a => s.arrayOn n a)
  if on.isEmpty then 0 else 32 - on.foldl (fun m a => max m (popcount 32 (s.bypass n a))) 0

/-! ### Owners and jobs (R336 to R338) -/

def State.owner (s : State) (p : Nat) : Owner := SMap.get {} p s.owners
def State.setOwner (s : State) (p : Nat) (o : Owner) : State := { s with owners := SMap.set p o s.owners }

/-- An owner exists once it is created and until it leaves. -/
def Owner.exists (o : Owner) : Bool := o.st != .absent

/-- The owners that exist, by number. -/
def State.ownerList (s : State) : List Nat := (List.range 16).filter (fun p => (s.owner p).exists)

/-- The owner whose image names cluster k. -/
def State.ownerOfCluster (s : State) (k : Nat) : Option Nat :=
  s.ownerList.find? (fun p => Nat.testBit ((s.owner p).cfg.toNat % 65536) k)

/-- The owner of logical core n. -/
def State.ownerOfCore (s : State) (n : Nat) : Option Nat := s.ownerOfCluster (n / 8)

/-- The job of an owner; without one, seed, step number and policy word are zero. -/
def State.jobOf (s : State) (p : Option Nat) : Job :=
  match p with
  | none => {}
  | some k => (s.owner k).job.getD {}

/-- The stochastic-rounding bit of the policy word for a tensor class (R58). -/
def Job.sr (j : Job) (cls : Nat) : Bool := j.policy.getLsbD cls

/-! ### Bench engines and their launch queues (R198, R202, R207) -/

def State.eng (s : State) (e : Nat) : Engine := SMap.get {} e s.bench.eng
def State.setEng (s : State) (e : Nat) (x : Engine) : State := { s with bench := { s.bench with eng := SMap.set e x s.bench.eng } }
def State.updEng (s : State) (e : Nat) (f : Engine → Engine) : State := s.setEng e (f (s.eng e))

def Engine.running (x : Engine) : Bool := (x.st == .runFg || x.st == .runBg) && x.cur.isSome

def Launch.f (l : Launch) (i n : Nat) : Nat := byteField l.blk i n
def Launch.slot (l : Launch) : Nat := l.f 0 1
def Launch.isFg (l : Launch) : Bool := bitOf l.blk 8
def Launch.result (l : Launch) : Bool := bitOf l.blk 9
/-- SLICE; 0xFFFF_FFFF names none. -/
def Launch.slice (l : Launch) : Nat := l.f 4 4
def Launch.resAddr (l : Launch) : Nat := l.f 8 8
def Launch.arg (l : Launch) (i : Nat) : W64 := BitVec.ofNat 64 (l.f (16 + 8 * i) 8)

/-- A launch enters its queue, or waits in order while the queue is full; a launch of an owner whose launches the engine
drops is dropped (R202, R207). -/
def Engine.enter (x : Engine) (l : Launch) : Engine :=
  if (match l.own with
    | some p => x.drop.contains p
    | none => false) then x
  else if l.isFg then
    (if x.fgw.isEmpty && decide (x.fg.length < 16) then { x with fg := x.fg ++ [l] } else { x with fgw := x.fgw ++ [l] })
  else
    (if x.bgw.isEmpty && decide (x.bg.length < 64) then { x with bg := x.bg ++ [l] } else { x with bgw := x.bgw ++ [l] })

/-- Launches that wait enter while there is room. -/
def Engine.refill (x : Engine) : Engine :=
  let nf := 16 - x.fg.length
  let nb := 64 - x.bg.length
  { x with fg := x.fg ++ x.fgw.take nf, fgw := x.fgw.drop nf, bg := x.bg ++ x.bgw.take nb, bgw := x.bgw.drop nb }

/-- Every queued launch of an owner is dropped, and those entered later as well (R207). -/
def Engine.dropOwner (x : Engine) (own : Option Nat) : Engine :=
  match own with
  | none => x
  | some p =>
    let keep := fun (l : List Launch) => l.filter (fun (i : Launch) => i.own != some p)
    ({ x with fg := keep x.fg, bg := keep x.bg, fgw := keep x.fgw, bgw := keep x.bgw, drop := p :: x.drop.filter (fun q => q != p) } : Engine).refill

/-- Draw the next free value's number. [DESIGN CHOICE: log 6] -/
def State.draw (s : State) : Nat × State := (s.fresh, { s with fresh := s.fresh + 1 })

/-- Fill n bytes whose contents the manual leaves open with free bytes. -/
def freeBytes (a n : Nat) (s : State) : State :=
  (List.range n).foldl (fun s i => let p := s.draw; p.2.putByte (a + i) (Config.byte p.1)) s

/-! ### Condition cells (R384) and the use of scratchpad lines (R382) -/

/-- The condition cell of core n now. A sensor not sampled gives no band and the duty class counts merges by cycle: both are drawn. [DESIGN CHOICE: log 112] -/
def State.condCell (s : State) (n : Nat) : Nat × State :=
  let p := s.draw
  let w := s.u.pow
  let band := match SMap.find (3 * (n / 8) + min (n % 8 / 3) 2) w.sens with
    | some t => min 23 (t / 20).toNat
    | none => Config.cycles p.1 % 24
  let cur := if w.railA < 650 then 0 else if w.railA < 1300 then 1 else if w.railA < 1950 then 2 else 3
  (band + 24 * (w.point + 4 * ((if Config.duty p.1 then 1 else 0) + 2 * cur)), p.2)

/-- The time of the last write to a scratchpad line. -/
def SpTrack.wrote (t : SpTrack) (line : Nat) : Option Nat :=
  (t.wlog.find? (fun e => decide (e.1 ≤ line) && decide (line ≤ e.2.1))).map (fun e => e.2.2)

/-- Core n is idle from the present course of the counter (R487). -/
def State.idleNow (s : State) (n : Nat) : State :=
  { s with u := { s.u with sw := { s.u.sw with idle := SMap.set n s.course.toNat s.u.sw.idle, tested := SMap.erase n s.u.sw.tested } } }

/-- A thermal trip or a clock loss has stopped every core and Bench engine (R451, R461). -/
def State.stopped (s : State) : Bool := s.u.pow.tripped || decide (s.u.pow.loss ≠ 0)

/-- A core has been idle for k courses of the counter (R385, R457, R487). -/
def State.idleFor (s : State) (n k : Nat) : Bool :=
  (s.core n).seq.run == .idle && decide (SMap.get 0 n s.u.sw.idle + k ≤ s.course.toNat)

end Sys2Proof.Machine
end

