-- ==== Sys2Proof/Machine/Reqs.lean ====
section
/-!
DEFINITION. Groups and request blocks as their fields give them (R294, R295, R300), the areas a request reads and writes, and what the result
area of an abandoned conversation holds (R304).
-/

namespace Sys2Proof.Machine

open Sys2Proof

/-! ### Groups (R294, R295) -/

def grFlags (e : Line) : Nat := byteField e 0 2
def grEpoch (e : Line) : Nat := byteField e 2 2
def grN (e : Line) : Nat := byteField e 4 4
def grSeg (e : Line) : Nat := byteField e 8 4
def grTag (e : Line) : Nat := byteField e 12 2
def grFanN (e : Line) : Nat := byteField e 14 2
def grTerm (e : Line) : Nat := byteField e 16 4
def Group.n (g : Group) : Nat := grN g.e
def Group.gated (g : Group) : Bool := Nat.testBit (grFlags g.e) 1
def Group.side (g : Group) : Bool := Nat.testBit (grFlags g.e) 2
/-- Packets of 8,192 bytes, or of 1,638 values, in a chunk. -/
def Group.ppc (g : Group) : Nat := nth 2 [2, 8, 32] ((grFlags g.e >>> 3) % 4)

def Group.member (g : Group) (r : Nat) : Nat := nth 0 g.members r
def Group.count (g : Group) (r : Nat) : Nat := if g.pcount.isEmpty then 1 else nth 1 g.pcount r
/-- The terminal's member word (R295), and its rank if it is a member. -/
def Group.term (g : Group) : Nat := if grTerm g.e = 0xFFFFFFFF then g.member (g.n - 1) else grTerm g.e
def Group.termRank (g : Group) : Option Nat := if grTerm g.e = 0xFFFFFFFF then some (g.n - 1) else g.members.findIdx? (fun w => w == grTerm g.e)

/-- Request-block fields (R300). -/
def rqFlags (l : Line) : Nat := byteField l 1 1
def rqGroup (l : Line) : Nat := byteField l 2 2 % 4096
def rqEpoch (l : Line) : Nat := byteField l 4 2
def rqRank (l : Line) : Nat := byteField l 6 2
def rqElem (l : Line) : Nat := byteField l 8 1
def rqStg (l : Line) : Nat := byteField l 10 1 % 16
def rqStage (l : Line) : Nat := byteField l 12 4
def rqSrc (l : Line) : Nat := byteField l 16 6
def rqDst (l : Line) : Nat := byteField l 22 6
def rqRoot (l : Line) : Nat := byteField l 28 2
def rqPos (l : Line) : Nat := byteField l 30 2
def rqSize (l : Line) : Nat := byteField l 32 8
def rqNb (l : Line) : Nat := byteField l 40 8
def rqDl (l : Line) : Nat := byteField l 48 8
def rqStamps (l : Line) : Nat := byteField l 56 4
def rqAll (l : Line) : Bool := Nat.testBit (rqFlags l) 2

/-- The areas a request reads and writes (R316 to R318). -/
def reqSpans (g : Group) (l : Line) : List (Nat × Nat × Bool) :=
  let n := rqSize l
  let rd := fun k => (rqSrc l, k, false)
  let wr := fun k => (rqDst l, k, true)
  match byteField l 0 1 with
  | 1 => [rd n, wr (g.n * n)]
  | 2 => if rqRoot l = rqRank l then [rd n, wr n] else [wr n]
  | 4 => [rd (g.n * n), wr (g.n * n)]
  | 6 => if rqAll l || g.termRank == some (rqRank l) then [rd n, wr n] else [rd n]
  | 7 => [rd (g.n * n), wr n]
  | _ => []

/-- The areas that the result of a conversation goes to at this device: a request's, or the tile rows of a chain step that ends here
(R307, R310). -/
def convArea (s : State) (c : Conv) : List (Nat × Nat) :=
  match SMap.find c.gid s.u.col.groups with
  | none => []
  | some g =>
    if c.kind = 0 then
      if c.op = 5 then (if c.recv then [(rqDst c.blk, rqSize c.blk)] else [])
      else ((reqSpans g c.blk).filter (fun p => p.2.2)).map (fun p => (p.1, p.2.1))
    else if c.op = 9 && (Nat.testBit (byteField c.desc 13 1) 0 || g.termRank == some c.rank) then
      (List.range 32).map (fun i => (spBase c.ep + byteField c.desc 8 4 + 160 * i, 160))
    else []

/-- An abandoned conversation leaves its result area with undefined contents (R304): free bytes. [DESIGN CHOICE: log 94] -/
def spoil (s0 : State) (cs : List Conv) (s : State) : State :=
  (cs.filter (fun c => c.st != .done)).foldl (fun s c => (convArea s0 c).foldl (fun s r => freeBytes r.1 r.2 s) s) s

end Sys2Proof.Machine
end

