-- ==== Sys2Proof/Machine/Fault.lean ====
section
/-!
DEFINITION. The fault manager (R369 to R379, R389 to R391) and what stopping an owner does (R365, R373): every event of the machine is
raised through `State.raise`.
-/

namespace Sys2Proof.Machine

open Sys2Proof

/-! ### Small updates of the units -/

def State.updU (s : State) (f : Units → Units) : State := { s with u := f s.u }
def State.updFlt (s : State) (f : FltSt → FltSt) : State := s.updU (fun u => { u with flt := f u.flt })
def State.updCrs (s : State) (f : CrsSt → CrsSt) : State := s.updU (fun u => { u with crs := f u.crs })
def State.updNet (s : State) (f : NetSt → NetSt) : State := s.updU (fun u => { u with net := f u.net })
def State.updCol (s : State) (f : ColSt → ColSt) : State := s.updU (fun u => { u with col := f u.col })
def State.updQue (s : State) (f : QueSt → QueSt) : State := s.updU (fun u => { u with que := f u.que })
def State.updHost (s : State) (f : HostSt → HostSt) : State := s.updU (fun u => { u with host := f u.host })
def State.updMem (s : State) (f : MemSt → MemSt) : State := s.updU (fun u => { u with mem := f u.mem })
def State.updCtl (s : State) (f : CtlSt → CtlSt) : State := s.updU (fun u => { u with ctl := f u.ctl })
/-- Interrupt source k of the control complex is signalled: its pending bit is set (R422). [DESIGN CHOICE: log 146] -/
def State.pend (s : State) (k : Nat) : State := s.updCtl (fun c => { c with pend := c.pend ||| BitVec.ofNat 9 (2 ^ k) })
/-- The same where a condition holds. -/
def State.pendIf (s : State) (k : Nat) (b : Bool) : State := if b then s.pend k else s
/-- An update that may change `CRS_CTRL.STATE`: source 7 (R422). -/
def State.updCrsSt (s : State) (f : CrsSt → CrsSt) : State := (s.updCrs f).pendIf 7 (decide ((f s.u.crs).st ≠ s.u.crs.st))
def State.updPow (s : State) (f : PowSt → PowSt) : State := s.updU (fun u => { u with pow := f u.pow })
def State.updSw (s : State) (f : SwatchSt → SwatchSt) : State := s.updU (fun u => { u with sw := f u.sw })
def State.out (s : State) (o : Out) : State := s.updU (fun u => { u with outs := u.outs ++ [o] })

def State.fltOwner (s : State) (p : Nat) : FltOwner := SMap.get {} p s.u.flt.own
def State.updFltOwner (s : State) (p : Nat) (f : FltOwner → FltOwner) : State :=
  s.updFlt (fun t => { t with own := SMap.set p (f (s.fltOwner p)) t.own })

/-- The elapsed course number (R487). -/
def State.elapsed (s : State) : Nat := s.u.crs.elapsed

/-! ### MSI-X (R406) -/

def State.fnOf (s : State) (f : Nat) : HFn := SMap.get {} f s.u.host.fns
def State.updFn (s : State) (f : Nat) (g : HFn → HFn) : State := s.updHost (fun h => { h with fns := SMap.set f (g (s.fnOf f)) h.fns })

/-- Function f answers: the PF, or a VF that VF Enable and NumVFs bring up. [DEDUCED: log 119] -/
def fnLive (s : State) (f : Nat) : Bool := decide (f = 0) || (s.u.host.vfEn && decide (f ≤ s.u.host.numVf) && decide (f < s.nOwners))

/-- Signal a vector of a function: the message is sent, or its PBA bit is set while the vector is masked; a vector at or above 2,048, or a
function that does not answer, sends nothing, and so does an unmasked vector without MSI-X Enable (R406). [DEDUCED: log 118] -/
def State.msix (s : State) (f v : Nat) : State :=
  let h := s.fnOf f
  if 2048 ≤ v || !fnLive s f then s
  else if h.unmasked.contains v then (if h.msixEn then s.out (.msix f v) else s)
  else s.updFn f (fun h => { h with pba := h.pba.filter (fun x => x != v) ++ [v] })

/-! ### Writes of the device's own (R234, R235, R353, R372, R402, R415) -/

/-- A write of the device's own takes effect: its pieces in order, then the message that follows it. -/
def putHeld (h : Held) (s : State) : State :=
  let t := h.ws.foldl (fun s w => s.putBytes w.1 w.2) s
  match h.msg with
  | some m => t.msix m.1 m.2
  | none => t

/-- A piece of it goes to memory that is out of reach for good. -/
def heldLost (s : State) (h : Held) : Bool := h.ws.any (fun w => memGone s w.1 w.2.length)

/-- A write of the device's own: it waits with its message while a piece of its memory does not take accesses, and is discarded where that
memory is out of reach. [DEDUCED: log 189] -/
def putDev (h : Held) (s : State) : State :=
  if heldLost s h then s
  else if h.ws.any (fun w => memBusy s w.1 w.2.length) then s.updHost (fun t => { t with hostw := t.hostw ++ [h] })
  else putHeld h s

/-- What the first n bytes of a write to address a will hold: those of one that waits, else of memory. -/
def heldRd (s : State) (a n : Nat) : Nat :=
  match ((s.u.host.hostw.flatMap (fun h => h.ws)).reverse).find? (fun w => decide (w.1 = a)) with
  | some w => leNat (w.2.take n)
  | none => s.rd a n

/-- What waited and can go is written, oldest first. -/
def flushHeld (s : State) : State :=
  if s.u.host.hostw.isEmpty then s
  else s.u.host.hostw.foldl (fun t h => putDev h t) (s.updHost (fun h => { h with hostw := [] }))

/-! ### Completion records (R353) -/

def qtableBase (s : State) : Nat := bitsOf (s.reg 0 0x600008) 47 12 * 4096
def State.queue (s : State) (q : Nat) : Queue := SMap.get {} q s.u.que.qs
def State.updQueue (s : State) (q : Nat) (f : Queue → Queue) : State :=
  s.updQue (fun t => { t with qs := SMap.set q (f (s.queue q)) t.qs })

def qdFlags (d : Line) : Nat := byteField d 0 1
def qdPrio (d : Line) : Nat := byteField d 1 1 % 4
def qdWeight (d : Line) : Nat := byteField d 2 1
def qdLog (d : Line) : Nat := byteField d 3 1
def qdVector (d : Line) : Nat := byteField d 4 2
def qdRing (d : Line) : Nat := byteField d 8 6
def qdCring (d : Line) : Nat := byteField d 16 6

/-- A command completes with a status: its record is written, then DONE, then the message (R353, R358). The kernel and start of a command
that ran on no core are free values. -/
def State.finish (s : State) (c : Disp) (status : Nat) : State :=
  let d := (s.queue c.q).desc
  let n := 2 ^ qdLog d
  let a := qdCring d + 32 * (c.i % n)
  let dl := byteField c.cmd 8 8
  let ran := !c.cores.isEmpty
  let stop := if ran && c.left.isEmpty then c.stop else s.course.toNat
  let late := decide (byteField c.cmd 0 1 = 1) && decide (dl ≠ 0) && decide (dl ≤ stop)
  let fl := (if late then 1 else 0) + (if c.i / n % 2 = 0 then 128 else 0)
  let x := s.draw
  let kernel := if ran then c.kernel else (Config.word x.1).toNat % 65536
  let start := if ran then c.start else (Config.word x.1).toNat
  let rec_ := leBytes 4 (byteField c.cmd 4 4) ++ leBytes 1 status ++ leBytes 1 fl ++ leBytes 2 kernel ++ leBytes 8 start ++ leBytes 8 stop ++
    leBytes 4 c.admitted ++ leBytes 4 c.deferred
  let done := (s.queue c.q).done + 1
  let s1 := (x.2.updQueue c.q (fun q => { q with done })).updQue (fun t => { t with
    disp := t.disp.filter (fun e => e.q != c.q || e.i != c.i)
    dper := SMap.set c.own (let p := SMap.get {} c.own t.dper; { p with cntLate := satAdd 48 p.cntLate (if late then 1 else 0) }) t.dper })
  putDev { fn := some c.own, ws := [(a, rec_), (qtableBase s + 64 * c.q + 32, leBytes 8 done)]
           msg := if Nat.testBit (qdFlags d) 2 || Nat.testBit (byteField c.cmd 1 1) 1 then some (c.own, qdVector d) else none } s1

/-! ### Stopping an owner -/

/-- Halt core c at its next bundle boundary with its state kept (R103, R365). -/
def State.haltCoreAt (c : Nat) (s : State) : State :=
  s.updSeq c (fun q => if q.run == .running || q.run == .waiting || q.run == .halted
    then { q with run := .halted, openB := [], q := [], stalled := false } else q)

/-- The cores of an owner. -/
def State.coresOf (s : State) (p : Nat) : List Nat := (List.range s.nCores).filter (fun c => s.ownerOfCore c == some p)

/-- Freeze a core and its bundle stream (R373). -/
def State.freezeCoreAt (c : Nat) (s : State) : State := (s.haltCoreAt c).updSeq c (fun q => { q with frozen := true })

/-- Bench engines drop an owner's launches; one that runs a launch of the owner stops it, frozen (R365, R373). -/
def dropLaunches (p : Nat) (s : State) : State :=
  { s with bench := { s.bench with eng := s.bench.eng.map (fun e =>
    let x := e.2.dropOwner (some p)
    (e.1, if e.2.running && (e.2.cur.bind (fun (l : Launch) => l.own)) == some p then { x with st := .frozen } else x)) } }

/-- Freeze every master of an owner (R373): cores, DMA queues, its host function, and engines that run its launches. -/
def freezeMasters (p : Nat) (s : State) : State :=
  let s1 := (s.coresOf p).foldl (fun s c => (State.freezeCoreAt c s).updCore c (fun k => { k with
    dma := (List.range 4).map (fun q => (q, { k.dmaq q with frozen := true })) })) s
  dropLaunches p (s1.updHost (fun h => { h with frozen := if h.frozen.contains p then h.frozen else h.frozen ++ [p] }))

/-- `TAG` of an owner's image (R337). -/
def cfgTag (cfg : Line) : Nat := byteField cfg 2 2

/-- Open conversations of an owner are abandoned (R304): nothing is signalled, their result areas hold free bytes, later packets for them are
discarded, and what its cores and drains have handed to the engine and it has not begun is dropped. -/
def abandonOwner (p : Nat) (s : State) : State :=
  let s1 : State := { s with tiles := s.tiles.filter (fun (t : Tile) => t.own != some p), creqs := s.creqs.filter (fun (r : CReq) => s.ownerOfCore r.core != some p) }
  spoil s (s.u.col.convs.filter (fun c => c.own == some p)) (s1.updCol (fun t => { t with
    gone := ((t.convs.filter (fun c => c.own == some p && c.st != .done)).map (fun c => (c.gid, c.seq))) ++ t.gone
    convs := t.convs.filter (fun c => c.own != some p)
    pieces := t.pieces.filter (fun q => q.own != some p), asks := t.asks.filter (fun q => q.own != some p)
    fans := t.fans.filter (fun f => match SMap.find f.gid t.groups with
      | some g => decide (grTag g.e ≠ cfgTag (s.owner p).cfg)
      | none => false)
    wait := t.wait.filter (fun r => r.own != some p), back := t.back.filter (fun c => c.own != some p)
    staged := t.staged.filter (fun e => s.ownerOfCore e.1 != some p) }))

def armOwner (a : Arm) : Nat := byteField a.e 10 1 % 16

def armKind (a : Arm) : Nat := byteField a.e 8 1

/-- With no handover armed, partitions whose drain had begun dispatch again. -/
def undrain (s : State) : State :=
  if s.u.crs.arms.any (fun a => armKind a == 1) then s
  else { s with owners := s.owners.map (fun e => (e.1, if e.2.st == .draining then { e.2 with st := .active } else e.2)) }

/-- Every arm of an owner is removed (R260). -/
def cancelArms (p : Nat) (s : State) : State := undrain (s.updCrs (fun t => { t with arms := t.arms.filter (fun a => armOwner a != p) }))

/-- Sum of a core counter over the cores. -/
def coreSum (s : State) (f : CoreSeq → Nat) : Nat := s.cores.foldl (fun a e => a + f e.2.seq) 0

/-- BNC_SCALE_BASE, and the number of valid scale entries (R210). -/
def scaleTable (s : State) : Nat := (s.reg 0 0xE00008).toNat / 0x2000000 * 0x2000000 % 2 ^ 48
def scaleCount (s : State) : Nat := ((List.range 65536).filter (fun x => bitOf (s.byte (scaleTable s + 512 * x + 5)) 0)).length

/-- Where the ledger ring takes a record of n 64-byte units (R264): its offset, none without room. The ring is never filled to its tail. -/
def ledgerPlace (s : State) (n : Nat) : Option Nat :=
  let cap := bitsOf (s.reg 0 0x500040) 63 48 * 16384
  let h := s.u.crs.head
  let used := (h + cap - bitsOf (s.reg 0 0x500048) 29 0 % cap) % cap
  if cap = 0 then none
  else if h + n ≤ cap then (if used + n < cap then some h else none)
  else if used + (cap - h) + n < cap then some 0 else none

/-- Events of a class in the present course, charged to owner p or to none (R263). -/
def eventsNow (s : State) (p cls : Nat) : Nat :=
  if s.u.crs.evAt = s.course.toNat then (s.u.crs.evs.filter (fun e => (e.1.isNone || e.1 == some p) && decide (e.2 = cls))).length else 0

/-- An owner's open step closes at this course with flags added; its record waits for the ledger (R262), without the events of this course
(R263). It is lost where SIZE is 0, or where 8 records wait already without room (R264). -/
def closeStep (p : Nat) (flags : Nat) (ready : Bool) (s : State) : State :=
  match SMap.find p s.u.crs.steps with
  | none => s
  | some r =>
    let r1 := { r with
      stop := s.course.toNat, flags := r.flags ||| flags, ready
      evInfo := r.evInfo - eventsNow s p 1, evCorr := r.evCorr - eventsNow s p 4
      fill := coreSum s (fun q => q.cntFill) - r.fill0, stall := coreSum s (fun q => q.cntStall) - r.stall0
      swatch := [s.u.sw.sampled - nth 0 r.swatch0 0, s.u.sw.failed - nth 0 r.swatch0 1, s.u.sw.abandoned - nth 0 r.swatch0 2] }
    let gone := decide (bitsOf (s.reg 0 0x500040) 63 48 = 0) || (decide (8 ≤ s.u.crs.closed.length) && (ledgerPlace s (4 + scaleCount s)).isNone)
    s.updCrs (fun t => { t with
      steps := SMap.erase p t.steps
      closed := if gone then t.closed else t.closed ++ [r1]
      lost := if gone then t.lost ++ [p] else t.lost })

/-- The history launches of an owner are dropped: its closed records wait for nothing more (R262). -/
def readyClosed (p : Nat) (s : State) : State :=
  s.updCrs (fun t => { t with closed := t.closed.map (fun r => if r.own == p then { r with ready := true } else r) })

/-- The owner has a running job: one that it was started with, whose next STEP after a frog has fired (R394). A stopped job does not run. -/
def State.jobRuns (s : State) (p : Nat) : Bool :=
  (match (s.owner p).job with
    | some j => j.ran
    | none => false) && (s.owner p).st != .faulted

/-- Bypass masks and `DISABLE` bits may change: the core belongs to no running job and no partition (R88). -/
def coreLoose (s : State) (n : Nat) : Bool :=
  match s.ownerOfCore n with
  | none => true
  | some p => !s.u.que.shared && !s.jobRuns p

/-- Or physical columns into an array's bypass mask. -/
def orBypass (n a m : Nat) (s : State) : State :=
  let o := coreOff n (if a < 2 then 0x10 else 0x18)
  let lo := if a % 2 = 0 then 0 else 32
  s.setReg o (putBits (s.reg 0 o) (lo + 31) lo (s.bypass n a ||| m))

/-- Convicted columns enter the bypass masks at the first moment that R88 allows (R386). -/
def applyConvictions (s : State) : State :=
  let go := s.u.flt.pend.filter (fun e => coreLoose s (e.1 / 4))
  if go.isEmpty then s
  else
    let s1 := go.foldl (fun s e => orBypass (e.1 / 4) (e.1 % 4) e.2 s) s
    s1.updFlt (fun f => { f with pend := f.pend.filter (fun e => !coreLoose s (e.1 / 4)) })

/-- An owner becomes FAULTED (R365), without an event of its own. The exclusive owner's stop asks for a frog and a stop notice (R375);
its open step stays open for the frog (R394), a partition's closes (R262). Columns convicted on its cores may be bypassed now (R88, R386). [DEDUCED: log 80] -/
def stopOwner (p : Nat) (s : State) : State :=
  let o := s.owner p
  if !o.exists || o.st == .faulted then s
  else
    let s1 := s.setOwner p { o with st := .faulted }
    let s2 := (s1.coresOf p).foldl (fun s c => State.haltCoreAt c s) s1
    let s3 := readyClosed p (cancelArms p (dropLaunches p (abandonOwner p s2)))
    let s4 := applyConvictions ((s3.u.que.disp.filter (fun d => d.own == p)).foldl (fun s d => s.finish d 0xFF) s3)
    if s.u.que.shared then closeStep p 0 true s4
    else (s4.updFltOwner p (fun f => { f with frogReq := true })).out (.stopNotice p)

/-! ### Records and rings (R369, R372) -/

/-- The 32 bytes of an event record (R369). -/
def eventRecord (code src : Nat) (own : Option Nat) (promoted nested escalated : Bool) (count : Nat) (course d0 d1 : W64) : BitVec 256 :=
  BitVec.ofNat 256 (code % 65536 + src % 65536 * 2 ^ 16 +
    ((match own with | some p => p % 16 | none => 0x40) + (if promoted then 0x80 else 0)) * 2 ^ 32 +
    ((if nested then 1 else 0) + (if escalated then 2 else 0)) * 2 ^ 40 + min count 65535 * 2 ^ 48 +
    course.toNat * 2 ^ 64 + d0.toNat * 2 ^ 128 + d1.toNat * 2 ^ 192)

/-- Where ring `base` puts its next record, given its base register, TAIL and HEAD: none when it is full or has SIZE 0 (R372). -/
def ringSlot (base : W64) (tail head : Nat) : Option Nat :=
  let cap := bitsOf base 63 48 * 32
  if cap = 0 || (head + 2 ^ 24 - tail % 2 ^ 24) % 2 ^ 24 = cap then none
  else some (bitsOf base 47 5 * 32 + 32 * (head % cap))

/-- Write a record to the device ring (R372). -/
def toDevRing (r : BitVec 256) (s : State) : State :=
  match ringSlot (s.reg 0 0x400020) (bitsOf (s.reg 0 0x400028) 23 0) s.u.flt.head with
  | some a => ((putDev { ws := [(a, leBytes 32 r.toNat)] } s).updFlt (fun f => { f with head := (f.head + 1) % 2 ^ 24 })).pend 1
  | none => s.updFlt (fun f => { f with dropped := satAdd 8 f.dropped 1 })

/-- Write a record to owner p's ring and signal its vector (R372, R406). -/
def toOwnRing (p : Nat) (r : BitVec 256) (s : State) : State :=
  let o := 0x410000 + p * 0x100
  match ringSlot (s.reg 0 (o + 8)) (bitsOf (s.reg 0 (o + 0x10)) 23 0) (s.fltOwner p).head with
  | some a =>
    let v := s.reg 0 (0x2001008 + 0x40 * p)
    (putDev { fn := some p, ws := [(a, leBytes 32 r.toNat)], msg := if bitOf v 63 then some (p, bitsOf v 10 0) else none } s).updFltOwner p (fun f => { f with
      head := (f.head + 1) % 2 ^ 24 })
  | none => s.updFltOwner p (fun f => { f with dropped := satAdd 8 f.dropped 1 })

def toRings (own : Option Nat) (r : BitVec 256) (s : State) : State :=
  let s1 := toDevRing r s
  match own with
  | some p => toOwnRing p r s1
  | none => s1

/-! ### Suppression, evidence and score (R371, R389 to R391) -/

/-- The weight of an event (R389). -/
def evWeight (code : Nat) : Nat :=
  if code = 0x4410 || code = 0x4411 || code = 0x8102 then 400
  else if code = 0x4420 || code = 0x8103 then 800
  else if code = 0x4105 then 200
  else if code = 0x4101 || code = 0x4104 then 100
  else if code = 0x4103 || code = 0x4802 then 50
  else if code = 0x4801 then 20
  else 0

/-- The lowest-weight entry of the list, earliest entered on ties (R391). -/
def lightest (m : SMap Suspect) : Nat :=
  (m.foldl (fun (b : Option (Nat × Suspect)) e => match b with
    | none => some e
    | some x => if e.2.weight < x.2.weight || (e.2.weight == x.2.weight && decide (e.2.seq < x.2.seq)) then some e else b) none).elim 0 (fun e => e.1)

/-- Evidence of weight w against a unit (R389, R391). -/
def evidence (unit w : Nat) (f : FltSt) : FltSt :=
  if w = 0 then f
  else
    let debt := min 65535 (f.debt + w)
    match f.suspects.find? (fun e => e.2.unit == unit) with
    | some e => { f with debt, suspects := SMap.set e.1 { e.2 with weight := min 65535 (e.2.weight + w) } f.suspects }
    | none =>
      let free := (List.range 32).find? (fun i => (SMap.find i f.suspects).isNone)
      let i := free.getD (lightest f.suspects)
      { f with debt, suspects := SMap.set i ⟨unit, w, f.seq⟩ f.suspects, seq := f.seq + 1 }

/-- The health score (R390). -/
def score (debt : Nat) : Nat := 1000 - debt / 4

/-- Whether the record of an informational or correctable event is suppressed, with COUNT of one that is written, and the table after (R371). [DEDUCED: log 108] -/
def suppress (code src now : Nat) (l : List Supp) : Option Nat × List Supp :=
  match l.find? (fun e => e.code == code && e.src == src) with
  | none => (some 0, ⟨code, src, now, 0⟩ :: l)
  | some e =>
    let rest := l.filter (fun e => e.code != code || e.src != src)
    if now < e.last + 1024 then (none, { e with count := e.count + 1 } :: rest)
    else (some e.count, ⟨code, src, now, 0⟩ :: rest)

/-- An informational event is promoted for its owner (R374). -/
def promotedFor (s : State) (code : Nat) (own : Option Nat) (d0 : W64) : Bool :=
  match own with
  | none => false
  | some p =>
    let c := s.reg 0 (0x410000 + p * 0x100)
    let base := (s.reg 0 0xE00008).toNat / 0x2000000 * 0x2000000 % 2 ^ 48
    (decide (code = 0x1301) && bitOf c 16) || (decide (code = 0x1404) && bitOf c 18) ||
    (decide (code = 0x1403) && (bitOf c 17 || bitOf (s.byte (base + 512 * (d0.toNat % 65536) + 5)) 3))

/-- The step records of R263 count an event of class 1 or 4, and it is noted in its course. -/
def countEvent (cls : Nat) (own : Option Nat) (s : State) : State :=
  if cls = 1 || cls = 4 then
    s.updCrs (fun t => { t with
      evs := (if t.evAt = s.course.toNat then t.evs else []) ++ [(own, cls)], evAt := s.course.toNat
      steps := t.steps.map (fun e =>
        if own.isNone || own == some e.1 then
          (e.1, if cls = 1 then { e.2 with evInfo := e.2.evInfo + 1 } else { e.2 with evCorr := e.2.evCorr + 1 })
        else e) })
  else s

/-- The handling window of owner p as an event of it arrives (R376, R377): `fatal` says class 8 or C, promoted events included. Answers
whether the window escalates now. -/
def inWindow (f : FltOwner) (fatal : Bool) (r : Option (BitVec 256)) : FltOwner × Bool :=
  if !f.handling then
    (if fatal then { f with handling := true, first := r.getD 0 } else f, false)
  else
    let f1 := { f with ovfCount := min 65535 (f.ovfCount + 1), ovf := r.getD f.ovf }
    if fatal && !f.escalated then ({ f1 with escalated := true, frogReq := true }, true) else (f1, false)

/-- The consequence of an event's class (R374). -/
def consequence (cls : Nat) (fatal8 : Bool) (own : Option Nat) (s : State) : State :=
  if cls = 0xC then
    (if s.ownerList.isEmpty then s.updFlt (fun f => { f with degraded := true })
     else (s.ownerList.foldl (fun s p => stopOwner p s) s).updFlt (fun f => { f with out := true }))
  else if fatal8 then (match own with
    | some p => stopOwner p s
    | none => s)
  else s

/-- An event reaches the fault manager: record, window, evidence and consequence. What a Bench engine still runs for a suspended owner
(number 16) is charged to no owner. [DESIGN CHOICE: log 162] -/
def State.raise1 (s : State) (code src : Nat) (own0 : Option Nat) (d0 d1 : W64) : State :=
  let own := own0.filter (fun p => decide (p < 16))
  let cls := code / 4096
  let prom := promotedFor s code own d0
  let fatal := decide (8 ≤ cls) || prom
  let sup := if cls = 1 || cls = 4 then suppress code src s.elapsed s.u.flt.supp else (some 0, s.u.flt.supp)
  let fo := match own with
    | some p => s.fltOwner p
    | none => {}
  let rec0 := sup.1.map (fun n => eventRecord code src own prom fo.handling fo.escalated n s.course d0 d1)
  let s1 := (countEvent cls own s).updFlt (fun f => evidence src (evWeight code) { f with
    supp := sup.2, dfirst := if cls = 0xC && f.dfirst == 0 then rec0.getD 0 else f.dfirst })
  let s2 := match rec0 with
    | some r => toRings own r s1
    | none => s1
  let s3 := match own with
    | none => s2
    | some p =>
      let full := rec0.getD (eventRecord code src own prom fo.handling fo.escalated 0 s.course d0 d1)
      let w := inWindow fo fatal (if fo.handling then rec0 else some full)
      let s4 := s2.updFltOwner p (fun g => { w.1 with head := g.head, dropped := g.dropped })
      if w.2 then freezeMasters p (toRings own (eventRecord 0x8601 0xA000 own false true true 0 s.course 0 0) s4) else s4
  consequence cls (fatal && decide (cls ≠ 0xC)) own s3

/-- Report the records lost (R264). -/
def flushLost (s : State) : State :=
  s.u.crs.lost.foldl (fun s p => s.raise1 0x8703 0x7000 (some p) 0 0) (s.updCrs (fun t => { t with lost := [] }))

/-- Raise an event; a score that falls below the threshold raises 0x4602 once (R390). -/
def State.raise (s : State) (code src : Nat) (own : Option Nat) (d0 d1 : W64) : State :=
  let s1 := flushLost (s.raise1 code src own d0 d1)
  let low := decide (score s1.u.flt.debt < bitsOf (s1.reg 0x0100000300010258 0x400008) 9 0)
  let s2 := s1.updFlt (fun f => { f with low })
  if low && !s.u.flt.low then s2.raise1 0x4602 0xA000 none 0 0 else s2

/-- Close an owner's open step and report a record that is lost. -/
def closeStepEv (p flags : Nat) (ready : Bool) (s : State) : State := flushLost (closeStep p flags ready s)

/-- Stop an owner and report a record that is lost with its step. -/
def stopOwnerEv (p : Nat) (s : State) : State := flushLost (stopOwner p s)

/-- The handling window of an owner closes (R379). [DEDUCED: log 109] -/
def closeWindow (p : Nat) (s : State) : State :=
  s.updFltOwner p (fun f => { f with first := 0, ovf := 0, ovfCount := 0, handling := false, escalated := false })

/-- Some job runs. -/
def anyJob (s : State) : Bool := s.ownerList.any (fun p => s.jobRuns p)

/-- Swatch checks of a core's tiles are abandoned (R382). -/
def abandonChecks (c : Nat) (s : State) : State :=
  let n := (s.u.sw.live.filter (fun t => decide (t.core = c))).length
  s.updSw (fun w => { w with live := w.live.filter (fun t => decide (t.core ≠ c)), abandoned := w.abandoned + n })

/-! ### Phase marks (R261) -/

/-- Stamp a phase mark of an owner's open step: marks 1, 2, 7, 8 and 10 keep their first course, the others their last. -/
def State.mark (s : State) (own : Option Nat) (k : Nat) : State :=
  match own with
  | none => s
  | some p => match SMap.find p s.u.crs.steps with
    | none => s
    | some r =>
      if [1, 2, 7, 8, 10].contains k && (SMap.find k r.marks).isSome then s
      else s.updCrs (fun t => { t with steps := SMap.set p { r with marks := SMap.set k (s.course.toNat - r.start) r.marks } t.steps })

/-- Stamp a last-event mark of step n of an owner, open or closed and not yet written. -/
def State.markStep (s : State) (own : Option Nat) (n : W64) (k : Nat) : State :=
  let f := fun (r : StepRec) => if own == some r.own && r.step == n then { r with marks := SMap.set k (s.course.toNat - r.start) r.marks } else r
  s.updCrs (fun t => { t with steps := t.steps.map (fun e => (e.1, f e.2)), closed := t.closed.map f })

/-! ### Uncorrectable sectors (R236) -/

/-- What `memUe` answers is a scratchpad word. -/
def isWord (x : Nat) : Bool := decide (2 ^ 37 ≤ x)
def wordCore (w : Nat) : Nat := (8 * w - 0x010000000000) / 0x2000000

/-- Code and detail words of a sector, or scratchpad word, that reads uncorrectable or as an address mismatch (R236, R243, R370). -/
def State.ueEvent (s : State) (x : Nat) : Nat × W64 × W64 :=
  if isWord x then (0x8102, BitVec.ofNat 64 (8 * x / 256 % 2 ^ 40), 0)
  else
    let r := s.sectorRead x
    (if r.out == .mismatch then 0x8103 else 0x8102,
      BitVec.ofNat 64 (x % 2 ^ 40 + (s.gddrMap (256 * x)).1 * 2 ^ 40), BitVec.ofNat 64 (r.cw0.code + 4 * r.cw1.code))

/-- Its source unit: the channel, or the core. [DEDUCED: log 65] -/
def State.ueSrc (s : State) (x : Nat) : Nat := if isWord x then 0x1000 + wordCore x else 0x4000 + (s.gddrMap (256 * x)).1

/-- MEM_LAST_UE takes a sector (R248): KIND 0 uncorrectable, 1 address mismatch, 2 found by patrol, 3 the CXL tier. -/
def State.setLastUe (s : State) (kind ch sec : Nat) : State :=
  s.updMem (fun m => { m with lastUe := BitVec.ofNat 64 (2 ^ 63 + kind * 2 ^ 61 + ch * 2 ^ 46 + sec % 2 ^ 40) })

def State.noteUe (s : State) (sec : Nat) : State :=
  if isWord sec then s else s.setLastUe (if (s.sectorRead sec).out == .mismatch then 1 else 0) (s.gddrMap (256 * sec)).1 sec

/-- Data that an owner's unit needs reads uncorrectable: its event (R236, R243). -/
def State.raiseUe (x : Nat) (own : Option Nat) (s : State) : State :=
  let p := s.ueEvent x
  (s.noteUe x).raise p.1 (s.ueSrc x) own p.2.1 p.2.2

end Sys2Proof.Machine
end

