-- ==== Sys2Proof/Machine/Operands.lean ====
section
/-!
DEFINITION. The operand forms: instruction fields, tensor descriptors (R135 to R137), address generators (R138 to R141)
and the addresses of elements and blocks (R34, R136).
-/

namespace Sys2Proof.Machine

open Sys2Proof

/-- Field [hi:lo] of an instruction's operand bits (R99). -/
def fld (w : BitVec 57) (hi lo : Nat) : Nat := bitsOf w hi lo

/-! ### Tensor descriptors -/

def tdFmt (t : Line) : Nat := bitsOf t 3 0
def tdClass (t : Line) : Nat := bitsOf t 5 4
def tdMx (t : Line) : Bool := bitOf t 6
def tdT (t : Line) : Int := signed 8 (byteField t 1 1)
def tdScope (t : Line) : Nat := byteField t 2 2
def tdId (t : Line) : Nat := byteField t 4 4
def tdBase (t : Line) : Nat := byteField t 8 6
def tdEpoch (t : Line) : Nat := byteField t 14 2
def tdExt (t : Line) (i : Nat) : Nat := byteField t (16 + 4 * i) 4
/-- Byte stride of dimension i, 1 to 3. -/
def tdStr (t : Line) (i : Nat) : Nat := byteField t (24 + 8 * i) 6

/-- Rows of the tensor with dimensions 1 to 3 flattened. -/
def tdRows (t : Line) : Nat := tdExt t 1 * tdExt t 2 * tdExt t 3
/-- Elements of the tensor. -/
def tdCount (t : Line) : Nat := tdExt t 0 * tdRows t
/-- Padded element count of an ES tensor (R136). -/
def tdPadded (t : Line) : Nat := cdiv (tdCount t) 1024 * 1024

/-- Whether `TLD` accepts a descriptor (R137). A descriptor register that holds zero was never loaded and is not valid. [DESIGN CHOICE: log 211] -/
def tdOk (t : Line) : Bool :=
  let es := fmtIsEs (tdFmt t)
  decide (byteField t 0 1 < 128) && fmtOk (tdFmt t) &&
  decide (tdT t ≠ -128) && decide (tdT t ≠ -127) && (es || decide (tdT t = 0)) &&
  (es || !tdMx t) &&
  (List.range 4).all (fun i => decide (tdExt t i ≠ 0)) &&
  (!es || (decide (tdExt t 0 % 32 = 0) && (List.range 3).all (fun i => decide (byteField t (32 + 8 * i) 8 = 0)))) &&
  (List.range 3).all (fun i => decide (byteField t (32 + 8 * i + 6) 2 = 0)) &&
  decide (byteField t 56 8 = 0) &&
  decide (tdBase t % 64 = 0) &&
  decide ((tdScope t >>> 12) % 8 = 0) && (decide (32768 ≤ tdScope t) || decide (tdScope t % 4096 = 0))

/-- Bytes of one element of a format that is not ES (R136). -/
def elSize (code : Nat) : Nat := fmtBytes code

/-- Address of logical element i of a tensor that is not ES (R136): i0 fastest. -/
def elAddr (t : Line) (i : Nat) : Nat :=
  let i0 := i % tdExt t 0
  let r := i / tdExt t 0
  let i1 := r % tdExt t 1
  let r2 := r / tdExt t 1
  let i2 := r2 % tdExt t 2
  let i3 := r2 / tdExt t 2
  tdBase t + i0 * elSize (tdFmt t) + i1 * tdStr t 1 + i2 * tdStr t 2 + i3 * tdStr t 3

/-- Address of element i0 of row r of a tensor that is not ES. -/
def rowAddr (t : Line) (r i0 : Nat) : Nat := elAddr t (r * tdExt t 0 + i0)

/-- Addresses of block k of an ES tensor: its packed elements, and its block byte (R34). -/
def blkAddr (t : Line) (k : Nat) : Nat × Nat :=
  let o := blockOff (tdFmt t) k
  (tdBase t + o.1, tdBase t + o.2)

/-- Addresses of block k of an MX tensor: its packed elements, and its E8M0 scale byte (R136). -/
def mxAddr (t : Line) (k : Nat) : Nat × Nat :=
  let nb := cdiv (tdCount t) 32
  let data := nb * blockBytes (tdFmt t)
  (tdBase t + k * blockBytes (tdFmt t), tdBase t + cdiv data 64 * 64 + k)

/-- Read block k of an ES tensor. -/
def State.rdBlock (s : State) (t : Line) (k : Nat) : Block :=
  let a := blkAddr t k
  readBlock (tdFmt t) (s.bytes a.1 (blockBytes (tdFmt t))) (s.byte a.2)

/-- Write block k of an ES tensor with its block byte. -/
def State.wrBlock (s : State) (t : Line) (k : Nat) (b : Block) : State :=
  let a := blkAddr t k
  (s.putBytes a.1 (blockData (tdFmt t) b)).putBytes a.2 [blockByte b]

/-- Read a float element at an address as an exact number (R37, R38). -/
def State.rdFl (s : State) (code a : Nat) : Fl := flDecode (fmtFrac code) (s.rd a (elSize code))

/-! ### Address generators -/

def gMode (g : Line) : Nat := bitsOf g 1 0
def gConv (g : Line) : Bool := decide (gMode g = 1)
def gRow (g : Line) : Nat := byteField g 4 4
def gRows (g : Line) : Nat := byteField g 8 4
def gKb (g : Line) : Nat := byteField g (if gConv g then 40 else 12) 4
def gKstart (g : Line) : Nat := byteField g 16 4
def gKend (g : Line) : Nat := byteField g 20 4

/-- Convolution fields (R139). Dimensions 0 to 2 are D, H and W. -/
def gCb (g : Line) : Nat := byteField g 2 2
def gBatch (g : Line) : Nat := byteField g 4 4
def gIn (g : Line) (d : Nat) : Nat := byteField g (8 + 2 * d) 2 + 1
def gOut (g : Line) (d : Nat) : Nat := byteField g (14 + 2 * d) 2 + 1
def gDim (g : Line) (d : Nat) : Nat := byteField g (20 + 4 * d) 4
def gKer (g : Line) (d : Nat) : Nat := gDim g d % 256
def gStride (g : Line) (d : Nat) : Nat := (gDim g d >>> 8) % 8 + 1
def gDil (g : Line) (d : Nat) : Nat := (gDim g d >>> 11) % 8 + 1
def gInDil (g : Line) (d : Nat) : Nat := (gDim g d >>> 16) % 8 + 1
def gPlo (g : Line) (d : Nat) : Nat := (gDim g d >>> 24) % 16
def gPhi (g : Line) (d : Nat) : Nat := (gDim g d >>> 28) % 16
def gM (g : Line) : Nat := byteField g 32 6

/-- Rows of the operand, and the K blocks of one pass: first and one past the last (R138, R139). -/
def gAllRows (g : Line) : Nat := if gConv g then gBatch g * gOut g 0 * gOut g 1 * gOut g 2 else gRows g
def gFirst (g : Line) : Nat := if gConv g then 0 else gKstart g
def gLast (g : Line) : Nat := if gConv g then gKer g 0 * gKer g 1 * gKer g 2 * gCb g else gKend g
def gPos (g : Line) : Nat := if gConv g then gM g else gRow g

/-- The output extent of R78 of dimension d. -/
def convOut (g : Line) (d : Nat) : Int :=
  Int.fdiv (((gIn g d : Int) - 1) * gInDil g d + 1 + gPlo g d + gPhi g d - ((gKer g d : Int) - 1) * gDil g d - 1) (gStride g d) + 1

/-- A dimension that the convolution lacks has extents 1, kernel 1 and nothing else (R139). -/
def convDimAbsent (g : Line) (d : Nat) : Bool :=
  decide (gIn g d = 1) && decide (gOut g d = 1) && decide (gDim g d = 1)

/-- Whether a convolution has spatial dimension d: one dimension is W, two are H and W. -/
def convHas (g : Line) (d : Nat) : Bool := decide (2 ≤ d + bitsOf g 3 2)

/-- Whether `GLD` accepts a generator (R140). -/
def genOk (g : Line) : Bool :=
  if gMode g = 0 then
    decide (byteField g 0 4 = 0) && decide (byteField g 24 40 = 0) &&
    decide (gKstart g < gKend g) && decide (gKstart g ≤ gKb g) && decide (gKb g < gKend g)
  else if gMode g = 1 then
    decide (byteField g 0 1 < 16) && decide (byteField g 1 1 = 0) && decide (bitsOf g 3 2 ≤ 2) &&
    decide (1 ≤ gCb g) && decide (gCb g ≤ 2048) && decide (1 ≤ gBatch g) &&
    (List.range 3).all (fun d =>
      decide (1 ≤ gKer g d) && decide (gKer g d ≤ 15) &&
      decide ((gDim g d >>> 14) % 4 = 0) && decide ((gDim g d >>> 19) % 32 = 0) &&
      decide (convOut g d = (gOut g d : Int)) && (convHas g d || convDimAbsent g d)) &&
    decide (byteField g 38 2 = 0) && decide (byteField g 44 20 = 0) &&
    decide (gKb g < gLast g)
  else false

/-- A generator moved to K block kb and row r. -/
def gSet (g : Line) (kb r : Nat) : Line :=
  if gConv g then putBytes (putBytes g 40 4 kb) 32 6 r else putBytes (putBytes g 12 4 kb) 4 4 r

/-- advance of R141. -/
def gAdvance (g : Line) (n rows : Nat) : Line :=
  if gKb g + n = gLast g then gSet g (gFirst g) (gPos g + rows) else gSet g (gKb g + n) (gPos g)

/-- The input block of a convolution at output row m and K block kb: none where it lies in padding or inserted zeros (R78, R79). -/
def convBlock (g : Line) (m kb : Nat) : Option Nat :=
  let ow := m % gOut g 2
  let oh := (m / gOut g 2) % gOut g 1
  let od := (m / (gOut g 2 * gOut g 1)) % gOut g 0
  let n := m / (gOut g 2 * gOut g 1 * gOut g 0)
  let c := kb % gCb g
  let tap := kb / gCb g
  let tw := tap % gKer g 2
  let th := (tap / gKer g 2) % gKer g 1
  let tt := tap / (gKer g 2 * gKer g 1)
  let co := fun (d o t : Nat) =>
    let x : Int := (o : Int) * gStride g d - gPlo g d + (t : Int) * gDil g d
    if 0 ≤ x && x ≤ ((gIn g d : Int) - 1) * gInDil g d && x % gInDil g d = 0 then some (x / gInDil g d).toNat else none
  match co 0 od tt, co 1 oh th, co 2 ow tw with
  | some a, some b, some w => some ((((n * gIn g 0 + a) * gIn g 1 + b) * gIn g 2 + w) * gCb g + c)
  | _, _, _ => none

/-- The block of zeros presented beyond the rows of an operand (R141): `Z` set, or +0 elements for BF16. -/
def zeroBlock (code : Nat) : Block := ⟨fmtIsEs code, false, 0, List.replicate 32 0⟩

/-- The addresses and lengths that block (row r, K block k) of an operand occupies, none beyond its rows or in padding. -/
def opSpans (t g : Line) (r k : Nat) : List (Nat × Nat) :=
  if gAllRows g ≤ r then []
  else if fmtIsEs (tdFmt t) then
    match (if gConv g then convBlock g r k else some (r * (tdExt t 0 / 32) + k)) with
    | none => []
    | some b => let a := blkAddr t b; [(a.1, blockBytes (tdFmt t)), (a.2, 1)]
  else [(rowAddr t r (32 * k), 32 * elSize (tdFmt t))]

/-- Block (row r, K block k) of an operand as the load path presents it (R138, R141). -/
def State.opBlock (s : State) (t g : Line) (r k : Nat) : Block :=
  if gAllRows g ≤ r then zeroBlock (tdFmt t)
  else if fmtIsEs (tdFmt t) then
    match (if gConv g then convBlock g r k else some (r * (tdExt t 0 / 32) + k)) with
    | none => zeroBlock (tdFmt t)
    | some b => s.rdBlock t b
  else
    let a := rowAddr t r (32 * k)
    ⟨false, false, 0, (List.range 32).map (fun i => s.rd (a + i * elSize (tdFmt t)) (elSize (tdFmt t)))⟩

/-- Whether bytes a to a + n - 1 lie in the populated scratchpad of core c (R5, R90). -/
def inSp (c a n : Nat) : Bool := decide (spBase c ≤ a) && decide (a + n ≤ spBase c + spSize)

/-- Whether offset o and the n bytes from it lie in a populated scratchpad. -/
def spOff (o n : Nat) : Bool := decide (o + n ≤ spSize)

end Sys2Proof.Machine
end

