-- ==== Sys2Proof/Machine/Scale.lean ====
section
/-!
DEFINITION. Conversions to ES formats as every unit makes them: the scale-table entry a conversion must match (R210,
R212), the rounding mode of its class (R58), the block conversion (R43) and the counters it adds (R44, R211).
-/

namespace Sys2Proof.Machine

open Sys2Proof

/-- BNC_SCALE_BASE (R210). -/
def scaleBase (s : State) : Nat := (s.reg 0 0xE00008).toNat / 0x2000000 * 0x2000000 % 2 ^ 48

/-- Address of the scale-table entry that serves a tensor ID (R210). -/
def scaleEntry (s : State) (tid : Nat) : Nat := scaleBase s + 512 * (tid % 65536)

/-- Whether the entry of a tensor is valid and names it (R210). -/
def scaleValid (s : State) (tid : Nat) : Bool :=
  bitOf (s.byte (scaleEntry s tid + 5)) 0 && decide (s.rd (scaleEntry s tid) 4 = tid)

/-- Whether the tensor is in warm-up scaling (R42). -/
def scaleWarm (s : State) (tid : Nat) : Bool := bitOf (s.byte (scaleEntry s tid + 5)) 1

/-- The entry's T for the parity of a step. -/
def scaleT (s : State) (tid : Nat) (step : W64) : Int := signed 8 (s.byte (scaleEntry s tid + 8 + step.toNat % 2)).toNat

/-- The event that halts a converting master before it converts: 0x8533 for an entry that does not match, 0x8534 for a
stale T outside warm-up (R210, R212). -/
def scaleErr (s : State) (own : Option Nat) (t : Line) : Option Nat :=
  if !scaleValid s (tdId t) then some 0x8533
  else if !scaleWarm s (tdId t) && decide (tdT t ≠ scaleT s (tdId t) (s.jobOf own).step) then some 0x8534
  else none

/-- T of a conversion: the descriptor's, or in warm-up that of the instance's live amax (R42). [DEDUCED: log 16] -/
def convT (s : State) (own : Option Nat) (t : Line) (xs : List Fl) : Int :=
  if scaleWarm s (tdId t) then
    let mm := xs.foldl maxMag (0, 0)
    if mm.1 = 0 then 0
    else min (max (shiftFor (tdFmt t) mm.1 mm.2 + bitsOf (s.jobOf own).policy 16 14) (-126)) 127
  else tdT t

/-- The rounding modes of block b: the class's stochastic draws, or to nearest (R48, R58). -/
def convModes (s : State) (own : Option Nat) (t : Line) (b : Nat) : List RMode :=
  let j := s.jobOf own
  if j.sr (tdClass t) then
    (srValues j.seed j.step (BitVec.ofNat 64 (tdId t)) (BitVec.ofNat 64 b)).map .sr
  else []

/-- Add one conversion's counts to the tensor's bank of the step's parity (R211); the first saturated block and the first
non-finite element of a step raise their events (R45, R46). `src` is the source unit. -/
def scaleAdd (s : State) (own : Option Nat) (src : Nat) (tid : Nat) (c : ConvCnt) : State :=
  let j := s.jobOf own
  let a := scaleEntry s tid + 64 + 48 * (j.step.toNat % 2)
  let old := fun i => s.rd (a + 6 * i) 6
  let s1 := (((((s.wr a 6 (satAdd 48 (old 0) c.nzIn)).wr (a + 6) 6 (satAdd 48 (old 1) c.flushed)).wr (a + 12) 6
    (satAdd 48 (old 2) c.clampLow)).wr (a + 18) 6 (satAdd 48 (old 3) c.saturated)).wr (a + 24) 6
    (satAdd 48 (old 4) c.nonfinite)).wr (a + 30) 4 (max (s.rd (a + 30) 4) c.amax)
  let x := 2 * (tid % 65536) + j.step.toNat % 2
  let s1 : State := { s1 with bench := { s1.bench with ran := (if s1.bench.ran.contains x then s1.bench.ran else x :: s1.bench.ran) } }
  let s2 := if old 3 = 0 && c.saturated ≠ 0 then s1.raise 0x4402 src own (BitVec.ofNat 64 tid) j.step else s1
  if old 4 = 0 && c.nonfinite ≠ 0 then s2.raise 0x1404 src own (BitVec.ofNat 64 tid) j.step else s2

/-- Convert blocks of 32 values and write them as blocks of the tensor, with the sum of their counts. -/
def convBlocks (s : State) (own : Option Nat) (t : Line) (rne : Bool) (tt : Int) :
    List (Nat × List Fl) → State × ConvCnt
  | [] => (s, {})
  | (b, x) :: r =>
    let bc := convertBlock (tdFmt t) tt (if rne then [] else convModes s own t b) x
    let p := convBlocks (s.wrBlock t b bc.1) own t rne tt r
    (p.1, bc.2.add p.2)

/-- Blocks converted with exponent `tt`, written and counted (R43, R44). -/
def convWriteT (s : State) (own : Option Nat) (src : Nat) (t : Line) (rne : Bool) (tt : Int) (bs : List (Nat × List Fl)) : State :=
  let p := convBlocks s own t rne tt bs
  scaleAdd p.1 own src (tdId t) p.2

/-- One conversion: blocks converted, written and counted (R43, R44). -/
def convWrite (s : State) (own : Option Nat) (src : Nat) (t : Line) (rne : Bool) (bs : List (Nat × List Fl)) : State :=
  convWriteT s own src t rne (convT s own t (bs.flatMap (fun b => b.2))) bs

end Sys2Proof.Machine
end

