-- ==== Sys2Proof/Machine/Protect.lean ====
section
/-!
DEFINITION. Who may reach which address (R5, R186, R337, R412, R421, R466), and the slice table that declares the ranges
only an owning Bench engine writes (R208).
-/

namespace Sys2Proof.Machine

open Sys2Proof

/-! ### Ranges -/

/-- Bytes [a, a + n) lie within [lo, hi). -/
def within (a n lo hi : Nat) : Bool := decide (lo ≤ a) && decide (a + n ≤ hi)

/-- Bytes [a, a + n) lie in the union of some ranges, of which two may adjoin. -/
def inUnion (l : List (Nat × Nat)) (a n : Nat) : Bool :=
  l.any (fun r => within a n r.1 r.2) || l.any (fun r => l.any (fun q => decide (r.2 = q.1) && within a n r.1 q.2))

/-- Two byte ranges, given by base and length, share a byte. -/
def overlap (a n b m : Nat) : Bool := decide (a < b + m) && decide (b < a + n) && decide (0 < n) && decide (0 < m)

/-- A range word of a configuration image (R338): valid in [63], last unit in [60:48], first unit in [12:0]. -/
def rangeOf (w : Nat) (base unit : Nat) : Option (Nat × Nat) :=
  if Nat.testBit w 63 then some (base + (w % 8192) * unit, base + ((w >>> 48) % 8192 + 1) * unit) else none

/-- The GDDR7 and CXL ranges of an image: pairs of first address and one past the last. -/
def cfgMem (cfg : Line) : List (Nat × Nat) :=
  (rangeOf (byteField cfg 16 8) 0 0x4000000).toList ++ (rangeOf (byteField cfg 24 8) 0 0x4000000).toList
def cfgCxl (cfg : Line) : List (Nat × Nat) := (rangeOf (byteField cfg 32 8) 0x100000000000 0x40000000).toList
def cfgClusters (cfg : Line) : Nat := byteField cfg 0 2
def cfgLinks (cfg : Line) : Nat := byteField cfg 40 8

/-! ### The CXL tier (R412, R415) -/

/-- Register-space offset of decoder n of CXL port p: HOST_HDM_BASE; HOST_HDM_CTRL is 8 above (R417). -/
def hdmOff (p n : Nat) : Nat := 0x2002000 + 0x1000 * p + 0x100 + 0x10 * n

/-- A decoder's range from its two register values. -/
def hdmSpan (base ctrl : W64) : Nat × Nat :=
  let b := bitsOf base 47 28 * 0x10000000
  (b, b + bitsOf ctrl 34 20 * 0x10000000)

/-- The committed range of a decoder, if it is in force. -/
def hdmRange (s : State) (p n : Nat) : Option (Nat × Nat) :=
  let c := s.reg 0 (hdmOff p n + 8)
  if bitOf c 62 then some (hdmSpan (s.reg 0 (hdmOff p n)) c) else none

/-- A decoder of a port, with base and control register as given, is no longer in force: the bytes of its range are those of the device at its
`DPA` (R412, R413). [DESIGN CHOICE: log 198] -/
def tierOut (p : Nat) (base ctrl : W64) (s : State) : State :=
  let r := hdmSpan base ctrl
  let d := bitsOf ctrl 61 40 * 0x10000000
  if bitOf ctrl 62 then
    { s with mem := SMap.clear r.1 (r.2 - r.1) s.mem
             u := { s.u with host := { s.u.host with cxlDev := SMap.set p (SMap.onto (SMap.clear d (r.2 - r.1) (SMap.get [] p s.u.host.cxlDev))
               ((SMap.slice r.1 (r.2 - r.1) s.mem).map (fun e => (e.1 - r.1 + d, e.2)))) s.u.host.cxlDev } } }
  else s

/-- A decoder comes into force: its range reaches the device's bytes at its `DPA`. -/
def tierIn (p : Nat) (base ctrl : W64) (s : State) : State :=
  let r := hdmSpan base ctrl
  let d := bitsOf ctrl 61 40 * 0x10000000
  let t := SMap.get [] p s.u.host.cxlDev
  if bitOf ctrl 62 then
    { s with mem := SMap.onto (SMap.clear r.1 (r.2 - r.1) s.mem) (((SMap.slice d (r.2 - r.1) t).filter (fun e => e.2 != 0)).map (fun e => (e.1 - d + r.1, e.2)))
             u := { s.u with host := { s.u.host with cxlDev := SMap.set p (SMap.clear d (r.2 - r.1) t) s.u.host.cxlDev } } }
  else s

/-- Every decoder goes out of force, as at module reset. -/
def tiersOut (s : State) : State :=
  (List.range 8).foldl (fun s k => tierOut (k / 4) (s.reg 0 (hdmOff (k / 4) (k % 4))) (s.reg 0 (hdmOff (k / 4) (k % 4) + 8)) s) s

/-- Bytes of the CXL tier that a committed decoder of an up port covers. -/
def cxlOk (s : State) (a n : Nat) : Bool :=
  let p := if a < 0x140000000000 then 0 else 1
  s.cxlUp p && (List.range 4).any (fun i => match hdmRange s p i with
    | some r => within a n r.1 r.2
    | none => false)

/-! ### The address map (R466) -/

/-- Populated GDDR7 outside the EDF region (R421). -/
def gddrOk (s : State) (a n : Nat) : Bool := within a n 0 s.edfBase

/-- The scratchpad of an enabled core holds bytes [a, a + n): its number. -/
def spCore (s : State) (a n : Nat) : Option Nat :=
  let c := (a - 0x010000000000) / 0x2000000
  if decide (0x010000000000 ≤ a) && decide (c < s.nCores) && inSp c a n then some c else none

/-- Whether a master of an owner (none: work charged to no owner) may reach bytes [a, a + n) (R5, R337). -/
def State.ownerReach (s : State) (own : Option Nat) (a n : Nat) : Bool :=
  match own with
  | none => gddrOk s a n || (spCore s a n).isSome || (within a n 0x100000000000 0x180000000000 && cxlOk s a n)
  | some p =>
    let cfg := (s.owner p).cfg
    (gddrOk s a n && inUnion (cfgMem cfg) a n) ||
    (match spCore s a n with
      | some c => s.ownerOfCore c == some p
      | none => false) ||
    (cxlOk s a n && (cfgCxl cfg).any (fun r => within a n r.1 r.2)) ||
    within a n 0x400000000000 0x800000000000

/-! ### The slice table (R208) -/

/-- [DESIGN CHOICE: log 8] -/
def sliceBase (s : State) : Nat := bitsOf (s.reg 0 0xE00010) 47 7 * 128
def sliceCount (s : State) : Nat := bitsOf (s.reg 0 0xE00010) 63 48

/-- Addresses of the slice-table entries. -/
def sliceEntries (s : State) : List Nat := (List.range (sliceCount s)).map (fun i => sliceBase s + 128 * i)

/-- The entry of a slice ID. [DEDUCED: log 161] -/
def sliceFind (s : State) (id : Nat) : Option Nat := (sliceEntries s).find? (fun a => decide (s.rd a 4 = id))

def slId (s : State) (a : Nat) : Nat := s.rd a 4
def slEngine (s : State) (a : Nat) : Nat := s.rd (a + 4) 1
def slFlags (s : State) (a : Nat) : Byte := s.byte (a + 5)
def slEpoch (s : State) (a : Nat) : Nat := s.rd (a + 6) 2
def slRows (s : State) (a : Nat) : Nat := s.rd (a + 8) 4
def slCols (s : State) (a : Nat) : Nat := s.rd (a + 12) 4
def slMaster (s : State) (a : Nat) : Nat := s.rd (a + 16) 6
def slState (s : State) (a : Nat) : Nat := s.rd (a + 22) 6
def slAcc (s : State) (a : Nat) : Nat := s.rd (a + 28) 6
def slHold (s : State) (a : Nat) : Nat := s.rd (a + 34) 6
def slWc (s : State) (a : Nat) : Nat := s.rd (a + 40) 6
def slWcFmt (s : State) (a : Nat) : Nat := s.rd (a + 46) 1
def slOpt (s : State) (a : Nat) : Nat := s.rd (a + 47) 1
def slWcEntry (s : State) (a : Nat) : Nat := s.rd (a + 48) 2
def slGroup (s : State) (a : Nat) : Nat := s.rd (a + 50) 2
/-- The span length in micro-batches. -/
def slSpan (s : State) (a : Nat) : Nat := s.rd (a + 52) 1 % 16 + 1
def slMbs (s : State) (a : Nat) : Nat := s.rd (a + 54) 2
def slParams (s : State) (a : Nat) : Nat := s.rd (a + 56) 6
def slHslots (s : State) (a : Nat) : Nat := s.rd (a + 62) 2
def slImgOff (s : State) (a : Nat) : Nat := s.rd (a + 64) 8
def slTokens (s : State) (a : Nat) : Nat := s.rd (a + 72) 4
def slFrozen (s : State) (a : Nat) : Bool := bitOf (slFlags s a) 0
def slLead (s : State) (a : Nat) : Bool := bitOf (slFlags s a) 1
def slNoise (s : State) (a : Nat) : Bool := bitOf (slFlags s a) 2
def slRowBlk (s : State) (a : Nat) : Bool := bitOf (slFlags s a) 3
def slTied (s : State) (a : Nat) : Bool := bitOf (slFlags s a) 4

/-! ### Owners of groups and slices -/

/-- The owner that holds a job tag (R279). -/
def State.ownerOfTag (s : State) (tag : Nat) : Option Nat :=
  if tag = 0 then none else s.ownerList.find? (fun p => decide (cfgTag (s.owner p).cfg = tag))

def State.group (s : State) (i : Nat) : Option Group := SMap.find i s.u.col.groups

/-- The owner that a group's conversations carry (R337). -/
def groupOwner (s : State) (g : Group) : Option Nat := s.ownerOfTag (grTag g.e)

/-- COL_EPOCH.CUR of an owner (R332). -/
def curEpoch (s : State) (p : Nat) : Nat := bitsOf (s.reg 0 (0xA00050 + 8 * p)) 15 0

/-- The owner of a slice: the one whose group's tag its update group holds, or whose GDDR7 range its masters lie in. -/
def sliceOwner (s : State) (a : Nat) : Option Nat :=
  match (s.group (slGroup s a % 4096)).bind (groupOwner s) with
  | some p => some p
  | none => s.ownerList.find? (fun p => (cfgMem (s.owner p).cfg).any (fun r => within (slMaster s a) 1 r.1 r.2))

/-- An FP32 pattern is a number above zero. -/
def f32Pos (x : Nat) : Bool := decide (0 < x) && decide (x ≤ 0x7F800000)

/-- Bytes of a slice's state image (R214, R219). -/
def slStateBytes (s : State) (a : Nat) : Nat :=
  let rc := slRows s a * slCols s a
  match slOpt s a with
  | 5 => 8 * rc
  | 6 => 4 * rc
  | 7 => 4 * rc
  | 8 => (if f32Pos (s.rd (slParams s a + 8) 4) then 4 * rc else 0) + 4 * slRows s a + 4 * slCols s a
  | k => if 16 ≤ k then s.rd (a + 76) 8 else 0

/-- The declared master and optimizer-state ranges, with the engine that may write each (R186). -/
def declared (s : State) : List (Nat × Nat × Nat) :=
  (sliceEntries s).flatMap (fun a => [(slEngine s a, slMaster s a, 4 * slRows s a * slCols s a), (slEngine s a, slState s a, slStateBytes s a)])

/-- A write of bytes [a, a + n) by a master that is not engine e reaches a declared range of another engine (R186). -/
def hitsMaster (s : State) (e : Option Nat) (a n : Nat) : Bool :=
  (declared s).any (fun d => (match e with | some k => d.1 != k | none => true) && overlap a n d.2.1 d.2.2)

/-! ### Queues (R336, R350) -/

def cfgQFirst (c : Line) : Nat := byteField c 4 2
def cfgQCount (c : Line) : Nat := byteField c 8 4

/-- First queue and number of queues of an owner: in exclusive mode owner 0 holds every queue (R336). -/
def State.queuesOf (s : State) (p : Nat) : Nat × Nat :=
  if s.u.que.shared then (cfgQFirst (s.owner p).cfg, cfgQCount (s.owner p).cfg) else (0, if p = 0 then 65536 else 0)

/-- Owner p holds queue q (R336). -/
def State.holds (s : State) (p q : Nat) : Bool := decide ((s.queuesOf p).1 ≤ q) && decide (q < (s.queuesOf p).1 + (s.queuesOf p).2)

/-- Bytes [a, a + n) take in a descriptor of a queue that an owner other than f holds: only its owner's host function writes it (R350). [DESIGN CHOICE: log 164] -/
def hitsQueues (s : State) (f : Option Nat) (a n : Nat) : Bool :=
  s.ownerList.any (fun p => decide (f ≠ some p) &&
    overlap a n (qtableBase s + 64 * (s.queuesOf p).1) (64 * (s.queuesOf p).2))

/-- Whether a master other than a Bench engine and a host function may make an access (R5, R186, R337, R350). -/
def State.reach (s : State) (own : Option Nat) (a n : Nat) (wr : Bool) : Bool :=
  s.ownerReach own a n && !(wr && (hitsMaster s none a n || hitsQueues s none a n))

/-- Whether host function f may make an access for an owner: it writes its own queues' descriptors (R350). -/
def State.fnReach (s : State) (f : Nat) (own : Option Nat) (a n : Nat) (wr : Bool) : Bool :=
  s.ownerReach own a n && !(wr && (hitsMaster s none a n || hitsQueues s (some f) a n))

end Sys2Proof.Machine
end

