-- ==== Sys2Proof/Machine/Store.lean ====
section
/-!
DEFINITION. Corrections and uncorrectable sectors of GDDR7 as the memory controllers count them (R231 to R239, R248): what every read does
beside delivering data.
-/

namespace Sys2Proof.Machine

open Sys2Proof

def memCtrl (s : State) : W64 := s.reg 0x000141DE00000002 0xC00000
def memCompat (s : State) : Bool := bitOf (memCtrl s) 0
def memWb (s : State) : Bool := bitOf (memCtrl s) 1
def memPatrol (s : State) : Nat := bitsOf (memCtrl s) 51 32

def State.memCh (s : State) (c : Nat) : MemCh := SMap.get {} c s.u.mem.ch
def updMemCh (c : Nat) (f : MemCh → MemCh) (s : State) : State := s.updMem (fun m => { m with ch := SMap.set c (f (s.memCh c)) m.ch })

/-- Bank group of a sector of a channel offset (R191). -/
def bankGroup (off : Nat) : Nat := off / 256 % 4

/-! ### Buckets (R238) -/

def lowerBy (on : Bool) (v : Nat) : Nat := if on then v - 1 else v

/-- The leak of the present elapsed course, once (R238). [DEDUCED: log 114] -/
def bucketLeak (s : State) : State :=
  let m := s.u.mem
  let now := s.elapsed
  if m.leakAt == some now || memCompat s then s
  else
    let chL := bitsOf m.bucket 23 0
    let bgL := bitsOf m.bucket 47 24
    let on := fun p => decide (p ≠ 0) && decide (now % p = 0)
    s.updMem (fun m => { m with
      leakAt := some now
      ch := m.ch.map (fun e => (e.1, { e.2 with lvl := lowerBy (on chL) e.2.lvl, bg := e.2.bg.map (lowerBy (on bgL)) })) })

/-- A bucket after a correction, and whether it overflows: depth 0 turns it off. [DEDUCED: log 66] -/
def bucketAdd (depth v : Nat) : Nat × Bool := if depth = 0 then (v, false) else if depth < v + 1 then (0, true) else (v + 1, false)

/-- The log's entry of a corrected sector (R239, MEM_LOG). -/
def logEntry (ch sec : Nat) (r : EccRes) : W64 :=
  let c0 := r.cw0 == .corrected
  let c1 := r.cw1 == .corrected
  BitVec.ofNat 64 (2 ^ 63 + (if c0 then r.pos0 else r.pos1) % 256 * 2 ^ 54 + ((if c0 then 1 else 0) + (if c1 then 2 else 0)) * 2 ^ 52 + ch % 64 * 2 ^ 46 + sec % 2 ^ 40)

/-- Detail words of a memory event at a sector (R370). -/
def memD0 (ch sec : Nat) : W64 := BitVec.ofNat 64 (sec % 2 ^ 40 + ch * 2 ^ 40)
def memD1 (r : EccRes) (bg : Nat) : W64 := BitVec.ofNat 64 (r.cw0.code + 4 * r.cw1.code + bg * 16)

/-- One correction in a sector is counted (R233, R238, R239). -/
def countCorrection (sec : Nat) (r : EccRes) (s0 : State) : State :=
  let s := bucketLeak s0
  let ma := s.gddrMap (256 * sec)
  let ch := ma.1
  let s1 := updMemCh ch (fun c => { c with ce := satAdd 48 c.ce 1 }) s
  let c := s1.memCh ch
  if memCompat s then
    let s2 := updMemCh ch (fun c => { c with compat := satAdd 16 c.compat 1 }) s1
    let known := s2.u.mem.log.any (fun e => decide (bitsOf e 39 0 = sec))
    let s3 := s2.updMem (fun m => if known then m else if m.log.length < 16 then { m with log := m.log ++ [logEntry ch sec r] } else { m with dropped := true })
    if c.compat = 0xFFFE then s3.raise 0x4102 (0x4000 + ch) none (memD0 ch sec) (memD1 r 0) else s3
  else
    let bk := s.u.mem.bucket
    let g := bankGroup ma.2
    let a := bucketAdd (bitsOf bk 55 48) c.lvl
    let b := bucketAdd (bitsOf bk 63 56) (nth 0 c.bg g)
    let s2 := updMemCh ch (fun c => { c with lvl := a.1, bg := c.bg.set g b.1 }) s1
    let s3 := if a.2 then s2.raise 0x4101 (0x4000 + ch) none (memD0 ch sec) (memD1 r 15) else s2
    if b.2 then s3.raise 0x4101 (0x4000 + ch) none (memD0 ch sec) (memD1 r g) else s3

/-- A read that corrects writes the corrected sector back, unless write-back is off or an access is queued behind it (R233). -/
def correctSector (sec : Nat) (r : EccRes) (behind : Bool) (s : State) : State :=
  let s1 := countCorrection sec r s
  if memWb s && !behind then s1.putAll (256 * sec) r.data else s1

/-- An access to a sector that was queued behind a read that corrected: it goes on from the corrected data (R233). -/
def State.forwards (s : State) (sec : Nat) : Bool := (s.memCh (s.gddrMap (256 * sec)).1).fwd == some sec

/-- A read that finds a sector corrected: the correction is counted, unless the read goes on from data corrected before it (R233). -/
def takeRead (sec : Nat) (r : EccRes) (s : State) : State :=
  if s.forwards sec then updMemCh (s.gddrMap (256 * sec)).1 (fun c => { c with fwd := none }) s else correctSector sec r false s

/-- A scratchpad word that reads as corrected is counted and written back; one corrected before and not written since raises 0x4104 (R243). -/
def wordFix (w data : Nat) (s : State) : State :=
  let c := wordCore w
  let again := s.sp.ce.contains w
  let s1 := (s.updMem (fun m => { m with sramCe := SMap.set c (satAdd 48 (SMap.get 0 c m.sramCe) 1) m.sramCe })).putAll (8 * w) (leBytes 8 data)
  let s2 : State := { s1 with sp := { s1.sp with ce := w :: s1.sp.ce, err := SMap.erase w s1.sp.err, wlog := s.sp.wlog, time := s.sp.time } }
  if again then s2.raise 0x4104 (0x1000 + c) none (memD0 0 (8 * w / 256)) 0 else s2

def wordNote (s : State) (w : Nat) : State := wordFix w (s.wordRead w).2 s

/-- Every sector and scratchpad word of bytes [a, a + n) that reads as corrected is counted and written back. -/
def State.readNote (s : State) (a n : Nat) : State :=
  let s1 := (s.eccIn a n).foldl (fun s x =>
    let r := s.sectorRead x
    if r.out == .corrected then takeRead x r s else s) s
  (s1.errIn a n).foldl (fun s w => if (s.wordRead w).1 == .corrected then wordNote s w else s) s1

/-- Bytes of a block of k bytes from address b that the spans of a write cover. [DEDUCED: log 40] -/
def covered (b k : Nat) (sp : List (Nat × Nat)) : Nat :=
  ((List.range k).filter (fun i => sp.any (fun p => decide (p.1 ≤ b + i) && decide (b + i < p.1 + p.2)))).length

/-- The sectors and scratchpad words with stored errors that a write covers in part only, so that it reads them first (R232, R243). -/
def State.merged (s : State) (sp : List (Nat × Nat)) : List Nat × List Nat :=
  ((s.ecc.filter (fun e => decide (0 < covered (256 * e.1) 256 sp) && decide (covered (256 * e.1) 256 sp < 256))).map (fun e => e.1),
    (s.sp.err.filter (fun e => decide (0 < covered (8 * e.1) 8 sp) && decide (covered (8 * e.1) 8 sp < 8))).map (fun e => e.1))

/-- The first sector or word whose read discards a write of these spans (R232). -/
def State.writeUe (s : State) (sp : List (Nat × Nat)) : Option Nat :=
  ((s.merged sp).1.find? (fun x => decide (2 ≤ (s.sectorRead x).out.code))).or ((s.merged sp).2.find? (fun w => decide (2 ≤ (s.wordRead w).1.code)))

/-- What a write of these spans finds (R232, R233, R243): a sector or word it covers whole is encoded afresh, one in part is corrected first. -/
def State.writeNote (sp : List (Nat × Nat)) (s : State) : State :=
  let m := s.merged sp
  let s1 := m.1.foldl (fun s x =>
    let r := s.sectorRead x
    if r.out == .corrected then ((if s.forwards x then updMemCh (s.gddrMap (256 * x)).1 (fun c => { c with fwd := none }) s
      else countCorrection x r s).putAll (256 * x) r.data) else s) s
  let s2 := m.2.foldl (fun s w => if (s.wordRead w).1 == .corrected then wordNote s w else s) s1
  { s2 with ecc := s2.ecc.filter (fun e => decide (covered (256 * e.1) 256 sp < 256))
            sp := { s2.sp with err := s2.sp.err.filter (fun e => decide (covered (8 * e.1) 8 sp < 8)) } }

/-- A unit's reads: data that reads uncorrectable raises its event and the unit does nothing with it, else f goes on (R233, R236, R243). -/
def State.guardRead (own : Option Nat) (sp : List (Nat × Nat)) (f : State → State) (s : State) : State :=
  if s.ecc.isEmpty && s.sp.err.isEmpty then f s
  else match sp.findSome? (fun p => s.memUe p.1 p.2) with
  | some x => s.raiseUe x own
  | none => f (sp.foldl (fun s p => s.readNote p.1 p.2) s)

/-- The control complex's read of bytes [a, a + n) (R231, R236): corrections are counted, and data that reads uncorrectable raises its event. -/
def ctlRead (a n : Nat) (s : State) : State := match s.memUe a n with
  | some x => s.raiseUe x none
  | none => s.readNote a n

/-- What smaller writes found since is counted (R232, R233, R236, R243), charged to an owner: none for the device's own. [DESIGN CHOICE: log 41] -/
def drainFor (own : Option Nat) (s : State) : State :=
  if s.sp.notes.isEmpty && s.sp.words.isEmpty then s
  else
    let s0 : State := { s with sp := { s.sp with notes := [], words := [] } }
    let s1 := s.sp.notes.foldl (fun s e =>
      if e.2.out == .corrected then countCorrection e.1 e.2 s
      else
        let ch := (s.gddrMap (256 * e.1)).1
        let mis := e.2.out == .mismatch
        (s.setLastUe (if mis then 1 else 0) ch e.1).raise (if mis then 0x8103 else 0x8102) (0x4000 + ch) own (memD0 ch e.1) (memD1 e.2 0)) s0
    s.sp.words.foldl (fun s e =>
      let c := wordCore e.1
      if e.2 then s.raise 0x8102 (0x1000 + c) own (memD0 0 (8 * e.1 / 256)) 0
      else s.updMem (fun m => { m with sramCe := SMap.set c (satAdd 48 (SMap.get 0 c m.sramCe) 1) m.sramCe })) s1

def drainNotes (s : State) : State := drainFor none s

/-- The stored symbols of sector t as they read under sector address `sec` (R231). -/
def readUnder (s : State) (sec t : Nat) : EccRes :=
  let m := SMap.get 0 t s.ecc
  let d := s.bytes (256 * t) 256
  let p := sectorCheck t d
  let x := fun (l : List Byte) (o : Nat) => (List.range l.length).map (fun i => nth 0 l i ^^^ BitVec.ofNat 8 (byteField m (o + i) 1))
  sectorDecode sec (x d 0) (x p 256)

end Sys2Proof.Machine
end

