-- ==== Sys2Proof/Machine/Slot.lean ====
section
/-!
DEFINITION. The slot frame (R99): which opcodes and operand bits each slot assigns, which field values are invalid, and
which resources an instruction names for the W bank (R156, R157).
-/

namespace Sys2Proof.Machine

open Sys2Proof

/-- The mask of bits [hi:lo]. -/
def bitMask (hi lo : Nat) : Nat := (2 ^ (hi + 1 - lo) - 1) <<< lo

/-- The operand bits that a V-slot opcode uses (R121, R125), none where the opcode is unassigned. [DESIGN CHOICE: log 202] -/
def vUsed (op : Nat) : Option Nat :=
  let p := bitMask 56 53
  let vd := bitMask 52 47
  let va := bitMask 46 41
  let vb := bitMask 40 35
  let vc := bitMask 34 29
  let sx := bitMask 28 24
  let bf := bitMask 23 23
  if op = 0x01 || op = 0x02 || op = 0x03 || op = 0x05 || op = 0x06 then some (p + vd + va + vb + bf)
  else if op = 0x04 then some (p + vd + va + vb + vc + bf + bitMask 22 21)
  else if op = 0x07 || op = 0x08 then some (p + vd + va + bf)
  else if op = 0x09 then some (p + vd + va + vb)
  else if 0x0A ≤ op && op ≤ 0x10 then some (p + vd + va)
  else if op = 0x11 then some (p + vd + va + vb + bitMask 7 0)
  else if op = 0x18 then some (p + bitMask 49 47 + va + vb + bitMask 22 20)
  else if op = 0x19 then some (p + vd + va + vb)
  else if 0x20 ≤ op && op ≤ 0x27 then some (p + vd + va + vb)
  else if op = 0x28 then some (p + vd + va + vb + bitMask 3 0)
  else if op = 0x29 then some (p + vd + sx)
  else if op = 0x2A then some (p + bitMask 51 47 + va + sx)
  else if op = 0x2B then some (p + vd + va + vb)
  else if op = 0x2C then some (p + vd + va + bitMask 1 0)
  else if op = 0x2D then some (p + vd + va)
  else if op = 0x30 then some (p + vd + sx + bitMask 23 0)
  else if op = 0x31 then some (p + va + sx + bitMask 23 0)
  else if op = 0x34 then some (p + vd + sx + bitMask 23 19)
  else if op = 0x35 then some (p + va + sx + bitMask 23 20)
  else none

/-- The operand bits that an opcode of slot k uses; none where the opcode is unassigned (R99, R106, R121, R142, R150). -/
def slotUsed (k op : Nat) : Option Nat :=
  if op = 0 then some 0
  else match k with
  | 0 => match op with
    | 0x01 => some (bitMask 56 41)
    | 0x02 => some (bitMask 56 37)
    | 0x03 => some (bitMask 56 49)
    | 0x04 => some (bitMask 56 25)
    | 0x05 => some (bitMask 56 46)
    | 0x06 => some (bitMask 56 47)
    | 0x07 => some (bitMask 56 53 + bitMask 51 47)
    | 0x08 => some (bitMask 56 51)
    | _ => none
  | 1 => vUsed op
  | 2 => match op with
    | 0x01 => some (bitMask 56 48)
    | 0x02 => some (bitMask 56 49)
    | 0x03 => some (bitMask 56 49)
    | 0x04 => some (bitMask 56 23)
    | 0x05 => some (bitMask 53 23)
    | 0x06 => some (bitMask 56 46)
    | 0x07 => some (bitMask 56 46)
    | 0x08 => some (bitMask 56 46)
    | _ => none
  | _ =>
    if 0x01 ≤ op && op ≤ 0x09 then some (bitMask 56 42)
    else if op = 0x0A then some (bitMask 56 47 + bitMask 31 0)
    else if op = 0x0B || op = 0x0C then some (bitMask 56 52 + bitMask 31 0)
    else if op = 0x10 then some (bitMask 56 47 + bitMask 23 0)
    else if op = 0x11 then some (bitMask 51 42 + bitMask 23 0)
    else if op = 0x18 then some (bitMask 31 0)
    else if op = 0x19 then some (bitMask 51 39 + bitMask 31 0)
    else if op = 0x1A then some 0
    else if op = 0x20 then some (bitMask 56 36)
    else if op = 0x21 then some (bitMask 56 51)
    else if op = 0x22 then some (bitMask 56 37)
    else if op = 0x28 then some (bitMask 56 47 + bitMask 15 0)
    else if op = 0x29 then some 0
    else if op = 0x2A then some 0
    else if op = 0x2B then some (bitMask 56 56)
    else if op = 0x30 then some (bitMask 56 52 + bitMask 3 0)
    else if op = 0x31 then some (bitMask 3 0)
    else none

/-- Field values that an encoding marks invalid (R99, R106, R125 to R129, R150). [DESIGN CHOICE: log 203] -/
def slotBad (k op : Nat) (w : BitVec 57) : Bool :=
  match k with
  | 0 =>
    if op = 0x01 then decide (fld w 48 41 = 0)
    else if op = 0x02 then decide (fld w 55 52 = 0) || decide (fld w 44 37 = 0)
    else if op = 0x03 then decide (fld w 56 53 = 0) || decide (fld w 52 49 = 0)
    else if op = 0x04 then decide (fld w 56 53 = 0) || decide (fld w 32 25 = 0)
    else if op = 0x05 || op = 0x08 then decide (fld w 56 53 = 0)
    else false
  | 1 =>
    if op = 0x11 then !funcOk (fld w 7 0)
    else if op = 0x18 then decide (fld w 22 20 = 7)
    else if op = 0x19 then !bitOf w 56
    else if op = 0x28 then decide (6 ≤ fld w 3 0)
    else if op = 0x2C then decide (fld w 1 0 = 3)
    else if op = 0x35 then bitOf w 56
    else false
  | 2 => false
  | _ =>
    if op = 0x19 then decide (6 ≤ fld w 41 39)
    else if op = 0x20 || op = 0x22 then decide (fld w 50 43 = 0)
    else if op = 0x30 then decide (5 ≤ fld w 3 0)
    else false

/-- A slot breaks R99: an unassigned opcode, a reserved bit set, or an invalid field value. -/
def slotIllegal (i : SlotI) : Bool :=
  match slotUsed i.k i.op with
  | none => true
  | some m => decide (i.w.toNat &&& m ≠ i.w.toNat) || slotBad i.k i.op i.w

/-- What an instruction can name (R157). -/
inductive Res where
  | s (n : Nat)
  | v (n : Nat)
  | p (n : Nat)
  | t (n : Nat)
  | g (n : Nat)
  | sem (n : Nat)
  | slot (n : Nat)
  | wh (n : Nat)
  | ah (n : Nat)
  | dq (n : Nat)
  deriving DecidableEq, Repr

/-- Whether a resource belongs to the W bank (R156). -/
def Res.inBank : Res → Bool
  | .s n => decide (24 ≤ n)
  | .v n => decide (56 ≤ n)
  | .p n => decide (n = 7)
  | .t n => decide (12 ≤ n)
  | .g n => decide (6 ≤ n)
  | .sem n => decide (56 ≤ n)
  | .slot n => decide (n = 3)
  | .wh n => decide (n = 1)
  | .ah n => decide (n = 1)
  | .dq n => decide (n = 3)

/-- The bits set in a mask of w bits, ascending. -/
def maskList (w m : Nat) : List Nat := (List.range w).filter (fun i => Nat.testBit m i)

/-- V-slot resources: predicate, destination, sources (R121, R125). -/
def vRes (op : Nat) (w : BitVec 57) : List Res :=
  let pr := if bitOf w 56 then [Res.p (fld w 55 53)] else []
  let vd := [Res.v (fld w 52 47)]
  let va := [Res.v (fld w 46 41)]
  let vb := [Res.v (fld w 40 35)]
  let sx := [Res.s (fld w 28 24)]
  pr ++
  (if op = 0x04 then vd ++ va ++ vb ++ [Res.v (fld w 34 29)]
   else if op = 0x07 || op = 0x08 || (0x0A ≤ op && op ≤ 0x10) || op = 0x2C || op = 0x2D then vd ++ va
   else if op = 0x18 then Res.p (fld w 49 47) :: (va ++ vb)
   else if op = 0x29 then vd ++ sx
   else if op = 0x2A then Res.s (fld w 51 47) :: (va ++ sx)
   else if op = 0x30 then vd ++ sx
   else if op = 0x31 then va ++ sx
   else if op = 0x34 then vd ++ sx ++ [Res.t (fld w 23 20)]
   else if op = 0x35 then va ++ sx ++ [Res.t (fld w 23 20)]
   else vd ++ va ++ vb)

/-- The resources an instruction's own fields name (R157). -/
def slotRes (i : SlotI) : List Res :=
  let w := i.w
  if i.op = 0 then [] else
  match i.k with
  | 0 =>
    if i.op = 0x01 then [.wh (fld w 56 56), .t (fld w 55 52), .g (fld w 51 49)]
    else if i.op = 0x02 then [.ah (fld w 56 56), .t (fld w 51 48), .g (fld w 47 45)]
    else if i.op = 0x03 then (maskList 4 (fld w 52 49)).map .slot
    else if i.op = 0x04 then [.slot (fld w 52 51), .wh (fld w 50 50), .ah (fld w 49 49)]
    else if i.op = 0x05 then [.slot (fld w 52 51), .s (fld w 50 46)]
    else if i.op = 0x08 then [.slot (fld w 52 51)]
    else [.slot (fld w 54 53), .s (fld w 51 47)]
  | 1 => vRes i.op w
  | 2 =>
    if i.op = 0x01 then [.t (fld w 56 53), .s (fld w 52 48)]
    else if i.op = 0x02 || i.op = 0x03 then [.g (fld w 56 54), .s (fld w 53 49)]
    else if i.op = 0x04 || i.op = 0x05 then
      let zero := decide (i.op = 0x04) && decide (fld w 56 54 = 4)
      [.dq (fld w 53 52), .t (fld w 47 44), .s (fld w 38 34), .s (fld w 33 29), .sem (fld w 28 23)] ++
        (if zero then [] else [.t (fld w 51 48), .s (fld w 43 39)])
    else [.s (fld w 56 52), .sem (fld w 51 46)]
  | _ =>
    let sd := Res.s (fld w 56 52)
    let sa := Res.s (fld w 51 47)
    let sb := Res.s (fld w 46 42)
    if i.op ≤ 0x09 then [sd, sa, sb]
    else if i.op = 0x0A || i.op = 0x10 then [sd, sa]
    else if i.op = 0x0B || i.op = 0x0C || i.op = 0x30 then [sd]
    else if i.op = 0x11 || i.op = 0x19 then [sa, sb]
    else if i.op = 0x20 then Res.sem (fld w 56 51) :: (if bitOf w 41 then [.s (fld w 40 36)] else [])
    else if i.op = 0x21 then [sd]
    else if i.op = 0x22 then Res.sem (fld w 56 51) :: (if bitOf w 42 then [.s (fld w 41 37)] else [])
    else if i.op = 0x28 then [sd, sa]
    else []

/-- Instructions that a fragment may not issue (R157), a `CASTOFF` to scratchpad apart. -/
def fragForbidden (i : SlotI) : Bool :=
  (decide (i.k = 3) && (i.op = 0x21 || i.op = 0x28 || i.op = 0x2A || i.op = 0x2B || i.op = 0x1A || (i.op = 0x22 && bitOf i.w 42))) ||
  (decide (i.k = 2) && decide (6 ≤ i.op))

/-- The W-bank rule for resources named while W mode is `on` (R157). -/
def bankConflict (on infrag : Bool) (rs : List Res) : Bool := on && rs.any (fun r => r.inBank != infrag)

/-- The current layout epoch of an owner: COL_EPOCH.CUR (R332). [DEDUCED: log 34] -/
def State.epochOf (s : State) (p : Nat) : Nat := bitsOf (s.reg 0 (0xA00050 + 8 * p)) 15 0

/-- A descriptor's EPOCH differs from the current epoch of the core's owner (R326). -/
def epochBad (s : State) (c : Nat) (t : Line) : Bool :=
  match s.ownerOfCore c with
  | none => false
  | some p => decide (tdEpoch t ≠ 0xFFFF) && decide (tdEpoch t ≠ s.epochOf p)

/-- The code of a list of conditions: a protection violation if one of them is broken, otherwise the first broken one (R162). -/
def firstRej (l : List (Bool × Nat)) : Option Nat :=
  let hits := (l.filter (fun p => p.1)).map (fun p => p.2)
  if hits.contains 0x8201 then some 0x8201 else hits.head?

end Sys2Proof.Machine
end

