-- ==== Sys2Proof/Machine/Vector.lean ====
section
/-!
DEFINITION. The vector slot (R121 to R134): lanes, predication, one operation per opcode, reductions, scratchpad access and
the scaled-format decode and convert.
-/

namespace Sys2Proof.Machine

open Sys2Proof

/-! ### Lanes and predication (R122) -/

/-- Lane i of a vector register. -/
def lane (v : BitVec 2048) (i : Nat) : Nat := (v.toNat >>> (32 * i)) % 2 ^ 32

/-- A vector register from its 64 lanes, lane 0 first. -/
def ofLanes (l : List Nat) : BitVec 2048 := BitVec.ofNat 2048 (l.foldr (fun x acc => x % 2 ^ 32 + 2 ^ 32 * acc) 0)

def lanes : List Nat := List.range 64

/-- The active lanes of an instruction: every lane, or those its predicate register selects. -/
def vActive (r : CoreRegs) (w : BitVec 57) (i : Nat) : Bool := !bitOf w 56 || bitOf (r.preg (fld w 55 53)) i

/-- What a lane-wise operation gives one lane: 32 bits and flags. -/
structure LRes where
  v : Nat
  fl : FlagSet := {}
  deriving DecidableEq, Repr

def LRes.of (r : FRes) : LRes := ⟨r.bits, r.fl⟩

/-- An operation of format fb on the elements of a lane: FP32, or both BF16 elements when MOD[23] is 1 (R122, R123). -/
def perElem (bf : Bool) (f : Nat → Nat → Nat → Nat → FRes) (a b c : Nat) : LRes :=
  if bf then
    let lo := f 7 (a % 65536) (b % 65536) (c % 65536)
    let hi := f 7 (a / 65536) (b / 65536) (c / 65536)
    ⟨lo.bits + 65536 * hi.bits, lo.fl.or hi.fl⟩
  else .of (f 23 a b c)

/-- Write lane results to the destination's active lanes and gather their flags (R122, R134). -/
def vWrite (r0 : CoreRegs) (w : BitVec 57) (f : Nat → LRes) (r : CoreRegs) : CoreRegs :=
  let vd := fld w 52 47
  let old := r0.vreg vd
  let res := lanes.map (fun i => if vActive r0 w i then f i else ⟨lane old i, {}⟩)
  { r.setV vd (ofLanes (res.map (fun x => x.v))) with vs := res.foldl (fun a x => FlagSet.or a x.fl) r.vs }

/-- A lane-wise operation on va, vb and vc. -/
def vLane (r0 : CoreRegs) (w : BitVec 57) (f : Nat → Nat → Nat → LRes) : CoreRegs → CoreRegs :=
  let a := r0.vreg (fld w 46 41)
  let b := r0.vreg (fld w 40 35)
  let c := r0.vreg (fld w 34 29)
  vWrite r0 w (fun i => f (lane a i) (lane b i) (lane c i))

/-! ### Lane-wise operations -/

def ed : Bool := Config.tinyEdge

/-- Lane-wise arithmetic by opcode (R123 to R127). -/
def vArith (op : Nat) (w : BitVec 57) (a b c : Nat) : LRes :=
  let bf := bitOf w 23
  if op = 0x01 then perElem bf (fun fb a b _ => fAdd fb ed a b) a b c
  else if op = 0x02 then perElem bf (fun fb a b _ => fSub fb ed a b) a b c
  else if op = 0x03 then perElem bf (fun fb a b _ => fMul fb ed a b) a b c
  else if op = 0x04 then perElem bf (fun fb a b c => fFma fb ed (bitOf w 22) (bitOf w 21) a b c) a b c
  else if op = 0x05 then perElem bf (fun fb a b _ => fMinMax fb false a b) a b c
  else if op = 0x06 then perElem bf (fun fb a b _ => fMinMax fb true a b) a b c
  else if op = 0x07 then perElem bf (fun fb a _ _ => fAbs fb a) a b c
  else if op = 0x08 then perElem bf (fun fb a _ _ => fNeg fb a) a b c
  else if op = 0x09 then .of (fDiv 23 ed a b)
  else if op = 0x0A then .of (fSqrt 23 ed a)
  else if op = 0x0B then .of (fRsqrt 23 ed a)
  else if op = 0x0C then .of (fExp ed a)
  else if op = 0x0D then .of (fExp2 ed a)
  else if op = 0x0E then .of (fLog2 ed a)
  else if op = 0x0F then .of (fTanh ed a)
  else if op = 0x10 then .of (fSig ed a)
  else let r := drainFn ed (fld w 7 0) a b; ⟨r.v, r.fl⟩

/-- 32-bit integer and bitwise operations by opcode (R125). -/
def vInt (op a b : Nat) : Nat :=
  let x : W32 := BitVec.ofNat 32 a
  let y : W32 := BitVec.ofNat 32 b
  (if op = 0x20 then x + y
   else if op = 0x21 then x - y
   else if op = 0x22 then x &&& y
   else if op = 0x23 then x ||| y
   else if op = 0x24 then x ^^^ y
   else if op = 0x25 then x <<< (b % 32)
   else if op = 0x26 then x >>> (b % 32)
   else x.sshiftRight (b % 32)).toNat

/-- `VCVT` by code (R126). -/
def vCvt (code a b : Nat) : LRes :=
  match code with
  | 0 => .of (fCvt ed 23 7 a)
  | 1 => .of (fCvt ed 7 23 (a % 65536))
  | 2 => .of (fToInt32 a)
  | 3 => .of (fOfInt32 a)
  | 4 =>
    let lo := fCvt ed 23 7 a
    let hi := fCvt ed 23 7 b
    ⟨lo.bits + 65536 * hi.bits, lo.fl.or hi.fl⟩
  | _ => .of (fCvt ed 7 23 (a / 65536))

/-- The comparison of R129: an unordered pair makes every condition false except NE and UN. -/
def vCmp (cond a b : Nat) : Bool :=
  let x := flDecode 23 a
  let y := flDecode 23 b
  let un := flIsNan x || flIsNan y
  let o := flCmp x y
  match cond with
  | 0 => !un && o == .eq
  | 1 => un || o != .eq
  | 2 => !un && o == .lt
  | 3 => !un && o != .gt
  | 4 => !un && o == .gt
  | 5 => !un && o != .lt
  | _ => un

/-! ### Reductions (R128) -/

/-- One level of the pairwise tree: element i with element i + w. -/
def treeLevel (f : Nat → Nat → FRes) (w : Nat) (x : List Nat × FlagSet) : List Nat × FlagSet :=
  let rs := (List.range w).map (fun i => f (nth 0 x.1 i) (nth 0 x.1 (i + w)))
  (rs.map (fun r => r.bits), rs.foldl (fun a r => FlagSet.or a r.fl) x.2)

/-- vred: the fixed pairwise tree over 64 values. -/
def vred (f : Nat → Nat → FRes) (x : List Nat) : LRes :=
  let r := [32, 16, 8, 4, 2, 1].foldl (fun acc w => treeLevel f w acc) (x, {})
  ⟨nth 0 r.1 0, r.2⟩

/-- The operation and the value an inactive lane enters `VRED` with, by MOD[1:0]. -/
def vredOp (k : Nat) : (Nat → Nat → FRes) × Nat :=
  match k with
  | 0 => (fAdd 23 ed, 0)
  | 1 => (fMinMax 23 true, infBits 23 true)
  | _ => (fMinMax 23 false, infBits 23 false)

/-- The largest finite magnitude of a list of FP32 values, +0 where none is finite (R128). -/
def amaxOf (l : List Nat) : Nat :=
  l.foldl (fun m x => if (x / 2 ^ 23) % 256 = 255 then m else max m (x % 2 ^ 31)) 0

/-- Effects on the register part of the core of every V-slot instruction that touches no memory (R125). [DEDUCED: log 27] -/
def vRegEff (op : Nat) (w : BitVec 57) (r0 r : CoreRegs) : CoreRegs :=
  let a := r0.vreg (fld w 46 41)
  let b := r0.vreg (fld w 40 35)
  let sx := r0.sreg (fld w 28 24)
  if op ≤ 0x11 then vLane r0 w (vArith op w) r
  else if op = 0x18 then
    let old := r0.preg (fld w 49 47)
    r.setP (fld w 49 47) (BitVec.ofNat 64 (lanes.foldr (fun i acc =>
      (if (if vActive r0 w i then vCmp (fld w 22 20) (lane a i) (lane b i) else bitOf old i) then 1 else 0) + 2 * acc) 0))
  else if op = 0x19 then
    let p := r0.preg (fld w 55 53)
    r.setV (fld w 52 47) (ofLanes (lanes.map (fun i => if bitOf p i then lane a i else lane b i)))
  else if op ≤ 0x27 then vLane r0 w (fun a b _ => ⟨vInt op a b, {}⟩) r
  else if op = 0x28 then vLane r0 w (fun a b _ => vCvt (fld w 3 0) a b) r
  else if op = 0x29 then vWrite r0 w (fun _ => ⟨sx.toNat % 2 ^ 32, {}⟩) r
  else if op = 0x2A then
    if vActive r0 w (sx.toNat % 64) then r.setS (fld w 51 47) (BitVec.ofNat 64 (lane a (sx.toNat % 64))) else r
  else if op = 0x2B then vWrite r0 w (fun i => ⟨lane a (lane b i % 64), {}⟩) r
  else if op = 0x2C then
    let o := vredOp (fld w 1 0)
    let t := vred o.1 (lanes.map (fun i => if vActive r0 w i then lane a i else o.2))
    let r1 := vWrite r0 w (fun _ => ⟨t.v, {}⟩) r
    { r1 with vs := FlagSet.or r1.vs t.fl }
  else if op = 0x2D then
    let m := amaxOf ((lanes.filter (vActive r0 w)).map (lane a))
    vWrite r0 w (fun _ => ⟨m, {}⟩) r
  else r

/-! ### Scratchpad access, decode and convert (R130 to R133) -/

/-- The scratchpad offset of a `VLD` or `VST`. [DESIGN CHOICE: log 206] -/
def vOff (r : CoreRegs) (w : BitVec 57) : Nat := (r.sreg (fld w 28 24)).toNat + 64 * fld w 23 0

def vmemCheck (s : State) (c : Nat) (w : BitVec 57) : Option Nat :=
  let o := vOff (s.core c).r w
  if o % 64 ≠ 0 || !spOff o 256 then some 0x8201 else none

def vldEff (s0 : State) (c : Nat) (w : BitVec 57) (s : State) : State :=
  let r0 := (s0.core c).r
  let a := spBase c + vOff r0 w
  s.updRegs c (fun r => vWrite r0 w (fun i => ⟨s0.rd (a + 4 * i) 4, {}⟩) r)

/-- Store the active lanes of a list of pairs, 4 bytes each: the two of a pair are one scratchpad word (R243). -/
def vstLanes (r0 : CoreRegs) (w : BitVec 57) (a : Nat) (v : BitVec 2048) : List Nat → State → State
  | [], s => s
  | k :: ks, s =>
    let put (s : State) : State := match vActive r0 w (2 * k), vActive r0 w (2 * k + 1) with
      | true, true => s.wr (a + 8 * k) 8 (lane v (2 * k) + 2 ^ 32 * lane v (2 * k + 1))
      | true, false => s.wr (a + 8 * k) 4 (lane v (2 * k))
      | false, true => s.wr (a + 8 * k + 4) 4 (lane v (2 * k + 1))
      | false, false => s
    vstLanes r0 w a v ks (put s)

def vstEff (s0 : State) (c : Nat) (w : BitVec 57) (s : State) : State :=
  let r0 := (s0.core c).r
  vstLanes r0 w (spBase c + vOff r0 w) (r0.vreg (fld w 46 41)) (List.range 32) s

/-- The checks of `VDEC` and `VCVTES` (R133, R326, R5), and of `VCVTES` its scale entry (R210, R212). [DESIGN CHOICE: log 183] -/
def vesCheck (s : State) (c : Nat) (w : BitVec 57) (cvt : Bool) : Option Nat :=
  let r := (s.core c).r
  let t := r.tdesc (fld w 23 20)
  let sx := (r.sreg (fld w 28 24)).toNat
  firstRej [(epochBad s c t, 0x8303),
    (!fmtIsEs (tdFmt t) || tdMx t || decide (sx % 64 ≠ 0) || decide (tdPadded t < sx + 64), 0x8518),
    ([0, 1].any (fun k => let a := blkAddr t (sx / 32 + k); !inSp c a.1 (blockBytes (tdFmt t)) || !inSp c a.2 1), 0x8201),
    (cvt && (scaleErr s (s.ownerOfCore c) t).isSome, (scaleErr s (s.ownerOfCore c) t).getD 0)]

/-- `VDEC`: lane i takes element sx + i times 2^SHIFT, and 2^T when MOD[19] is 1 (R131). -/
def vdecEff (s0 : State) (c : Nat) (w : BitVec 57) (s : State) : State :=
  let r0 := (s0.core c).r
  let t := r0.tdesc (fld w 23 20)
  let b := (r0.sreg (fld w 28 24)).toNat / 32
  let b0 := s0.rdBlock t b
  let b1 := s0.rdBlock t (b + 1)
  let k : Int := if bitOf w 19 then tdT t else 0
  s.updRegs c (fun r => vWrite r0 w (fun i =>
    LRes.of (flRound 23 ed (blockVal (tdFmt t) (if i < 32 then b0 else b1) k (i % 32)))) r)

/-- `VCVTES`: two blocks converted and written with their counts (R132), and the flags of their lanes (R134). -/
def vcvtesEff (s0 : State) (c : Nat) (w : BitVec 57) (s : State) : State :=
  let r0 := (s0.core c).r
  let t := r0.tdesc (fld w 23 20)
  let b := (r0.sreg (fld w 28 24)).toNat / 32
  let v := r0.vreg (fld w 46 41)
  let half := fun (h : Nat) => (List.range 32).map (fun i => flDecode 23 (lane v (32 * h + i)))
  let own := s0.ownerOfCore c
  let tt := convT s0 own t (half 0 ++ half 1)
  let fl := fun (h : Nat) => esFlags (tdFmt t) tt (convertBlock (tdFmt t) tt (convModes s0 own t (b + h)) (half h)).1 (half h)
  (convWrite s own (0x1000 + c) t false [(b, half 0), (b + 1, half 1)]).updRegs c (fun r => { r with vs := r.vs.or ((fl 0).or (fl 1)) })

/-- The checks a V-slot instruction makes at issue, R99 apart. -/
def vCheck (s : State) (c : Nat) (i : SlotI) : Option Nat :=
  if i.op = 0x30 || i.op = 0x31 then vmemCheck s c i.w
  else if i.op = 0x34 then vesCheck s c i.w false
  else if i.op = 0x35 then vesCheck s c i.w true
  else none

/-- The effect of a V-slot instruction. -/
def vEff (s0 : State) (c : Nat) (i : SlotI) (s : State) : State :=
  if i.op = 0 then s
  else if i.op = 0x30 then vldEff s0 c i.w s
  else if i.op = 0x31 then vstEff s0 c i.w s
  else if i.op = 0x34 then vdecEff s0 c i.w s
  else if i.op = 0x35 then vcvtesEff s0 c i.w s
  else s.updRegs c (vRegEff i.op i.w (s0.core c).r)

end Sys2Proof.Machine
end

