-- ==== Sys2Proof/Machine/Bench.lean ====
section
/-!
DEFINITION. The Bench engines (R195 to R207): launch blocks and streams, the launch queues, and the Bench instructions.
-/

namespace Sys2Proof.Machine

open Sys2Proof

/-! ### Launch blocks (R198, R199) -/

def State.updBench (s : State) (f : BenchSt → BenchSt) : State := { s with bench := f s.bench }
def State.slice (s : State) (id : Nat) : SliceSt := SMap.get {} id s.bench.slices
def State.updSlice (s : State) (id : Nat) (f : SliceSt → SliceSt) : State :=
  s.updBench (fun b => { b with slices := SMap.set id (f (s.slice id)) b.slices })

/-- A slice is frozen for the step: as its table marked it at the step course (R177). Before its first step, as the table marks it. -/
def sliceFrozen (s : State) (a : Nat) : Bool := (s.slice (slId s a)).frozen.getD (slFrozen s a)

/-- A launch block that the device makes for a standard program: its slot, queue and slice, and nothing else. -/
def mkBlock (slot : Nat) (fg : Bool) (slice : Nat) : BitVec 4096 :=
  BitVec.ofNat 4096 (slot + (if fg then 256 else 0) + slice % 2 ^ 32 * 2 ^ 32)

/-- No slice. -/
def noSlice : Nat := 0xFFFFFFFF

/-- A stream descriptor (R199). -/
structure Strm where
  base : Nat
  fmt : Nat
  wr : Bool
  unused : Bool
  count : Nat
  stride : Nat
  entry : Nat
  blk0 : Nat
  deriving DecidableEq, Repr

def Launch.strm (l : Launch) (i : Nat) : Strm :=
  let o := 80 + 32 * i
  { base := l.f o 6, fmt := l.f (o + 6) 1 % 16, wr := Nat.testBit (l.f (o + 7) 1) 0, unused := Nat.testBit (l.f (o + 7) 1) 1
    count := l.f (o + 8) 8, stride := max 1 (l.f (o + 16) 4), entry := l.f (o + 20) 2, blk0 := l.f (o + 24) 8 }

/-- Reserved bits of a stream descriptor. -/
def Launch.strmRsv (l : Launch) (i : Nat) : Bool :=
  let o := 80 + 32 * i
  decide (16 ≤ l.f (o + 6) 1) || decide (4 ≤ l.f (o + 7) 1) || decide (l.f (o + 22) 2 ≠ 0)

/-- A used stream that R201 rejects. -/
def Strm.bad (t : Strm) : Bool :=
  !t.unused && (!fmtOk t.fmt || (if fmtIsEs t.fmt then decide (t.count % 32 ≠ 0) else decide (t.blk0 ≠ 0)))

/-- Address of the unit of access j of a stream that is not ES (R200). -/
def Strm.unit (t : Strm) (j : Nat) : Nat := t.base + j * t.stride * 64 * elSize t.fmt

/-- Storage-order index of block j of an ES stream (R200). -/
def Strm.block (t : Strm) (j : Nat) : Nat := t.blk0 + j * t.stride

/-- Addresses of block j of an ES stream: elements and block byte. -/
def Strm.blockAddr (t : Strm) (j : Nat) : Nat × Nat :=
  let o := blockOff t.fmt (t.block j)
  (t.base + o.1, t.base + o.2)

/-- The bytes a stream reaches. -/
def Strm.spans (t : Strm) : List (Nat × Nat) :=
  if t.unused then []
  else if fmtIsEs t.fmt then
    (List.range (t.count / 32)).flatMap (fun j => [((t.blockAddr j).1, blockBytes t.fmt), ((t.blockAddr j).2, 1)])
  else if t.stride = 1 then (if t.count = 0 then [] else [(t.base, t.count * elSize t.fmt)])
  else (List.range (cdiv t.count 64)).map (fun j => (t.unit j, min 64 (t.count - 64 * j) * elSize t.fmt))

def progBase (s : State) : Nat := bitsOf (s.reg 0 0xE00018) 47 19 * 0x80000

/-- Bytes [a, a + n) take in a program slot (R203): the 32 slots lie in the EDF region. -/
def hitsPrograms (s : State) (a n : Nat) : Bool := decide (s.edfBase ≤ progBase s) && overlap a n (progBase s) 0x80000

/-- The slice-table entry of a launch's slice, where the table lists it; of a started launch the one that its start read (R328). -/
def Launch.entry (s : State) (l : Launch) : Option Nat :=
  if l.slice = noSlice then none else match l.line with
    | some x => some x.1
    | none => sliceFind s l.slice

/-- f on memory in which the launch's slice-table entry stands as the launch's start read it (R328); no program writes the table (R208). -/
def underLine (l : Launch) (f : State → State) (s : State) : State :=
  match l.line with
  | none => f s
  | some x =>
    if s.bytes x.1 128 = x.2 then f s
    else
      let t := f { s with mem := SMap.setN 0 x.1 x.2 s.mem }
      { t with mem := SMap.setN 0 x.1 (s.bytes x.1 128) t.mem }

/-- The slice of a launch names no engine (R208): its entry. -/
def Launch.noEngine (s : State) (l : Launch) : Option Nat := (l.entry s).filter (fun a => decide (s.nCh ≤ slEngine s a))

/-- The conditions of R201 that end a launch with 0x8532; a fold runs no program slot. -/
def launchBad (s : State) (l : Launch) : Bool :=
  decide (4 ≤ l.f 1 1) || decide (l.f 2 2 ≠ 0) || decide (l.f 336 176 ≠ 0) ||
  (l.fold.isNone && (decide (32 ≤ l.slot) || !bitOf (s.reg 0 0xE00020) l.slot)) ||
  (List.range 8).any (fun i => l.strmRsv i || (l.strm i).bad) ||
  (l.noEngine s).isSome

/-- Whether engine e may make an access for an owner (R186, R201, R337, R350). -/
def engReach (s : State) (e : Nat) (own : Option Nat) (a n : Nat) (wr : Bool) : Bool :=
  s.ownerReach own a n && !(wr && (hitsMaster s (some e) a n || hitsQueues s none a n)) && !(!wr && hitsHost a n && linkGone s)

/-! ### Taking a launch (R202) -/

/-- The launch an idle, halted or frozen engine takes next, and the engine without it: foreground first (R202). -/
def Engine.take (x : Engine) : Option (Launch × Bool × Engine) :=
  match x.fg with
  | l :: r => some (l, true, ({ x with fg := r } : Engine).refill)
  | [] => match x.bg with
    | l :: r => some (l, false, ({ x with bg := r } : Engine).refill)
    | [] => none

def benchSrc (e : Nat) : Nat := 0x3000 + e

/-- Detail word 1 of a Bench event (R370): instruction index and slice. -/
def benchD1 (pc slice : Nat) : W64 := BitVec.ofNat 64 (pc % 4096 + slice % 2 ^ 32 * 2 ^ 32)

/-- The engine stops its launch at the current instruction with its state kept, drops its owner's launches and raises an event (R207, R373). -/
def stopLaunch (e code : Nat) (st : EngSt) (d0 d1 : W64) (s : State) : State :=
  let x := s.eng e
  let own := x.cur.bind (fun (l : Launch) => l.own)
  ((s.setEng e (Engine.dropOwner { x with st } own)).raise code (benchSrc e) own d0 d1).pendIf 6 (x.cur.any Launch.edf)

/-- Halt at the current instruction (R207, R210). -/
def haltLaunch (e code : Nat) (s : State) : State :=
  let x := s.eng e
  match x.cur with
  | some l => stopLaunch e code .halted (BitVec.ofNat 64 l.addr) (benchD1 x.pc l.slice) s
  | none => s

/-- A protection violation of an engine freezes it (R5, R201, R373). -/
def freezeLaunch (e : Nat) (p : Nat × Nat × Bool) (s : State) : State :=
  stopLaunch e 0x8201 .frozen (BitVec.ofNat 64 p.1) (BitVec.ofNat 64 ((if p.2.2 then 1 else 0) + 2 * (p.2.1 % 256))) s

/-- An uncorrectable sector in data that the engine reads stops the launch (R207, R236); its channel or core is the event's source. -/
def ueLaunch (e sec : Nat) (s : State) : State :=
  let x := s.eng e
  let own := x.cur.bind (fun (l : Launch) => l.own)
  ((s.setEng e (Engine.dropOwner { x with st := .halted } own)).raiseUe sec own).pendIf 6 (x.cur.any Launch.edf)

/-- An engine enters a launch; the device's own launches for a slice whose entry names no engine are refused at once, with the
launcher `src` as source (R208). [DEDUCED: log 52] -/
def enterLaunch (e : Nat) (l : Launch) (s : State) : State := s.updEng e (fun x => x.enter l)

/-- The device's own launch of a standard program for a slice (R208, R221). -/
def launchSlice (src a : Nat) (own : Option Nat) (slot : Nat) (fg : Bool) (s : State) : State :=
  let e := slEngine s a
  if e < s.nCh then enterLaunch e { own, blk := mkBlock slot fg (slId s a), src } s
  else s.raise 0x8532 src own 0 (benchD1 0 (slId s a))

/-! ### Instructions (R204 to R207) -/

/-- Fields of a Bench instruction (R204). -/
def bD (w : BitVec 26) : Nat := bitsOf w 25 21
def bA (w : BitVec 26) : Nat := bitsOf w 20 16
def bB (w : BitVec 26) : Nat := bitsOf w 15 11
def bC (w : BitVec 26) : Nat := bitsOf w 10 6
def bM (w : BitVec 26) : Nat := bitsOf w 5 0

/-- The uses of the fields D, A, B and C of an opcode: 0 unused, 1 a vector register, 2 a scalar, 3 a stream, 4 an even
register, and the values M may take. -/
def benchForm (op : Nat) (w : BitVec 26) : List Nat × Nat :=
  match op with
  | 0x00 => ([0, 0, 0, 0], 1)
  | 0x01 => ([1, 3, 0, 0], 1)
  | 0x02 => ([0, 3, 1, 0], 1)
  | 0x03 => ([1, 1, 1, 0], 1)
  | 0x04 => ([1, 1, 1, 0], 1)
  | 0x05 => ([1, 1, 1, 0], 1)
  | 0x06 => ([1, 1, 1, 1], 4)
  | 0x07 => ([1, 1, 1, 0], 2)
  | 0x08 => ([1, 1, 1, 0], 1)
  | 0x09 => ([1, 1, 0, 0], 2)
  | 0x0A => ([1, 1, 0, 0], 3)
  | 0x0B => ([4, 4, 4, 0], 1)
  | 0x0C => (if bitOf w 0 then [4, 1, 0, 0] else [1, 4, 0, 0], 2)
  | 0x0D => ([1, 1, 0, 0], 4)
  | 0x0E => ([0, 3, 5, 0], 2)
  | 0x0F => ([0, 1, 2, 2], 4)
  | 0x10 => ([1, 2, 0, 0], 1)
  | 0x11 => ([2, 1, 2, 0], 1)
  | 0x13 => ([2, 2, 2, 0], 9)
  | 0x16 => ([0, 2, 0, 0], 8)
  | 0x17 => ([2, 0, 0, 0], 2)
  | _ => ([0, 0, 0, 0], 1)

/-- A field value that its use forbids. -/
def fieldBad (use v : Nat) : Bool :=
  match use with
  | 0 => v != 0
  | 2 => decide (16 ≤ v)
  | 3 => decide (8 ≤ v)
  | 4 => decide (v % 2 = 1)
  | 5 => v != 0
  | _ => false

/-- A reserved field or an odd pair register of an instruction (R204, R207). [DEDUCED: log 51] -/
def benchRsv (op : Nat) (w : BitVec 26) : Bool :=
  if op = 0x12 then decide (16 ≤ bD w)
  else if op = 0x14 || op = 0x15 then bD w != 0 || decide (16 ≤ bA w)
  else
    let f := benchForm op w
    (f.1.zip [bD w, bA w, bB w, bC w]).any (fun p => fieldBad p.1 p.2) || decide (f.2 ≤ bM w)

/-- A stream access that the stream's descriptor does not serve: unused, of the other direction, of the wrong kind of format,
or an AF40 access to an odd pair. [DESIGN CHOICE: log 48] -/
def strmBad (op : Nat) (w : BitVec 26) (l : Launch) : Bool :=
  let t := l.strm (bA w % 8)
  if op = 0x01 then t.unused || t.wr || (decide (t.fmt = 0xA) && decide (bD w % 2 = 1))
  else if op = 0x02 then t.unused || !t.wr || fmtIsEs t.fmt || (decide (t.fmt = 0xA) && decide (bB w % 2 = 1))
  else if op = 0x0E then t.unused || !t.wr || !fmtIsEs t.fmt
  else false

def Engine.kreg (x : Engine) (i : Nat) : W64 := SMap.get 0 (i % 16) x.k
def Engine.qreg (x : Engine) (i : Nat) : BitVec 2048 := SMap.get 0 i x.q
def Engine.setQ (x : Engine) (i : Nat) (v : BitVec 2048) : Engine := { x with q := SMap.set i v x.q }
def Engine.setK (x : Engine) (i : Nat) (v : W64) : Engine := { x with k := SMap.set (i % 16) v x.k }
def Engine.posOf (x : Engine) (i : Nat) : Nat := SMap.get 0 i x.pos
def Engine.setPos (x : Engine) (i n : Nat) : Engine := { x with pos := SMap.set i n x.pos }

/-- The AF40 value of lane i of a register pair (R196). -/
def Engine.afLane (x : Engine) (r i : Nat) : AF40 := BitVec.ofNat 40 (lane (x.qreg r) i * 256 + lane (x.qreg (r + 1)) i % 256)

/-- Write a register pair with AF40 values (R196). -/
def Engine.setPair (x : Engine) (r : Nat) (v : Nat → AF40) : Engine :=
  (x.setQ r (ofLanes (lanes.map (fun i => (v i).toNat / 256)))).setQ (r + 1) (ofLanes (lanes.map (fun i => (v i).toNat % 256)))

/-- Write a register with a function of lanes. -/
def Engine.setLanes (x : Engine) (r : Nat) (v : Nat → Nat) : Engine := x.setQ r (ofLanes (lanes.map v))

/-- 64-byte lines of bytes [a, a + n). -/
def linesOf (a n : Nat) : Nat := if n = 0 then 0 else (a + n - 1) / 64 - a / 64 + 1

/-- Sign of an FP32 value: +1.0, -1.0, or +0 for a zero; a NaN gives the canonical NaN (R205). -/
def fSign (a : Nat) : Nat :=
  if flIsNan (flDecode 23 a) then canonNan 23
  else if a % 2 ^ 31 = 0 then 0
  else if Nat.testBit a 31 then 0xBF800000 else 0x3F800000

/-- The register-only instructions on an engine's registers (R205). -/
def benchReg (op : Nat) (w : BitVec 26) (x : Engine) : Engine :=
  let a := x.qreg (bA w)
  let b := x.qreg (bB w)
  let c := x.qreg (bC w)
  let m := bM w
  let l1 := fun (f : Nat → Nat) => x.setLanes (bD w) (fun i => f (lane a i))
  let l2 := fun (f : Nat → Nat → Nat) => x.setLanes (bD w) (fun i => f (lane a i) (lane b i))
  match op with
  | 0x03 => l2 (fun p q => (fAdd 23 ed p q).bits)
  | 0x04 => l2 (fun p q => (fSub 23 ed p q).bits)
  | 0x05 => l2 (fun p q => (fMul 23 ed p q).bits)
  | 0x06 => x.setLanes (bD w) (fun i => (fFma 23 ed (Nat.testBit m 1) (Nat.testBit m 0) (lane a i) (lane b i) (lane c i)).bits)
  | 0x07 => l2 (fun p q => (fMinMax 23 (Nat.testBit m 0) p q).bits)
  | 0x08 => l2 (fun p q => (fDiv 23 ed p q).bits)
  | 0x09 => l1 (fun p => if Nat.testBit m 0 then (fRsqrt 23 ed p).bits else (fSqrt 23 ed p).bits)
  | 0x0A => l1 (fun p => if m = 0 then (fAbs 23 p).bits else if m = 1 then (fNeg 23 p).bits else fSign p)
  | 0x0B => x.setPair (bD w) (fun i => afAdd (x.afLane (bA w) i) (x.afLane (bB w) i))
  | 0x0C =>
    if Nat.testBit m 0 then x.setPair (bD w) (fun i => afWiden (BitVec.ofNat 32 (lane a i)))
    else x.setLanes (bD w) (fun i => (afNarrow (x.afLane (bA w) i)).toNat)
  | 0x0D =>
    let v := if m = 3 then amaxOf (lanes.map (lane a)) else (vred (vredOp m).1 (lanes.map (lane a))).v
    x.setLanes (bD w) (fun _ => v)
  | 0x10 => x.setLanes (bD w) (fun _ => (x.kreg (bA w)).toNat % 2 ^ 32)
  | 0x11 => x.setK (bD w) (BitVec.ofNat 64 (lane a ((x.kreg (bB w)).toNat % 64)))
  | 0x12 => x.setK (bD w) (BitVec.ofInt 64 (signed 21 (bitsOf w 20 0)))
  | 0x16 => { x with res := putBytes x.res (8 * m) 8 (x.kreg (bA w)).toNat }
  | 0x17 => { (x.setK (bD w) x.dig) with dig := if Nat.testBit m 0 then 0 else x.dig }
  | _ => x

/-- `SOP` (R205): modulo 2^64. A shift by 64 or more gives a free value. [DESIGN CHOICE: log 50] -/
def sopVal (m : Nat) (a b free : W64) : W64 :=
  match m with
  | 0 => a + b
  | 1 => a - b
  | 2 => a * b
  | 3 => a &&& b
  | 4 => a ||| b
  | 5 => a ^^^ b
  | 6 => if b.toNat < 64 then a <<< b.toNat else free
  | 7 => if b.toNat < 64 then a >>> b.toNat else free
  | _ => if a.toNat ≤ b.toNat then a else b

/-- `HASH` (R218): the terms of up to 32 words of a register from index kb. -/
def benchHash (w : BitVec 26) (x : Engine) : Engine :=
  let a := x.qreg (bA w)
  let kb := x.kreg (bB w)
  let kc := x.kreg (bC w)
  let n := min 32 kc.toNat
  let terms := (List.range n).map (fun j => digestTerm (bM w) (kb.toNat + j) (BitVec.ofNat 64 (lane a (2 * j) + 2 ^ 32 * lane a (2 * j + 1))))
  (({ x with dig := terms.foldl (fun u v => u + v) x.dig } : Engine).setK (bB w) (kb + BitVec.ofNat 64 n)).setK (bC w) (kc - BitVec.ofNat 64 n)

/-- Lines moved by a stream, counted (R227). -/
def countLines (e n : Nat) (s : State) : State := s.updEng e (fun x => { x with cntLines := satAdd 48 x.cntLines n })

/-- Bytes [a, a + n) of a unit that lie below the stream's COUNT. -/
def Strm.unitBytes (t : Strm) (j : Nat) : Nat := min 64 (t.count - 64 * j) * elSize t.fmt

/-- Element i of unit j as stored, +0 at or beyond COUNT (R200). [DEDUCED: log 47] -/
def strmElem (s : State) (t : Strm) (j i : Nat) : Nat :=
  if 64 * j + i < t.count then s.rd (t.unit j + i * elSize t.fmt) (elSize t.fmt) else 0

/-- The scale exponent T of an ES stream's scale entry for the step's parity (R200, R210). -/
def entryT (s : State) (own : Option Nat) (entry : Nat) : Int :=
  signed 8 (s.byte (scaleBase s + 512 * (entry % 65536) + 8 + (s.jobOf own).step.toNat % 2)).toNat

/-- Block j of an ES read stream; one at or beyond COUNT reads +0. -/
def strmBlock (s : State) (t : Strm) (j : Nat) : Block :=
  if 32 * j < t.count then readBlock t.fmt (s.bytes (t.blockAddr j).1 (blockBytes t.fmt)) (s.byte (t.blockAddr j).2) else {}

/-- `LDS` (R200). -/
def ldsEff (e : Nat) (l : Launch) (w : BitVec 26) (s : State) : State :=
  let i := bA w % 8
  let t := l.strm i
  let j := (s.eng e).posOf i
  let d := bD w
  if fmtIsEs t.fmt then
    let tt := entryT s l.own t.entry
    let b0 := strmBlock s t j
    let b1 := strmBlock s t (j + 1)
    let n := ((List.range 2).filter (fun k => decide (32 * (j + k) < t.count))).foldl (fun a k => a + linesOf (t.blockAddr (j + k)).1 (blockBytes t.fmt)) 0
    countLines e n (s.updEng e (fun x => (x.setLanes d (fun i =>
      (flRound 23 ed (blockVal t.fmt (if i < 32 then b0 else b1) tt (i % 32))).bits)).setPos i (j + 2)))
  else
    let v := strmElem s t j
    countLines e (linesOf (t.unit j) (t.unitBytes j)) (s.updEng e (fun x =>
      (if t.fmt = 0xA then x.setPair d (fun i => BitVec.ofNat 40 (v i))
       else x.setLanes d (fun i => if t.fmt = 8 then (fCvt ed 7 23 (v i)).bits else v i)).setPos i (j + 1)))

/-- Corrections in the sectors of the units an `LDS` reads are counted (R233, R238). -/
def ldsNote (s : State) (t : Strm) (j : Nat) : State :=
  if fmtIsEs t.fmt then
    ((List.range 2).filter (fun k => decide (32 * (j + k) < t.count))).foldl (fun s k =>
      (s.readNote (t.blockAddr (j + k)).1 (blockBytes t.fmt)).readNote (t.blockAddr (j + k)).2 1) (s.readNote (scaleBase s + 512 * t.entry) 256)
  else s.readNote (t.unit j) (t.unitBytes j)

/-- The first bad sector of what an `LDS` reads: for an ES stream T in its scale entry, and its units (R200). -/
def ldsUe (s : State) (t : Strm) (j : Nat) : Option Nat :=
  if fmtIsEs t.fmt then
    (s.memUe (scaleBase s + 512 * t.entry) 256).or ((List.range 2).findSome? (fun k => if 32 * (j + k) < t.count then
      (match s.memUe (t.blockAddr (j + k)).1 (blockBytes t.fmt) with
        | some x => some x
        | none => s.memUe (t.blockAddr (j + k)).2 1) else none))
  else s.memUe (t.unit j) (t.unitBytes j)

/-- Write the elements of unit j that lie below COUNT. -/
def putUnit (t : Strm) (j : Nat) (v : Nat → Nat) (s : State) : State :=
  s.putBytes (t.unit j) ((List.range (min 64 (t.count - 64 * j))).flatMap (fun i => leBytes (elSize t.fmt) (v i)))

/-- `STS` (R200). -/
def stsEff (e : Nat) (l : Launch) (w : BitVec 26) (s : State) : State :=
  let i := bA w % 8
  let t := l.strm i
  let x := s.eng e
  let j := x.posOf i
  let v := fun k => if t.fmt = 0xA then (x.afLane (bB w) k).toNat
    else if t.fmt = 8 then (fCvt ed 23 7 (lane (x.qreg (bB w)) k)).bits else lane (x.qreg (bB w)) k
  countLines e (linesOf (t.unit j) (t.unitBytes j)) ((putUnit t j v s).updEng e (fun x => x.setPos i (j + 1)))

/-- A tensor descriptor that stands for an ES write stream: its format, the class and tensor ID of its scale entry, that entry's T
for the step, and the base. -/
def entryDesc (s : State) (own : Option Nat) (fmt entry base : Nat) : Line :=
  let a := scaleBase s + 512 * (entry % 65536)
  BitVec.ofNat 512 (fmt % 16 + (((s.byte (a + 5)).toNat >>> 4) % 4) * 16 + unsign 8 (entryT s own entry) * 256 + s.rd a 4 * 2 ^ 32 + base * 2 ^ 64)

/-- The scale entry of an index cannot serve a conversion (R210): VALID clear, or a tensor ID of another entry. -/
def entryBad (s : State) (entry : Nat) : Bool :=
  let a := scaleBase s + 512 * (entry % 65536)
  !bitOf (s.byte (a + 5)) 0 || decide (s.rd a 4 % 65536 ≠ entry % 65536)

/-- The bytes that an `STS` writes. -/
def stsSpans (s : State) (e : Nat) (l : Launch) (w : BitVec 26) : List (Nat × Nat) :=
  let t := l.strm (bA w % 8)
  let j := (s.eng e).posOf (bA w % 8)
  [(t.unit j, t.unitBytes j)]

/-- `STES` (R206): 64 blocks of the 32 registers from qB converted and written. -/
def stesEff (e : Nat) (l : Launch) (w : BitVec 26) (s : State) : State :=
  let i := bA w % 8
  let t := l.strm i
  let x := s.eng e
  let j := x.posOf i
  let val := fun (k n : Nat) =>
    if bitOf w 0 then lane (x.qreg n) k else lane (x.qreg (k / 2)) (32 * (k % 2) + n)
  let blks := ((List.range 64).filter (fun k => decide (32 * (j + k) < t.count))).map (fun k =>
    (t.block (j + k), (List.range 32).map (fun n => flDecode 23 (val k n))))
  let s1 := convWrite s l.own (benchSrc e) (entryDesc s l.own t.fmt t.entry t.base) false blks
  let n := blks.foldl (fun a b => a + linesOf (t.base + (blockOff t.fmt b.1).1) (blockBytes t.fmt)) 0
  countLines e n (s1.updEng e (fun x => x.setPos i (j + 64)))

/-- The bytes that an `STES` writes. -/
def stesSpans (s : State) (e : Nat) (l : Launch) (w : BitVec 26) : List (Nat × Nat) :=
  let t := l.strm (bA w % 8)
  let j := (s.eng e).posOf (bA w % 8)
  ((List.range 64).filter (fun k => decide (32 * (j + k) < t.count))).flatMap (fun k =>
    [((t.blockAddr (j + k)).1, blockBytes t.fmt), ((t.blockAddr (j + k)).2, 1)])

/-- A write of an engine takes effect, or the read of a sector that it covers in part stops the launch (R207, R232). -/
def writeOr (e : Nat) (sp : List (Nat × Nat)) (f : State → State) (s : State) : State :=
  match s.writeUe sp with
  | some sec => ueLaunch e sec s
  | none => State.asOne sp f (s.writeNote sp)

/-- Instructions of the running launch's image (R203). -/
def imageCount (s : State) (l : Launch) : Nat := s.rd (progBase s + 16384 * l.slot + 4) 2

/-- The next instruction index before loops: after a taken branch, past the body of a loop that runs 0 times, or the next (R205). [DEDUCED: log 49] -/
def benchNext (op : Nat) (w : BitVec 26) (x : Engine) : Int :=
  if op = 0x15 && x.kreg (bA w) == 0 then (x.pc : Int) + signed 16 (bitsOf w 15 0)
  else if op = 0x14 && x.kreg (bA w) == 0 then (x.pc : Int) + 1 + bitsOf w 15 0
  else (x.pc : Int) + 1

/-- Whether the instruction halts the engine under R207. -/
def benchIllegal (s : State) (op : Nat) (w : BitVec 26) (x : Engine) (l : Launch) : Bool :=
  let n := benchNext op w x
  decide (0x19 ≤ op) || benchRsv op w || strmBad op w l || decide (imageCount s l ≤ x.pc) ||
  (decide (op = 0x14) && decide (2 ≤ x.loops.length)) ||
  (decide (op = 0x15) && x.kreg (bA w) == 0 && (decide (n < 0) || decide ((imageCount s l : Int) ≤ n)))

/-- The loops after going to index n: at the end of a body the body runs again or the loop ends; a branch out of a body ends its loop. -/
def loopNext : List BLoop → Nat → List BLoop × Nat
  | [], n => ([], n)
  | b :: r, n =>
    if n = b.last then (if 1 < b.left then ({ b with left := b.left - 1 } :: r, b.first) else loopNext r n)
    else if n < b.first || b.last < n then loopNext r n
    else (b :: r, n)

/-- The engine after its instruction: the new index and loops, and a free number of cycles added to its counter. -/
def benchAdvance (e op : Nat) (w : BitVec 26) (s0 : State) (s : State) : State :=
  let x0 := s0.eng e
  let len := bitsOf w 15 0
  let n := (benchNext op w x0).toNat
  let push := decide (op = 0x14) && x0.kreg (bA w) != 0 && decide (len ≠ 0)
  let ls := if push then (⟨x0.pc + 1, x0.pc + 1 + len, (x0.kreg (bA w)).toNat⟩ : BLoop) :: x0.loops else x0.loops
  let t := loopNext ls n
  let p := s.draw
  p.2.updEng e (fun x => { x with pc := t.2, loops := t.1, cntBusy := satAdd 48 x.cntBusy (Config.cycles p.1) })

/-- A job-supplied optimizer of a slice ends (R208, R221): phase mark 6. -/
def jobOptEnded (l : Launch) (s : State) : State :=
  match l.entry s with
  | some a => if 16 ≤ l.slot && decide (l.slot = (l.line.map (fun x => (nth 0 x.2 47).toNat)).getD (slOpt s a)) then (s.updSlice l.slice (fun x => { x with opted := true })).mark l.own 6 else s
  | none => s

/-- `END` (R205): the result record is written if requested and the engine becomes idle. -/
def benchEnd (e : Nat) (l : Launch) (s : State) : State :=
  if l.result && !engReach s e l.own l.resAddr 64 true then freezeLaunch e (l.resAddr, 64, true) s
  else
    let idle := fun (s : State) => (jobOptEnded l (s.updEng e (fun x => { x with st := .idle, cur := none }))).pendIf 6 l.edf
    if l.result then writeOr e [(l.resAddr, 64)] (fun s => idle (s.wr l.resAddr 64 (s.eng e).res.toNat)) s else idle s

/-- One Bench instruction on the engine that runs launch l. -/
def benchEff (e op : Nat) (w : BitVec 26) (l : Launch) (s : State) : State :=
  let x := s.eng e
  if benchIllegal s op w x l then haltLaunch e 0x8531 s
  else if op = 0x01 then
    match ldsUe s (l.strm (bA w % 8)) (x.posOf (bA w % 8)) with
    | some sec => ueLaunch e sec s
    | none => benchAdvance e op w s (ldsEff e l w (ldsNote s (l.strm (bA w % 8)) (x.posOf (bA w % 8))))
  else if op = 0x02 then writeOr e (stsSpans s e l w) (fun s => benchAdvance e op w s (stsEff e l w s)) s
  else if op = 0x0E then
    match s.memUe (scaleBase s + 512 * (l.strm (bA w % 8)).entry) 256 with
    | some x => ueLaunch e x s
    | none =>
    if entryBad s (l.strm (bA w % 8)).entry then haltLaunch e 0x8533 s
    else writeOr e (stesSpans s e l w) (fun s => benchAdvance e op w s (stesEff e l w s)) s
  else if op = 0x0F then benchAdvance e op w s (s.updEng e (benchHash w))
  else if op = 0x13 then
    let p := s.draw
    benchAdvance e op w s (p.2.updEng e (fun x => x.setK (bD w) (sopVal (bM w) (x.kreg (bA w)) (x.kreg (bB w)) (Config.word p.1))))
  else if op = 0x18 then benchEnd e l s
  else benchAdvance e op w s (s.updEng e (benchReg op w))

/-- A command to Bench engine e; a number at or above the part's engines names no unit. -/
def onEng (e : Nat) (s : State) (f : State → State) : Host.Outcome State Fault Refusal :=
  if e < s.nCh then .next (f s) else .refused .noSuchUnit

/-- The bytes that an instruction's stream access or result record reaches. -/
def benchSpans (s : State) (e op : Nat) (w : BitVec 26) (l : Launch) : List (Nat × Nat) :=
  let t := l.strm (bA w % 8)
  let j := (s.eng e).posOf (bA w % 8)
  if op = 0x01 then (if fmtIsEs t.fmt then (scaleBase s + 512 * t.entry, 256) :: [0, 1].flatMap (fun k => [((t.blockAddr (j + k)).1, blockBytes t.fmt), ((t.blockAddr (j + k)).2, 1)]) else [(t.unit j, t.unitBytes j)])
  else if op = 0x02 then stsSpans s e l w
  else if op = 0x0E then (scaleBase s + 512 * t.entry, 256) :: stesSpans s e l w
  else if op = 0x18 && l.result then [(l.resAddr, 64)]
  else []

/-- A Bench instruction given to an engine; an engine that runs no launch takes none, and one whose GDDR7 channel is initialised or retrained
waits (R234, R235). -/
def benchInstr (e op : Nat) (w : BitVec 26) (s : State) : Host.Outcome State Fault Refusal :=
  onEng e s (fun s => match (s.eng e).cur with
    | some l => if (s.eng e).running && !(benchSpans s e op w l).any (fun p => memBusy s p.1 p.2) then hostKept (benchEff e op w l) s else s
    | none => s)

end Sys2Proof.Machine
end

