-- ==== Sys2Proof/Machine/BenchStd.lean ====
section
/-!
DEFINITION. The standard Bench programs (R211 to R221) but chain add and the snapshots, and the fold of reduced pieces (R184, R185, R209).
-/

namespace Sys2Proof.Machine

open Sys2Proof

/-! ### FP32 helpers -/

def fa (a b : Nat) : Nat := (fAdd 23 ed a b).bits
def fs (a b : Nat) : Nat := (fSub 23 ed a b).bits
def fm (a b : Nat) : Nat := (fMul 23 ed a b).bits
def fd (a b : Nat) : Nat := (fDiv 23 ed a b).bits
def fma (a b c : Nat) : Nat := (fFma 23 ed false false a b c).bits
def fsqrt (a : Nat) : Nat := (fSqrt 23 ed a).bits
def frsqrt (a : Nat) : Nat := (fRsqrt 23 ed a).bits
/-- A count as FP32. -/
def fofn (n : Nat) : Nat := (flRound 23 ed (.fin false n 0)).bits

/-- sum64 of R214: groups of 64 by the tree of R128, the group results folded from the first. -/
def sum64 (l : List Nat) : Nat :=
  let gs := (chunks 64 l).map (fun g => (vred (fAdd 23 ed) ((List.range 64).map (fun i => nth 0 g i))).v)
  match gs with
  | [] => 0
  | g :: r => r.foldl fa g

/-- sumsq of R216: the values in row order, narrowed, squared. -/
def sumsq (l : List AF40) : Nat := sum64 (l.map (fun v => fm (afNarrow v).toNat (afNarrow v).toNat))

/-! ### Pieces (R180, R184) -/

def Piece.f (p : Piece) (i n : Nat) : Nat := byteField p.desc i n
def Piece.group (p : Piece) : Nat := p.f 0 2 % 4096
def Piece.epoch (p : Piece) : Nat := p.f 2 2
def Piece.slice (p : Piece) : Nat := p.f 4 4
/-- The row block; one that the sum of R182 takes beyond 16 bits has its last bit in bit 127. [DEDUCED: log 88] -/
def Piece.rb (p : Piece) : Nat := p.f 8 2 + (if bitOf p.desc 127 then 65536 else 0)
def Piece.col0 (p : Piece) : Nat := p.f 10 2
def Piece.cols (p : Piece) : Nat := p.f 12 1 % 64
/-- The span length in micro-batches. -/
def Piece.span (p : Piece) : Nat := p.f 13 1 % 16 + 1
def Piece.mb (p : Piece) : Nat := p.f 14 2 % 4096

/-- The fold of a piece position. -/
def foldOf (s : State) (slice rb col0 : Nat) : Option Fold :=
  s.bench.folds.find? (fun f => f.slice == slice && f.rb == rb && f.col0 == col0)

def holdAddr (s : State) (a i : Nat) : Nat := slHold s a + 5184 * i

/-- The hold slot that keeps a piece of a position (R209). -/
def heldSlot (s : State) (a rb col0 mb : Nat) : Option Nat :=
  (List.range (slHslots s a)).find? (fun i =>
    let h := holdAddr s a i
    s.byte h == 1 && decide (s.rd (h + 2) 2 = rb) && decide (s.rd (h + 4) 2 = col0) && decide (s.rd (h + 8) 2 = mb))

/-- Pieces held for a position. -/
def heldCount (s : State) (a rb col0 : Nat) : Nat :=
  ((List.range (slHslots s a)).filter (fun i =>
    let h := holdAddr s a i
    s.byte h == 1 && decide (s.rd (h + 2) 2 = rb) && decide (s.rd (h + 4) 2 = col0))).length

def freeSlot (s : State) (a : Nat) : Option Nat := (List.range (slHslots s a)).find? (fun i => s.byte (holdAddr s a i) == 0)

/-- The slices of an owner, or those of no owner. -/
def slicesOf (s : State) (own : Option Nat) : List Nat := (sliceEntries s).filter (fun a => sliceOwner s a == own)

/-- VALID 0x00 goes into every hold slot of a slice (R209). -/
def clearHold (a : Nat) (s : State) : State :=
  (List.range (slHslots s a)).foldl (fun s i => if s.byte (holdAddr s a i) = 0 then s else s.putBytes (holdAddr s a i) [0]) s

/-- The slice table of an owner takes effect: at the start of its job and at an epoch fence (R208, R209). [DEDUCED: log 168] -/
def tableTakesEffect (p : Nat) (s : State) : State := (slicesOf s (some p)).foldl (fun s a => clearHold a s) s

/-- The conditions of R184 that discard a piece with 0x8521. -/
def pieceBad (s : State) (a : Nat) (p : Piece) : Bool :=
  sliceFrozen s a || decide (p.span ≠ slSpan s a) || decide (slRows s a < 32 * p.rb + 32) || decide (slCols s a < p.col0 + p.cols) ||
  decide (slMbs s a ≤ p.mb) || (slTied s a && decide (p.mb ≠ 0))

/-- Pieces of a position whose fold is a launch that has not ended (R202). -/
def foldWaits (s : State) (slice rb col0 : Nat) : List Piece :=
  (s.bench.eng.flatMap (fun x => (x.2.fg ++ x.2.fgw).filterMap (fun (l : Launch) => l.fold))).filter (fun (q : Piece) =>
    q.slice == slice && q.rb == rb && q.col0 == col0)

/-- A piece that its position has already folded or holds, or that comes after the optimizer (R184, R185). -/
def pieceDup (s : State) (a : Nat) (p : Piece) : Bool :=
  (s.slice p.slice).opted || (foldWaits s p.slice p.rb p.col0).any (fun (q : Piece) => q.mb == p.mb) ||
  decide (p.mb < ((foldOf s p.slice p.rb p.col0).map (fun f => f.next)).getD 0) || (heldSlot s a p.rb p.col0 p.mb).isSome

/-- Add 32 × cols values to the accumulator at a position: the first exactly, later ones with one AF40 rounding (R184). -/
def accAdd (a rb col0 cols : Nat) (first : Bool) (vals : List AF40) (s : State) : State :=
  (List.range (32 * cols)).foldl (fun s i =>
    let ad := slAcc s a + 5 * ((32 * rb + i / cols) * slCols s a + col0 + i % cols)
    let v := nth 0 vals i
    s.wr ad 5 (if first then v.toNat else (afAdd (BitVec.ofNat 40 (s.rd ad 5)) v).toNat)) s

/-- The next micro-batch of a position after folding one piece. -/
def foldStep (a : Nat) (slice rb col0 cols : Nat) (vals : List AF40) (s : State) : State :=
  let f := (foldOf s slice rb col0).getD { slice, rb, col0, cols }
  let s1 := accAdd a rb col0 cols (decide (f.next = 0)) vals s
  let f1 := { f with next := f.next + slSpan s a }
  s1.updBench (fun b => { b with folds := f1 :: b.folds.filter (fun g => g.slice != slice || g.rb != rb || g.col0 != col0) })

/-- The values of a held piece. -/
def heldVals (s : State) (h cols : Nat) : List AF40 :=
  (List.range (32 * cols)).map (fun i => BitVec.ofNat 40 (s.rd (h + 64 + 5 * (32 * (i / cols) + i % cols)) 5))

/-- Put a piece into a hold slot (R209). -/
def holdPiece (a i : Nat) (p : Piece) (s : State) : State :=
  let h := holdAddr s a i
  let s1 := (((((s.zero h 5184).wr h 1 1).wr (h + 2) 2 p.rb).wr (h + 4) 2 p.col0).wr (h + 6) 1 p.cols).wr (h + 8) 2 p.mb
  (List.range (32 * p.cols)).foldl (fun s k => s.wr (h + 64 + 5 * (32 * (k / p.cols) + k % p.cols)) 5 (nth 0 p.vals k).toNat) s1

/-- Every piece position of the slice has reached its piece count, and the positions cover the slice (R184). -/
def foldsDone (s : State) (a : Nat) : Bool :=
  let fs := s.bench.folds.filter (fun f => f.slice == slId s a)
  let n := if slTied s a then 1 else slMbs s a
  fs.all (fun f => decide (n ≤ f.next)) && decide (slRows s a * slCols s a ≤ fs.foldl (fun c f => c + 32 * f.cols) 0)

/-- What a piece of a lead owner's slice with noise statistics adds (R220). [DESIGN CHOICE: log 55] -/
def noteNoise (a : Nat) (p : Piece) (s : State) : State :=
  if slNoise s a && slLead s a then
    let l := match p.side with
      | [] => 0
      | x :: r => r.foldl fa x
    s.updBench (fun b => { b with noise := b.noise ++ [⟨p.slice, p.rb, p.col0, p.mb, BitVec.ofNat 32 l, BitVec.ofNat 32 (sumsq p.vals)⟩] })
  else s

/-! ### Running a standard program -/

/-- The slice-table entry of a launch's slice; a launch of a slice the table does not list does nothing. [DEDUCED: log 61] -/
def onSlice (l : Launch) (f : Nat → State → State) (s : State) : State :=
  match l.entry s with
  | some a => f a s
  | none => s

/-- Stop at an uncorrectable sector in [a, a + n), or go on (R207). -/
def readOr (e a n : Nat) (f : State → State) (s : State) : State :=
  match s.memUe a n with
  | some sec => ueLaunch e sec s
  | none => f (s.readNote a n)

/-- Stop at an uncorrectable sector in one of the spans, or go on (R207). -/
def readsOr (e : Nat) (sp : List (Nat × Nat)) (f : State → State) (s : State) : State :=
  match sp.findSome? (fun p => s.memUe p.1 p.2) with
  | some sec => ueLaunch e sec s
  | none => f (sp.foldl (fun s p => s.readNote p.1 p.2) s)

/-! ### Cast with scale (R215) -/

/-- The FP32 master (i, j) of a slice. -/
def masterAt (s : State) (a i j : Nat) : Nat := s.rd (slMaster s a + 4 * (i * slCols s a + j)) 4

/-- The blocks of a cast in storage order: 32 rows of one column, or 32 columns of one row. [DEDUCED: log 22] -/
def castBlocks (s : State) (a : Nat) : List (Nat × List Fl) :=
  let R := slRows s a
  let C := slCols s a
  (List.range (R * C / 32)).map (fun k => (k, (List.range 32).map (fun n =>
    flDecode 23 (if slRowBlk s a then masterAt s a (32 * (k % (R / 32)) + n) (k / (R / 32))
      else masterAt s a (k / (C / 32)) (32 * (k % (C / 32)) + n)))))

/-- Bytes of a working copy, padding included. -/
def wcBytes (s : State) (a : Nat) : Nat := cdiv (slRows s a * slCols s a) 1024 * groupBytes (slWcFmt s a)

/-- Padding blocks of the last group: all zero, Z set (R34). -/
def padBlocks (t : Line) (n : Nat) (s : State) : State :=
  (List.range (cdiv n 32 * 32 - n)).foldl (fun s i => s.wrBlock t (n + i) {}) s

/-- The descriptor of a working copy: class working copy, T of its entry for the step. -/
def wcDesc (s : State) (own : Option Nat) (a : Nat) : Line :=
  putBits (entryDesc s own (slWcFmt s a) (slWcEntry s a) (slWc s a)) 5 4 0

def castRun (e : Nat) (l : Launch) (a : Nat) (s : State) : State :=
  readsOr e [(scaleBase s + 512 * slWcEntry s a, 256), (slMaster s a, 4 * slRows s a * slCols s a)] (fun s =>
    if entryBad s (slWcEntry s a) then haltLaunch e 0x8533 s else
    let bs := castBlocks s a
    let t := wcDesc s l.own a
    let s1 := padBlocks t bs.length (convWrite s l.own (benchSrc e) t false bs)
    let dg := digest (s1.bytes (slWc s a) (wcBytes s a)) 2
    (s1.updSlice (slId s a) (fun x => { x with cast := true, stampStep := (s.jobOf l.own).step, stampDig := dg.truncate 32 })).mark l.own 0) s

/-! ### Amax history (R213, R47, R40) -/

/-- The window W and margin of the policy word (R58). -/
def Job.window (j : Job) : Nat := bitsOf j.policy 13 8 + 1
def Job.margin (j : Job) : Int := bitsOf j.policy 16 14

/-- (NZ_IN - FLUSHED) ÷ NZ_IN is below the threshold, exactly (R47). -/
def watchLow (nz fl thr : Nat) : Bool :=
  match flDecode 23 thr with
  | .fin false m e => flCmp (.fin false (nz - fl) 0) (.fin false (m * nz) e) == .lt
  | .inf false => true
  | _ => false

/-- T over the newest entries of a history (R40); `prev` is T of the step before. [DESIGN CHOICE: log 177] -/
def histT (fmt : Nat) (margin : Int) (l : List Nat) (prev : Int) : Int :=
  let m := l.foldl max 0
  match flDecode 23 m with
  | .fin _ 0 _ => prev
  | .fin _ k e => min (max (shiftFor fmt k e + margin) (-126)) 127
  | _ => prev

/-- The ledger tensor entry of R263 for entry x after its history program. -/
def ledgerTensor (s0 s : State) (a bank : Nat) (n : W64) (counted raised : Bool) : Line :=
  let c := a + 64 + 48 * bank
  let fl := (s0.byte (a + 5)).toNat
  let flags := (if Nat.testBit fl 1 then 1 else 0) + (if counted then 2 else 0) + (if raised then 4 else 0) +
    (if s0.rd (c + 18) 6 ≠ 0 then 8 else 0) + (if s0.rd (c + 24) 6 ≠ 0 then 16 else 0)
  BitVec.ofNat 512 (s0.rd a 4 + s0.rd (a + 4) 1 * 2 ^ 32 + flags * 2 ^ 40 + s0.rd (a + 8 + n.toNat % 2) 1 * 2 ^ 48 +
    s.rd (a + 10) 1 * 2 ^ 56 + s.rd (a + 12) 2 * 2 ^ 64 + s0.rd c 30 * 2 ^ 128 + s0.rd (c + 30) 4 * 2 ^ 384)

/-- Put a tensor entry into the record of step n of an owner, open or closed. -/
def recordTensor (own : Option Nat) (n : W64) (x : Nat) (t : Line) (s : State) : State :=
  match own with
  | none => s
  | some p => s.updCrs (fun c => { c with
      steps := c.steps.map (fun e => if e.1 == p && e.2.step == n then (e.1, { e.2 with entries := SMap.set x t e.2.entries }) else e)
      closed := c.closed.map (fun r => if r.own == p && r.step == n && !r.ready then { r with entries := SMap.set x t r.entries } else r) })

/-- The scale domain of an entry: 0 for the local device, the scope word for a group (R41). -/
def scopeOf (s : State) (x : Nat) : Nat :=
  let v := s.rd (scaleBase s + 512 * x + 6) 2
  if 0x8000 ≤ v then v else 0

/-- amax_history of R213 on entry x in step n of an owner's job, and its T into the scale vector (R212). [DEDUCED: log 174] -/
def histEntry (e : Nat) (own : Option Nat) (n : W64) (s : State) (x : Nat) : State :=
  let a := scaleBase s + 512 * x
  let j := s.jobOf own
  let bank := n.toNat % 2
  let c := a + 64 + 48 * bank
  let nz := s.rd c 6
  let fl := s.rd (c + 6) 6
  let ran := s.bench.ran.contains (2 * x + bank)
  let tNow := signed 8 (s.byte (a + 8 + bank)).toNat
  let s1 :=
    if nz = 0 && s.rd (c + 24) 6 = 0 && !ran && (decide (scopeOf s x = 0) || decide (s.rd (c + 30) 4 = 0)) then s.wr (a + 9 - bank) 1 (unsign 8 tNow)
    else
      let head := (s.rd (a + 11) 1 + 1) % 64
      let cnt := min (s.rd (a + 10) 1 + 1) 64
      let s2 := ((s.wr (a + 11) 1 head).wr (a + 256 + 4 * head) 4 (s.rd (c + 30) 4)).wr (a + 10) 1 cnt
      let newest := (List.range (min j.window cnt)).map (fun i => s2.rd (a + 256 + 4 * ((head + 64 - i) % 64)) 4)
      let fb := putBits (s.byte (a + 5)) 1 1 (if cnt < j.window then 1 else 0)
      (s2.putBytes (a + 5) [fb]).wr (a + 9 - bank) 1 (unsign 8 (histT (s.rd (a + 4) 1) j.margin newest (if s.rd (a + 10) 1 = 0 then 0 else tNow)))
  let off := bitOf (s.byte (a + 5)) 2
  let low := decide (nz ≠ 0) && watchLow nz fl (s.rd (a + 16) 4)
  let w := s.rd (a + 12) 2 + 1
  let hit := !off && low && decide (s.rd (a + 14) 2 ≤ w)
  let s3 := if off || nz = 0 then s1 else if low then s1.wr (a + 12) 2 (if hit then 0 else w) else s1.wr (a + 12) 2 0
  let s4 := if hit then s3.raise 0x1403 (benchSrc e) own (BitVec.ofNat 64 (s.rd a 4)) n else s3
  let s5 := recordTensor own n x (ledgerTensor s s4 a bank n (!off && low) hit) s4
  let s6 := (s5.wr c 48 0).updBench (fun b => { b with ran := b.ran.filter (fun i => i != 2 * x + bank) })
  s6.wr (scaleBase s + 0x2000000 + x) 1 (s6.rd (a + 9 - bank) 1)

/-- Every valid scale entry, ascending. -/
def validEntries (s : State) : List Nat := (List.range 65536).filter (fun x => bitOf (s.byte (scaleBase s + 512 * x + 5)) 0)

/-- Valid entries of a scale domain. -/
def scaleIdx (s : State) (scope : Nat) : List Nat :=
  (List.range 65536).filter (fun x => bitOf (s.byte (scaleBase s + 512 * x + 5)) 0 && decide (scopeOf s x = scope))

/-- The entries of a scale domain that engine e serves: its channel holds the entry's first line (R211). -/
def engEntries (s : State) (e scope : Nat) : List Nat :=
  (scaleIdx s scope).filter (fun x => decide ((s.gddrMap (scaleBase s + 512 * x)).1 = e))

/-- A history launch of an owner is still queued or running on another engine, or on this one behind it, or its amax reduction is open. -/
def histLeft (s : State) (p : Nat) : Bool :=
  s.u.col.convs.any (fun (c : Conv) => c.kind == 2 && c.own == some p && c.st != .done) ||
  s.bench.eng.any (fun x => (x.2.fg ++ x.2.bg ++ x.2.fgw ++ x.2.bgw ++ x.2.cur.toList).any (fun (l : Launch) => decide (l.slot = 1) && l.own == some p))

/-- Closed records of an owner can be written once its last history program has ended (R262). -/
def readyRecords (own : Option Nat) (s : State) : State :=
  match own with
  | none => s
  | some p => if histLeft s p then s else s.updCrs (fun c => { c with closed := c.closed.map (fun r => if r.own == p then { r with ready := true } else r) })

/-- The history of an engine's entries in order; data that reads uncorrectable stops the launch at its entry (R207). -/
def histLoop (e : Nat) (own : Option Nat) (n : W64) : List Nat → State → State
  | [], s => s.markStep own n 9
  | x :: r, s => readOr e (scaleBase s + 512 * x) 512 (fun s => histLoop e own n r (histEntry e own n s x)) s

def histRun (e : Nat) (l : Launch) (s : State) : State := histLoop e l.own (l.arg 0) (engEntries s e l.snap) s

/-! ### Optimizers (R217) -/

/-- The parameter block of a slice (R217): a write after the step course is seen whole or not at all, which is free for each program. [DESIGN CHOICE: log 53] -/
def parLine (s : State) (a : Nat) : Line :=
  match (s.slice (slId s a)).par with
  | some old => if Config.seen s.fresh then s.line (slParams s a) else old
  | none => s.line (slParams s a)

/-- FP32 field i of the parameter block. -/
def parm (s : State) (a i : Nat) : Nat := byteField (parLine s a) (4 * i) 4

/-- The gradient of element k: the accumulator narrowed, times GSCALE. -/
def gradAt (s : State) (a k : Nat) : Nat := fm (afNarrow (BitVec.ofNat 40 (s.rd (slAcc s a + 5 * k) 5))).toNat (parm s a 9)

/-- w - lr × fma(wd, w, u). -/
def decay (s : State) (a w u : Nat) : Nat := fs w (fm (parm s a 0) (fma (parm s a 1) w u))

/-- FP32 array `b` of the state image, each array ROWS × COLS long. -/
def stAddr (s : State) (a b k : Nat) : Nat := slState s a + 4 * (b * (slRows s a * slCols s a) + k)
def wAddr (s : State) (a k : Nat) : Nat := slMaster s a + 4 * k

/-- One element of AdamW. [DEDUCED: log 62] -/
def adamwEl (a : Nat) (s : State) (k : Nat) : State :=
  let P := parm s a
  let g := gradAt s a k
  let m := fma (P 2) (s.rd (stAddr s a 0 k) 4) (fm (P 3) g)
  let v := fma (P 4) (s.rd (stAddr s a 1 k) 4) (fm (P 5) (fm g g))
  let u := fd (fm m (P 7)) (fa (fsqrt (fm v (P 8))) (P 6))
  ((s.wr (stAddr s a 0 k) 4 m).wr (stAddr s a 1 k) 4 v).wr (wAddr s a k) 4 (decay s a (s.rd (wAddr s a k) 4) u)

/-- One element of Lion. -/
def lionEl (a : Nat) (s : State) (k : Nat) : State :=
  let P := parm s a
  let g := gradAt s a k
  let m := s.rd (stAddr s a 0 k) 4
  let u := fSign (fma (P 2) m (fm (P 3) g))
  (s.wr (stAddr s a 0 k) 4 (fma (P 4) m (fm (P 5) g))).wr (wAddr s a k) 4 (decay s a (s.rd (wAddr s a k) 4) u)

/-- One element of SGD with momentum. -/
def sgdEl (a : Nat) (s : State) (k : Nat) : State :=
  let P := parm s a
  let g := gradAt s a k
  let m := fma (P 2) (s.rd (stAddr s a 0 k) 4) g
  let d := if P 11 % 2 = 1 then fma (P 2) m g else m
  (s.wr (stAddr s a 0 k) 4 m).wr (wAddr s a k) 4 (decay s a (s.rd (wAddr s a k) 4) d)

/-- Addresses of vr[i] and vc[j] of the factored optimizer: after m when β1 > 0 (R214). -/
def vrAddr (s : State) (a i : Nat) : Nat := slState s a + (if fPos (parm s a 2) then 4 * slRows s a * slCols s a else 0) + 4 * i
def vcAddr (s : State) (a j : Nat) : Nat := vrAddr s a (slRows s a) + 4 * j

/-- The first pass of the factored optimizer: vr and vc. -/
def factPass1 (a : Nat) (s : State) : State :=
  let R := slRows s a
  let C := slCols s a
  let P := parm s a
  let q := fun (i j : Nat) => let g := gradAt s a (i * C + j); fa (fm g g) (P 10)
  let s1 := (List.range R).foldl (fun t i => t.wr (vrAddr s a i) 4
    (fma (P 4) (s.rd (vrAddr s a i) 4) (fm (P 5) (fd (sum64 ((List.range C).map (q i))) (fofn C))))) s
  (List.range C).foldl (fun t j => t.wr (vcAddr s a j) 4
    (fma (P 4) (s.rd (vcAddr s a j) 4) (fm (P 5) (fd ((List.range R).foldl (fun c i => fa c (q i j)) 0) (fofn R))))) s1

/-- One element of the second pass; mr is the mean of vr. -/
def factEl (a mr : Nat) (s : State) (k : Nat) : State :=
  let C := slCols s a
  let P := parm s a
  let u0 := fm (gradAt s a k) (frsqrt (fd (fm (s.rd (vrAddr s a (k / C)) 4) (s.rd (vcAddr s a (k % C)) 4)) mr))
  if fPos (P 2) then
    let m := fma (P 2) (s.rd (stAddr s a 0 k) 4) (fm (P 3) u0)
    (s.wr (stAddr s a 0 k) 4 m).wr (wAddr s a k) 4 (decay s a (s.rd (wAddr s a k) 4) m)
  else s.wr (wAddr s a k) 4 (decay s a (s.rd (wAddr s a k) 4) u0)

def factRun (a : Nat) (s : State) : State :=
  let R := slRows s a
  let s1 := factPass1 a s
  let mr := fd (sum64 ((List.range R).map (fun i => s1.rd (vrAddr s a i) 4))) (fofn R)
  (List.range (R * slCols s a)).foldl (factEl a mr) s1

/-- Run an optimizer's elements on a slice that is not frozen; data that reads uncorrectable stops it first (R207, R217). -/
def optRun (e : Nat) (l : Launch) (f : Nat → State → State) (a : Nat) (s : State) : State :=
  let rc := slRows s a * slCols s a
  if sliceFrozen s a then s
  else readOr e (slParams s a) 64 (readOr e (slMaster s a) (4 * rc) (readOr e (slState s a) (slStateBytes s a) (readOr e (slAcc s a) (5 * rc) (fun s =>
    ((f a s).updSlice (slId s a) (fun x => { x with opted := true })).mark l.own 6)))) s

def elements (s : State) (a : Nat) : List Nat := List.range (slRows s a * slCols s a)

/-! ### Digest (R218, R219) -/

/-- A slice's part of the shard image: masters, state image, zero bytes to a multiple of 64. -/
def slicePart (s : State) (a : Nat) : List Byte :=
  let b := s.bytes (slMaster s a) (4 * slRows s a * slCols s a) ++ s.bytes (slState s a) (slStateBytes s a)
  b ++ List.replicate ((64 - b.length % 64) % 64) 0

/-- The length of the shard image. -/
def shardBytes (s : State) : Nat :=
  (sliceEntries s).foldl (fun n a => max n (slImgOff s a + cdiv (4 * slRows s a * slCols s a + slStateBytes s a) 64 * 64)) 0

/-- The shard digest, once every slice's terms are added. -/
def shardDigest (s : State) : W64 := mix64 (s.bench.digSum ^^^ mix64 (BitVec.ofNat 64 (shardBytes s)))

/-- Every slice's terms of the step are added. -/
def shardReady (s : State) : Bool := (sliceEntries s).all (fun a => (s.slice (slId s a)).digested)

def digestRun (e : Nat) (l : Launch) (a : Nat) (s : State) : State :=
  readOr e (slMaster s a) (4 * slRows s a * slCols s a) (readOr e (slState s a) (slStateBytes s a) (fun s =>
    if (s.slice (slId s a)).digested then s
    else
      let s1 := (s.updBench (fun b => { b with digSum := b.digSum + digestSum 1 (slImgOff s a / 8) (words64 (slicePart s a)) })).updSlice (slId s a)
        (fun x => { x with digested := true })
      if shardReady s1 then
        (match l.own with
          | some p => s1.updCrs (fun c => { c with steps := c.steps.map (fun (r : Nat × StepRec) => if r.1 == p then (r.1, { r.2 with shard := shardDigest s1 }) else r) })
          | none => s1).mark l.own 7
      else s1)) s

/-! ### Noise statistics (R220) -/

/-- Add the contributions of a slice's folded pieces to its positions' sums, by ascending micro-batch (R220). [DEDUCED: log 56] -/
def noiseRun (_e : Nat) (l : Launch) (a : Nat) (s : State) : State :=
  let id := l.slice
  s.updBench (fun b =>
    let folds := b.folds.map (fun f =>
      if f.slice != id then f
      else
        let ins := b.noise.filter (fun n => n.slice == id && n.rb == f.rb && n.col0 == f.col0)
        (List.range (slMbs s a)).foldl (fun f mb => (ins.filter (fun n => n.mb == mb)).foldl (fun f n =>
          { f with l := BitVec.ofNat 32 (fa f.l.toNat n.l.toNat), q := BitVec.ofNat 32 (fa f.q.toNat n.q.toNat) }) f) f)
    { b with folds, noise := b.noise.filter (fun n => n.slice != id) })

/-! ### What the standard programs reach (R201, R211 to R221) -/

def rdSpan (a n : Nat) : Nat × Nat × Bool := (a, n, false)
def wrSpan (a n : Nat) : Nat × Nat × Bool := (a, n, true)

/-- Bytes of the accumulator at a piece position. -/
def accSpans (s : State) (a rb col0 cols : Nat) : List (Nat × Nat) :=
  (List.range 32).map (fun i => (slAcc s a + 5 * ((32 * rb + i) * slCols s a + col0), 5 * cols))

/-- Headers of the hold slots of a slice. -/
def holdSpans (s : State) (a : Nat) : List (Nat × Nat) := (List.range (slHslots s a)).map (fun i => (holdAddr s a i, 64))

/-! ### Slots (R222, BNC_SNAP_DEST) -/

def snapDest (s : State) (k : Nat) : W64 := s.reg 0 (0xE00030 + 8 * (k % 2))
def snapRemote (s : State) (k : Nat) : Bool := bitOf (snapDest s k) 63
def snapPartner (s : State) (k : Nat) : Nat := bitsOf (snapDest s k) 59 40
def snapBase (s : State) (k : Nat) : Nat := bitsOf (snapDest s k) 35 0 * 4096

/-! ### The image of a snapshot (R223) -/

def sliceTableBytes (s : State) : Nat := 128 * sliceCount s
/-- Offset of the scale entries in the image's body. -/
def snapEntryOff (s : State) : Nat := sliceTableBytes s + shardBytes s

/-- An entry as the image holds it: bytes 64 to 159 zero. -/
def snapEntry (s : State) (x : Nat) : List Byte :=
  let a := scaleBase s + 512 * x
  s.bytes a 64 ++ List.replicate 96 0 ++ s.bytes (a + 160) 352

/-- The entries that a copy takes: those of `scope`, or with 0 those of every scope that waits for nothing. -/
def copyTakes (s : State) (late : List Nat) (scope x : Nat) : Bool :=
  if scope = 0 then !late.contains (scopeOf s x) else decide (scopeOf s x = scope)

/-- Pieces of the body that a copy of an engine writes: offset and bytes. -/
def snapParts (s : State) (e : Nat) (late : List Nat) (scope : Nat) (entries : List Nat) : List (Nat × List Byte) :=
  (if scope ≠ 0 then [] else (List.range (sliceCount s)).flatMap (fun k =>
    let a := sliceBase s + 128 * k
    if slEngine s a = e then [(128 * k, s.bytes a 128), (sliceTableBytes s + slImgOff s a, slicePart s a)] else [])) ++
  (List.range entries.length).filterMap (fun i =>
    let x := nth 0 entries i
    if (s.gddrMap (scaleBase s + 512 * x)).1 = e && copyTakes s late scope x then some (snapEntryOff s + 512 * i, snapEntry s x) else none)

/-- A field of an image. -/
def imgF (b : List Byte) (i n : Nat) : Nat := leNat ((b.drop i).take n)

/-- Length of an image by its header. -/
def imageLen (b : List Byte) : Nat := 256 + 128 * imgF b 48 4 + imgF b 56 8 + 512 * imgF b 52 4

/-- What the copy program of an engine reads and, in a local slot, writes (R224): its slices' entries, masters and state, and scale entries. -/
def copySpans (s : State) (e : Nat) (l : Launch) : List (Nat × Nat × Bool) :=
  match s.bench.snap with
  | none => []
  | some n =>
    if !n.parts.contains (e, l.conv) || n.slot ≠ l.snap then []
    else
      (if l.conv ≠ 0 then [] else ((sliceEntries s).filter (fun a => decide (slEngine s a = e))).flatMap (fun a =>
        [rdSpan a 128, rdSpan (slMaster s a) (4 * slRows s a * slCols s a), rdSpan (slState s a) (slStateBytes s a)])) ++
      ((n.entries.filter (fun x => decide ((s.gddrMap (scaleBase s + 512 * x)).1 = e) && copyTakes s n.late l.conv x)).map (fun x => rdSpan (scaleBase s + 512 * x) 512)) ++
      (if snapRemote s n.slot then [] else (snapParts s e n.late l.conv n.entries).map (fun p => wrSpan (snapBase s n.slot + 256 + p.1) p.2.length))

/-- The scale entries of an image that engine e serves: their addresses and bytes. -/
def imageEntries (s : State) (e : Nat) (b : List Byte) : List (Nat × List Byte) :=
  let body := b.drop (256 + 128 * imgF b 48 4 + imgF b 56 8)
  ((List.range (imgF b 52 4)).map (fun i => (body.drop (512 * i)).take 512)).filterMap (fun r =>
    let a := scaleBase s + 512 * imgF r 0 2
    if (s.gddrMap a).1 = e then some (a, r) else none)

/-- What a restore writes of scale entries: those of the image, or of an image without any the history count and flags of every valid one. -/
def restEntries (s : State) (e : Nat) (b : List Byte) : List (Nat × Nat × Bool) :=
  if imgF b 52 4 = 0 then ((validEntries s).filter (fun x => decide ((s.gddrMap (scaleBase s + 512 * x)).1 = e))).map (fun x => wrSpan (scaleBase s + 512 * x) 16)
  else (imageEntries s e b).map (fun r => wrSpan r.1 512)

/-- What the restore program of an engine writes of its slices, and for a local slot the image that it reads and the scale entries that it
writes (R226). -/
def restoreSpans (s : State) (e : Nat) (l : Launch) : List (Nat × Nat × Bool) :=
  let k := (l.arg 0).toNat % 2
  let b := s.bytes (snapBase s k) (imageLen (s.bytes (snapBase s k) 256))
  ((sliceEntries s).filter (fun a => decide (slEngine s a = e))).flatMap (fun a =>
    [wrSpan (slMaster s a) (4 * slRows s a * slCols s a), wrSpan (slState s a) (slStateBytes s a)]) ++
  (if snapRemote s k then [] else rdSpan (snapBase s k) b.length :: restEntries s e b)

/-- The bytes that the streams of a standard program reach for its slice or engine, and that a fold reaches (R201, R211). [DEDUCED: log 165] -/
def stdSpans (s : State) (e : Nat) (l : Launch) : List (Nat × Nat × Bool) :=
  if l.slot = 1 && l.fold.isNone then (engEntries s e l.snap).flatMap (fun x =>
    let a := scaleBase s + 512 * x
    [rdSpan a 512, wrSpan a 512, wrSpan (scaleBase s + 0x2000000 + x) 1])
  else if l.slot = 9 && l.fold.isNone then copySpans s e l
  else if l.slot = 10 && l.fold.isNone then restoreSpans s e l
  else match l.entry s with
  | none => []
  | some a =>
    let m := (slMaster s a, 4 * slRows s a * slCols s a)
    let st := (slState s a, slStateBytes s a)
    match l.fold with
    | some p => (accSpans s a p.rb p.col0 p.cols).flatMap (fun r => [rdSpan r.1 r.2, wrSpan r.1 r.2]) ++
        (holdSpans s a).flatMap (fun r => [rdSpan r.1 r.2, wrSpan r.1 1])
    | none =>
      if l.slot = 0 then [rdSpan m.1 m.2, wrSpan (slWc s a) (wcBytes s a)]
      else if l.slot = 3 then [rdSpan m.1 m.2, rdSpan st.1 st.2]
      else if 5 ≤ l.slot && decide (l.slot ≤ 8) && !sliceFrozen s a then
        [rdSpan (slAcc s a) (5 * slRows s a * slCols s a), rdSpan (slParams s a) 64, rdSpan m.1 m.2, wrSpan m.1 m.2, rdSpan st.1 st.2, wrSpan st.1 st.2]
      else []

/-- The values of the pieces held for a position, which its fold may read (R184, R209). -/
def heldSpans (s : State) (l : Launch) : List (Nat × Nat × Bool) :=
  match l.fold, l.entry s with
  | some p, some a => ((List.range (slHslots s a)).filter (fun i =>
      let h := holdAddr s a i
      s.byte h == 1 && decide (s.rd (h + 2) 2 = p.rb) && decide (s.rd (h + 4) 2 = p.col0))).map (fun i => rdSpan (holdAddr s a i + 64) 5120)
  | _, _ => []

/-- Everything that a launch of a standard program, or a fold, may reach. -/
def stdReach (s : State) (e : Nat) (l : Launch) : List (Nat × Nat × Bool) := stdSpans s e l ++ heldSpans s l

/-- The first bytes that a launch's streams may not reach on the engine: address, length, write. -/
def launchHit (s : State) (e : Nat) (l : Launch) : Option (Nat × Nat × Bool) :=
  ((List.range 8).flatMap (fun i => (l.strm i).spans.map (fun p => (p.1, p.2, (l.strm i).wr))) ++ (stdReach s e l).filter (fun p => decide (0 < p.2.1))).find?
    (fun p => !engReach s e l.own p.1 p.2.1 p.2.2)

/-- 64-byte lines of spans (R227). -/
def lineSum (l : List (Nat × Nat × Bool)) : Nat := l.foldl (fun n p => n + linesOf p.1 p.2.1) 0

/-- The standard program of a slot runs as the engine's launch, by f, its lines are counted, and the launch ends (R205, R214, R227); it waits
while a channel that it needs is initialised or retrained (R234, R235). -/
def stdRun (e slot : Nat) (f : Launch → State → State) (s : State) : Host.Outcome State Fault Refusal :=
  onEng e s (fun s => match (s.eng e).cur with
    | some l => underLine l (fun s =>
      if (s.eng e).running && decide (l.slot = slot) && !(stdReach s e l).any (fun p => memBusy s p.1 p.2.1) then
        hostKept (fun s =>
          let p := s.draw
          let s1 := f l (p.2.updEng e (fun x => { x with cntBusy := satAdd 48 x.cntBusy (Config.cycles p.1) }))
          if (s1.eng e).running then benchEnd e l (countLines e (lineSum (stdSpans s e l)) s1) else s1) s
      else s) s
    | none => s)

/-! ### Folds (R184, R185, R202, R209) -/

/-- Fold the held pieces that are next (fuel bounds them); data that reads uncorrectable stops the engine (R207). -/
def foldHeld (e a slice rb col0 : Nat) : Nat → State → State
  | 0, s => s
  | n + 1, s =>
    match heldSlot s a rb col0 (((foldOf s slice rb col0).map (fun f => f.next)).getD 0) with
    | none => s
    | some i =>
      let h := holdAddr s a i
      let cols := s.rd (h + 6) 1
      readsOr e ((h + 64, 5120) :: accSpans s a rb col0 cols)
        (fun s => foldHeld e a slice rb col0 n (countLines e (linesOf (h + 64) 5120 + 2 * (accSpans s a rb col0 cols).foldl (fun n p => n + linesOf p.1 p.2) 0) <| foldStep a slice rb col0 cols (heldVals s h cols) (s.putBytes h [0]))) s

/-- The last fold of a slice launches its noise statistics (R220). -/
def foldsEnd (a : Nat) (own : Option Nat) (s : State) : State :=
  if foldsDone s a && !(s.slice (slId s a)).folded then
    let s1 := s.updSlice (slId s a) (fun x => { x with folded := true })
    if slNoise s a && slLead s a then launchSlice 0x6000 a own 4 false s1 else s1
  else s

/-- The fold of a piece, and of the held pieces behind it; phase mark 5 (R184, R261). -/
def foldRun (e a : Nat) (p : Piece) (s : State) : State :=
  let first := decide (((foldOf s p.slice p.rb p.col0).map (fun f => f.next)).getD 0 = 0)
  readsOr e (holdSpans s a ++ (if first then [] else accSpans s a p.rb p.col0 p.cols))
    (fun s => foldsEnd a p.own ((foldHeld e a p.slice p.rb p.col0 4096 (foldStep a p.slice p.rb p.col0 p.cols p.vals s)).mark p.own 5)) s

/-- A launch that folds runs from its start to its end. -/
def foldLaunch (e : Nat) (l : Launch) (p : Piece) (s : State) : State :=
  match l.entry s with
  | none => s.updEng e (fun x => { x with st := .idle, cur := none })
  | some a =>
    let d := s.draw
    let s1 := foldRun e a p (d.2.updEng e (fun x => { x with cntBusy := satAdd 48 x.cntBusy (Config.cycles d.1) }))
    if (s1.eng e).running then (countLines e (lineSum (stdSpans s e l)) s1).updEng e (fun x => { x with st := .idle, cur := none }) else s1

/-! ### Taking a launch (R202) -/

/-- The owner of a launch, or for a launch that is charged to none the owner of its slice. -/
def Launch.owner (s : State) (l : Launch) : Option Nat := match l.own with
  | some p => some p
  | none => (l.entry s).bind (sliceOwner s)

/-- The slice-table entry of the launch's slice carries another epoch than its owner's current one (R328): the entry. -/
def launchStale (s : State) (l : Launch) : Option Nat :=
  match l.owner s with
  | none => none
  | some p => (l.entry s).filter (fun a => decide (slEpoch s a ≠ curEpoch s p))

/-- Start a launch that has left its queue (R198, R201, R202, R208, R328). -/
def startLaunch (e : Nat) (l : Launch) (fg : Bool) (s : State) : State :=
  let s1 := s.updEng e (fun x => { x with st := .idle, cur := none })
  if launchBad s l then
    (if (l.noEngine s).isSome then s1.raise 0x8532 l.src ((l.noEngine s).bind (sliceOwner s)) (BitVec.ofNat 64 l.addr) (benchD1 0 l.slice)
     else s1.raise 0x8532 (benchSrc e) l.own (BitVec.ofNat 64 l.addr) (benchD1 0 l.slice)).pendIf 6 l.edf
  else
    let l := { l with line := (l.entry s).map (fun a => (a, s.bytes a 128)) }
    let s2 := s1.updEng e (fun x => { x with
      st := if fg then .runFg else .runBg, cur := some l, pc := 0, q := [], dig := 0, pos := [], loops := [], res := 0
      k := (List.range 8).map (fun i => (i, l.arg i)) })
    match (l.entry s).bind (fun a => s.memUe a 128) with
    | some x => ueLaunch e x s2
    | none => match launchStale s l with
    | some a =>
      stopLaunch e 0x8303 .frozen (BitVec.ofNat 64 (slGroup s a % 4096 + slEpoch s a * 65536))
        (BitVec.ofNat 64 (curEpoch s ((l.owner s).getD 0) + slEpoch s a * 2 ^ 32)) s2
    | none => match launchHit s e l with
      | some p => freezeLaunch e p s2
      | none => match l.fold with
        | some p => foldLaunch e l p s2
        | none => s2

/-- `LAUNCH_START` of R202: an engine in service that runs nothing takes its next launch. -/
def takeLaunch (e : Nat) (s : State) : State :=
  let x := s.eng e
  if x.running || !x.ok then s
  else match x.take with
    | some t => if t.1.fold.isSome && (stdReach s e t.1).any (fun p => memBusy s p.1 p.2.1) then s
    else hostKept (startLaunch e t.1 t.2.1) (s.setEng e t.2.2)
    | none => s

/-! ### The start of a job (R42) -/

/-- Every tensor of an owner, one whose scale entry lies in its ranges, enters warm-up with an empty history. [DEDUCED: log 169] -/
def warmStart (p : Nat) (s : State) : State :=
  ((List.range 65536).filter (fun x => bitOf (s.byte (scaleBase s + 512 * x + 5)) 0 && s.ownerReach (some p) (scaleBase s + 512 * x) 512)).foldl (fun t x =>
    let a := scaleBase s + 512 * x
    (t.wr (a + 10) 1 0).putBytes (a + 5) [s.byte (a + 5) ||| 2]) s

/-! ### Arriving pieces (R184, R185, R208, R328) -/

/-- An event about a piece: the address of its header, which lies in no memory that the manual names, is a free value (R370). [DESIGN CHOICE: log 166] -/
def pieceRaise (code src : Nat) (own : Option Nat) (slice : Nat) (s : State) : State :=
  let p := s.draw
  p.2.raise code src own (BitVec.ofNat 64 ((Config.word p.1).toNat % 2 ^ 48)) (benchD1 0 slice)

/-- The owner cannot take the piece now: it comes ahead and its position holds 8, or every hold slot is taken (R185), or no slot's `RB` can name
its row block (R209). -/
def pieceWaits (s : State) (a : Nat) (p : Piece) : Bool :=
  let next := ((foldOf s p.slice p.rb p.col0).map (fun f => f.next)).getD 0
  decide (p.mb ≠ next) && (decide (65536 ≤ p.rb) || decide (8 ≤ heldCount s a p.rb p.col0) || (freeSlot s a).isNone)

/-- The fold of a piece enters the foreground queue (R202); an engine in service that runs nothing and has nothing before it takes it at
once. [DEDUCED: log 167] -/
def enterFold (e : Nat) (p : Piece) (s : State) : State :=
  let s1 := enterLaunch e { own := p.own, blk := mkBlock 0 true p.slice, src := 0x6000, fold := some p } s
  if (s.eng e).fg.isEmpty && !((s1.eng e).fg.isEmpty) then takeLaunch e s1 else s1

/-- A piece that its owner accepts is held, or its fold is launched. -/
def foldPiece (a : Nat) (p : Piece) (s : State) : State :=
  let s1 := noteNoise a p s
  if p.mb = ((foldOf s p.slice p.rb p.col0).map (fun f => f.next)).getD 0 then enterFold (slEngine s a) p s1
  else match freeSlot s1 a with
    | some i => holdPiece a i p s1
    | none => s1

/-- A reduced piece reaches its owner (R184, R185, R208, R328). Answers the state without the piece, or none while the piece waits. -/
def pieceArrive (p : Piece) (s : State) : Option State :=
  match sliceFind s p.slice with
  | none => some (pieceRaise 0x8521 0x6000 p.own p.slice s)
  | some a =>
    let src := benchSrc (slEngine s a)
    match ((a, 128) :: holdSpans s a).findSome? (fun p => s.memUe p.1 p.2) with
    | some x => some (s.raiseUe x p.own)
    | none =>
    if s.nCh ≤ slEngine s a then some (pieceRaise 0x8532 0x6000 (sliceOwner s a) p.slice s)
    else if pieceBad s a p then some (pieceRaise 0x8521 src p.own p.slice s)
    else if pieceDup s a p then some (pieceRaise 0x8522 src p.own p.slice s)
    else if pieceWaits s a p then none
    else some (foldPiece a p s)

end Sys2Proof.Machine
end

