-- ==== Sys2Proof/Machine/BenchCmds.lean ====
section
/-!
DEFINITION. The meanings of the Bench commands: entering and starting launches, the Bench instructions, and the standard programs that
work on one slice or engine.
-/

namespace Sys2Proof.Machine

open Sys2Proof

/-- `LAUNCH_ENTER` (R198, R202): the launch block at an address is entered for an owner, or for none, as it reads
(R231, R236). -/
def execLaunchEnter (e : Nat) (own : Option Nat) (addr : Nat) (s : State) : Host.Outcome State Fault Refusal :=
  onEng e s (fun s => s.guardRead own [(addr, 512)] (fun s => enterLaunch e { own, addr, blk := BitVec.ofNat 4096 (s.rd addr 512), edf := true } s))

/-- `LAUNCH_START` (R201, R202). -/
def execLaunchStart (e : Nat) (s : State) : Host.Outcome State Fault Refusal := onEng e s (takeLaunch e)

/-- Bench `NOP` (R205): opcode 0x00 does nothing; the raw word may hold an unassigned opcode or reserved bits, which halt the engine (R207). -/
def execBenchNop (e : Nat) (w : BitVec 32) (s : State) : Host.Outcome State Fault Refusal :=
  benchInstr e (bitsOf w 31 26) (w.truncate 26) s

/-- Bench `LDS` (R200): opcode 0x01. -/
def execLds (e : Nat) (w : BitVec 26) (s : State) : Host.Outcome State Fault Refusal := benchInstr e 0x01 w s

/-- Bench `STS` (R200): opcode 0x02. -/
def execSts (e : Nat) (w : BitVec 26) (s : State) : Host.Outcome State Fault Refusal := benchInstr e 0x02 w s

/-- Bench `FADD` (R205): opcode 0x03. -/
def execFadd (e : Nat) (w : BitVec 26) (s : State) : Host.Outcome State Fault Refusal := benchInstr e 0x03 w s

/-- Bench `FSUB` (R205): opcode 0x04. -/
def execFsub (e : Nat) (w : BitVec 26) (s : State) : Host.Outcome State Fault Refusal := benchInstr e 0x04 w s

/-- Bench `FMUL` (R205): opcode 0x05. -/
def execFmul (e : Nat) (w : BitVec 26) (s : State) : Host.Outcome State Fault Refusal := benchInstr e 0x05 w s

/-- Bench `FMA` (R205): opcode 0x06. -/
def execFma (e : Nat) (w : BitVec 26) (s : State) : Host.Outcome State Fault Refusal := benchInstr e 0x06 w s

/-- Bench `FMM` (R205): opcode 0x07. -/
def execFmm (e : Nat) (w : BitVec 26) (s : State) : Host.Outcome State Fault Refusal := benchInstr e 0x07 w s

/-- Bench `FDIV` (R205): opcode 0x08. -/
def execFdiv (e : Nat) (w : BitVec 26) (s : State) : Host.Outcome State Fault Refusal := benchInstr e 0x08 w s

/-- Bench `FSQ` (R205): opcode 0x09. -/
def execFsq (e : Nat) (w : BitVec 26) (s : State) : Host.Outcome State Fault Refusal := benchInstr e 0x09 w s

/-- Bench `FUN` (R205): opcode 0x0A. -/
def execBenchFun (e : Nat) (w : BitVec 26) (s : State) : Host.Outcome State Fault Refusal := benchInstr e 0x0A w s

/-- Bench `AADD` (R205): opcode 0x0B. -/
def execAadd (e : Nat) (w : BitVec 26) (s : State) : Host.Outcome State Fault Refusal := benchInstr e 0x0B w s

/-- Bench `CVT` (R205): opcode 0x0C. -/
def execCvt (e : Nat) (w : BitVec 26) (s : State) : Host.Outcome State Fault Refusal := benchInstr e 0x0C w s

/-- Bench `RED` (R205): opcode 0x0D. -/
def execRed (e : Nat) (w : BitVec 26) (s : State) : Host.Outcome State Fault Refusal := benchInstr e 0x0D w s

/-- Bench `STES` (R206): opcode 0x0E. -/
def execStes (e : Nat) (w : BitVec 26) (s : State) : Host.Outcome State Fault Refusal := benchInstr e 0x0E w s

/-- Bench `HASH` (R218): opcode 0x0F. -/
def execHash (e : Nat) (w : BitVec 26) (s : State) : Host.Outcome State Fault Refusal := benchInstr e 0x0F w s

/-- Bench `BCST` (R205): opcode 0x10. -/
def execBcst (e : Nat) (w : BitVec 26) (s : State) : Host.Outcome State Fault Refusal := benchInstr e 0x10 w s

/-- Bench `EXT` (R205): opcode 0x11. -/
def execExt (e : Nat) (w : BitVec 26) (s : State) : Host.Outcome State Fault Refusal := benchInstr e 0x11 w s

/-- Bench `SLI` (R205): opcode 0x12. -/
def execBenchSli (e : Nat) (w : BitVec 26) (s : State) : Host.Outcome State Fault Refusal := benchInstr e 0x12 w s

/-- Bench `SOP` (R205): opcode 0x13. -/
def execSop (e : Nat) (w : BitVec 26) (s : State) : Host.Outcome State Fault Refusal := benchInstr e 0x13 w s

/-- Bench `LOOP` (R205): opcode 0x14. -/
def execLoop (e : Nat) (w : BitVec 26) (s : State) : Host.Outcome State Fault Refusal := benchInstr e 0x14 w s

/-- Bench `BRZ` (R205): opcode 0x15. -/
def execBrz (e : Nat) (w : BitVec 26) (s : State) : Host.Outcome State Fault Refusal := benchInstr e 0x15 w s

/-- Bench `OUT` (R205): opcode 0x16. -/
def execOut (e : Nat) (w : BitVec 26) (s : State) : Host.Outcome State Fault Refusal := benchInstr e 0x16 w s

/-- Bench `DGET` (R205): opcode 0x17. -/
def execDget (e : Nat) (w : BitVec 26) (s : State) : Host.Outcome State Fault Refusal := benchInstr e 0x17 w s

/-- Bench `END` (R205): opcode 0x18. -/
def execBenchEnd (e : Nat) (w : BitVec 26) (s : State) : Host.Outcome State Fault Refusal := benchInstr e 0x18 w s

/-- `CAST_WITH_SCALE` (R215): standard program 0. -/
def execCastWithScale (e : Nat) (s : State) : Host.Outcome State Fault Refusal :=
  stdRun e 0 (fun l => onSlice l (castRun e l)) s

/-- `AMAX_HISTORY` (R213): standard program 1. The step's record can be written once the last of them has ended (R262). -/
def execAmaxHistory (e : Nat) (s : State) : Host.Outcome State Fault Refusal :=
  match stdRun e 1 (histRun e) s with
  | .next t => .next (readyRecords (((s.eng e).cur).bind (fun (l : Launch) => l.own)) t)
  | r => r

/-- `ADAMW` (R217): standard program 5. -/
def execAdamw (e : Nat) (s : State) : Host.Outcome State Fault Refusal :=
  stdRun e 5 (fun l => onSlice l (optRun e l (fun a s => (elements s a).foldl (adamwEl a) s))) s

/-- `LION` (R217): standard program 6. -/
def execLion (e : Nat) (s : State) : Host.Outcome State Fault Refusal :=
  stdRun e 6 (fun l => onSlice l (optRun e l (fun a s => (elements s a).foldl (lionEl a) s))) s

/-- `SGD_WITH_MOMENTUM` (R217): standard program 7. -/
def execSgdWithMomentum (e : Nat) (s : State) : Host.Outcome State Fault Refusal :=
  stdRun e 7 (fun l => onSlice l (optRun e l (fun a s => (elements s a).foldl (sgdEl a) s))) s

/-- `FACTORED_SECOND_MOMENT` (R217): standard program 8. -/
def execFactoredSecondMoment (e : Nat) (s : State) : Host.Outcome State Fault Refusal :=
  stdRun e 8 (fun l => onSlice l (optRun e l factRun)) s

end Sys2Proof.Machine
end

