-- ==== Sys2Proof/Machine/Access.lean ====
section
/-!
DEFINITION. Masters as they reach registers and memory (R5, R17, R337, R373, R467): the source unit and owner of each, how it is frozen,
and the protection violation.
-/

namespace Sys2Proof.Machine

open Sys2Proof

/-- The source unit of a master's events (R369). -/
def whoSrc : Who → Nat
  | .ctl => 0x9000
  | .fn f => 0x8000 + f
  | .core n => 0x1000 + n
  | .dma k => 0x2000 + k
  | .bench e => 0x3000 + e

/-- The owner a master acts for (R336, R337). -/
def whoOwner (s : State) : Who → Option Nat
  | .ctl => none
  | .fn f => if (s.owner f).exists then some f else none
  | .core n => s.ownerOfCore n
  | .dma k => s.ownerOfCore (k / 4)
  | .bench e => (s.eng e).cur.bind (fun (l : Launch) => l.own)

/-- Freeze a host function (R373). -/
def freezeFn (f : Nat) (s : State) : State :=
  s.updHost (fun h => { h with frozen := if h.frozen.contains f then h.frozen else h.frozen ++ [f] })

/-- Freeze a master (R373). The control complex has no such state: its own violations freeze nothing. [DEDUCED: log 130] -/
def whoFreeze (s : State) : Who → State
  | .ctl => s
  | .fn f => freezeFn f s
  | .core n => State.freezeCoreAt n s
  | .dma k => s.setDmaq (k / 4) (k % 4) { (s.core (k / 4)).dmaq (k % 4) with frozen := true }
  | .bench e => if (s.eng e).running then
      s.updEng e (fun x => Engine.dropOwner { x with st := .frozen } (x.cur.bind (fun (l : Launch) => l.own))) else s

/-- A protection violation by a master at an address: the master is frozen and the event raised (R5, R370). -/
def violate (w : Who) (a n : Nat) (wr : Bool) (s : State) : State :=
  let own := whoOwner s w
  let d := match w with
    | .core c => (BitVec.ofNat 64 (s.core c).seq.baddr.toNat, if (s.core c).seq.infrag then BitVec.ofNat 64 (s.core c).seq.raddr.toNat else 0)
    | _ => (BitVec.ofNat 64 (a % 2 ^ 48), BitVec.ofNat 64 ((if wr then 1 else 0) + 2 * (n % 256)))
  (whoFreeze s w).raise 0x8201 (whoSrc w) own d.1 d.2

/-- Register-space base (R466). -/
def regSpace : Nat := 0x00F000000000

/-- A forbidden register write is discarded: the writing master is frozen and the event raised. -/
def regViolate (w : Who) (off n : Nat) (s : State) : State := violate w (regSpace + off) n true s

/-- Whether a host function's writes are discarded because it is frozen (R373). -/
def fnFrozen (s : State) : Who → Bool
  | .fn f => s.u.host.frozen.contains f
  | _ => false

end Sys2Proof.Machine
end

