-- ==== Sys2Proof/Machine/Matrix.lean ====
section
/-!
DEFINITION. The matrix slot (R104 to R120), the skeins (R70 to R76) and the drain (R80 to R86, R488): what each
instruction checks at issue, and its effect. Effects read the state `s0` in which the bundle issues and write `s` (R101).
-/

namespace Sys2Proof.Machine

open Sys2Proof

/-! ### Tiles of 32 × 32 values -/

/-- Value (i, j) of a tile; one not listed is +0. -/
def tileAt (l : List AF40) (i j : Nat) : AF40 := nth 0 l (32 * i + j)

/-- A tile from its values. -/
def mkTile (f : Nat → Nat → AF40) : List AF40 := (List.range 1024).map (fun x => f (x / 32) (x % 32))

/-- The fold of a granule into the running total (R70). -/
def skFold (k : Skein) : Skein :=
  { k with
    total := if k.valid then mkTile (fun i j => afAdd (tileAt k.total i j) (tileAt k.part i j)) else k.part
    part := [], cnt := 0, valid := true }

/-- The final fold of a cast-off or a `PARK` mode ADD: only a partial whose count is non-zero (R70). -/
def skFinal (k : Skein) : List AF40 := if k.cnt = 0 then k.total else (skFold k).total

/-- Capacity of a half in K blocks for an operand format (R107): weight halves, and half of it for feeder halves. -/
def halfCap (code : Nat) (feeder : Bool) : Nat :=
  let w := if code = 4 then 128 else if code = 8 then 32 else 64
  if feeder then w / 2 else w

/-- The arrays of a mask, ascending, and whether one of them is disabled (R114, R120). -/
def arraysOf (am : Nat) : List Nat := maskList 4 am
def armOff (s : State) (c am : Nat) : Bool := (arraysOf am).any (fun a => !s.arrayOn c a)

def skIdx (a k : Nat) : Nat := 4 * a + k

/-- The skein slots an M-slot instruction names. -/
def mSlots (i : SlotI) : List Nat :=
  let w := i.w
  if i.op = 0x03 then (arraysOf (fld w 56 53)).flatMap (fun a => (maskList 4 (fld w 52 49)).map (skIdx a))
  else if i.op = 0x04 then (arraysOf (fld w 56 53)).map (fun a => skIdx a (fld w 52 51))
  else if i.op = 0x05 || i.op = 0x08 then (arraysOf (fld w 56 53)).map (fun a => skIdx a (fld w 52 51))
  else if i.op = 0x06 || i.op = 0x07 then [skIdx (fld w 56 55) (fld w 54 53)]
  else []

/-- Whether an M-slot instruction waits at issue (R105, R86): a slot in a transient state, its queue full (`CASTON`, `MMA`, `PARK` and
`RESUME` share one, in which only parks and resumes stay), or two pending cast-offs in an array. The load queue never holds an entry here, because loads take effect at issue. [DESIGN CHOICE: log 19] -/
def mWaits (s : State) (c : Nat) (i : SlotI) : Bool :=
  let m := (s.core c).m
  let moving := (List.range 16).filter (fun k => match (m.skein k).st with | .parking => true | .resuming _ => true | _ => false)
  (mSlots i).any (fun k => (m.skein k).st.transient) ||
  ((i.op = 0x03 || i.op = 0x04 || i.op = 0x06 || i.op = 0x07) && decide (8 ≤ moving.length)) ||
  ((i.op = 0x05 || i.op = 0x08) &&
    ((arraysOf (fld i.w 56 53)).any (fun a => decide (2 ≤ (m.pend.filter (fun k => k / 4 == a)).length)) || decide (8 ≤ m.pend.length)))

/-! ### WLOAD and ALOAD -/

/-- Descriptor and generator conditions that a load rejects with 0x8519 (R141). -/
def loadGenBad (t g : Line) (n : Nat) : Bool :=
  decide (gLast g < gKb g + n) ||
  (gConv g && (!fmtIsEs (tdFmt t) || decide (tdCount t ≠ gBatch g * gIn g 0 * gIn g 1 * gIn g 2 * (32 * gCb g)))) ||
  (!gConv g && decide (tdExt t 0 / 32 < gKend g))

/-- Whether a block of the load lies outside the core's populated scratchpad (R120). -/
def loadOut (c : Nat) (t g : Line) (rows n : Nat) : Bool :=
  (List.range n).any (fun k => (List.range rows).any (fun r =>
    (opSpans t g (gPos g + r) (gKb g + k)).any (fun p => !inSp c p.1 p.2)))

def loadCheck (s : State) (c : Nat) (t g : Line) (rows n : Nat) (feeder : Bool) : Option Nat :=
  firstRej [(epochBad s c t, 0x8303),
    (!fmtArray (tdFmt t) || tdMx t || decide (halfCap (tdFmt t) feeder < n), 0x8515),
    (loadGenBad t g n, 0x8519),
    (loadOut c t g rows n, 0x8201)]

/-- The contents a load gives a half: N K blocks of `rows` rows from row r0 (R108, R109). -/
def loadHalf (s : State) (t g : Line) (r0 rows n : Nat) : Half :=
  { fmt := tdFmt t, t := tdT t, tid := tdId t, time := s.sp.time
    src := (List.range n).map (fun k => (List.range rows).flatMap (fun r => (opSpans t g (r0 + r) (gKb g + k)).flatMap (fun p =>
      (List.range ((p.1 + p.2 - 1) / 64 - p.1 / 64 + 1)).map (fun i => p.1 / 64 + i))))
    blocks := (List.range n).map (fun k => (List.range rows).map (fun r => s.opBlock t g (r0 + r) (gKb g + k))) }

/-- [DEDUCED: log 26] -/
def wloadCheck (s : State) (c : Nat) (w : BitVec 57) : Option Nat :=
  let r := (s.core c).r
  loadCheck s c (r.tdesc (fld w 55 52)) (r.gen (fld w 51 49)) (s.width c) (fld w 48 41) false

def wloadEff (s0 : State) (c : Nat) (w : BitVec 57) (s : State) : State :=
  let r := (s0.core c).r
  let t := r.tdesc (fld w 55 52)
  let gi := fld w 51 49
  let g := r.gen gi
  let n := fld w 48 41
  let W := s0.width c
  (s.updMat c (fun m => { m with wh := SMap.set (fld w 56 56) (loadHalf s0 t g (gPos g) W n) m.wh })).updRegs c
    (fun r => r.setG gi (gAdvance g n W))

def aloadCheck (s : State) (c : Nat) (w : BitVec 57) : Option Nat :=
  let r := (s.core c).r
  let l := loadCheck s c (r.tdesc (fld w 51 48)) (r.gen (fld w 47 45)) (32 * (arraysOf (fld w 55 52)).length) (fld w 44 37) true
  if armOff s c (fld w 55 52) && l != some 0x8201 then some 0x8515 else l

/-- The halves an `ALOAD` fills: the selected arrays take consecutive groups of 32 rows in ascending order (R109). -/
def aloadHalves (s0 : State) (t g : Line) (h n : Nat) : List Nat → Nat → SMap Half → SMap Half
  | [], _, f => f
  | a :: as, r0, f => aloadHalves s0 t g h n as (r0 + 32) (SMap.set (2 * a + h) (loadHalf s0 t g r0 32 n) f)

def aloadEff (s0 : State) (c : Nat) (w : BitVec 57) (s : State) : State :=
  let r := (s0.core c).r
  let t := r.tdesc (fld w 51 48)
  let gi := fld w 47 45
  let g := r.gen gi
  let as := arraysOf (fld w 55 52)
  (s.updMat c (fun m => { m with fh := aloadHalves s0 t g (fld w 56 56) (fld w 44 37) as (gPos g) m.fh })).updRegs c
    (fun r => r.setG gi (gAdvance g (fld w 44 37) (32 * as.length)))

/-! ### CASTON and MMA -/

def castonCheck (s : State) (c : Nat) (w : BitVec 57) : Option Nat :=
  let m := (s.core c).m
  firstRej [(armOff s c (fld w 56 53), 0x8515),
    ((mSlots ⟨0, 0x03, w⟩).any (fun k => (m.skein k).st == .opened || (m.skein k).st == .sealed), 0x8511)]

/-- A skein cast on (R71): OPEN, partial and total +0, count 0, total-valid clear. -/
def skCaston : Skein := { st := .opened }

def castonEff (_s0 : State) (c : Nat) (w : BitVec 57) (s : State) : State :=
  s.updMat c (fun m => (mSlots ⟨0, 0x03, w⟩).foldl (fun m k => m.setSkein k skCaston) m)

/-- The checks of `MMA` at issue (R72, R83, R110 to R113). [DESIGN CHOICE: log 180] -/
def mmaCheck (s : State) (c : Nat) (w : BitVec 57) : Option Nat :=
  let m := (s.core c).m
  let as := arraysOf (fld w 56 53)
  let sk := fld w 52 51
  let wh := m.whalf (fld w 50 50)
  let ah := fun a => m.fhalf a (fld w 49 49)
  let n := fld w 32 25
  firstRej [(armOff s c (fld w 56 53) ||
      decide (wh.blocks.length < fld w 48 41 + n) ||
      as.any (fun a => decide ((ah a).blocks.length < fld w 40 33 + n) || (pairLsb wh.fmt (ah a).fmt).isNone), 0x8515),
    (as.any (fun a => (m.skein (skIdx a sk)).st == .free || (m.skein (skIdx a sk)).st == .sealed), 0x8511),
    (as.any (fun a => let k := m.skein (skIdx a sk); decide (k.blocks ≠ 0) && decide (k.scale ≠ wh.t + (ah a).t)), 0x8516)]

/-- Exact element values of a block, shifts not applied (R50). -/
def blkVals (code : Nat) (b : Block) : List Fl :=
  if code = 8 then b.el.map (flDecode 7) else b.el.map (esDecode code)

/-- Merge one K block into a tile of granule partials (R50 to R52, R112): W columns, 32 rows. -/
def mergeTile (fw fa W : Nat) (wb ab : List Block) (part : List AF40) : List AF40 :=
  let lsb := (pairLsb fw fa).getD 0
  let ws := wb.map (blkVals fw)
  let xs := ab.map (blkVals fa)
  mkTile (fun i j =>
    let p := tileAt part i j
    let bw := nth (zeroBlock 0) wb j
    let ba := nth (zeroBlock 0) ab i
    if decide (W ≤ j) || bw.z || ba.z then p
    else mergeBlk p (blockSum lsb (fw == 8) (nth [] ws j) (nth [] xs i)) (bw.shift + ba.shift))

/-- One K block through one skein: the merge unless the block is skipped, then the count and the granule fold (R70, R112). -/
def skStep (fw fa W : Nat) (skip : Bool) (wb ab : List Block) (k : Skein) : Skein :=
  let k1 := { k with
    part := if skip then k.part else mergeTile fw fa W wb ab k.part
    cnt := k.cnt + 1, blocks := (k.blocks + 1) % 2 ^ 64, trace := k.trace ++ [(wb, ab)], fmtW := fw, fmtA := fa }
  if k1.cnt = 128 then skFold k1 else k1

/-- The lines of a K block of a half join those a skein has read, each with the earliest load (R382). -/
def noteReads (h : Half) (k : Nat) (m : SMap Nat) : SMap Nat :=
  (nth [] h.src k).foldl (fun m l => match SMap.find l m with
    | some t => SMap.set l (min t h.time) m
    | none => SMap.set l h.time m) m

/-- The `MMA` steps (R112): step i presents weight block WK0 + i and activation block AK0 + i of every selected array.
A block that every presented column, or every row of every selected array, carries with `Z` is skipped and counted (R67). [DEDUCED: log 24] -/
def mmaSteps (wh : Half) (ah : Nat → Half) (as : List Nat) (sk W wk0 ak0 : Nat) : List Nat → CoreMat → CoreMat
  | [], m => m
  | i :: is, m =>
    let wb := nth [] wh.blocks (wk0 + i)
    let ab := fun a => nth [] (ah a).blocks (ak0 + i)
    let skip := (wb.take W).all (fun b => b.z) || as.all (fun a => (ab a).all (fun b => b.z))
    let m1 := as.foldl (fun m a =>
      let k := skStep wh.fmt (ah a).fmt W skip wb (ab a) (m.skein (skIdx a sk))
      m.setSkein (skIdx a sk) { k with
        reads := noteReads (ah a) (ak0 + i) (noteReads wh (wk0 + i) k.reads), parked := k.parked || !wh.known || !(ah a).known }) m
    let m2 := if skip then { m1 with cntZskip := satAdd 48 m1.cntZskip 1 } else { m1 with cntMma := satAdd 48 m1.cntMma 1 }
    mmaSteps wh ah as sk W wk0 ak0 is m2

/-- `MMA` (R114): K blocks are merged into the skeins of the selected arrays, and phase mark 1 is stamped (R261). [DESIGN CHOICE: log 18] -/
def mmaEff (s0 : State) (c : Nat) (w : BitVec 57) (s : State) : State :=
  let m0 := (s0.core c).m
  let as := arraysOf (fld w 56 53)
  let sk := fld w 52 51
  let wh := m0.whalf (fld w 50 50)
  let ah := fun a => m0.fhalf a (fld w 49 49)
  (s.updMat c (fun m =>
    let m1 := as.foldl (fun m a =>
      let k := m.skein (skIdx a sk)
      m.setSkein (skIdx a sk) (if k.blocks = 0 then { k with scale := wh.t + (ah a).t } else k)) m
    mmaSteps wh ah as sk (s0.width c) (fld w 48 41) (fld w 40 33) (List.range (fld w 32 25)) m1)).mark (s0.ownerOfCore c) 1

/-! ### The drain control block (R115) -/

def dcbRoute (d : Line) : Nat := bitsOf d 1 0
def dcbAxis (d : Line) : Bool := bitOf d 2
def dcbLast (d : Line) : Bool := bitOf d 3
def dcbCscale (d : Line) : Bool := bitOf d 4
def dcbBias (d : Line) : Bool := bitOf d 5
def dcbTap (d : Line) : Bool := bitOf d 6
def dcbFunc (d : Line) : Nat := byteField d 1 1
def dcbFmt (d : Line) : Nat := byteField d 2 1
def dcbWidth (d : Line) : Nat := byteField d 3 1
/-- Descriptor and generator of OUT (byte 4), TAPD (byte 5) and SAVED (byte 6). -/
def dcbT (d : Line) (b : Nat) : Nat := byteField d b 1 % 16
def dcbG (d : Line) (b : Nat) : Nat := (byteField d b 1 >>> 4) % 8
def dcbStream (d : Line) : Nat := byteField d 7 1
def dcbCsOff (d : Line) : Nat := byteField d 8 4
def dcbBiasOff (d : Line) : Nat := byteField d 12 4
def dcbArg (d : Line) : BitVec 128 := BitVec.ofNat 128 (byteField d 16 16)
def dcbDeriv (d : Line) : Bool := funcDeriv (dcbFunc d)

/-- The roles of the DCB that a cast-off uses: the byte of each of OUT, TAPD and SAVED. -/
def dcbRoles (d : Line) : List Nat :=
  (if dcbRoute d = 0 then [4] else []) ++ (if dcbTap d then [5] else []) ++ (if dcbDeriv d then [6] else [])

/-- The roles whose places a cast-off reads or writes: with route spoil nothing is written, and only the saved operand's place counts. -/
def dcbPlaces (d : Line) : List Nat := if dcbRoute d = 3 then (if dcbDeriv d then [6] else []) else dcbRoles d

/-- Reserved bits of the DCB and of its route argument (R115, R180, R310). [DEDUCED: log 21] -/
def dcbReserved (d : Line) : Bool :=
  bitOf d 7 || decide (16 ≤ dcbFmt d) || bitOf d 39 || bitOf d 47 || bitOf d 55 || decide (byteField d 32 32 ≠ 0) ||
  (match dcbRoute d with
   | 1 => decide (4096 ≤ byteField d 16 2) || decide (64 ≤ byteField d 28 1) || decide (16 ≤ byteField d 29 1) || decide (4096 ≤ byteField d 30 2)
   | 2 => decide (4096 ≤ byteField d 16 2) || decide (64 ≤ byteField d 28 1) || decide (2 ≤ byteField d 29 1) ||
          decide (byteField d 30 2 ≠ 0) || decide (byteField d 24 4 % 64 ≠ 0)
   | _ => decide (byteField d 16 16 ≠ 0))

/-- The update-stream and chain-step conditions of R181 and R310. -/
def dcbArgBad (d : Line) (W : Nat) : Bool :=
  let cols := byteField d 28 1
  match dcbRoute d with
  | 1 =>
    let span := byteField d 29 1 % 16
    let mb := byteField d 30 2
    decide (cols = 0) || decide (W < cols) || decide (mb % (span + 1) ≠ 0) || decide (4095 < mb + span)
  | 2 => decide (cols = 0) || decide (W < cols)
  | _ => false

/-- The conditions of R116 on one generator a cast-off uses (R488): linear, KEND within EXT0, the tile within the pass. -/
def dcbGenBad (d : Line) (W n c : Nat) (t g : Line) : Bool :=
  gConv g || decide (tdExt t 0 / 32 < gKend g) ||
  (if dcbAxis d then decide (32 * gKend g < 32 * gKb g + c + W) else decide (gKend g < gKb g + n))

/-- The FP32 vector of W entries at a scratchpad offset (R80). -/
def vec32 (s : State) (c off j : Nat) : W32 := BitVec.ofNat 32 (s.rd (spBase c + off + 4 * j) 4)

/-- Addresses that a cast-off reaches through a role: per selected array q, the spans of its tile (R488). -/
def roleSpans (d t g : Line) (W n c0 : Nat) : List (Nat × Nat) :=
  let es := fmtIsEs (tdFmt t)
  let blk := fun (r k : Nat) => let a := blkAddr t (r * (tdExt t 0 / 32) + k); [(a.1, blockBytes (tdFmt t)), (a.2, 1)]
  (List.range n).flatMap (fun q =>
    if dcbAxis d then
      (List.range 32).flatMap (fun i =>
        let r := gRow g + 32 * q + i
        if gRows g ≤ r then []
        else if es then
          (List.range ((c0 + W) / 32 + (if dcbLast d && (c0 + W) % 32 ≠ 0 then 1 else 0))).flatMap (fun b => blk r (gKb g + b))
        else (List.range W).map (fun j => (rowAddr t r (32 * gKb g + c0 + j), elSize (tdFmt t))))
    else
      (List.range W).flatMap (fun j =>
        let r := gRow g + j
        if gRows g ≤ r then []
        else if es then blk r (gKb g + q)
        else (List.range 32).map (fun i => (rowAddr t r (32 * (gKb g + q) + i), elSize (tdFmt t)))))

/-- The staging slots of a core: CORE_COL_STAGE.SLOTS (R324). -/
def stageSlots (s : State) (c : Nat) : Nat := bitsOf (s.reg 0 (coreOff c 0x150)) 40 32

/-- The resources inside a DCB (R157). -/
def dcbRes (d : Line) : List Res := (dcbRoles d).flatMap (fun b => [Res.t (dcbT d b), Res.g (dcbG d b)])

def spoilCheck (s : State) (c : Nat) (w : BitVec 57) : Option Nat :=
  let m := (s.core c).m
  firstRej [(armOff s c (fld w 56 53), 0x8515),
    ((mSlots ⟨0, 0x08, w⟩).any (fun k => (m.skein k).st == .free), 0x8511)]

/-- The checks of `CASTOFF` at issue (R72, R83, R116, R120, R157, R181, R310, R311, R326). [DEDUCED: log 20; DESIGN CHOICE: log 181] -/
def castoffCheck (s : State) (c : Nat) (on : Bool) (w : BitVec 57) : Option Nat :=
  let r := (s.core c).r
  let m := (s.core c).m
  let seq := (s.core c).seq
  let off := (r.sreg (fld w 50 46)).toNat
  let as := arraysOf (fld w 56 53)
  let W := s.width c
  let d := s.line (spBase c + off)
  let rt := dcbRoute d
  let c0 := (m.carryOf (as.headD 0)).cols
  let role := fun (b : Nat) => (r.tdesc (dcbT d b), r.gen (dcbG d b))
  if !spOff off 64 then some 0x8201
  else if off % 64 ≠ 0 then firstRej [(armOff s c (fld w 56 53), 0x8515), (true, 0x8517)]
  else firstRej [
    (armOff s c (fld w 56 53), 0x8515),
    (dcbReserved d || !funcOk (dcbFunc d) || !fmtOk (dcbFmt d) || decide (dcbWidth d ≠ W), 0x8517),
    (bankConflict on seq.infrag (dcbRes d) || (on && seq.infrag && decide (rt = 0)), 0x851D),
    ((dcbRoles d).any (fun b => epochBad s c (role b).1), 0x8303),
    ((mSlots ⟨0, 0x05, w⟩).any (fun k => (m.skein k).st == .free), 0x8511),
    ((rt = 1 || rt = 2) && decide (stageSlots s c = 0), 0x8305),
    ((rt = 1 || rt = 2) && (decide (dcbFmt d ≠ 0xA) || dcbArgBad d W), 0x8517),
    (decide (rt = 0) && decide (dcbFmt d ≠ tdFmt (role 4).1), 0x8517),
    (dcbDeriv d && decide (tdFmt (role 6).1 = 0xA), 0x8517),
    ((dcbRoles d).any (fun b => dcbGenBad d W as.length c0 (role b).1 (role b).2), 0x8517),
    (decide (rt = 0) && dcbTap d && dcbAxis d && decide (W < 32) && fmtIsEs (tdFmt (role 4).1) && fmtIsEs (tdFmt (role 5).1), 0x8517),
    (rt ≠ 3 && (as.any (fun a => let k := m.carryOf a; decide (k.cols ≠ 0) && decide (k.stream ≠ dcbStream d)) ||
      as.any (fun a => decide ((m.carryOf a).cols ≠ c0))), 0x8513),
    ((dcbCscale d && (decide (dcbCsOff d % 64 ≠ 0) || !spOff (dcbCsOff d) (4 * W))) ||
      (dcbBias d && (decide (dcbBiasOff d % 64 ≠ 0) || !spOff (dcbBiasOff d) (4 * W))) ||
      (dcbPlaces d).any (fun b => (roleSpans d (role b).1 (role b).2 W as.length c0).any (fun p => !inSp c p.1 p.2)), 0x8201),
    (decide (rt = 0) && fmtIsEs (dcbFmt d) && (scaleErr s (s.ownerOfCore c) (role 4).1).isSome,
      (scaleErr s (s.ownerOfCore c) (role 4).1).getD 0),
    (rt ≠ 3 && dcbTap d && fmtIsEs (tdFmt (role 5).1) && (scaleErr s (s.ownerOfCore c) (role 5).1).isSome,
      (scaleErr s (s.ownerOfCore c) (role 5).1).getD 0)]

/-- The saved operand's value at output (i, j) of array q, as FP32; rows at or beyond ROWS read +0 (R81, R488). -/
def savedAt (s : State) (d t g : Line) (q c0 i j : Nat) : Nat :=
  let r := if dcbAxis d then gRow g + 32 * q + i else gRow g + j
  let e := if dcbAxis d then 32 * gKb g + c0 + j else 32 * (gKb g + q) + i
  if gRows g ≤ r then 0
  else if fmtIsEs (tdFmt t) then
    (flRound 23 false (blockVal (tdFmt t) (s.rdBlock t (r * (tdExt t 0 / 32) + e / 32)) (tdT t) (e % 32))).bits
  else if tdFmt t = 8 then (fCvt false 7 23 (s.rd (rowAddr t r e) 2)).bits
  else s.rd (rowAddr t r e) 4

/-- Stages 1 and 2 of the drain on one value (R80). -/
def drainPre (s : State) (c : Nat) (d : Line) (scale : Int) (j : Nat) (v : AF40) : AF40 :=
  let v1 := afScale scale v
  let v2 := if dcbCscale d then BitVec.ofNat 40 (fMul 31 false v1.toNat (afWiden (vec32 s c (dcbCsOff d) j)).toNat).bits else v1
  if dcbBias d then afAdd v2 (afWiden (vec32 s c (dcbBiasOff d) j)) else v2

/-- Stage 3 of the drain on one value, with the flags that its narrowing to FP32 and its function raise (R80, R81, R134). -/
def drainFun (d : Line) (saved : Nat) (v : AF40) : AF40 × FlagSet :=
  if dcbFunc d = 0 then (v, {})
  else
    let g := fCvt Config.tinyEdge 31 23 v.toNat
    let r := if dcbDeriv d then drainFn Config.tinyEdge (dcbFunc d) saved g.bits else drainFn Config.tinyEdge (dcbFunc d) g.bits 0
    (afWiden (BitVec.ofNat 32 r.v), g.fl.or r.fl)

/-- Write one value that is not ES in the descriptor's format (R80 stage 4, R39). -/
def putVal (s : State) (t : Line) (a : Nat) (v : AF40) : State :=
  let code := tdFmt t
  if code = 0xA then s.wr a 5 v.toNat
  else s.wr a (elSize code) (fCvt false 31 (fmtFrac code) v.toNat).bits

/-- Write a list of values to consecutive elements of row r from element e0 of a tensor that is not ES. -/
def putRow (t : Line) (r : Nat) : Nat → List AF40 → State → State
  | _, [], s => s
  | e, v :: vs, s => putRow t r (e + 1) vs (putVal s t (rowAddr t r e) v)

/-- One tile of array q written through a role (R488), and for blocks along N the values left in the array's carry.
`vals` is the tile; `old` the carry's rows. [DESIGN CHOICE: log 182] -/
def placeTile (s : State) (c : Nat) (d t g : Line) (W q c0 : Nat) (old : List (List AF40)) (vals : List AF40) :
    State × List (List AF40) :=
  let own := s.ownerOfCore c
  let src := 0x1000 + c
  let nb := tdExt t 0 / 32
  if dcbAxis d then
    let rows := (List.range 32).map (fun i => (List.range W).map (fun j => tileAt vals i j))
    if fmtIsEs (tdFmt t) then
      let full := (List.range 32).map (fun i => nth [] old i ++ nth [] rows i)
      let padded := if dcbLast d && (c0 + W) % 32 ≠ 0 then full.map (fun r => r ++ List.replicate (32 - (c0 + W) % 32) 0) else full
      let k := (c0 + W + (if dcbLast d && (c0 + W) % 32 ≠ 0 then 32 - (c0 + W) % 32 else 0)) / 32
      let bs := (List.range 32).flatMap (fun i =>
        let r := gRow g + 32 * q + i
        if gRows g ≤ r then []
        else (List.range k).map (fun b =>
          (r * nb + gKb g + b, ((nth [] padded i).drop (32 * b)).take 32 |>.map (fun v => flDecode 31 v.toNat))))
      (if bs.isEmpty then s else convWrite s own src t false bs, padded.map (fun r => r.drop (32 * k)))
    else
      let z := if dcbLast d && (c0 + W) % 32 ≠ 0 then 32 - (c0 + W) % 32 else 0
      ((List.range 32).foldl (fun s i =>
        let r := gRow g + 32 * q + i
        if gRows g ≤ r then s
        else putRow t r (32 * gKb g + c0) (nth [] rows i ++ List.replicate z 0) s) s, [])
  else
    let cols := (List.range W).map (fun j => (List.range 32).map (fun i => tileAt vals i j))
    if fmtIsEs (tdFmt t) then
      let bs := (List.range W).flatMap (fun j =>
        let r := gRow g + j
        if gRows g ≤ r then []
        else [(r * nb + gKb g + q, (nth [] cols j).map (fun v => flDecode 31 v.toNat))])
      (if bs.isEmpty then s else convWrite s own src t false bs, old)
    else
      ((List.range W).foldl (fun s j =>
        let r := gRow g + j
        if gRows g ≤ r then s else putRow t r (32 * (gKb g + q)) (nth [] cols j) s) s, old)

/-- The new column count of a carry after a tile (R488). -/
def carryNext (d : Line) (W c0 : Nat) : Nat := if dcbLast d then 0 else (c0 + W) % 32

/-- Advance a generator after a cast-off of n arrays (R488). -/
def drainAdvance (d g : Line) (W n c0 : Nat) : Line :=
  if dcbAxis d then
    let up := (c0 + W) / 32 + (if dcbLast d && (c0 + W) % 32 ≠ 0 then 1 else 0)
    let kb := gKb g + up
    if kb = gKend g || dcbLast d then gSet g (gKstart g) (gRow g + 32 * n) else gSet g kb (gRow g)
  else
    let kb := gKb g + n
    if kb = gKend g then gSet g (gKstart g) (gRow g + W) else gSet g kb (gRow g)

/-- The route argument of the piece of the q-th selected array: the descriptor as it stands, whose row block the tile's number q moves on
(R182), or with its own destination (R310). -/
def pieceArg (d : Line) (q : Nat) : BitVec 128 :=
  if dcbRoute d = 1 then dcbArg d else putBits (dcbArg d) 95 64 (byteField d 24 4 + 5120 * q)

/-- One array of a cast-off through the drain stages (R80 to R85): q numbers it among the selected. -/
def drainArray (s0 : State) (c : Nat) (d : Line) (sk q a : Nat) (s : State) : State :=
  let r := (s0.core c).r
  let m := (s0.core c).m
  let k := m.skein (skIdx a sk)
  let W := s0.width c
  let car := m.carryOf a
  let v := skFinal k
  let pre := mkTile (fun i j => if j < W then drainPre s0 c d k.scale j (tileAt v i j) else 0)
  let st3 := (List.range 1024).map (fun x =>
    if x % 32 < W then
      drainFun d (if dcbDeriv d then savedAt s0 d (r.tdesc (dcbT d 6)) (r.gen (dcbG d 6)) q car.cols (x / 32) (x % 32) else 0) (nth 0 pre x)
    else (0, {}))
  let out := st3.map (fun p => p.1)
  let fl := st3.foldl (fun a p => FlagSet.or a p.2) {}
  let s1 := s.updRegs c (fun r => { r with vs := FlagSet.or r.vs fl })
  let tp := if dcbTap d then placeTile s1 c d (r.tdesc (dcbT d 5)) (r.gen (dcbG d 5)) W q car.cols car.vals pre else (s1, [])
  let op := if dcbRoute d = 0 then placeTile tp.1 c d (r.tdesc (dcbT d 4)) (r.gen (dcbG d 4)) W q car.cols car.vals out else (tp.1, [])
  let left := if dcbRoute d = 0 && fmtIsEs (tdFmt (r.tdesc (dcbT d 4))) then op.2
    else if dcbTap d && fmtIsEs (tdFmt (r.tdesc (dcbT d 5))) then tp.2 else []
  let s2 := if dcbAxis d && !(dcbRoles d).isEmpty then
      let cn := carryNext d W car.cols
      op.1.updMat c (fun m => { m with carry := SMap.set a (if cn = 0 then {} else ⟨dcbStream d, cn, left⟩) m.carry })
    else op.1
  if dcbRoute d = 1 || dcbRoute d = 2 then
    { s2 with tiles := s2.tiles ++ [⟨c, a, q, s0.ownerOfCore c, dcbRoute d == 2, pieceArg d q, W, out⟩] }
  else s2

/-- The skeins of a cast-off enter DRAINING as pending cast-offs with its control block, in ascending array order, and are counted (R71, R86,
R94, R166). A `SPOIL` has no control block: zero. -/
def enterDrain (c sk : Nat) (d : Line) (as : List Nat) (s : State) : State :=
  s.updMat c (fun m =>
    let m1 := as.foldl (fun m a => m.setSkein (skIdx a sk) { m.skein (skIdx a sk) with st := .draining }) m
    { m1 with dcbs := as.foldl (fun l a => SMap.setD 0 (skIdx a sk) d l) m.dcbs, pend := m1.pend ++ as.map (fun a => skIdx a sk), cntDrain := satAdd 48 m1.cntDrain as.length })

def drainArrays (s0 : State) (c : Nat) (d : Line) (sk : Nat) : List Nat → Nat → State → State
  | [], _, s => s
  | a :: as, q, s => drainArrays s0 c d sk as (q + 1) (drainArray s0 c d sk q a s)

/-- A tile cast off to any route but spoil is numbered, and sampled for Swatch by its number (R381). One whose skein was parked is not
checked (R382). -/
def swatchTile (s0 : State) (c sk a : Nat) (s : State) : State :=
  let r := s.reg 0xC 0x400010
  let n := SMap.get 0 c s.u.sw.tileNo
  let s1 : State := s.updSw (fun w => { w with tileNo := SMap.set c (n + 1) w.tileNo })
  let x := BitVec.ofNat 64 (bitsOf r 63 32) ^^^ BitVec.ofNat 64 (c * 2 ^ 48) ^^^ BitVec.ofNat 64 n
  if bitOf r 6 || decide ((mix64 x).toNat % 2 ^ bitsOf r 5 0 ≠ 0) then s1
  else
    let k := (s0.core c).m.skein (skIdx a sk)
    let p := s1.condCell c
    p.2.updSw (fun w => { w with
      sampled := w.sampled + 1
      live := if k.parked then w.live else w.live ++ [{
        core := c, array := a, cell := p.1, own := s0.ownerOfCore c, width := s0.width c, fmtW := k.fmtW, fmtA := k.fmtA
        trace := k.trace, vals := skFinal k, reads := k.reads }] })

/-- `CASTOFF` (R116, R117, R488): the tiles are drained through their roles, or spoiled, the generators that the DCB names advance, and the
cast-off is pending. [DESIGN CHOICE: log 178] -/
def castoffEff (s0 : State) (c : Nat) (w : BitVec 57) (s : State) : State :=
  let r := (s0.core c).r
  let as := arraysOf (fld w 56 53)
  let sk := fld w 52 51
  let d := s0.line (spBase c + (r.sreg (fld w 50 46)).toNat)
  let c0 := ((s0.core c).m.carryOf (as.headD 0)).cols
  let s1 := if dcbRoute d = 3 then s else drainArrays s0 c d sk as 0 s
  let s2 := s1.updRegs c (fun r1 => (dcbRoles d).foldl (fun r1 b =>
    r1.setG (dcbG d b) (drainAdvance d (r.gen (dcbG d b)) (s0.width c) as.length c0)) r1)
  enterDrain c sk d as (if dcbRoute d = 3 then s2 else as.foldl (fun s a => swatchTile s0 c sk a s) s2)

def spoilEff (_s0 : State) (c : Nat) (w : BitVec 57) (s : State) : State :=
  enterDrain c (fld w 52 51) 0 (arraysOf (fld w 56 53)) s

/-! ### PARK and RESUME (R73 to R76, R119) -/

/-- Pack AF40 values in 5 bytes each (R38). -/
def af40Bytes (l : List AF40) : List Byte := l.flatMap (fun v => leBytes 5 v.toNat)
def State.rdTile (s : State) (a W : Nat) : List AF40 :=
  mkTile (fun i j => if j < W then BitVec.ofNat 40 (s.rd (a + 5 * (32 * i + j)) 5) else 0)

/-- The accumulator-buffer header (R73). -/
def bufHeader (kind width : Nat) (scale : Int) (cnt flags blocks : Nat) : List Byte :=
  leBytes 1 kind ++ leBytes 1 width ++ leBytes 2 (unsign 16 scale) ++ leBytes 2 cnt ++ leBytes 1 flags ++ leBytes 1 0 ++
    leBytes 8 blocks ++ List.replicate 48 0

/-- A skein image: the save buffer of a slot (R73, R74). Columns at or beyond W are +0. [DEDUCED: log 23] -/
def saveBuf (k : Skein) (W : Nat) : List Byte :=
  bufHeader 1 W k.scale k.cnt (if k.valid then 1 else 0) k.blocks ++
    af40Bytes (mkTile (fun i j => if j < W then tileAt k.part i j else 0)) ++
    af40Bytes (mkTile (fun i j => if j < W then tileAt k.total i j else 0))

def parkCheck (s : State) (c : Nat) (w : BitVec 57) : Option Nat :=
  let k := (s.core c).m.skein (skIdx (fld w 56 55) (fld w 54 53))
  let off := ((s.core c).r.sreg (fld w 51 47)).toNat
  let add := bitOf w 52
  let b := spBase c + off
  firstRej [(!s.arrayOn c (fld w 56 55), 0x8515),
    (k.st == .free || (k.st == .sealed && !add), 0x8511),
    (decide (off % 64 ≠ 0) || !spOff off (if add then 5184 else 10304), 0x8512),
    (add && decide (s.byte b ≠ 2), 0x8512)]

/-- `PARK` (R73 to R75): the slot is saved into a buffer, or its total is added to one. [DESIGN CHOICE: log 179] -/
def parkEff (s0 : State) (c : Nat) (w : BitVec 57) (s : State) : State :=
  let i := skIdx (fld w 56 55) (fld w 54 53)
  let k := (s0.core c).m.skein i
  let b := spBase c + ((s0.core c).r.sreg (fld w 51 47)).toNat
  let W := s0.width c
  let s1 := if bitOf w 52 then
      let v := skFinal k
      let empty := bitOf (s0.byte (b + 6)) 1
      let old := s0.rdTile (b + 64) W
      let new := mkTile (fun i j =>
        if j < W then
          let x := afScale k.scale (tileAt v i j)
          if empty then x else afAdd (tileAt old i j) x
        else 0)
      let fl := (s0.byte (b + 6)).toNat
      ((s.wr (b + 8) 8 (s0.rd (b + 8) 8 + 1)).wr (b + 6) 1 (if empty then fl - 2 else fl)).putBytes (b + 64) (af40Bytes new)
    else s.putBytes b (saveBuf k W)
  s1.updMat c (fun m => m.setSkein i { m.skein i with st := .parking })

def resumeCheck (s : State) (c : Nat) (w : BitVec 57) : Option Nat :=
  let k := (s.core c).m.skein (skIdx (fld w 56 55) (fld w 54 53))
  let off := ((s.core c).r.sreg (fld w 51 47)).toNat
  let b := spBase c + off
  let kind := (s.byte b).toNat
  firstRej [(!s.arrayOn c (fld w 56 55), 0x8515),
    (k.st == .opened || k.st == .sealed, 0x8511),
    (decide (off % 64 ≠ 0) || !spOff off 64, 0x8512),
    (decide (kind ≠ 1) && decide (kind ≠ 2), 0x8512),
    (!spOff off (if kind = 1 then 10304 else 5184), 0x8512),
    (decide (kind = 1) && decide ((s.byte (b + 1)).toNat ≠ s.width c), 0x8512)]

def resumeEff (s0 : State) (c : Nat) (w : BitVec 57) (s : State) : State :=
  let i := skIdx (fld w 56 55) (fld w 54 53)
  let b := spBase c + ((s0.core c).r.sreg (fld w 51 47)).toNat
  let W := s0.width c
  let k : Skein := if (s0.byte b).toNat = 1 then
      { st := .resuming false, scale := signed 16 (s0.rd (b + 2) 2), cnt := s0.rd (b + 4) 2 % 128
        valid := bitOf (s0.byte (b + 6)) 0, blocks := s0.rd (b + 8) 8
        part := s0.rdTile (b + 64) W, total := s0.rdTile (b + 64 + 5120) W, parked := true }
    else
      { st := .resuming true, valid := true, scale := 0
        total := if bitOf (s0.byte (b + 6)) 1 then [] else s0.rdTile (b + 64) W, parked := true }
  s.updMat c (fun m => m.setSkein i k)

/-! ### The slot's dispatch by opcode -/

/-- The checks an M-slot instruction makes at issue under W mode `on`, R99 apart. -/
def mCheck (s : State) (c : Nat) (on : Bool) (i : SlotI) : Option Nat :=
  if i.op = 0x01 then wloadCheck s c i.w
  else if i.op = 0x02 then aloadCheck s c i.w
  else if i.op = 0x03 then castonCheck s c i.w
  else if i.op = 0x04 then mmaCheck s c i.w
  else if i.op = 0x05 then castoffCheck s c on i.w
  else if i.op = 0x06 then parkCheck s c i.w
  else if i.op = 0x07 then resumeCheck s c i.w
  else if i.op = 0x08 then spoilCheck s c i.w
  else none

/-- The effect of an M-slot instruction. -/
def mEff (s0 : State) (c : Nat) (i : SlotI) (s : State) : State :=
  if i.op = 0x01 then wloadEff s0 c i.w s
  else if i.op = 0x02 then aloadEff s0 c i.w s
  else if i.op = 0x03 then castonEff s0 c i.w s
  else if i.op = 0x04 then mmaEff s0 c i.w s
  else if i.op = 0x05 then castoffEff s0 c i.w s
  else if i.op = 0x06 then parkEff s0 c i.w s
  else if i.op = 0x07 then resumeEff s0 c i.w s
  else if i.op = 0x08 then spoilEff s0 c i.w s
  else s

end Sys2Proof.Machine
end

