-- ==== Sys2Proof/Machine/Move.lean ====
section
/-!
DEFINITION. The data-movement slot (R142 to R149) and the DMA queues: descriptor and generator loads, transfers as they
are queued, as they run, and as they complete.
-/

namespace Sys2Proof.Machine

open Sys2Proof

/-- A 64-byte line of the core's own scratchpad at a scalar's offset must be aligned and populated (R143). -/
def lineBad (off : Nat) : Bool := decide (off % 64 ≠ 0) || !spOff off 64

def tldCheck (s : State) (c : Nat) (w : BitVec 57) : Option Nat :=
  let off := ((s.core c).r.sreg (fld w 52 48)).toNat
  if lineBad off then some 0x8201
  else if !tdOk (s.line (spBase c + off)) then some 0x8519 else none

def tldEff (s0 : State) (c : Nat) (w : BitVec 57) (s : State) : State :=
  s.updRegs c (fun r => r.setT (fld w 56 53) (s0.line (spBase c + ((s0.core c).r.sreg (fld w 52 48)).toNat)))

def gldCheck (s : State) (c : Nat) (w : BitVec 57) : Option Nat :=
  let off := ((s.core c).r.sreg (fld w 53 49)).toNat
  if lineBad off then some 0x8201
  else if !genOk (s.line (spBase c + off)) then some 0x8519 else none

def gldEff (s0 : State) (c : Nat) (w : BitVec 57) (s : State) : State :=
  s.updRegs c (fun r => r.setG (fld w 56 54) (s0.line (spBase c + ((s0.core c).r.sreg (fld w 53 49)).toNat)))

def gstCheck (s : State) (c : Nat) (w : BitVec 57) : Option Nat :=
  if lineBad ((s.core c).r.sreg (fld w 53 49)).toNat then some 0x8201 else none

/-- `GST` stores the generator as the bundle found it (R101, R143). -/
def gstEff (s0 : State) (c : Nat) (w : BitVec 57) (s : State) : State :=
  let r0 := (s0.core c).r
  s.wr (spBase c + (r0.sreg (fld w 53 49)).toNat) 64 (r0.gen (fld w 56 54)).toNat

/-! ### Transfers -/

/-- Elements that a range of a tensor may reach: the padded count of an ES or MX tensor (R136, R144). [DESIGN CHOICE: log 210] -/
def xferLimit (t : Line) : Nat := if fmtIsEs (tdFmt t) then (if tdMx t then cdiv (tdCount t) 32 * 32 else tdPadded t) else tdCount t

/-- Whether the formats of a transfer are listed for its kind (R144, R145, R147). -/
def xferPair (kind : Nat) (ts td : Line) : Bool :=
  let fs := tdFmt ts
  let fd := tdFmt td
  let es := fmtIsEs fs
  let ed := fmtIsEs fd
  match kind with
  | 0 => decide (fs = fd) && (tdMx ts == tdMx td)
  | 1 => !tdMx ts && !tdMx td &&
    ((!es && ed) || (decide (fd = 8) && (fs = 9 || fs = 0xA)) || (decide (fs = 0xA) && decide (fd = 9)) ||
     (decide (fs = 8) && (fd = 9 || fd = 0xA)) || (decide (fs = 9) && decide (fd = 0xA)) || (es && (fd = 9 || fd = 0xA)))
  | 2 => tdMx ts && !tdMx td && ed && decide (fs = fd)
  | 3 => !tdMx ts && tdMx td && es && decide (fs = fd)
  | 4 => true
  | _ => false

/-- An ES or MX endpoint's offset and count must be multiples of 32, save a count that ends at the padded end (R144). -/
def xferAlign (t : Line) (o n : Nat) : Bool :=
  !fmtIsEs (tdFmt t) || (decide (o % 32 = 0) && (decide (n % 32 = 0) || decide (o + n = xferLimit t)))

/-- Row and column packed in a scalar: row in [63:32], column in [31:0] (R142). -/
def rcRow (x : W64) : Nat := x.toNat / 2 ^ 32
def rcCol (x : W64) : Nat := x.toNat % 2 ^ 32

/-- The transfer a `DMA` or `DMAT` enters, with its operands captured (R142, R144). -/
def xferOf (r : CoreRegs) (transpose : Bool) (w : BitVec 57) : Xfer :=
  { kind := if transpose then 5 else fld w 56 54, transpose, ts := r.tdesc (fld w 51 48), td := r.tdesc (fld w 47 44)
    so := r.sreg (fld w 43 39), dst := r.sreg (fld w 38 34), sn := r.sreg (fld w 33 29), sem := fld w 28 23 }

/-- Conditions that reject a `DMA` with 0x8519 (R145). -/
def dmaBad (x : Xfer) : Bool :=
  let zero := decide (x.kind = 4)
  decide (5 ≤ x.kind) || !xferPair x.kind x.ts x.td ||
  !xferAlign x.td x.dst.toNat x.sn.toNat || decide (xferLimit x.td < x.dst.toNat + x.sn.toNat) ||
  (!zero && (!xferAlign x.ts x.so.toNat x.sn.toNat || decide (xferLimit x.ts < x.so.toNat + x.sn.toNat)))

/-- Conditions that reject a `DMAT` with 0x8519 (R145, R147). [DESIGN CHOICE: log 208] -/
def dmatBad (x : Xfer) : Bool :=
  let es := fmtIsEs (tdFmt x.ts) || fmtIsEs (tdFmt x.td)
  let vs := [rcRow x.so, rcCol x.so, rcRow x.dst, rcCol x.dst, rcRow x.sn, rcCol x.sn]
  decide (tdFmt x.ts ≠ tdFmt x.td) || tdMx x.ts || tdMx x.td ||
  (es && vs.any (fun v => decide (v % 32 ≠ 0))) ||
  decide (tdRows x.ts < rcRow x.so + rcRow x.sn) || decide (tdExt x.ts 0 < rcCol x.so + rcCol x.sn) ||
  decide (tdRows x.td < rcRow x.dst + rcCol x.sn) || decide (tdExt x.td 0 < rcCol x.dst + rcRow x.sn)

def dmaCheck (s : State) (c : Nat) (w : BitVec 57) : Option Nat :=
  let x := xferOf (s.core c).r false w
  firstRej [(decide (5 ≤ x.kind), 0x8519), ((decide (x.kind ≠ 4) && epochBad s c x.ts) || epochBad s c x.td, 0x8303), (dmaBad x, 0x8519)]

def dmatCheck (s : State) (c : Nat) (w : BitVec 57) : Option Nat :=
  let x := xferOf (s.core c).r true w
  firstRej [(epochBad s c x.ts || epochBad s c x.td, 0x8303), (dmatBad x, 0x8519)]

def enterXfer (c q : Nat) (x : Xfer) (s : State) : State :=
  let d := (s.core c).dmaq q
  s.setDmaq c q { d with xs := d.xs ++ [x] }

def dmaEff (s0 : State) (c : Nat) (w : BitVec 57) (s : State) : State :=
  enterXfer c (fld w 53 52) (xferOf (s0.core c).r false w) s

def dmatEff (s0 : State) (c : Nat) (w : BitVec 57) (s : State) : State :=
  enterXfer c (fld w 53 52) (xferOf (s0.core c).r true w) s

/-! ### Requests to the collective engine -/

def reqCheck (s : State) (c : Nat) (w : BitVec 57) : Option Nat :=
  if spOff ((s.core c).r.sreg (fld w 56 52)).toNat 64 then none else some 0x8201

/-- An operation that is unassigned, or issued by the wrong instruction (R300, R301): kind 0 SEND, 1 RECV, 2 CHAIN. -/
def reqOpBad (kind op : Nat) : Bool :=
  match kind with
  | 0 => !([1, 2, 4, 5, 8].contains op)
  | 1 => !([2, 5].contains op)
  | 2 => !([6, 7].contains op)
  | _ => !([1, 2, 4, 5, 6, 7, 8].contains op)

/-- A refused request: the event names its group and epoch, and nothing is signalled (R301). -/
def reqRefuse (own : Option Nat) (l : Line) (s : State) : State :=
  s.raise 0x8305 0x6000 own (BitVec.ofNat 64 (byteField l 2 2 % 4096 + byteField l 4 2 * 2 ^ 16)) 0

/-- A request block passed to the collective engine (R149): kind 0 SEND, 1 RECV, 2 CHAIN. -/
def reqEff (kind : Nat) (s0 : State) (c : Nat) (w : BitVec 57) (s : State) : State :=
  let l := s0.line (spBase c + ((s0.core c).r.sreg (fld w 56 52)).toNat)
  if reqOpBad kind (byteField l 0 1) then reqRefuse (s0.ownerOfCore c) l s
  else
    let s1 : State := { s with creqs := s.creqs ++ [{ core := c, kind, sem := fld w 51 46, line := l }] }
    s1.updCore c (fun k => { k with reqs := k.reqs ++ [fld w 51 46] })

/-- Whether an X-slot instruction waits at issue: a queue of 16 transfers (R144), or 32 requests outstanding (R149). -/
def xWaits (s : State) (c : Nat) (i : SlotI) : Bool :=
  if i.op = 0x04 || i.op = 0x05 then decide (16 ≤ ((s.core c).dmaq (fld i.w 53 52)).xs.length)
  else if 0x06 ≤ i.op then decide (32 ≤ (s.core c).reqs.length)
  else false

def xCheck (s : State) (c : Nat) (i : SlotI) : Option Nat :=
  if i.op = 0x01 then tldCheck s c i.w
  else if i.op = 0x02 then gldCheck s c i.w
  else if i.op = 0x03 then gstCheck s c i.w
  else if i.op = 0x04 then dmaCheck s c i.w
  else if i.op = 0x05 then dmatCheck s c i.w
  else if 0x06 ≤ i.op then reqCheck s c i.w
  else none

def xEff (s0 : State) (c : Nat) (i : SlotI) (s : State) : State :=
  if i.op = 0x01 then tldEff s0 c i.w s
  else if i.op = 0x02 then gldEff s0 c i.w s
  else if i.op = 0x03 then gstEff s0 c i.w s
  else if i.op = 0x04 then dmaEff s0 c i.w s
  else if i.op = 0x05 then dmatEff s0 c i.w s
  else if 0x06 ≤ i.op then reqEff (i.op - 6) s0 c i.w s
  else s

/-! ### Running a transfer (R144 to R148) -/

/-- Bytes a range of n elements from o of a tensor occupies: spans for the protection check. -/
def tensorSpans (t : Line) (o n : Nat) : List (Nat × Nat) :=
  if fmtIsEs (tdFmt t) then
    (List.range (cdiv n 32)).flatMap (fun k =>
      let a := if tdMx t then mxAddr t (o / 32 + k) else blkAddr t (o / 32 + k)
      [(a.1, blockBytes (tdFmt t)), (a.2, 1)])
  else (List.range n).map (fun i => (elAddr t (o + i), elSize (tdFmt t)))

/-- A transfer moves whole destination blocks where the destination is ES or MX, else elements: its units, in the order it writes them. -/
def xferEs (x : Xfer) : Bool := fmtIsEs (tdFmt x.td)
def xferUnits (x : Xfer) : Nat :=
  if x.transpose then rcCol x.sn * (if xferEs x then rcRow x.sn / 32 else rcRow x.sn)
  else if xferEs x then cdiv x.sn.toNat 32 else x.sn.toNat

/-- The units that a transfer has still to move. -/
def xferLeft (x : Xfer) : List Nat := (List.range (xferUnits x - x.pos)).map (fun i => x.pos + i)

/-- Logical element (r, c) of a `DMAT`'s source region, and where the destination's unit u begins (R147). -/
def tpSrc (x : Xfer) (r c : Nat) : Nat := (rcRow x.so + r) * tdExt x.ts 0 + rcCol x.so + c
def tpDst (x : Xfer) (u : Nat) : Nat :=
  let n := if xferEs x then rcRow x.sn / 32 else rcRow x.sn
  (rcRow x.dst + u / n) * tdExt x.td 0 + rcCol x.dst + (if xferEs x then 32 else 1) * (u % n)

/-- Destination elements of a unit: the first, and the source elements that they take. -/
def unitDst (x : Xfer) (u : Nat) : Nat := if x.transpose then tpDst x u else x.dst.toNat + (if xferEs x then 32 else 1) * u
def unitSrc (x : Xfer) (u : Nat) : List Nat :=
  if x.transpose then
    (if xferEs x then (let n := rcRow x.sn / 32; (List.range 32).map (fun i => tpSrc x (32 * (u % n) + i) (u / n)))
     else [tpSrc x (u % rcRow x.sn) (u / rcRow x.sn)])
  else if xferEs x then (List.range (min 32 (x.sn.toNat - 32 * u))).map (fun i => x.so.toNat + 32 * u + i)
  else [x.so.toNat + u]

/-- What a unit reads and writes. An ES source is read by whole blocks. -/
def unitSpans (x : Xfer) (u : Nat) : List (Nat × Nat) × List (Nat × Nat) :=
  (if x.kind = 4 then [] else if fmtIsEs (tdFmt x.ts) && !x.transpose then tensorSpans x.ts ((unitSrc x u).headD 0) 1
   else (unitSrc x u).flatMap (fun e => tensorSpans x.ts e 1),
   tensorSpans x.td (unitDst x u) 1)

def spansOf (x : Xfer) (us : List Nat) : List (Nat × Nat) × List (Nat × Nat) :=
  (us.flatMap (fun u => (unitSpans x u).1), us.flatMap (fun u => (unitSpans x u).2))

/-- What a transfer has still to read and write. -/
def xferSpans (x : Xfer) : List (Nat × Nat) × List (Nat × Nat) := spansOf x (xferLeft x)

/-- Copy n bytes from address a to address b, as bytes of `s0`. -/
def copyBytes (s0 : State) (a b n : Nat) (s : State) : State := s.putBytes b (s0.bytes a n)

/-- Addresses of a block of an ES or MX tensor. -/
def anyBlk (t : Line) (k : Nat) : Nat × Nat := if tdMx t then mxAddr t k else blkAddr t k

/-- COPY (R144): bits copied; ES elements keep their block bytes. -/
def runCopy (s0 : State) (x : Xfer) (us : List Nat) (s : State) : State :=
  us.foldl (fun s u =>
    let a := (unitSrc x u).headD 0
    if xferEs x then
      let a := anyBlk x.ts (a / 32)
      let b := anyBlk x.td (unitDst x u / 32)
      copyBytes s0 a.2 b.2 1 (copyBytes s0 a.1 b.1 (blockBytes (tdFmt x.td)) s)
    else copyBytes s0 (elAddr x.ts a) (elAddr x.td (unitDst x u)) (elSize (tdFmt x.td)) s) s

/-- The value of logical element e of a source: an ES element with its shift and its tensor's scale (R35, R131). -/
def srcVal (s0 : State) (t : Line) (e : Nat) : Fl :=
  if fmtIsEs (tdFmt t) then blockVal (tdFmt t) (s0.rdBlock t (e / 32)) (tdT t) (e % 32) else s0.rdFl (tdFmt t) (elAddr t e)

/-- Block k of an MX source: its element patterns and its scale byte (R60). -/
def mxSrc (s0 : State) (t : Line) (k : Nat) : List Nat × Nat :=
  let a := mxAddr t k
  let v := s0.rd a.1 (blockBytes (tdFmt t))
  ((List.range 32).map (fun i => (v >>> ((esOf (tdFmt t)).width * i)) % 2 ^ (esOf (tdFmt t)).width), (s0.byte a.2).toNat)

/-- The 32 source values of a destination block: of a conversion, a re-blocking, or an import (R43, R60, R148). -/
def unitVals (s0 : State) (x : Xfer) (u : Nat) : List Fl :=
  if x.kind = 2 then
    let m := mxSrc s0 x.ts ((unitSrc x u).headD 0 / 32)
    if m.2 = 255 then [] else m.1.map (fun p => flScale ((m.2 : Int) - 127) (esDecode (tdFmt x.ts) p))
  else
    let v := (unitSrc x u).map (srcVal s0 x.ts)
    v ++ List.replicate (32 - v.length) (.fin false 0 0)

/-- The T of a transfer's conversion: the descriptor's, or in warm-up the live one of the whole instance, found when it began (R42). -/
def xferT (s : State) (own : Option Nat) (x : Xfer) : Int :=
  x.live.getD (convT s own x.td ((List.range (xferUnits x)).flatMap (unitVals s x)))

/-- CONVERT (R144): floats to ES by R43, ES to FP32 or AF40 as `VDEC`, floats among themselves. -/
def runConvert (s0 : State) (own : Option Nat) (src : Nat) (x : Xfer) (tt : Int) (us : List Nat) (s : State) : State :=
  let fd := tdFmt x.td
  if xferEs x then convWriteT s own src x.td false tt (us.map (fun u => (unitDst x u / 32, unitVals s0 x u)))
  else us.foldl (fun s u =>
    s.wr (elAddr x.td (unitDst x u)) (elSize fd) (flRound (fmtFrac fd) false (srcVal s0 x.ts ((unitSrc x u).headD 0))).bits) s

/-- MX_IMPORT (R60), in warm-up with the live T as every conversion (R42, R43). -/
def runImport (s0 : State) (own : Option Nat) (src : Nat) (x : Xfer) (tt : Int) (us : List Nat) (s : State) : State :=
  let blk := fun (u : Nat) => let m := mxSrc s0 x.ts ((unitSrc x u).headD 0 / 32); mxImport (tdFmt x.td) m.1 m.2 tt
  let s1 := us.foldl (fun s u => s.wrBlock x.td (unitDst x u / 32) (blk u).1) s
  scaleAdd s1 own src (tdId x.td) (us.foldl (fun a u => a.add (blk u).2) {})

/-- MX_EXPORT (R61): saturation raises 0x4402 as R45 gives. [DEDUCED: log 17] -/
def runExport (s0 : State) (own : Option Nat) (src : Nat) (x : Xfer) (us : List Nat) (s : State) : State :=
  let out := fun (u : Nat) => mxExport (tdFmt x.ts) (s0.rdBlock x.ts ((unitSrc x u).headD 0 / 32)) (tdT x.ts)
  let s1 := us.foldl (fun s u =>
    let a := mxAddr x.td (unitDst x u / 32)
    let o := out u
    (s.putBytes a.1 (blockData (tdFmt x.ts) ⟨false, false, 0, o.1⟩)).wr a.2 1 o.2.1) s
  scaleAdd s1 own src (tdId x.ts) (us.foldl (fun a u => a.add (out u).2.2) {})

/-- ZERO (R144): +0 elements; ES blocks with `Z` set and `SHIFT` 0. [DESIGN CHOICE: log 207] -/
def runZero (x : Xfer) (us : List Nat) (s : State) : State :=
  let f := tdFmt x.td
  us.foldl (fun s u =>
    if xferEs x then
      let a := anyBlk x.td (unitDst x u / 32)
      (s.putBytes a.1 (List.replicate (blockBytes f) 0)).putBytes a.2 [if tdMx x.td then 127 else 0x80]
    else s.wr (elAddr x.td (unitDst x u)) (elSize f) 0) s

/-- DMAT (R147, R148): the transpose; an ES destination is re-blocked from the source's values, always RNE. The values carry the source's
tensor scale, so that the copy differs by roundings alone (R35, R171). [DEDUCED: log 37] -/
def runTranspose (s0 : State) (own : Option Nat) (src : Nat) (x : Xfer) (tt : Int) (us : List Nat) (s : State) : State :=
  if xferEs x then convWriteT s own src x.td true tt (us.map (fun u => (unitDst x u / 32, unitVals s0 x u)))
  else us.foldl (fun s u =>
    copyBytes s0 (elAddr x.ts ((unitSrc x u).headD 0)) (elAddr x.td (unitDst x u)) (elSize (tdFmt x.td)) s) s

/-- Freeze a DMA queue (R373). -/
def freezeDma (c q : Nat) (s : State) : State := s.setDmaq c q { (s.core c).dmaq q with frozen := true }

/-- Raise an event charged to the owner of a core's DMA queue and freeze the queue (R146, R164). -/
def dmaFault (c q code : Nat) (d0 d1 : W64) (s : State) : State :=
  (freezeDma c q s).raise code (0x2000 + 4 * c + q) (s.ownerOfCore c) d0 d1

/-- An uncorrectable sector that a transfer reads, or writes in part, stops its queue (R164, R232, R236). -/
def dmaUe (c q sec : Nat) (s : State) : State :=
  (freezeDma c q s).raiseUe sec (s.ownerOfCore c)

/-- What a run of some of a transfer's units does to memory and counters, by kind. -/
def xferRun (own : Option Nat) (src : Nat) (x : Xfer) (tt : Int) (us : List Nat) (s : State) : State :=
  match x.kind with
  | 0 => runCopy s x us s
  | 1 => runConvert s own src x tt us s
  | 2 => runImport s own src x tt us s
  | 3 => runExport s own src x us s
  | 4 => runZero x us s
  | _ => runTranspose s own src x tt us s

/-- The first span a master's access may not reach, if any (R5, R146). -/
def badSpan (s : State) (own : Option Nat) (sp : List (Nat × Nat) × List (Nat × Nat)) : Option (Nat × Nat × Bool) :=
  match sp.1.find? (fun p => !s.reach own p.1 p.2 false) with
  | some p => some (p.1, p.2, false)
  | none => (sp.2.find? (fun p => !s.reach own p.1 p.2 true)).map (fun p => (p.1, p.2, true))

/-- A span waits for its port: the host window while the host link is not DL_Active, a CXL port's window while it retrains, a GDDR7 channel
while it is initialised or retrained (R234, R235, R402, R415). -/
def portHeld (s : State) (p : Nat × Nat) : Bool :=
  memBusy s p.1 p.2 || (hitsHost p.1 p.2 && s.u.host.st != 2)

/-- A transfer converts to an ES destination, or exports an ES source: its tensor's scale entry must match (R210, R212). -/
def xferScaled (x : Xfer) : Option Line :=
  if x.kind = 3 then some x.ts
  else if (x.kind = 1 || x.kind = 2 || x.kind = 5) && xferEs x then some x.td else none

/-- The scale entry that a transfer reads. -/
def entrySpans (s : State) (x : Xfer) : List (Nat × Nat) := (xferScaled x).toList.map (fun t => (scaleEntry s (tdId t), 256))

/-- Move the next n units of transfer x, the head of queue q of core c. An access that is a protection violation, or a scale entry that
does not match, freezes the queue (R146, R210, R212); a held port makes it wait. [DESIGN CHOICE: log 38; DEDUCED: log 39] -/
def runPart (n c q : Nat) (x : Xfer) (r : List Xfer) (s : State) : State :=
  let own := s.ownerOfCore c
  let us := (xferLeft x).take n
  let sp := spansOf x us
  match badSpan s own sp with
  | some p => dmaFault c q 0x8201 (BitVec.ofNat 64 p.1) (BitVec.ofNat 64 ((if p.2.2 then 1 else 0) + 2 * p.2.1)) s
  | none =>
    if (sp.1 ++ sp.2).any (portHeld s) then s
    else match ((sp.1 ++ entrySpans s x).findSome? (fun (p : Nat × Nat) => s.memUe p.1 p.2)).or (s.writeUe sp.2) with
    | some sec => dmaUe c q sec s
    | none =>
      let s := (sp.1.foldl (fun s p => s.readNote p.1 p.2) s).writeNote sp.2
      match (xferScaled x).bind (scaleErr s own) with
      | some e => dmaFault c q e 0 0 s
      | none =>
        let tt := xferT s own x
        let s1 := State.asOne sp.2 (xferRun own (0x2000 + 4 * c + q) x tt us) s
        let d1 := (s1.core c).dmaq q
        s1.setDmaq c q { d1 with xs := { x with pos := x.pos + us.length, live := (xferScaled x).map (fun _ => tt), done := decide (xferUnits x ≤ x.pos + n) } :: r }

/-- A core's DMA queues move while it is not being saved or restored (R165, R167). -/
def dmaMoves (s : State) (c : Nat) : Bool :=
  match (s.core c).seq.run with
  | .quiescing => false
  | .saved => false
  | .restoring => false
  | _ => true

/-- Run the transfer at the head of queue q of core c to its end when its kind is `kind` and it has not ended yet. -/
def runHead (kind : Nat) (c q : Nat) (s : State) : State :=
  let d := (s.core c).dmaq q
  match d.xs with
  | [] => s
  | x :: r => if d.frozen || x.done || x.kind ≠ kind || !dmaMoves s c then s else runPart (xferUnits x - x.pos) c q x r s

/-- The first place at or after n more units at which a transfer may stop (R165): after a block of an ES destination, else after the
current 64-byte line. [DESIGN CHOICE: log 209] -/
def xferStop (x : Xfer) (n : Nat) : Nat :=
  let left := xferUnits x - x.pos
  let lineOf := fun (i : Nat) => elAddr x.td (unitDst x (x.pos + i)) / 64
  if xferEs x then min n left
  else ((List.range left).find? (fun m => decide (n ≤ m) && (decide (m = 0) || decide (lineOf (m - 1) ≠ lineOf m)))).getD left

/-- The transfer at the head of a queue stops as its core quiesces: how far it has come is free, and each element is moved and counted
once (R165). [DESIGN CHOICE: log 38] -/
def dmaStop (c q : Nat) (s : State) : State :=
  let d := (s.core c).dmaq q
  match d.xs with
  | [] => s
  | x :: r =>
    if d.frozen || x.done then s
    else
      let p := s.draw
      let n := xferStop x (Config.cycles p.1 % (xferUnits x - x.pos + 1))
      if n = 0 then p.2 else runPart n c q x r p.2

end Sys2Proof.Machine
end

