-- ==== Sys2Proof/Machine/Scalar.lean ====
section
/-!
DEFINITION. The scalar and control slot (R150 to R160): arithmetic, branches, semaphores, waits, deferral and status. What a
bundle's S slot makes the sequencer wait for is here too.
-/

namespace Sys2Proof.Machine

open Sys2Proof

/-- Scalar arithmetic by opcode 0x01 to 0x09 (R150). -/
def sAlu (op : Nat) (a b : W64) : W64 :=
  match op with
  | 0x01 => a + b
  | 0x02 => a - b
  | 0x03 => a * b
  | 0x04 => a &&& b
  | 0x05 => a ||| b
  | 0x06 => a ^^^ b
  | 0x07 => a <<< (b.toNat % 64)
  | 0x08 => a >>> (b.toNat % 64)
  | _ => a.sshiftRight (b.toNat % 64)

/-- The `BRC` conditions of R150. -/
def brCond (c : Nat) (a b : W64) : Bool :=
  match c with
  | 0 => a == b
  | 1 => a != b
  | 2 => a.slt b
  | 3 => !a.slt b
  | 4 => a.ult b
  | _ => !a.ult b

/-- A 32-bit immediate sign-extended to 64 bits. -/
def simm (w : BitVec 57) : W64 := BitVec.ofInt 64 (signed 32 (fld w 31 0))

def sSd (w : BitVec 57) : Nat := fld w 56 52
def sA (r : CoreRegs) (w : BitVec 57) : W64 := r.sreg (fld w 51 47)
def sB (r : CoreRegs) (w : BitVec 57) : W64 := r.sreg (fld w 46 42)

/-- The offset of `SLD` and `SST`: sa + 8 × index modulo 2^64. -/
def sOff (r : CoreRegs) (w : BitVec 57) : Nat := (sA r w + BitVec.ofNat 64 (8 * fld w 23 0)).toNat

/-- The value `SRD` reads by code (R155). -/
def srdVal (s : State) (c code : Nat) : W64 :=
  match code with
  | 0 => s.course
  | 1 => (s.jobOf (s.ownerOfCore c)).step
  | 2 => BitVec.ofNat 64 (vsBits (s.core c).r.vs)
  | 3 => BitVec.ofNat 64 c
  | _ => BitVec.ofNat 64 (s.width c)

/-- The scalar register an S-slot instruction writes and its new value, if it writes one (R150, R155). -/
def sResult (s : State) (c : Nat) (op : Nat) (w : BitVec 57) : Option (Nat × W64) :=
  let r := (s.core c).r
  if 0x01 ≤ op && op ≤ 0x09 then some (sSd w, sAlu op (sA r w) (sB r w))
  else if op = 0x0A then some (sSd w, sA r w + simm w)
  else if op = 0x0B then some (sSd w, simm w)
  else if op = 0x0C then some (sSd w, BitVec.ofNat 64 (fld w 31 0 * 2 ^ 32 + (r.sreg (sSd w)).toNat % 2 ^ 32))
  else if op = 0x10 then some (sSd w, BitVec.ofNat 64 (s.rd (spBase c + sOff r w) 8))
  else if op = 0x30 then some (sSd w, srdVal s c (fld w 3 0))
  else none

/-- The core whose semaphore a `SIGNAL` adds to (R151). -/
def sigTarget (s : State) (c : Nat) (w : BitVec 57) : Nat :=
  if bitOf w 42 then ((s.core c).r.sreg (fld w 41 37)).toNat else c

/-- Whether slot 3 of every array may end a fragment: FREE or DRAINING (R159). -/
def slot3Ok (s : State) (c : Nat) : Bool :=
  (List.range 4).all (fun a => ((s.core c).m.skein (skIdx a 3)).st == .free || ((s.core c).m.skein (skIdx a 3)).st == .draining)

/-- The checks of the S slot at issue, R99 and R157 apart. `wm0` is W mode before the bundle. -/
def sCheck (s : State) (c : Nat) (wm0 : Bool) (i : SlotI) : Option Nat :=
  let r := (s.core c).r
  let q := (s.core c).seq
  if i.op = 0x10 || i.op = 0x11 then (if spOff (sOff r i.w) 8 then none else some 0x8201)
  else if i.op = 0x1A then (if wm0 then some 0x851C else none)
  else if i.op = 0x22 then
    let t := sigTarget s c i.w
    if bitOf i.w 42 && !(decide (t < s.nCores) && s.ownerOfCore t == s.ownerOfCore c) then some 0x8201 else none
  else if i.op = 0x28 then (if wm0 then none else some 0x851C)
  else if i.op = 0x29 then (if !q.infrag then some 0x851C else if slot3Ok s c then none else some 0x851D)
  else if i.op = 0x2B then (if bitOf i.w 56 == wm0 then some 0x851C else none)
  else none

/-- What an S slot makes its bundle do before it can issue. -/
inductive Wt where
  | ready
  | stall
  | fill
  | dead
  deriving DecidableEq, Repr

/-- A DMA queue has transfers that have still to read: instructions after a `WEND` may not write before them (R176). -/
def dmaReads (d : DmaQ) : Bool := !d.frozen && d.xs.any (fun x => !x.done)

/-- The wait of an S slot (R152, R154, R156, R158, R159, R176). No fragment runs inside a fragment. `old` says the bundle was found waiting before: its deadline then
comes before its count. `fill` may run fragments (R160). [DEDUCED: log 184] -/
def sWait (s : State) (c : Nat) (old : Bool) (i : SlotI) : Wt :=
  let r := (s.core c).r
  let q := (s.core c).seq
  if i.k ≠ 3 then .ready
  else if i.op = 0x20 then
    let met := decide (fld i.w 50 43 ≤ r.semv (fld i.w 56 51))
    let late := bitOf i.w 41 && decide ((r.sreg (fld i.w 40 36)).toNat ≤ s.course.toNat)
    if (old && late) || (!met && late) then .dead
    else if met then .ready
    else if bitOf i.w 42 then .stall else .fill
  else if i.op = 0x21 then
    if (r.sreg (fld i.w 56 52)).toNat ≤ s.course.toNat then .ready
    else if bitOf i.w 51 then .stall else .fill
  else if i.op = 0x29 then
    if q.infrag && ((List.range 4).any (fun a => match ((s.core c).m.skein (skIdx a 3)).st with
      | .parking => true
      | .resuming _ => true
      | _ => false) || dmaReads ((s.core c).dmaq 3)) then .stall else .ready
  else if q.infrag then .ready
  else if i.op = 0x28 then (if q.wmode && decide (64 ≤ q.wq.length) then .fill else .ready)
  else if i.op = 0x2A then (if q.wq.isEmpty then .ready else .fill)
  else if i.op = 0x2B then (if q.wmode && !bitOf i.w 56 && !q.wq.isEmpty then .fill else .ready)
  else .ready

/-- Halt a core with its bundle address kept (R103). Bundles given after it do not issue. -/
def haltCore (c : Nat) (s : State) : State :=
  s.updSeq c (fun q => { q with run := .halted, openB := [], q := [], stalled := false, unmet := false })

/-- Freeze a core (R373). -/
def freezeCore (c : Nat) (s : State) : State := (haltCore c s).updSeq c (fun q => { q with frozen := true })

/-- Detail word 0 of a sequencer rejection (R370): bundle address, slot, and a bit for each other slot that broke a condition. -/
def rejD0 (b : Addr) (slot others : Nat) : W64 := BitVec.ofNat 64 (b.toNat + slot * 2 ^ 48 + others * 2 ^ 50)

/-- Detail word 1 of a halt (R163): the main program's bundle to which a halted fragment would have returned. -/
def fragRet (q : CoreSeq) : W64 := if q.infrag then BitVec.ofNat 64 q.raddr.toNat else 0

/-- Halt core c at its bundle with an event (R103, R162, R163): a protection violation or an epoch mismatch also freezes it. -/
def rejectAt (c : Nat) (code slot others : Nat) (b : Addr) (s : State) : State :=
  let q := (s.core c).seq
  let s1 := if code = 0x8201 || code = 0x8303 then freezeCore c s else haltCore c s
  s1.raise code (0x1000 + c) (s.ownerOfCore c) (rejD0 b slot others) (fragRet q)

/-- Add n to a semaphore of core c; an addition past 2^32 - 1 leaves it unchanged (R146, R149, R151). -/
def semAdd (c sem n : Nat) (s : State) : State × Bool :=
  let v := (s.core c).r.semv sem + n
  if 2 ^ 32 ≤ v then (s, false) else (s.updRegs c (fun r => r.setSem sem v), true)

/-- `SIGNAL` (R151): the addition, or with an overflow 0x851A and the halt at the next bundle boundary. -/
def signalEff (s0 : State) (c : Nat) (w : BitVec 57) (s : State) : State :=
  let p := semAdd (sigTarget s0 c w) (fld w 56 51) (fld w 50 43) s
  if p.2 then p.1
  else (haltCore c p.1).raise 0x851A (0x1000 + c) (s0.ownerOfCore c) (rejD0 (s0.core c).seq.baddr 3 0) (fragRet (s0.core c).seq)

/-- The effect of the S slot on everything but the bundle address. -/
def sEff (s0 : State) (c : Nat) (i : SlotI) (s : State) : State :=
  let r0 := (s0.core c).r
  let w := i.w
  match sResult s0 c i.op w with
  | some (d, v) => s.updRegs c (fun r => r.setS d v)
  | none =>
    if i.op = 0x11 then s.wr (spBase c + sOff r0 w) 8 (sB r0 w).toNat
    else if i.op = 0x1A then abandonChecks c (s.updSeq c (fun q => { q with ending := true }))
    else if i.op = 0x20 then s.updRegs c (fun r => r.setSem (fld w 56 51) (r.semv (fld w 56 51) - fld w 50 43))
    else if i.op = 0x21 then
      if !(s0.core c).seq.unmet && decide ((r0.sreg (fld w 56 52)).toNat < s0.course.toNat)
      then s.updSeq c (fun q => { q with cntLatec := satAdd 48 q.cntLatec 1 }) else s
    else if i.op = 0x22 then signalEff s0 c w s
    else if i.op = 0x28 then s.updSeq c (fun q => { q with wq := q.wq ++ [⟨r0.sreg (fld w 56 52), r0.sreg (fld w 51 47), fld w 15 0⟩] })
    else if i.op = 0x29 then
      let p := s.draw
      p.2.updSeq c (fun q => { q with infrag := false, cntFill := satAdd 48 q.cntFill (Config.cycles p.1) })
    else if i.op = 0x2B then s.updSeq c (fun q => { q with wmode := bitOf w 56 })
    else if i.op = 0x31 then
      s.updRegs c (fun r => { r with vs := vsClear r.vs w })
    else s

/-- The address of the bundle after this one: the branch target, the main program's bundle after `WEND`, or the next (R150, R159). -/
def nextAddr (s0 : State) (c : Nat) (i : SlotI) : Addr :=
  let q := (s0.core c).seq
  let r := (s0.core c).r
  let target : Addr := BitVec.ofInt 48 ((q.baddr.toNat : Int) + 32 * signed 32 (fld i.w 31 0))
  if i.op = 0x18 then target
  else if i.op = 0x19 && brCond (fld i.w 41 39) (sA r i.w) (sB r i.w) then target
  else if i.op = 0x29 then q.raddr
  else q.baddr + 32

end Sys2Proof.Machine
end

