-- ==== Sys2Proof/Machine/Issue.lean ====
section
/-!
DEFINITION. The sequencer (R97 to R103, R156 to R163): how the slots given to a core form a bundle, when a bundle waits, is
rejected or issues, and how fragments run at a wait.
-/

namespace Sys2Proof.Machine

open Sys2Proof

/-- The slot of kind k in a bundle; a slot not given is NOP. -/
def slotOf (b : List SlotI) (k : Nat) : SlotI := (b.find? (fun i => i.k == k)).getD ⟨k, 0, 0⟩

/-- The bundle's slots in the order M, V, X, S. -/
def slots4 (b : List SlotI) : List SlotI := (List.range 4).map (slotOf b)

/-- W mode as the bundle's slots are checked under it: a `WMODE` with `ON` 1 reserves the bank from its own bundle onward (R156). -/
def wmOf (s : State) (c : Nat) (b : List SlotI) : Bool :=
  let i := slotOf b 3
  (s.core c).seq.wmode || (!slotIllegal i && decide (i.op = 0x2B) && bitOf i.w 56)

/-- Two slots write one scalar register: `VEXT` and the S slot (R102). -/
def writeClash (s : State) (c : Nat) (b : List SlotI) : Bool :=
  let v := slotOf b 1
  let x := slotOf b 3
  decide (v.op = 0x2A) && (match sResult s c x.op x.w with | some (d, _) => d == fld v.w 51 47 | none => false)

/-- The checks of a slot's own unit at issue, under W mode `on` for what a control block names (R156). -/
def unitCheck (s : State) (c : Nat) (on : Bool) (i : SlotI) : Option Nat :=
  match i.k with
  | 0 => mCheck s c on i
  | 1 => vCheck s c i
  | 2 => xCheck s c i
  | _ => sCheck s c (s.core c).seq.wmode i

/-- The condition a slot breaks at issue, if any (R99, R102, R157 and the slot's own checks): a protection violation before any other
(R162). An illegal slot names nothing that its unit could check. [DEDUCED: log 30] -/
def slotCheck (s : State) (c : Nat) (b : List SlotI) (i : SlotI) : Option Nat :=
  if slotIllegal i then some 0x8514
  else if i.op = 0 then none
  else
    let on := wmOf s c b
    let fr := (s.core c).seq.infrag
    if unitCheck s c on i == some 0x8201 then some 0x8201
    else if decide (i.k = 1) && writeClash s c b then some 0x8514
    else if bankConflict on fr (slotRes i) || (on && fr && fragForbidden i) then some 0x851D
    else unitCheck s c on i

/-- Whether a bundle waits in an M or X slot (R105, R144, R149). -/
def bundleStalls (s : State) (c : Nat) (b : List SlotI) : Bool :=
  let m := slotOf b 0
  let x := slotOf b 2
  (!slotIllegal m && mWaits s c m) || (!slotIllegal x && xWaits s c x)

/-- The conditions broken, slot by slot. -/
def bundleRejs (s : State) (c : Nat) (b : List SlotI) : List (Nat × Nat) :=
  (slots4 b).filterMap (fun i => (slotCheck s c b i).map (fun e => (i.k, e)))

/-- The event of R162: a protection violation if any slot has one, otherwise the first slot's. -/
def pickRej (l : List (Nat × Nat)) : Option (Nat × Nat) :=
  match l.find? (fun p => p.2 == 0x8201) with
  | some p => some p
  | none => l.head?

/-- The bytes that a slot reads at issue: of its scratchpad, and the scale entry of a conversion (R210, R231, R243). -/
def slotReads (s : State) (c : Nat) (i : SlotI) : List (Nat × Nat) :=
  let r := (s.core c).r
  let w := i.w
  let at_ := fun (n k : Nat) => [(spBase c + (r.sreg n).toNat, k)]
  let lines := fun (h : Half) => h.src.flatMap (fun l => l.map (fun x => (64 * x, 64)))
  let d := s.line (spBase c + (r.sreg (fld w 50 46)).toNat)
  let entry := fun (t : Line) => if fmtIsEs (tdFmt t) then [(scaleEntry s (tdId t), 256)] else []
  match i.k with
  | 0 =>
    if i.op = 0x01 then lines (loadHalf s (r.tdesc (fld w 55 52)) (r.gen (fld w 51 49)) (gPos (r.gen (fld w 51 49))) (s.width c) (fld w 48 41))
    else if i.op = 0x02 then
      lines (loadHalf s (r.tdesc (fld w 51 48)) (r.gen (fld w 47 45)) (gPos (r.gen (fld w 47 45))) (32 * (arraysOf (fld w 55 52)).length) (fld w 44 37))
    else if i.op = 0x05 then at_ (fld w 50 46) 64 ++ (if dcbCscale d then [(spBase c + dcbCsOff d, 4 * s.width c)] else []) ++
      (if dcbBias d then [(spBase c + dcbBiasOff d, 4 * s.width c)] else []) ++
      (dcbPlaces d).flatMap (fun b => entry (r.tdesc (dcbT d b)))
    else if i.op = 0x06 && bitOf w 52 then at_ (fld w 51 47) 5184
    else if i.op = 0x07 then at_ (fld w 51 47) (if (s.byte (spBase c + (r.sreg (fld w 51 47)).toNat)).toNat = 1 then 10304 else 5184)
    else []
  | 1 =>
    if i.op = 0x30 then [(spBase c + vOff r w, 256)]
    else if i.op = 0x34 then [0, 1].flatMap (fun k =>
      let t := r.tdesc (fld w 23 20)
      let a := blkAddr t ((r.sreg (fld w 28 24)).toNat / 32 + k)
      [(a.1, blockBytes (tdFmt t)), (a.2, 1)])
    else if i.op = 0x35 then entry (r.tdesc (fld w 23 20))
    else []
  | 2 => if i.op = 0x01 then at_ (fld w 52 48) 64 else if i.op = 0x02 then at_ (fld w 53 49) 64 else if 6 ≤ i.op then at_ (fld w 56 52) 64 else []
  | _ => if i.op = 0x10 then [(spBase c + sOff r w, 8)] else []

/-- A slot's effect, with what its smaller writes find charged to its owner (R232, R243), or where what it reads is uncorrectable the event of that
in its place (R164, R236, R243). -/
def slotOr (s0 : State) (c : Nat) (i : SlotI) (f : State → State) (s : State) : State :=
  if s0.sp.err.isEmpty && s0.ecc.isEmpty then f s
  else match (slotReads s0 c i).findSome? (fun p => s0.memUe p.1 p.2) with
    | some x => s.raiseUe x (s0.ownerOfCore c)
    | none =>
      let t := f s
      if t.sp.notes.length = s.sp.notes.length && t.sp.words.length = s.sp.words.length then t else drainFor (s0.ownerOfCore c) t

/-- The corrections that a bundle's reads bring, before it issues (R243). -/
def bundleNote (s : State) (c : Nat) (b : List SlotI) : State :=
  if s.sp.err.isEmpty && s.ecc.isEmpty then s
  else ((slots4 b).flatMap (slotReads s c)).foldl (fun s p => s.readNote p.1 p.2) s

/-- The effects of a bundle that issues: every slot reads the state before it, in the order M, V, X, S (R101). [DEDUCED: log 31] -/
def bundleEff (s0 : State) (c : Nat) (b : List SlotI) : State :=
  let s1 := slotOr s0 c (slotOf b 0) (mEff s0 c (slotOf b 0)) s0
  let s2 := slotOr s0 c (slotOf b 1) (vEff s0 c (slotOf b 1)) s1
  let s3 := slotOr s0 c (slotOf b 2) (xEff s0 c (slotOf b 2)) s2
  slotOr s0 c (slotOf b 3) (sEff s0 c (slotOf b 3)) s3

/-- The slots of a 256-bit bundle (R97): M in bits [63:0], V in [127:64], X in [191:128], S in [255:192]; each with its opcode in bits
[63:57] and its operand bits in [56:0] (R99). -/
def bundleSlots (b : BitVec 256) : List SlotI :=
  (List.range 4).map (fun k => ⟨k, bitsOf b (64 * k + 63) (64 * k + 57), BitVec.ofNat 57 (bitsOf b (64 * k + 56) (64 * k))⟩)

/-- The bundle that 32 bytes of memory hold, least significant byte first (R97). -/
def bundleAt (s : State) (a : Nat) : List SlotI := bundleSlots (BitVec.ofNat 256 (s.rd a 32))

/-- Whether a bundle address lies in a place of R98: aligned, in GDDR7 below the EDF region or in the core's own scratchpad. [DESIGN CHOICE: log 35] -/
def fetchOk (s : State) (c : Nat) (a : Addr) : Bool :=
  decide (a.toNat % 32 = 0) && (decide (a.toNat + 32 ≤ s.edfBase) || inSp c a.toNat 32)

/-- Go to a bundle address; one outside the places of R98 freezes the core there. [DEDUCED: log 29] -/
def gotoAddr (c : Nat) (a : Addr) (s : State) : State :=
  let s1 := s.updSeq c (fun q => { q with baddr := a })
  if fetchOk s c a then s1 else rejectAt c 0x8201 0 0 a s1

/-- A core ends its part of a dispatch: its resident tag becomes the kernel's weight set (R355). -/
def dispatchLeft (c : Nat) (s : State) : State :=
  match s.u.que.disp.find? (fun d => d.left.contains c) with
  | none => s
  | some d => (s.updCore c (fun k => { k with tag := BitVec.ofNat 64 d.wset })).updQue (fun t => { t with
      disp := t.disp.map (fun e => if e.left.contains c then { e with left := e.left.filter (fun x => x != c), stop := s.course.toNat } else e) })

/-- A core that has issued `END` becomes idle once its DMA queues are empty and its requests complete (R357). -/
def endCheck (c : Nat) (s : State) : State :=
  let k := s.core c
  if k.seq.ending && k.seq.run == .running && k.reqs.isEmpty &&
      (List.range 4).all (fun q => (k.dmaq q).xs.isEmpty) then
    dispatchLeft c ((s.updSeq c (fun q => { q with run := .idle, ending := false, q := [] })).idleNow c)
  else s

/-- Whether a core may issue: it is not frozen, halted or stopped, and no wake of it waits (R457). -/
def canIssue (s : State) (c : Nat) : Bool :=
  let q := (s.core c).seq
  !q.frozen && !q.ending && !s.stopped && coreAwake s c && (q.run == .running || q.run == .waiting)

/-- A `WAIT` or `WAITC`. -/
def waitOp (i : SlotI) : Bool := i.op = 0x20 || i.op = 0x21

/-- The main program's bundle comes back to the head after `WEND` (R160): one that waits at a `WAIT` or `WAITC` had found it unmet. -/
def popMain (c : Nat) (s : State) : State :=
  s.updSeq c (fun q => match q.main with
    | some b => { q with q := b :: q.q, main := none, stalled := true, unmet := waitOp (slotOf b 3) }
    | none => q)

/-- A bundle issues: its effects, then the next address (R100, R150). After an `END` nothing is fetched there. -/
def issueBundle (c : Nat) (b : List SlotI) (s : State) : State :=
  let i := slotOf b 3
  let st := (s.core c).seq.unmet && waitOp i
  let s1 := (bundleEff (bundleNote s c b) c b).updSeq c (fun q => { q with run := if q.run == .halted then .halted else .running, stalled := false, unmet := false })
  let p := s1.draw
  let s2 := if st then p.2.updSeq c (fun q => { q with cntStall := satAdd 48 q.cntStall (Config.cycles p.1) }) else s1
  let s3 := if (s2.core c).seq.run == .halted || i.op = 0x1A then s2.updSeq c (fun q => { q with baddr := nextAddr s c i })
    else gotoAddr c (nextAddr s c i) s2
  if i.op = 0x29 then popMain c (s3.mark (s.ownerOfCore c) 3)
  else if i.op = 0x1A then endCheck c s3 else s3

/-- The core decides to run the head fragment: `s24` holds the argument and `s25` the tag (R159, R160). [DEDUCED: log 32; DESIGN CHOICE: log 212] -/
def enterFragment (c : Nat) (b : List SlotI) (rest : List (List SlotI)) (s : State) : State :=
  match (s.core c).seq.wq with
  | [] => s
  | e :: wq =>
    let s1 := (s.updSeq c (fun q => { q with run := .running, main := some b, q := rest, wq, infrag := true, raddr := q.baddr, stalled := false, unmet := false })).updRegs c
      (fun r => (r.setS 24 e.arg).setS 25 (BitVec.ofNat 64 e.tag))
    if e.addr.toNat < 2 ^ 48 then gotoAddr c (BitVec.ofNat 48 e.addr.toNat) (s1.mark (s.ownerOfCore c) 2)
    else rejectAt c 0x8201 0 0 (BitVec.ofNat 48 e.addr.toNat) s1

/-- What the head bundle of a core's queue can do now. -/
inductive Next where
  | none
  | wait
  | go
  | frag
  | dead
  deriving DecidableEq, Repr

def headNext (s : State) (c : Nat) (b : List SlotI) : Next :=
  let q := (s.core c).seq
  let i := slotOf b 3
  if slotIllegal i then (if bundleStalls s c b then .wait else .go)
  else match sWait s c q.stalled i with
    | .dead => .dead
    | .stall => .wait
    | .fill => if q.infrag || q.wq.isEmpty then .wait else .frag
    | .ready => if bundleStalls s c b then .wait else .go

/-- Give bundle b, the oldest of core c, its turn; `rest` waits behind it. -/
def turn (c : Nat) (b : List SlotI) (rest : List (List SlotI)) (s : State) : State :=
  match headNext s c b with
  | .go =>
    match pickRej (bundleRejs s c b) with
    | some (k, e) =>
      let others := ((bundleRejs s c b).filter (fun p => p.1 != k)).foldl (fun a p => a + 2 ^ p.1) 0
      rejectAt c e k others (s.core c).seq.baddr s
    | none => issueBundle c b (if (s.core c).seq.q.isEmpty then s else s.updSeq c (fun q => { q with q := rest }))
  | .dead => rejectAt c 0x851B 3 0 (s.core c).seq.baddr s
  | .frag => enterFragment c b rest s
  | _ =>
    let w := sWait s c (s.core c).seq.stalled (slotOf b 3)
    s.updSeq c (fun q => { q with run := .waiting, q := b :: rest, stalled := true
                                  unmet := q.unmet || (waitOp (slotOf b 3) && (w == .stall || w == .fill)) })

/-- Whether the oldest bundle of core c can take its turn now. -/
def canTurn (s : State) (c : Nat) : Bool :=
  canIssue s c && (match (s.core c).seq.q with
    | [] => false
    | b :: _ => match headNext s c b with
      | .wait => false
      | .none => false
      | _ => true)

/-- Let waiting bundles take their turns, lowest core first, until none can (fuel bounds the turns). -/
def settleN : Nat → State → State
  | 0, s => s
  | n + 1, s =>
    match (s.cores.map (fun e => e.1)).find? (fun c => canTurn s c) with
    | none => s
    | some c =>
      match (s.core c).seq.q with
      | [] => s
      | b :: rest => settleN n (turn c b rest s)

/-- The turns that waiting bundles and deferred fragments can take: an upper bound. -/
def turnsLeft (s : State) : Nat :=
  s.cores.foldl (fun a e => a + 4 * (e.2.seq.q.length + e.2.seq.wq.length) + 4) 4

def settle (s : State) : State := settleN (turnsLeft s) s

/-- A slot of a bundle is given to core c; `more` says another slot of the same bundle follows. The bundle takes its turn
when it is whole, behind the bundles that wait (R97, R100). A core that is not running issues nothing. [DESIGN CHOICE: log 11] -/
def give (c : Nat) (more : Bool) (i : SlotI) (s : State) : State :=
  if !canIssue s c then s
  else if more then s.updSeq c (fun q => { q with openB := q.openB ++ [i] })
  else
    let b := (s.core c).seq.openB ++ [i]
    let s1 := if (s.core c).seq.openB.isEmpty then s else s.updSeq c (fun q => { q with openB := [] })
    if (s.core c).seq.q.isEmpty then settle (turn c b [] s1)
    else s1.updSeq c (fun q => { q with q := q.q ++ [b] })

/-- A command to core c; a number at or above the part's cores names no unit. -/
def onCore (c : Nat) (s : State) (f : State → State) : Host.Outcome State Fault Refusal :=
  if c < s.nCores then .next (f s) else .refused .noSuchUnit

/-- One slot command. -/
def issue (c : Nat) (more : Bool) (k op : Nat) (w : BitVec 57) (s : State) : Host.Outcome State Fault Refusal :=
  onCore c s (give c more ⟨k, op, w⟩)

end Sys2Proof.Machine
end

