-- ==== Sys2Proof/Machine/Preempt.lean ====
section
/-!
DEFINITION. Pre-emption (R165 to R168): the save area of a core, its saving and its restoring.
-/

namespace Sys2Proof.Machine

open Sys2Proof

/-- CORE_SAVE_BASE and CORE_SAVE_BANKS of core c (R170). -/
def saveBase (s : State) (c : Nat) : Nat := bitsOf (s.reg 0 (coreOff c 0x118)) 47 20 * 0x100000
def saveBanks (s : State) (c : Nat) : Nat := bitsOf (s.reg 0x0000FFFFFFFFFFFF (coreOff c 0x120)) 47 0

/-- Bytes of a save area (R166). -/
def saveSize : Nat := 0x1900000

/-- The save area lies wholly in populated GDDR7 (R168). [DEDUCED: log 44] -/
def saveAreaOk (s : State) (c : Nat) : Bool := decide (saveBase s c + saveSize ≤ s.gddrTop)

/-- A save or restore is refused: `DONE` is left clear and 0x851E SAVE_AREA_INVALID raised (R168). -/
def saveRefuse (c : Nat) (s : State) : State :=
  (s.updSeq c (fun q => { q with done := false })).raise 0x851E (0x1000 + c) (s.ownerOfCore c) (BitVec.ofNat 64 (s.core c).seq.baddr.toNat) 0

/-- The parks and resumes of a core that is being saved end (R165, R166): a slot is then FREE, OPEN, SEALED or DRAINING. -/
def skQuiesce (k : Skein) : Skein :=
  match k.st with
  | .parking => {}
  | .resuming b => { k with st := if b then .sealed else .opened }
  | _ => k

/-- A core quiesces (R165): issue stops at the bundle boundary, a wait that has not completed is abandoned and issues again on restore,
its transfers stop, its parks and resumes end, and its Swatch checks are abandoned (R382). -/
def quiesce (c : Nat) (s : State) : State :=
  let s1 := (List.range 4).foldl (fun s q => dmaStop c q s) (abandonChecks c s)
  (s1.updMat c (fun m => { m with sk := m.sk.map (fun e => (e.1, skQuiesce e.2)), pend := m.pend.filter (fun k => (m.skein k).st == .draining) })).updSeq c
    (fun q => { q with run := .quiescing, held := q.run, stalled := false, unmet := false, openB := [], q := [], main := none, done := false })

/-- `CORE_PREEMPT.REQ` (R165). A save area that is not valid is refused and the core runs on (R168). -/
def preemptReq (c : Nat) (s : State) : State :=
  let q := (s.core c).seq
  if q.run == .quiescing || q.run == .saved || q.run == .restoring then s
  else if !saveAreaOk s c then saveRefuse c s
  else quiesce c s

/-- The save-area header of a core that has quiesced (R166). -/
def saveHeader (s : State) (c : Nat) : List Byte :=
  let q := (s.core c).seq
  let banks := saveBanks s c
  leBytes 4 0x5A534156 ++ leBytes 2 1 ++ leBytes 1 (s.width c) ++
  leBytes 1 ((if q.infrag then 1 else 0) + (if q.wmode then 2 else 0) + (if q.held == .halted then 4 else 0) + (if banks = 2 ^ 48 - 1 then 0 else 8)) ++
  leBytes 8 q.baddr.toNat ++ leBytes 8 (if q.infrag then q.raddr.toNat else 0) ++ leBytes 8 s.course.toNat ++ leBytes 6 banks

/-! ### What the tables of R166 leave to the device [DESIGN CHOICE: log 42] -/

/-- Write the listed values of a register table at an area offset, each of n bytes. -/
def saveTable {w : Nat} (a n : Nat) (m : SMap (BitVec w)) (s : State) : State :=
  m.foldl (fun s e => s.wr (a + n * e.1) n e.2.toNat) s

def saveSkein (W a : Nat) (k : Skein) (s : State) : State :=
  (s.putBytes a (saveBuf k W)).wr (a + 7) 1 k.st.code

/-- The n-th 64-byte entry that stands for a transfer: no two share their low half, whose bit 0 tells an entry from an unused one. -/
def dmaEntryOf (n : Nat) : Line :=
  BitVec.ofNat 512 ((Config.dmaEntry n).toNat / 2 ^ 128 * 2 ^ 128 + (2 * (n % 2 ^ 127) + 1))

/-- A queued transfer's entry: a value that stands for the transfer with its progress. -/
def saveXfer (a : Nat) (x : Xfer) (s : State) : State :=
  let p := s.draw
  let e := dmaEntryOf p.1
  { p.2.wr a 64 e.toNat with images := SMap.set e.toNat x p.2.images }

/-- The transfer that an entry stands for. -/
def restXfer (s : State) (a : Nat) : Option Xfer :=
  let e := s.line a
  if e = 0 then none
  else some ((SMap.find e.toNat s.images).getD
    { kind := bitsOf (Config.dmaField e 2) 2 0, transpose := bitsOf (Config.dmaField e 2) 2 0 == 5, ts := Config.dmaField e 0, td := Config.dmaField e 1
      so := bitsOf (Config.dmaField e 2) 127 64 |> BitVec.ofNat 64, dst := bitsOf (Config.dmaField e 2) 191 128 |> BitVec.ofNat 64
      sn := bitsOf (Config.dmaField e 2) 255 192 |> BitVec.ofNat 64, sem := bitsOf (Config.dmaField e 2) 13 8, pos := bitsOf (Config.dmaField e 2) 319 256
      done := bitOf (Config.dmaField e 2) 16 })

/-- The tag of a half in 64 bytes: format, T, K blocks, tensor ID (R107). -/
def halfTag (h : Half) : List Byte :=
  leBytes 1 h.fmt ++ leBytes 1 (unsign 8 h.t) ++ leBytes 2 h.blocks.length ++ leBytes 4 h.tid

/-- The elements of a block in a half's element store: ES6 unpacked, one per byte, other formats packed (R107). -/
def storeBytes (code : Nat) : Nat := if code = 8 then 64 else if code = 4 then 16 else 32
def storeElems (code : Nat) (b : Block) : List Byte :=
  if code = 8 then b.el.flatMap (fun x => leBytes 2 x) else if code = 4 then blockData 4 b else b.el.flatMap (fun x => leBytes 1 x)
def loadElems (code : Nat) (l : List Byte) : List Nat :=
  let v := leNat l
  let w := storeBytes code / 4
  (List.range 32).map (fun i => (v >>> (w * i)) % 2 ^ w)

/-- A half of `els` element bytes at an area offset: the element store, K block by K block and in each its columns or rows, then a byte
for each block. -/
def saveHalf (tag a els : Nat) (h : Half) (s : State) : State :=
  let s1 := s.putBytes tag (halfTag h)
  let s2 := (List.range h.blocks.length).foldl (fun s k => (List.range (nth [] h.blocks k).length).foldl (fun s j =>
    let b := nth (zeroBlock 0) (nth [] h.blocks k) j
    (s.putBytes (a + storeBytes h.fmt * (32 * k + j)) (storeElems h.fmt b)).wr (a + els + 32 * k + j) 1
      ((if b.z then 128 else 0) + (if b.l then 64 else 0) + unsign 6 b.shift)) s) s1
  s2

def restHalf (s : State) (tag a els n : Nat) : Half :=
  let fmt := s.rd tag 1
  { fmt, t := signed 8 (s.rd (tag + 1) 1), tid := s.rd (tag + 4) 4, known := false
    blocks := (List.range (s.rd (tag + 2) 2)).map (fun k => (List.range n).map (fun j =>
      let y := s.byte (a + els + 32 * k + j)
      ⟨y.getLsbD 7, y.getLsbD 6, signed 6 y.toNat, loadElems fmt (s.bytes (a + storeBytes fmt * (32 * k + j)) (storeBytes fmt))⟩)) }

/-- A drain carry: the stream, the column count and whether values wait, then 32 rows of 31 values (R83, R166). -/
def saveCarry (a : Nat) (k : Carry) (s : State) : State :=
  (List.range 32).foldl (fun s i => s.putBytes (a + 64 + 155 * i) (af40Bytes (nth [] k.vals i)))
    (s.putBytes a (leBytes 1 k.stream ++ leBytes 1 k.cols ++ leBytes 1 (if k.vals.isEmpty then 0 else 1)))

def restCarry (s : State) (a : Nat) : Carry :=
  { stream := s.rd a 1, cols := s.rd (a + 1) 1
    vals := if s.rd (a + 2) 1 = 0 then [] else (List.range 32).map (fun i =>
      (List.range (s.rd (a + 1) 1)).map (fun j => BitVec.ofNat 40 (s.rd (a + 64 + 155 * i + 5 * j) 5))) }

/-- Whether the saved core had issued `END`, and whether it was idle: the last byte of the matrix queues' region. -/
def saveEnd (q : CoreSeq) : Nat := (if q.ending then 1 else 0) + (if q.held == .idle then 2 else 0)

/-- The parts of a save area at b that a save of core c writes: everything but the scratchpad banks that are not selected (R166). -/
def saveSpans (b banks : Nat) : List (Nat × Nat) :=
  (b, 0x100000) :: ((List.range 48).filter (fun i => Nat.testBit banks i)).map (fun i => (b + 0x100000 + i * 0x80000, 0x80000))

/-- Save core c, which has quiesced: its state and the selected scratchpad banks to a save area (R165, R166). A pending cast-off's entry
holds its skein and the copy of its control block. -/
def saveCoreAt (b c : Nat) (s0 : State) : State := State.asOne (saveSpans b (saveBanks s0 c)) (fun s =>
  let k := s.core c
  let W := s.width c
  let s1 := (s.zero b 0x100000).putBytes b (saveHeader s c)
  let s2 := ((saveTable (b + 0x100) 8 k.r.s s1) |> saveTable (b + 0x200) 8 k.r.p).wr (b + 0x240) 1 (vsBits k.r.vs)
  let s3 := k.r.sem.foldl (fun s e => s.wr (b + 0x300 + 4 * e.1) 4 e.2) s2
  let s4 := saveTable (b + 0x400) 64 k.r.t s3 |> saveTable (b + 0x800) 64 k.r.g
  let s5 := (List.range k.seq.wq.length).foldl (fun s i =>
    let e := nth ⟨0, 0, 0⟩ k.seq.wq i
    (((s.wr (b + 0xA00 + 32 * i) 8 e.addr.toNat).wr (b + 0xA08 + 32 * i) 8 e.arg.toNat).wr (b + 0xA10 + 32 * i) 2 e.tag).wr (b + 0xA1F + 32 * i) 1 1) s4
  let s6 := (List.range 4).foldl (fun s q => ((k.dmaq q).xs.zipIdx).foldl (fun s e => saveXfer (b + 0x1200 + 1024 * q + 64 * e.2) e.1 s) s) s5
  let s7 := (k.m.pend.zipIdx).foldl (fun s e => (s.wr (b + 0x2840 + 128 * e.2) 64 (SMap.get 0 e.1 k.m.dcbs).toNat).wr (b + 0x2800 + 128 * e.2) 1 (128 + e.1)) s6
  let s8 := ((k.reqs.zipIdx).foldl (fun s e => s.wr (b + 0x3600 + 8 * e.2) 8 (e.1 + 1)) s7).wr (b + 0x31FF) 1 (saveEnd k.seq)
  let s9 := saveTable (b + 0x4000) 256 k.r.v s8
  let s10 := (List.range 16).foldl (fun s i => saveSkein W (b + 0xD000 + 10304 * i) (k.m.skein i) s) s9
  let s11 := k.m.carry.foldl (fun s e => saveCarry (b + 0x8000 + 5120 * e.1) e.2 s) s10
  let s12 := (List.range 2).foldl (fun s h => saveHalf (b + 0x3200 + 64 * h) (b + 0x40000 + 69632 * h) 0x10000 (k.m.whalf h) s) s11
  let s13 := (List.range 8).foldl (fun s h => saveHalf (b + 0x3280 + 64 * h) (b + 0x62000 + 34816 * h) 0x8000 (k.m.fhalf (h / 2) (h % 2)) s) s12
  (List.range 48).foldl (fun s i =>
    if Nat.testBit (saveBanks s c) i then s.copyMem (spBase c + i * 0x80000) (b + 0x100000 + i * 0x80000) 0x80000 else s) s13) s0

/-- Save core c to its own save area. -/
def saveCore (c : Nat) (s : State) : State := saveCoreAt (saveBase s c) c s

/-- A save of core c into an area at b would write a declared master or state range, or a queue descriptor (R186, R350). -/
def saveHits (s : State) (b c : Nat) : Bool :=
  (saveSpans b (saveBanks s c)).any (fun p => hitsMaster s none p.1 p.2 || hitsQueues s none p.1 p.2)

/-- The save of core c is a forbidden write (R186): nothing is written, and the core, back as the request found it, is frozen. -/
def saveForbid (b c : Nat) (s : State) : State :=
  violate (.core c) b saveSize true (s.updSeq c (fun q => { q with run := q.held, done := false }))

/-- The save completes: `DONE` is set and the core is saved (R165). It waits while its area's channels do not take accesses (R234, R235). [DEDUCED: log 192] -/
def saveComplete (c : Nat) (s : State) : State :=
  if (s.core c).seq.run == .quiescing then
    if saveHits s (saveBase s c) c then saveForbid (saveBase s c) c s
    else if (saveSpans (saveBase s c) (saveBanks s c)).any (fun p => memBusy s p.1 p.2) then s
    else (saveCore c s).updSeq c (fun q => { q with run := .saved, done := true })
  else s

/-- Whether a restore of core c from its save area is accepted (R168). -/
def restoreOk (s : State) (c : Nat) : Bool :=
  let b := saveBase s c
  saveAreaOk s c && decide (s.rd b 4 = 0x5A534156) && decide (s.rd (b + 4) 2 = 1) && decide (s.rd (b + 6) 1 = s.width c) &&
    (s.core c).seq.run == .idle

/-- `CORE_PREEMPT.RESTORE` (R167, R168). -/
def preemptRestore (c : Nat) (s : State) : State :=
  if restoreOk s c then s.updSeq c (fun q => { q with run := .restoring, done := false }) else saveRefuse c s

/-- Read a table of n registers of w bits at an area offset. -/
def restTable (w : Nat) (s : State) (a n bytes : Nat) : SMap (BitVec w) :=
  (List.range n).map (fun i => (i, BitVec.ofNat w (s.rd (a + bytes * i) bytes)))

def restSkein (s : State) (a W : Nat) : Skein :=
  let st : SkSt := match (s.byte (a + 7)).toNat with | 1 => .opened | 2 => .sealed | 3 => .draining | _ => .free
  { st, scale := signed 16 (s.rd (a + 2) 2), cnt := s.rd (a + 4) 2 % 128, valid := bitOf (s.byte (a + 6)) 0
    blocks := s.rd (a + 8) 8, part := s.rdTile (a + 64) W, total := s.rdTile (a + 5184) W, parked := true }

/-- Set core c's state from a save area; scratchpad banks not in the image's `BANKS` become zero, and the resident tag becomes 0 (R167,
R347). A core that was idle is idle again, one that was halted stays halted, and any other issues from `BADDR`. [DEDUCED: log 43] -/
def restoreCoreAt (b c : Nat) (s : State) : State :=
  let W := s.width c
  let fl := s.byte (b + 7)
  let banks := s.rd (b + 32) 6
  let k := s.core c
  let vs := s.byte (b + 0x240)
  let r : CoreRegs :=
    { s := restTable 64 s (b + 0x100) 32 8, v := restTable 2048 s (b + 0x4000) 64 256, p := restTable 64 s (b + 0x200) 8 8
      vs := ⟨bitOf vs 0, bitOf vs 1, bitOf vs 2, bitOf vs 3⟩, t := restTable 512 s (b + 0x400) 16 64, g := restTable 512 s (b + 0x800) 8 64
      sem := (List.range 64).map (fun i => (i, s.rd (b + 0x300 + 4 * i) 4)) }
  let pend := ((List.range 8).map (fun i => s.rd (b + 0x2800 + 128 * i) 1)).filter (fun x => decide (128 ≤ x))
  let m : CoreMat := { k.m with
    sk := (List.range 16).map (fun i => (i, restSkein s (b + 0xD000 + 10304 * i) W))
    wh := (List.range 2).map (fun h => (h, restHalf s (b + 0x3200 + 64 * h) (b + 0x40000 + 69632 * h) 0x10000 W))
    fh := (List.range 8).map (fun h => (h, restHalf s (b + 0x3280 + 64 * h) (b + 0x62000 + 34816 * h) 0x8000 32))
    carry := (List.range 4).map (fun a => (a, restCarry s (b + 0x8000 + 5120 * a)))
    pend := pend.map (fun x => x - 128)
    dcbs := (List.range 8).filterMap (fun i =>
      let x := s.rd (b + 0x2800 + 128 * i) 1
      if 128 ≤ x then some (x - 128, s.line (b + 0x2840 + 128 * i)) else none) |> fun l => l.foldl (fun m e => SMap.setD 0 e.1 e.2 m) [] }
  let wq := ((List.range 64).filter (fun i => s.byte (b + 0xA1F + 32 * i) != 0)).map (fun i => (⟨BitVec.ofNat 64 (s.rd (b + 0xA00 + 32 * i) 8),
    BitVec.ofNat 64 (s.rd (b + 0xA08 + 32 * i) 8), s.rd (b + 0xA10 + 32 * i) 2⟩ : WEntry))
  let x := s.byte (b + 0x31FF)
  let seq : CoreSeq := { k.seq with
    run := if bitOf fl 2 then .halted else if bitOf x 1 then .idle else .running
    infrag := bitOf fl 0, wmode := bitOf fl 1, baddr := BitVec.ofNat 48 (s.rd (b + 8) 6), raddr := BitVec.ofNat 48 (s.rd (b + 16) 6)
    wq, openB := [], q := [], main := none, stalled := false, unmet := false, ending := bitOf x 0, frozen := false, done := true }
  let dma := (List.range 4).map (fun q => (q, ({ xs := (List.range 16).filterMap (fun i => restXfer s (b + 0x1200 + 1024 * q + 64 * i)) } : DmaQ)))
  let reqs := ((List.range 32).map (fun i => s.rd (b + 0x3600 + 8 * i) 8)).filter (fun h => h != 0)
  let s1 := s.setCore c { k with r, m, seq, dma, reqs := reqs.map (fun h => h - 1), tag := 0 }
  (List.range 48).foldl (fun s i =>
    if Nat.testBit banks i then s.copyMem (b + 0x100000 + i * 0x80000) (spBase c + i * 0x80000) 0x80000
    else s.zero (spBase c + i * 0x80000) 0x80000) s1

/-- Restore core c from its own save area. -/
def restoreCore (c : Nat) (s : State) : State := restoreCoreAt (saveBase s c) c s

/-- The parts of a save area that a restore reads (R167). -/
def restSpans (s : State) (b : Nat) : List (Nat × Nat) := saveSpans b (s.rd (b + 32) 6)

/-- The restore finishes (R167), unless what it reads is uncorrectable (R236). It waits while its area's channels do not take accesses (R234,
R235). [DEDUCED: log 192] -/
def restoreComplete (c : Nat) (s : State) : State :=
  let sp := restSpans s (saveBase s c)
  if (s.core c).seq.run == .restoring && !sp.any (fun p => memBusy s p.1 p.2) then s.guardRead (s.ownerOfCore c) sp (restoreCore c) else s

end Sys2Proof.Machine
end

