-- ==== Sys2Proof/Machine/CoreCmds.lean ====
section
/-!
DEFINITION. The meanings of the slot commands and of the core-level events: each slot command gives its slot to the
sequencer of its core, which issues the bundle when it is whole (R97 to R103).
-/

namespace Sys2Proof.Machine

open Sys2Proof

/-- `NOP` (R99): opcode 0x00 in slot k does nothing; the raw word of the slot may hold an unassigned opcode or reserved bits. -/
def execNop (c : Nat) (m : Bool) (k : Nat) (w : BitVec 64) (s : State) : Host.Outcome State Fault Refusal :=
  issue c m (k % 4) (bitsOf w 63 57) (w.truncate 57) s

/-- `WLOAD` (R108): opcode 0x01 of the M slot. -/
def execWload (c : Nat) (m : Bool) (w : BitVec 57) (s : State) : Host.Outcome State Fault Refusal :=
  issue c m 0 0x01 w s

/-- `ALOAD` (R109): opcode 0x02 of the M slot. -/
def execAload (c : Nat) (m : Bool) (w : BitVec 57) (s : State) : Host.Outcome State Fault Refusal :=
  issue c m 0 0x02 w s

/-- `CASTON` (R111): opcode 0x03 of the M slot. -/
def execCaston (c : Nat) (m : Bool) (w : BitVec 57) (s : State) : Host.Outcome State Fault Refusal :=
  issue c m 0 0x03 w s

/-- `MMA` (R112): opcode 0x04 of the M slot. -/
def execMma (c : Nat) (m : Bool) (w : BitVec 57) (s : State) : Host.Outcome State Fault Refusal :=
  issue c m 0 0x04 w s

/-- `CASTOFF` (R115): opcode 0x05 of the M slot. -/
def execCastoff (c : Nat) (m : Bool) (w : BitVec 57) (s : State) : Host.Outcome State Fault Refusal :=
  issue c m 0 0x05 w s

/-- `PARK` (R119): opcode 0x06 of the M slot. -/
def execPark (c : Nat) (m : Bool) (w : BitVec 57) (s : State) : Host.Outcome State Fault Refusal :=
  issue c m 0 0x06 w s

/-- `RESUME` (R119): opcode 0x07 of the M slot. -/
def execResume (c : Nat) (m : Bool) (w : BitVec 57) (s : State) : Host.Outcome State Fault Refusal :=
  issue c m 0 0x07 w s

/-- `SPOIL` (R117): opcode 0x08 of the M slot. -/
def execSpoil (c : Nat) (m : Bool) (w : BitVec 57) (s : State) : Host.Outcome State Fault Refusal :=
  issue c m 0 0x08 w s

/-- `VADD` (R125): opcode 0x01 of the V slot. -/
def execVadd (c : Nat) (m : Bool) (w : BitVec 57) (s : State) : Host.Outcome State Fault Refusal :=
  issue c m 1 0x01 w s

/-- `VSUB` (R125): opcode 0x02 of the V slot. -/
def execVsub (c : Nat) (m : Bool) (w : BitVec 57) (s : State) : Host.Outcome State Fault Refusal :=
  issue c m 1 0x02 w s

/-- `VMUL` (R125): opcode 0x03 of the V slot. -/
def execVmul (c : Nat) (m : Bool) (w : BitVec 57) (s : State) : Host.Outcome State Fault Refusal :=
  issue c m 1 0x03 w s

/-- `VFMA` (R125): opcode 0x04 of the V slot. -/
def execVfma (c : Nat) (m : Bool) (w : BitVec 57) (s : State) : Host.Outcome State Fault Refusal :=
  issue c m 1 0x04 w s

/-- `VMIN` (R125): opcode 0x05 of the V slot. -/
def execVmin (c : Nat) (m : Bool) (w : BitVec 57) (s : State) : Host.Outcome State Fault Refusal :=
  issue c m 1 0x05 w s

/-- `VMAX` (R125): opcode 0x06 of the V slot. -/
def execVmax (c : Nat) (m : Bool) (w : BitVec 57) (s : State) : Host.Outcome State Fault Refusal :=
  issue c m 1 0x06 w s

/-- `VABS` (R125): opcode 0x07 of the V slot. -/
def execVabs (c : Nat) (m : Bool) (w : BitVec 57) (s : State) : Host.Outcome State Fault Refusal :=
  issue c m 1 0x07 w s

/-- `VNEG` (R125): opcode 0x08 of the V slot. -/
def execVneg (c : Nat) (m : Bool) (w : BitVec 57) (s : State) : Host.Outcome State Fault Refusal :=
  issue c m 1 0x08 w s

/-- `VDIV` (R124): opcode 0x09 of the V slot. -/
def execVdiv (c : Nat) (m : Bool) (w : BitVec 57) (s : State) : Host.Outcome State Fault Refusal :=
  issue c m 1 0x09 w s

/-- `VSQRT` (R124): opcode 0x0A of the V slot. -/
def execVsqrt (c : Nat) (m : Bool) (w : BitVec 57) (s : State) : Host.Outcome State Fault Refusal :=
  issue c m 1 0x0A w s

/-- `VRSQRT` (R124): opcode 0x0B of the V slot. -/
def execVrsqrt (c : Nat) (m : Bool) (w : BitVec 57) (s : State) : Host.Outcome State Fault Refusal :=
  issue c m 1 0x0B w s

/-- `VEXP` (R124): opcode 0x0C of the V slot. -/
def execVexp (c : Nat) (m : Bool) (w : BitVec 57) (s : State) : Host.Outcome State Fault Refusal :=
  issue c m 1 0x0C w s

/-- `VEXP2` (R124): opcode 0x0D of the V slot. -/
def execVexp2 (c : Nat) (m : Bool) (w : BitVec 57) (s : State) : Host.Outcome State Fault Refusal :=
  issue c m 1 0x0D w s

/-- `VLOG2` (R124): opcode 0x0E of the V slot. -/
def execVlog2 (c : Nat) (m : Bool) (w : BitVec 57) (s : State) : Host.Outcome State Fault Refusal :=
  issue c m 1 0x0E w s

/-- `VTANH` (R124): opcode 0x0F of the V slot. -/
def execVtanh (c : Nat) (m : Bool) (w : BitVec 57) (s : State) : Host.Outcome State Fault Refusal :=
  issue c m 1 0x0F w s

/-- `VSIG` (R124): opcode 0x10 of the V slot. -/
def execVsig (c : Nat) (m : Bool) (w : BitVec 57) (s : State) : Host.Outcome State Fault Refusal :=
  issue c m 1 0x10 w s

/-- `VFN` (R127): opcode 0x11 of the V slot. -/
def execVfn (c : Nat) (m : Bool) (w : BitVec 57) (s : State) : Host.Outcome State Fault Refusal :=
  issue c m 1 0x11 w s

/-- `VCMP` (R129): opcode 0x18 of the V slot. -/
def execVcmp (c : Nat) (m : Bool) (w : BitVec 57) (s : State) : Host.Outcome State Fault Refusal :=
  issue c m 1 0x18 w s

/-- `VSEL` (R125): opcode 0x19 of the V slot. -/
def execVsel (c : Nat) (m : Bool) (w : BitVec 57) (s : State) : Host.Outcome State Fault Refusal :=
  issue c m 1 0x19 w s

/-- `VIADD` (R125): opcode 0x20 of the V slot. -/
def execViadd (c : Nat) (m : Bool) (w : BitVec 57) (s : State) : Host.Outcome State Fault Refusal :=
  issue c m 1 0x20 w s

/-- `VISUB` (R125): opcode 0x21 of the V slot. -/
def execVisub (c : Nat) (m : Bool) (w : BitVec 57) (s : State) : Host.Outcome State Fault Refusal :=
  issue c m 1 0x21 w s

/-- `VAND` (R125): opcode 0x22 of the V slot. -/
def execVand (c : Nat) (m : Bool) (w : BitVec 57) (s : State) : Host.Outcome State Fault Refusal :=
  issue c m 1 0x22 w s

/-- `VOR` (R125): opcode 0x23 of the V slot. -/
def execVor (c : Nat) (m : Bool) (w : BitVec 57) (s : State) : Host.Outcome State Fault Refusal :=
  issue c m 1 0x23 w s

/-- `VXOR` (R125): opcode 0x24 of the V slot. -/
def execVxor (c : Nat) (m : Bool) (w : BitVec 57) (s : State) : Host.Outcome State Fault Refusal :=
  issue c m 1 0x24 w s

/-- `VSHL` (R125): opcode 0x25 of the V slot. -/
def execVshl (c : Nat) (m : Bool) (w : BitVec 57) (s : State) : Host.Outcome State Fault Refusal :=
  issue c m 1 0x25 w s

/-- `VSHR` (R125): opcode 0x26 of the V slot. -/
def execVshr (c : Nat) (m : Bool) (w : BitVec 57) (s : State) : Host.Outcome State Fault Refusal :=
  issue c m 1 0x26 w s

/-- `VSRA` (R125): opcode 0x27 of the V slot. -/
def execVsra (c : Nat) (m : Bool) (w : BitVec 57) (s : State) : Host.Outcome State Fault Refusal :=
  issue c m 1 0x27 w s

/-- `VCVT` (R126): opcode 0x28 of the V slot. -/
def execVcvt (c : Nat) (m : Bool) (w : BitVec 57) (s : State) : Host.Outcome State Fault Refusal :=
  issue c m 1 0x28 w s

/-- `VBCAST` (R125): opcode 0x29 of the V slot. -/
def execVbcast (c : Nat) (m : Bool) (w : BitVec 57) (s : State) : Host.Outcome State Fault Refusal :=
  issue c m 1 0x29 w s

/-- `VEXT` (R125): opcode 0x2A of the V slot. -/
def execVext (c : Nat) (m : Bool) (w : BitVec 57) (s : State) : Host.Outcome State Fault Refusal :=
  issue c m 1 0x2A w s

/-- `VPERM` (R125): opcode 0x2B of the V slot. -/
def execVperm (c : Nat) (m : Bool) (w : BitVec 57) (s : State) : Host.Outcome State Fault Refusal :=
  issue c m 1 0x2B w s

/-- `VRED` (R128): opcode 0x2C of the V slot. -/
def execVred (c : Nat) (m : Bool) (w : BitVec 57) (s : State) : Host.Outcome State Fault Refusal :=
  issue c m 1 0x2C w s

/-- `VAMAX` (R128): opcode 0x2D of the V slot. -/
def execVamax (c : Nat) (m : Bool) (w : BitVec 57) (s : State) : Host.Outcome State Fault Refusal :=
  issue c m 1 0x2D w s

/-- `VLD` (R130): opcode 0x30 of the V slot. -/
def execVld (c : Nat) (m : Bool) (w : BitVec 57) (s : State) : Host.Outcome State Fault Refusal :=
  issue c m 1 0x30 w s

/-- `VST` (R130): opcode 0x31 of the V slot. -/
def execVst (c : Nat) (m : Bool) (w : BitVec 57) (s : State) : Host.Outcome State Fault Refusal :=
  issue c m 1 0x31 w s

/-- `VDEC` (R131): opcode 0x34 of the V slot. -/
def execVdec (c : Nat) (m : Bool) (w : BitVec 57) (s : State) : Host.Outcome State Fault Refusal :=
  issue c m 1 0x34 w s

/-- `VCVTES` (R132): opcode 0x35 of the V slot. -/
def execVcvtes (c : Nat) (m : Bool) (w : BitVec 57) (s : State) : Host.Outcome State Fault Refusal :=
  issue c m 1 0x35 w s

/-- `TLD` (R143): opcode 0x01 of the X slot. -/
def execTld (c : Nat) (m : Bool) (w : BitVec 57) (s : State) : Host.Outcome State Fault Refusal :=
  issue c m 2 0x01 w s

/-- `GLD` (R143): opcode 0x02 of the X slot. -/
def execGld (c : Nat) (m : Bool) (w : BitVec 57) (s : State) : Host.Outcome State Fault Refusal :=
  issue c m 2 0x02 w s

/-- `GST` (R143): opcode 0x03 of the X slot. -/
def execGst (c : Nat) (m : Bool) (w : BitVec 57) (s : State) : Host.Outcome State Fault Refusal :=
  issue c m 2 0x03 w s

/-- `DMA` (R144): opcode 0x04 of the X slot. -/
def execDma (c : Nat) (m : Bool) (w : BitVec 57) (s : State) : Host.Outcome State Fault Refusal :=
  issue c m 2 0x04 w s

/-- `DMAT` (R147): opcode 0x05 of the X slot. -/
def execDmat (c : Nat) (m : Bool) (w : BitVec 57) (s : State) : Host.Outcome State Fault Refusal :=
  issue c m 2 0x05 w s

/-- `SEND` (R149): opcode 0x06 of the X slot. -/
def execSend (c : Nat) (m : Bool) (w : BitVec 57) (s : State) : Host.Outcome State Fault Refusal :=
  issue c m 2 0x06 w s

/-- `RECV` (R149): opcode 0x07 of the X slot. -/
def execRecv (c : Nat) (m : Bool) (w : BitVec 57) (s : State) : Host.Outcome State Fault Refusal :=
  issue c m 2 0x07 w s

/-- `CHAIN` (R149): opcode 0x08 of the X slot. -/
def execChain (c : Nat) (m : Bool) (w : BitVec 57) (s : State) : Host.Outcome State Fault Refusal :=
  issue c m 2 0x08 w s

/-- `SADD` (R150): opcode 0x01 of the S slot. -/
def execSadd (c : Nat) (m : Bool) (w : BitVec 57) (s : State) : Host.Outcome State Fault Refusal :=
  issue c m 3 0x01 w s

/-- `SSUB` (R150): opcode 0x02 of the S slot. -/
def execSsub (c : Nat) (m : Bool) (w : BitVec 57) (s : State) : Host.Outcome State Fault Refusal :=
  issue c m 3 0x02 w s

/-- `SMUL` (R150): opcode 0x03 of the S slot. -/
def execSmul (c : Nat) (m : Bool) (w : BitVec 57) (s : State) : Host.Outcome State Fault Refusal :=
  issue c m 3 0x03 w s

/-- `SAND` (R150): opcode 0x04 of the S slot. -/
def execSand (c : Nat) (m : Bool) (w : BitVec 57) (s : State) : Host.Outcome State Fault Refusal :=
  issue c m 3 0x04 w s

/-- `SOR` (R150): opcode 0x05 of the S slot. -/
def execSor (c : Nat) (m : Bool) (w : BitVec 57) (s : State) : Host.Outcome State Fault Refusal :=
  issue c m 3 0x05 w s

/-- `SXOR` (R150): opcode 0x06 of the S slot. -/
def execSxor (c : Nat) (m : Bool) (w : BitVec 57) (s : State) : Host.Outcome State Fault Refusal :=
  issue c m 3 0x06 w s

/-- `SSHL` (R150): opcode 0x07 of the S slot. -/
def execSshl (c : Nat) (m : Bool) (w : BitVec 57) (s : State) : Host.Outcome State Fault Refusal :=
  issue c m 3 0x07 w s

/-- `SSHR` (R150): opcode 0x08 of the S slot. -/
def execSshr (c : Nat) (m : Bool) (w : BitVec 57) (s : State) : Host.Outcome State Fault Refusal :=
  issue c m 3 0x08 w s

/-- `SSRA` (R150): opcode 0x09 of the S slot. -/
def execSsra (c : Nat) (m : Bool) (w : BitVec 57) (s : State) : Host.Outcome State Fault Refusal :=
  issue c m 3 0x09 w s

/-- `SADDI` (R150): opcode 0x0A of the S slot. -/
def execSaddi (c : Nat) (m : Bool) (w : BitVec 57) (s : State) : Host.Outcome State Fault Refusal :=
  issue c m 3 0x0A w s

/-- `SLI` (R150): opcode 0x0B of the S slot. -/
def execSli (c : Nat) (m : Bool) (w : BitVec 57) (s : State) : Host.Outcome State Fault Refusal :=
  issue c m 3 0x0B w s

/-- `SLUI` (R150): opcode 0x0C of the S slot. -/
def execSlui (c : Nat) (m : Bool) (w : BitVec 57) (s : State) : Host.Outcome State Fault Refusal :=
  issue c m 3 0x0C w s

/-- `SLD` (R150): opcode 0x10 of the S slot. -/
def execSld (c : Nat) (m : Bool) (w : BitVec 57) (s : State) : Host.Outcome State Fault Refusal :=
  issue c m 3 0x10 w s

/-- `SST` (R150): opcode 0x11 of the S slot. -/
def execSst (c : Nat) (m : Bool) (w : BitVec 57) (s : State) : Host.Outcome State Fault Refusal :=
  issue c m 3 0x11 w s

/-- `BR` (R150): opcode 0x18 of the S slot. -/
def execBr (c : Nat) (m : Bool) (w : BitVec 57) (s : State) : Host.Outcome State Fault Refusal :=
  issue c m 3 0x18 w s

/-- `BRC` (R150): opcode 0x19 of the S slot. -/
def execBrc (c : Nat) (m : Bool) (w : BitVec 57) (s : State) : Host.Outcome State Fault Refusal :=
  issue c m 3 0x19 w s

/-- `END` (R150): opcode 0x1A of the S slot. -/
def execCoreEnd (c : Nat) (m : Bool) (w : BitVec 57) (s : State) : Host.Outcome State Fault Refusal :=
  issue c m 3 0x1A w s

/-- `WAIT` (R152): opcode 0x20 of the S slot. -/
def execWait (c : Nat) (m : Bool) (w : BitVec 57) (s : State) : Host.Outcome State Fault Refusal :=
  issue c m 3 0x20 w s

/-- `WAITC` (R154): opcode 0x21 of the S slot. -/
def execWaitc (c : Nat) (m : Bool) (w : BitVec 57) (s : State) : Host.Outcome State Fault Refusal :=
  issue c m 3 0x21 w s

/-- `SIGNAL` (R151): opcode 0x22 of the S slot. -/
def execSignal (c : Nat) (m : Bool) (w : BitVec 57) (s : State) : Host.Outcome State Fault Refusal :=
  issue c m 3 0x22 w s

/-- `DEFER` (R158): opcode 0x28 of the S slot. -/
def execDefer (c : Nat) (m : Bool) (w : BitVec 57) (s : State) : Host.Outcome State Fault Refusal :=
  issue c m 3 0x28 w s

/-- `WEND` (R159): opcode 0x29 of the S slot. -/
def execWend (c : Nat) (m : Bool) (w : BitVec 57) (s : State) : Host.Outcome State Fault Refusal :=
  issue c m 3 0x29 w s

/-- `WFLUSH` (R158): opcode 0x2A of the S slot. -/
def execWflush (c : Nat) (m : Bool) (w : BitVec 57) (s : State) : Host.Outcome State Fault Refusal :=
  issue c m 3 0x2A w s

/-- `WMODE` (R156): opcode 0x2B of the S slot. -/
def execWmode (c : Nat) (m : Bool) (w : BitVec 57) (s : State) : Host.Outcome State Fault Refusal :=
  issue c m 3 0x2B w s

/-- `SRD` (R155): opcode 0x30 of the S slot. -/
def execSrd (c : Nat) (m : Bool) (w : BitVec 57) (s : State) : Host.Outcome State Fault Refusal :=
  issue c m 3 0x30 w s

/-- `VSCLR` (R150): opcode 0x31 of the S slot. -/
def execVsclr (c : Nat) (m : Bool) (w : BitVec 57) (s : State) : Host.Outcome State Fault Refusal :=
  issue c m 3 0x31 w s

/-- A skein's slot becomes FREE and its cast-off is no longer pending; a core that waits for the slot may go on. -/
def skeinFree (c k : Nat) (want : SkSt → Bool) (s : State) : State :=
  if want ((s.core c).m.skein k).st then
    settle (s.updMat c (fun m => { m.setSkein k {} with pend := m.pend.filter (fun j => j != k), dcbs := SMap.erase k m.dcbs }))
  else s

/-- Whether the piece of a cast-off has a staging slot: at most SLOTS pieces of a core are staged (R311). -/
def pieceStaged (s : State) (c k : Nat) : Bool :=
  let mine := s.tiles.filter (fun t => t.core == c)
  match mine.findIdx? (fun t => skIdx t.array 0 == skIdx (k / 4) 0) with
  | none => true
  | some i => decide (i + SMap.get 0 c s.u.col.staged < stageSlots s c)

/-- `SKEIN_DRAINED` (R86): the drain reads the last value of a cast-off skein and the slot becomes FREE. A piece that no
staging slot takes stays pending in the drain (R311). -/
def execSkeinDrained (c k : Nat) (s : State) : Host.Outcome State Fault Refusal :=
  onCore c s (fun s => if pieceStaged s c k then skeinFree c k (fun t => t == .draining) s else s)

/-- `PARK_COMPLETE` (R71): the last buffer write of a `PARK` is accepted and the slot becomes FREE. -/
def execParkComplete (c k : Nat) (s : State) : Host.Outcome State Fault Refusal :=
  onCore c s (skeinFree c k (fun t => t == .parking))

/-- `RESUME_COMPLETE` (R71): the last buffer read returns and the slot becomes OPEN or SEALED. -/
def execResumeComplete (c k : Nat) (s : State) : Host.Outcome State Fault Refusal :=
  onCore c s (fun s => match ((s.core c).m.skein k).st with
    | .resuming b => settle (s.updMat c (fun m => m.setSkein k { m.skein k with st := if b then .sealed else .opened }))
    | _ => s)

/-- `DMA_COPY` (R144). -/
def execDmaCopy (c q : Nat) (s : State) : Host.Outcome State Fault Refusal := onCore c s (fun s => settle (runHead 0 c (q % 4) s))
/-- `DMA_CONVERT` (R144). -/
def execDmaConvert (c q : Nat) (s : State) : Host.Outcome State Fault Refusal := onCore c s (fun s => settle (runHead 1 c (q % 4) s))
/-- `MX_IMPORT` (R60). -/
def execMxImport (c q : Nat) (s : State) : Host.Outcome State Fault Refusal := onCore c s (fun s => settle (runHead 2 c (q % 4) s))
/-- `MX_EXPORT` (R61). -/
def execMxExport (c q : Nat) (s : State) : Host.Outcome State Fault Refusal := onCore c s (fun s => settle (runHead 3 c (q % 4) s))
/-- `DMA_ZERO` (R144). -/
def execDmaZero (c q : Nat) (s : State) : Host.Outcome State Fault Refusal := onCore c s (fun s => settle (runHead 4 c (q % 4) s))
/-- `DMAT_TRANSFER` (R148). -/
def execDmatTransfer (c q : Nat) (s : State) : Host.Outcome State Fault Refusal := onCore c s (fun s => settle (runHead 5 c (q % 4) s))

/-- The transfer at the head of a queue completes (R146): it adds 1 to its semaphore, or with an overflow the queue freezes
and 0x851A is raised; waiting bundles may go on. -/
def dmaComplete (c q : Nat) (s : State) : State :=
  let d := (s.core c).dmaq q
  match d.xs with
  | [] => s
  | x :: r =>
    if d.frozen || !x.done || (s.core c).seq.run == .saved || (s.core c).seq.run == .restoring then s
    else
      let p := semAdd c x.sem 1 s
      if p.2 then settle (endCheck c (p.1.setDmaq c q { d with xs := r }))
      else dmaFault c q 0x851A (BitVec.ofNat 64 (x.sem + 64 * c)) 0 s

/-- `DMA_COMPLETE` (R146). -/
def execDmaComplete (c q : Nat) (s : State) : Host.Outcome State Fault Refusal := onCore c s (dmaComplete c (q % 4))

/-- The bundle of a `WAIT` whose deadline the course counter has reached halts its core (R152). [DEDUCED: log 33] -/
def waitDeadline (c : Nat) (s : State) : State :=
  match (s.core c).seq.q with
  | [] => s
  | b :: _ =>
    if canIssue s c && headNext s c b == .dead then rejectAt c 0x851B 3 0 (s.core c).seq.baddr s else s

/-- `WAIT_DEADLINE` (R152). -/
def execWaitDeadline (c : Nat) (s : State) : Host.Outcome State Fault Refusal := onCore c s (waitDeadline c)

/-- `SAVE_COMPLETE` (R165). -/
def execSaveComplete (c : Nat) (s : State) : Host.Outcome State Fault Refusal := onCore c s (saveComplete c)

/-- `RESTORE_COMPLETE` (R167). -/
def execRestoreComplete (c : Nat) (s : State) : Host.Outcome State Fault Refusal := onCore c s (restoreComplete c)

end Sys2Proof.Machine
end

