-- ==== Sys2Proof/Machine/Aes.lean ====
section
/-!
DEFINITION. AES-256-GCM, by which R289 seals packets (FIPS 197, NIST SP 800-38D).
-/

namespace Sys2Proof

/-- Multiplication by x in the field of AES. -/
def aesX (b : Byte) : Byte := if b.getLsbD 7 then (b <<< 1) ^^^ 0x1B#8 else b <<< 1

/-- Product in the field of AES, over the low n bits of b. -/
def aesMulN : Nat → Byte → Byte → Byte
  | 0, _, _ => 0
  | n + 1, a, b => (if b.getLsbD 0 then a else 0) ^^^ aesMulN n (aesX a) (b >>> 1)

def aesMul (a b : Byte) : Byte := aesMulN 8 a b

/-- a^254, the inverse of a, and 0 for 0. -/
def aesInv (a : Byte) : Byte :=
  let a2 := aesMul a a
  let a3 := aesMul a2 a
  let a6 := aesMul a3 a3
  let a12 := aesMul a6 a6
  let a15 := aesMul a12 a3
  let a30 := aesMul a15 a15
  let a60 := aesMul a30 a30
  let a120 := aesMul a60 a60
  let a126 := aesMul a120 a6
  let a127 := aesMul a126 a
  aesMul a127 a127

/-- The substitution of one byte. -/
def aesSub (a : Byte) : Byte :=
  let b := aesInv a
  b ^^^ b.rotateLeft 1 ^^^ b.rotateLeft 2 ^^^ b.rotateLeft 3 ^^^ b.rotateLeft 4 ^^^ 0x63#8

/-- The key schedule: words as lists of 4 bytes, newest first; i is the number of the next word. -/
def aesExpand : Nat → Nat → Byte → List (List Byte) → List (List Byte)
  | 0, _, _, ws => ws
  | n + 1, i, rc, ws =>
    let t := nth [] ws 0
    let old := nth [] ws 7
    if i % 8 = 0 then
      let r := (t.drop 1 ++ t.take 1).map aesSub
      let r1 := xorBytes r [rc, 0, 0, 0]
      aesExpand n (i + 1) (aesX rc) (xorBytes old r1 :: ws)
    else if i % 8 = 4 then aesExpand n (i + 1) rc (xorBytes old (t.map aesSub) :: ws)
    else aesExpand n (i + 1) rc (xorBytes old t :: ws)

/-- The 15 round keys of a 32-byte key. -/
def aesKeys (key : List Byte) : List (List Byte) :=
  let ws := (aesExpand 52 8 1#8 (chunks 4 key).reverse).reverse
  (chunks 4 ws).map (fun k => k.flatMap id)

def aesShiftRows (b : List Byte) : List Byte := (List.range 16).map (fun i => nth 0 b ((i + 4 * (i % 4)) % 16))

def aesMixCol (c : List Byte) : List Byte :=
  let g := fun i => nth 0 c (i % 4)
  (List.range 4).map (fun i => aesX (g i) ^^^ aesX (g (i + 1)) ^^^ g (i + 1) ^^^ g (i + 2) ^^^ g (i + 3))

/-- AES-256 of one block under its round keys. -/
def aesBlock (ks : List (List Byte)) (b : List Byte) : List Byte :=
  let b0 := xorBytes b (nth [] ks 0)
  let mid := (List.range 13).foldl (fun st r =>
    xorBytes ((chunks 4 (aesShiftRows (st.map aesSub))).flatMap aesMixCol) (nth [] ks (r + 1))) b0
  xorBytes (aesShiftRows (mid.map aesSub)) (nth [] ks 14)

/-! ### GCM -/

/-- Product in the field of GCM: 128-bit strings, first bit most significant. -/
def gcmMulN : Nat → BitVec 128 → BitVec 128 → BitVec 128 → BitVec 128
  | 0, _, _, z => z
  | n + 1, x, v, z =>
    let z1 := if x.getLsbD n then z ^^^ v else z
    let v1 := if v.getLsbD 0 then (v >>> 1) ^^^ 0xE1000000000000000000000000000000#128 else v >>> 1
    gcmMulN n x v1 z1

def gcmMul (x y : BitVec 128) : BitVec 128 := gcmMulN 128 x y 0

def blk128 (b : List Byte) : BitVec 128 := BitVec.ofNat 128 (beNat ((List.range 16).map (fun i => nth 0 b i)))

/-- GHASH over additional data and ciphertext. -/
def ghash (h : BitVec 128) (aad ct : List Byte) : BitVec 128 :=
  let f := fun (y : BitVec 128) (b : List Byte) => gcmMul (y ^^^ blk128 b) h
  f ((chunks 16 ct).foldl f ((chunks 16 aad).foldl f 0)) (beBytes 8 (8 * aad.length) ++ beBytes 8 (8 * ct.length))

/-- The key stream xored onto a text, from counter c. -/
def gcmCtr (ks : List (List Byte)) (iv : List Byte) (txt : List Byte) : List Byte :=
  ((chunks 16 txt).zip (List.range (cdiv txt.length 16))).flatMap (fun p => xorBytes p.1 (aesBlock ks (iv ++ beBytes 4 (p.2 + 2))))

/-- The 16-byte tag. -/
def gcmTag (ks : List (List Byte)) (iv aad ct : List Byte) : List Byte :=
  let h := blk128 (aesBlock ks (List.replicate 16 0))
  xorBytes (beBytes 16 (ghash h aad ct).toNat) (aesBlock ks (iv ++ beBytes 4 1))

/-- Seal: ciphertext followed by the tag. -/
def gcmSeal (key iv aad pt : List Byte) : List Byte :=
  let ks := aesKeys key
  let ct := gcmCtr ks iv pt
  ct ++ gcmTag ks iv aad ct

/-- Open: the plaintext if the tag verifies. -/
def gcmOpen (key iv aad ct tag : List Byte) : Option (List Byte) :=
  let ks := aesKeys key
  if gcmTag ks iv aad ct == tag then some (gcmCtr ks iv ct) else none

end Sys2Proof
end

