-- ==== Sys2Proof/Machine/Net.lean ====
section
/-!
DEFINITION. The optical links (R266 to R293): flits and retry, packets, bring-up, routing and delivery.
-/

namespace Sys2Proof.Machine

open Sys2Proof

/-! ### Links and limits -/

def State.link (s : State) (l : Nat) : Link := SMap.get {} l s.u.net.links
def State.setLink (s : State) (l : Nat) (x : Link) : State := s.updNet (fun n => { n with links := SMap.set l x n.links })
def State.updLink (s : State) (l : Nat) (f : Link → Link) : State := s.setLink l (f (s.link l))
/-- An update that may change a link's state: source 8 (R422). -/
def State.updLinkSt (s : State) (l : Nat) (f : Link → Link) : State := (s.updLink l f).pendIf 8 (decide ((f (s.link l)).st ≠ (s.link l).st))
def State.updTx (s : State) (l : Nat) (f : LinkTx → LinkTx) : State := s.updLink l (fun x => { x with tx := f x.tx })
def State.updRx (s : State) (l : Nat) (f : LinkRx → LinkRx) : State := s.updLink l (fun x => { x with rx := f x.rx })

/-- Register-space offset of register o of link l (R293). -/
def linkOff (l o : Nat) : Nat := 0x800000 + l / 8 * 0x10000 + 0x1000 + l % 8 * 0x100 + o

def lnkCfg (s : State) (l : Nat) : W64 := s.reg 0 (linkOff l 0)
def lnkAddr (s : State) : W64 := s.reg 0 0x880000
def lnkPat (s : State) : W64 := s.reg 0x0040002000000000 0x880008
def lnkLimits (s : State) : W64 := s.reg 0x03E8001000080003 0x880018
/-- Own device address. -/
def State.devAddr (s : State) : Nat := bitsOf (lnkAddr s) 19 0
/-- The active Pattern (R287). -/
def State.pattern (s : State) : Nat := bitsOf (lnkPat s) 3 0

/-- Link states UP, RETRAINING and DOWN (R280). -/
def lkUp : Nat := 5
def lkRetrain : Nat := 6
def lkDown : Nat := 7

/-- Input buffer of a VC in flits (R274). -/
def vcBuf (v : Nat) : Nat := nth 32 [768, 256, 32, 32] v

def setAt (l : List Nat) (i v : Nat) : List Nat := (List.range l.length).map (fun k => if k = i then v else nth 0 l k)

/-! ### Packets (R277, R278) -/

def Pkt.f (p : Pkt) (i n : Nat) : Nat := byteField p.hdr i n
def Pkt.dst (p : Pkt) : Nat := p.f 0 3 % 2 ^ 20
def Pkt.pat (p : Pkt) : Nat := p.f 0 3 / 2 ^ 20
def Pkt.src (p : Pkt) : Nat := p.f 3 3 % 2 ^ 20
def Pkt.type (p : Pkt) : Nat := p.f 6 1
def Pkt.hops (p : Pkt) : Nat := p.f 7 1 % 64
def Pkt.flow (p : Pkt) : Nat := p.f 8 2
def Pkt.born (p : Pkt) : Nat := p.f 10 2
def Pkt.tag (p : Pkt) : Nat := p.f 12 2
def Pkt.len (p : Pkt) : Nat := p.f 14 2

/-- The end-to-end CRC of a header and payload (R278). -/
def e2eCrc (h : BitVec 192) (body : List Byte) : W32 :=
  let b := fun i n => leBytes n (byteField h i n)
  crc32 (leBytes 3 (byteField h 0 3 % 2 ^ 20) ++ b 3 4 ++ b 8 2 ++ b 12 4 ++ body)

/-- Flits of a packet (R277). -/
def pktFlits (len : Nat) (enc : Bool) : Nat := cdiv (28 + len + (if enc then 16 else 0)) 244

/-- A packet that a unit of this device sends (R277, R287). -/
def mkPkt (s : State) (vc ty tag flow dst : Nat) (body : List Byte) : Pkt :=
  let h := BitVec.ofNat 192 (dst % 2 ^ 20 + s.pattern * 2 ^ 20 + s.devAddr * 2 ^ 24 + ty % 256 * 2 ^ 48 + flow % 65536 * 2 ^ 64 +
    s.course.toNat % 65536 * 2 ^ 80 + tag % 65536 * 2 ^ 96 + body.length % 65536 * 2 ^ 112)
  { vc, hdr := h, body, crc := e2eCrc h body }

/-- Inject a packet (R277, R287, R340): it stands at this device's hop until it is forwarded or delivered. -/
def State.sendPkt (s : State) (vc ty tag flow dst : Nat) (body : List Byte) : State :=
  let p := mkPkt s vc ty tag flow dst body
  s.updNet (fun n => { n with hop := n.hop ++ [{ pkt := p, local_ := true }] })

/-- Raise a link event: source link, the packet's header in D1 (R370). -/
def lnkEvent (code l : Nat) (own : Option Nat) (h : BitVec 192) (s : State) : State :=
  s.raise code (0x5000 + l) own (BitVec.ofNat 64 (l % 64)) (BitVec.ofNat 64 (byteField h 0 8))

/-- Raise an event about a packet: against its tag's owner, or the device. -/
def pktEvent (code : Nat) (h : Hop) (s : State) : State :=
  let own := s.ownerOfTag h.pkt.tag
  match h.from_ with
  | some l => lnkEvent code l own h.pkt.hdr s
  | none => s.raise code 0x0000 own 0 (BitVec.ofNat 64 (byteField h.pkt.hdr 0 8))

/-- The flits that a packet holds in its link's input buffer are returned as credits (R274). -/
def freeFlits (h : Hop) (s : State) : State :=
  match h.from_ with
  | some l => s.updRx l (fun r => { r with ret := setAt r.ret h.pkt.vc (nth 0 r.ret h.pkt.vc + h.flits) })
  | none => s

/-! ### Losing a link (R285, R291) -/

/-- Packets that have chosen a link and not sent their SOP are routed again (R285), before the younger ones at this hop (R284). One that
is partly sent keeps its place, and its VC the time since which it waits (R276). -/
def reroute (l : Nat) (s : State) : State :=
  let q := (s.link l).tx.q
  let back := (q.flatMap (fun e => e.2)).filter (fun (t : TxPkt) => t.rest.isNone)
  (s.updTx l (fun t => { t with
    q := q.map (fun e => (e.1, e.2.filter (fun (x : TxPkt) => x.rest.isSome)))
    stall := t.stall.filter (fun e => (SMap.get [] e.1 q).any (fun (x : TxPkt) => x.rest.isSome)) })).updNet
    (fun n => { n with hop := back.map (fun t => { t.hop with from_ := none, flits := 0 }) ++ n.hop })

def dedupe (l : List Nat) : List Nat := l.foldl (fun a x => if a.contains x then a else a ++ [x]) []

/-- Job tags of the packets that a link has sent or received in part (R291). -/
def lostTags (x : Link) : List Nat :=
  dedupe (x.tx.buf.map (fun f => f.tag) ++ (x.tx.q.flatMap (fun e => (e.2.filter (fun (t : TxPkt) => t.rest.isSome)).map (fun t => t.hop.pkt.tag))) ++
    (x.rx.part.filter (fun e => !e.2.isEmpty)).map (fun e => leNat ((nth [] e.2 0).drop 12 |>.take 2)))

/-- What is at a link when it goes to DOWN is gone: its buffers, partial packets, counts and keys. What packets at this hop held of its input
buffer goes with the buffer (R274, R291). [DESIGN CHOICE: log 195] -/
def dropLink (l : Nat) (s : State) : State :=
  (s.updLinkSt l (fun x => { x with
    st := lkDown, enc := false, fails := 0, retrains := 0, authing := false, hello := [], peerHello := [], tx := {}, rx := {}, keys := {} })).updNet
    (fun n => { n with hop := n.hop.map (fun h => if h.from_ == some l then { h with flits := 0 } else h) })

/-- A link goes to DOWN (R291), with an event of its own where `code` names one; `more` are tags of packets lost besides. -/
def linkLost (l : Nat) (code : Option Nat) (more : List Nat) (s : State) : State :=
  let s0 := reroute l s
  let tags := dedupe (lostTags (s0.link l) ++ more)
  let s1 := dropLink l s0
  let s2 := match code with
    | some c => lnkEvent c l none 0 s1
    | none => s1
  tags.foldl (fun s t => lnkEvent 0x8802 l (s.ownerOfTag t) 0 s) s2

def linkDown (l : Nat) (code : Option Nat) (s : State) : State := linkLost l code [] s

/-- A link of a device whose clocks are lost goes down without events (R451), with what R285 and R291 make of its packets. [DESIGN CHOICE: log 195] -/
def linkQuiet (l : Nat) (s : State) : State :=
  if (s.link l).st = 0 || (s.link l).st = lkDown then s else dropLink l (reroute l s)

/-! ### Sealing (R289) -/

def keyBytes (k : BitVec 256) : List Byte := leBytes 32 k.toNat
/-- The nonce: salt in bits [95:64] and the count in bits [63:0], most significant byte first. [DEDUCED: log 85] -/
def nonce (salt : W32) (n : Nat) : List Byte := beBytes 12 (salt.toNat * 2 ^ 64 + n % 2 ^ 64)

/-- A packet's bytes as sent on a link: header, payload, CRC, and the tag on an encrypted link. -/
def wireBytes (x : Link) (p : Pkt) : List Byte :=
  let plain := p.body ++ leBytes 4 p.crc.toNat
  let i := x.keys.cur
  let fl := p.f 7 1 % 64 + (if x.enc then 64 + 128 * i else 0)
  let h := leBytes 24 (putBytes p.hdr 7 1 fl).toNat
  if x.enc then h ++ gcmSeal (keyBytes (nth 0 x.keys.tx i)) (nonce x.keys.salt (nth 0 x.keys.txN i)) h plain else h ++ plain

/-- Split into 244-byte flit payloads, the last padded with zero bytes. -/
def flitPayloads (b : List Byte) : List (List Byte) := (chunks 244 b).map (fun c => c ++ List.replicate (244 - c.length) 0)

/-! ### Key agreement between two RTUs (R289, R436) -/

/-- A message of the RTU to the partner of a link, over VC 3 of that link alone: in packets of up to 16,384 bytes, at the end of its queue. [DESIGN CHOICE: log 194] -/
def authSend (l : Nat) (msg : List Byte) (s : State) : State :=
  s.updTx l (fun t => { t with q := SMap.set 3 (SMap.get [] 3 t.q ++
    (chunks 16384 msg).map (fun b => ({ hop := { pkt := mkPkt s 3 Config.authType 0 0 (s.link l).peerAddr b, local_ := true } } : TxPkt))) t.q })

/-- This side's first message: its certificate chain, a 32-byte nonce and an FFDHE3072 public value. -/
def authHello (l : Nat) (s0 : State) : State :=
  let p := s0.draw
  let s := p.2
  let msg := s.u.ctl.certs ++ leBytes 32 (Config.authNonce p.1).toNat ++ leBytes 384 (Config.authPublic p.1).toNat
  authSend l msg (s.updLink l (fun x => { x with hello := msg, peerHello := [] }))

/-- The partner's first message has come: this side sends its signature over the SHA-256 of both, that of the lower address first, while its
identity may sign (R433, R436). -/
def authTake (p : Pkt) (s : State) : State :=
  if p.vc ≠ 3 || p.tag ≠ 0 || p.type ≠ Config.authType % 256 then s
  else match (List.range s.nLinks).find? (fun l => (s.link l).peerAddr == p.src && !(s.link l).hello.isEmpty && (s.link l).peerHello.isEmpty) with
    | none => s
    | some l =>
      let mine := (s.link l).hello
      let d := s.draw
      let s1 := d.2.updLink l (fun x => { x with peerHello := p.body })
      let both := if s.devAddr < (s.link l).peerAddr then mine ++ p.body else p.body ++ mine
      if s.u.ctl.idUsable then authSend l (leBytes 384 (Config.authSign d.1 (sha256 both)).toNat) s1 else s1

/-- EDF starts a rekey when a key's count reaches 2^48 (R436). -/
def rekeyStart (l : Nat) (s : State) : State :=
  let x := s.link l
  if x.st == lkUp && x.enc && x.hello.isEmpty && (decide (2 ^ 48 ≤ nth 0 x.keys.txN x.keys.cur) || decide (2 ^ 48 ≤ nth 0 x.keys.rxN x.keys.rxCur)) then authHello l s else s

/-! ### Sending a flit (R269 to R275) -/

/-- The 256 bytes of a flit of link x: link word and credit bytes written afresh, and the CRC (R269, R271). -/
def flitBytes (x : Link) (told : List Nat) (seq vc : Nat) (sop eop time null : Bool) (pay : List Byte) : List Byte :=
  let ack := (x.rx.exp + 4095) % 4096
  let b := fun (c : Bool) (n : Nat) => if c then 2 ^ n else 0
  let w := seq % 4096 + ack * 2 ^ 12 + b x.tx.nak 24 + b sop 25 + b eop 26 + vc % 4 * 2 ^ 27 + b time 29 + b null 30
  let body := leBytes 4 w ++ told.map (fun v => BitVec.ofNat 8 v) ++ pay
  body ++ leBytes 4 (crc32 body).toNat

/-- Put one flit on the fibre; NAK is sent once, and no credit byte advances by more than 255 (R274). -/
def emit (l seq vc : Nat) (sop eop time null : Bool) (pay : List Byte) (s : State) : State :=
  s.updLink l (fun x =>
    let told := (List.range 4).map (fun v => min (nth 0 x.rx.ret v) (nth 0 x.tx.told v + 255))
    { x with outs := x.outs ++ [flitBytes x told seq vc sop eop time null pay], tx := { x.tx with told, nak := false } })

def zeroPay : List Byte := List.replicate 244 0

def txq (x : Link) (v : Nat) : List TxPkt := SMap.get [] v x.tx.q

/-- A VC that has data and credit, with room in the retry buffer (R271, R274). -/
def vcReady (x : Link) (v : Nat) : Bool :=
  !(txq x v).isEmpty && decide (0 < nth 0 x.tx.cred v) && decide (x.tx.buf.length < 1024) && (x.st == lkUp || v == 3)

/-- By VC, since when data waits without credit (R276). -/
def stallMark (now : Nat) (t : LinkTx) : LinkTx :=
  { t with stall := (List.range 4).foldl (fun m v =>
      if (SMap.get [] v t.q).isEmpty || decide (nth 0 t.cred v ≠ 0) then m else SMap.set v (SMap.get (now, false) v t.stall) m) [] }

/-- The VC of the next new flit and the rotation after it (R275). -/
def pickVc (x : Link) : Option (Nat × List Nat) :=
  if vcReady x 2 then some (2, x.tx.rot)
  else
    let go := fun (rot : List Nat) => ((List.range 3).find? (fun i => decide (0 < nth 0 rot i) && vcReady x (nth 0 [0, 1, 3] i))).map
      (fun i => (nth 0 [0, 1, 3] i, setAt rot i (nth 0 rot i - 1)))
    match go x.tx.rot with
    | some r => some r
    | none => go [8, 4, 1]

/-- The queue of VC v once its head packet is in flits: a packet that starts is sealed now (R289). Answers the link, the head's pieces
and whether the first of them is its SOP. -/
def startHead (x : Link) (t : TxPkt) : Link × List (List Byte) × Bool :=
  match t.rest with
  | some r => (x, r, false)
  | none =>
    let r := flitPayloads (wireBytes x t.hop.pkt)
    let k := x.keys
    (if x.enc then { x with keys := { k with txN := setAt k.txN k.cur (nth 0 k.txN k.cur + 1) } } else x, r, true)

/-- Send a new sequenced flit of VC v. -/
def sendNew (l v : Nat) (rot : List Nat) (s : State) : State :=
  let x := s.link l
  match txq x v with
  | [] => s
  | t :: more =>
    if x.enc && t.rest.isNone && decide (2 ^ 63 ≤ nth 0 x.keys.txN x.keys.cur) then linkDown l (some 0x4804) s
    else
      let h := startHead x t
      match h.2.1 with
      | [] => s
      | pay :: rest =>
        let eop := rest.isEmpty
        let q := if eop then more else { t with rest := some rest } :: more
        let seq := x.tx.seq
        let y : Link := { h.1 with tx := stallMark s.course.toNat { x.tx with
          seq := (seq + 1) % 4096, rot, q := SMap.set v q x.tx.q, cred := setAt x.tx.cred v (nth 0 x.tx.cred v - 1)
          buf := x.tx.buf ++ [{ seq, vc := v, sop := h.2.2, eop, pay, tag := t.hop.pkt.tag, hdr := t.hop.pkt.hdr }] } }
        rekeyStart l (emit l seq v h.2.2 eop false false pay (s.setLink l y))

/-- A link goes to RETRAINING (R272, R268); the retry buffer is kept. -/
def toRetrain (l : Nat) (s : State) : State := reroute l (s.updLinkSt l (fun x => { x with st := lkRetrain, authing := x.st == 4 }))

/-- Resend flit r of the retry buffer; the last resend in a row that RETRY_MAX allows takes the link to RETRAINING (R271, R272). -/
def sendAgain (l r : Nat) (f : RFlit) (s : State) : State :=
  let tries := f.tries + 1
  let s1 := emit l f.seq f.vc f.sop f.eop false false f.pay s
  let s2 := s1.updLink l (fun x => { x with
    retry := satAdd 48 x.retry 1
    tx := { x.tx with buf := x.tx.buf.set r { f with tries }, resend := if r + 1 < x.tx.buf.length then some (r + 1) else none } })
  if bitsOf (lnkLimits s) 23 16 ≤ tries then lnkEvent 0x4801 l none 0 (toRetrain l s2) else s2

/-- A TIME flit leaves (R273): its stamp, in ticks, is that of its departure; a delay request's is t1 (R254). The tick within the course is
a free value. -/
def sendTime (l : Nat) (t : Nat × Nat) (s0 : State) : State :=
  let p := s0.draw
  let s := p.2
  let stamp := s.course.toNat * 9000 + Config.cycles p.1 % 9000
  let s1 := emit l 0 2 false false true false (leBytes 244 (Config.timeMsg t.1 stamp t.2).toNat) s
  if t.1 = 1 then s1.updCrs (fun c => { c with links := SMap.set l { (SMap.get {} l c.links : CrsLink) with t1 := some (stamp : Int) } c.links }) else s1

/-- One flit boundary of a link output (R275). -/
def flitSend (l : Nat) (s : State) : State :=
  let x := s.link l
  if x.st = 3 then
    emit l 0 0 false false false true (leBytes 244 (Config.exchangePayload s.devAddr l (bitOf (lnkCfg s l) 62)).toNat) s
  else if x.st = 4 || x.st = lkUp then
    match x.tx.time with
    | t :: r => sendTime l t (s.updTx l (fun y => { y with time := r }))
    | [] => match x.tx.resend.bind (fun r => (x.tx.buf[r]?).map (fun f => (r, f))) with
      | some (r, f) => sendAgain l r f s
      | none => match pickVc x with
        | some (v, rot) => sendNew l v rot s
        | none => emit l 0 0 false false false true zeroPay s
  else s

/-! ### Receiving a flit (R271, R274) -/

/-- ACK covers every flit up to its SEQ; progress ends the count of retrains (R271, R272). -/
def takeAck (ack : Nat) (x : Link) : Link :=
  match x.tx.buf.findIdx? (fun f => f.seq == ack) with
  | none => x
  | some i => { x with retrains := 0, tx := { x.tx with
      buf := x.tx.buf.drop (i + 1)
      resend := match x.tx.resend with
        | some r => if x.tx.buf.length ≤ i + 1 then none else some (r - (i + 1))
        | none => none } }

/-- Start resending from the oldest unacknowledged flit (R271). -/
def resendAll (x : Link) : Link := { x with tx := { x.tx with resend := if x.tx.buf.isEmpty then none else some 0 } }

/-- Take the credit bytes (R274). -/
def takeCredits (cs : List Nat) (x : Link) : Link :=
  { x with tx := { x.tx with
    cred := (List.range 4).map (fun v => nth 0 x.tx.cred v + (nth 0 cs v + 256 - nth 0 x.tx.last v) % 256)
    last := cs } }

/-- A packet has arrived whole: it is opened on an encrypted link, and stands at this hop; the first one under a new key ends the old one,
and one under the old key that was on its way ends none (R289, R290). -/
def packetIn (l vc : Nat) (flits : Nat) (b : List Byte) (s : State) : State :=
  let x := s.link l
  let hb := b.take 24
  let h := BitVec.ofNat 192 (leNat hb)
  let len := byteField h 14 2
  let fl := byteField h 7 1
  let enc := Nat.testBit fl 6
  let i := fl / 128
  let rest := b.drop 24
  let fail := linkLost l (some 0x4804) [byteField h 12 2]
  let arrive := fun (t : List Byte) (s : State) => s.updNet (fun n => { n with hop := n.hop ++
    [{ pkt := { vc, hdr := putBytes h 7 1 (fl % 64), body := t.take len, crc := BitVec.ofNat 32 (leNat (t.drop len)) }, from_ := some l, flits }] })
  if enc != x.enc then fail s
  else if !enc then arrive (rest.take (len + 4)) s
  else match SMap.find vc x.rx.opens with
    | none => fail s
    | some (n, k) => match gcmOpen (keyBytes k) (nonce x.keys.salt n) hb (rest.take (len + 4)) ((rest.drop (len + 4)).take 16) with
      | none => fail s
      | some t => arrive t (if i = x.keys.rxCur || !nth false x.keys.rxHeld i then s
          else s.updLink l (fun x => { x with keys := { x.keys with rxCur := i, rxHeld := (List.range 2).map (fun n => decide (n = i)) } }))

/-- The count and key of a packet whose SOP arrives on an encrypted link, and the link once it is counted (R289). -/
def sealTake (vc : Nat) (h : BitVec 192) (x : Link) : Link :=
  let i := byteField h 7 1 / 128
  if !x.enc then x
  else if !nth false x.keys.rxHeld i then { x with rx := { x.rx with opens := SMap.erase vc x.rx.opens } }
  else { x with
    rx := { x.rx with opens := SMap.set vc (nth 0 x.keys.rxN i, nth 0 x.keys.rx i) x.rx.opens }
    keys := { x.keys with rxN := setAt x.keys.rxN i (nth 0 x.keys.rxN i + 1) } }

/-- An accepted sequenced flit. The flits of a packet larger than its VC's buffer give their credit back as they come. -/
def acceptFlit (l vc : Nat) (sop eop : Bool) (pay : List Byte) (s : State) : State :=
  let old := SMap.get [] vc (s.link l).rx.part
  let part := if sop then [pay] else if old.isEmpty then [] else old ++ [pay]
  let h := BitVec.ofNat 192 (leNat ((nth [] part 0).take 24))
  let big := decide (vcBuf vc < pktFlits (byteField h 14 2) (Nat.testBit (byteField h 7 1) 6)) || part.isEmpty
  let s1 := s.updLink l (fun x => (if sop then sealTake vc h else id) { x with retrains := 0, rx := { x.rx with
    exp := (x.rx.exp + 1) % 4096, gap := false, part := SMap.set vc (if eop then [] else part) x.rx.part
    ret := if big then setAt x.rx.ret vc (nth 0 x.rx.ret vc + 1) else x.rx.ret } })
  rekeyStart l (if eop && !part.isEmpty then packetIn l vc (if big then 0 else part.length) part.flatten s1 else s1)

/-- A discarded sequenced flit: NAK once for the gap. -/
def gapNak (l : Nat) (s : State) : State :=
  if (s.link l).rx.gap then s else s.updLink l (fun x => { x with rx := { x.rx with gap := true }, tx := { x.tx with nak := true } })

def flitGood (b : List Byte) : Bool := decide (leNat (b.drop 252) = (crc32 (b.take 252)).toNat)

/-- Link word and credits of a flit whose CRC is good (R271). -/
def takeWord (l w : Nat) (cs : List Nat) (s : State) : State :=
  s.updLink l (fun x =>
    let z := takeCredits cs (takeAck (w / 2 ^ 12 % 4096) x)
    let y := { z with tx := stallMark s.course.toNat z.tx }
    if Nat.testBit w 24 then resendAll y else y)

/-- The FEC codewords that brought a flit are counted (R267, R293): how many were corrected, and how many could not be, are free values.
[DESIGN CHOICE: log 25] -/
def fecSeen (l : Nat) (s : State) : State :=
  let p := s.draw
  let q := p.2.draw
  q.2.updLink l (fun x => { x with fecCorr := satAdd 32 x.fecCorr (Config.cycles p.1), fecUnc := satAdd 32 x.fecUnc (Config.cycles q.1) })

/-- A flit arrives (R271): its link word, and a sequenced flit's data. [DEDUCED: log 81] -/
def flitReceive (l : Nat) (f : BitVec 2048) (s0 : State) : State :=
  let s := fecSeen l s0
  let x := s.link l
  if x.st ≠ 4 && x.st ≠ lkUp then s0
  else
    let b := leBytes 256 f.toNat
    let w := leNat (b.take 4)
    let seqd := !Nat.testBit w 29 && !Nat.testBit w 30
    if !flitGood b then (if seqd then gapNak l s else s)
    else
      let s1 := takeWord l w (((b.drop 4).take 4).map (fun c => c.toNat)) s
      if !seqd then s1
      else if w % 4096 ≠ x.rx.exp then gapNak l s1
      else acceptFlit l (w / 2 ^ 27 % 4) (Nat.testBit w 25) (Nat.testBit w 26) ((b.drop 8).take 244) s1

/-- ACK has not advanced for 6,000 cycles (R271). -/
def ackTimeout (l : Nat) (s : State) : State := s.updLink l resendAll

/-- A retrain ends (R272); a link that was AUTHENTICATING goes on with it. [DEDUCED: log 83] -/
def retrainDone (l : Nat) (s : State) : State :=
  let x := s.link l
  if x.st ≠ lkRetrain then s
  else if bitsOf (lnkLimits s) 7 0 ≤ x.retrains + 1 then linkDown l (some 0x4802) s
  else s.updLinkSt l (fun x => resendAll { x with st := if x.authing then 4 else lkUp, authing := false, retrains := x.retrains + 1, tx := { x.tx with buf := x.tx.buf.map (fun f => { f with tries := 0 }) } })

/-! ### Bring-up (R280, R281, R268) -/

/-- Every wavelength of the fibre that feeds a link is within limits. -/
def lightOk (s : State) (l : Nat) : Bool :=
  let m := SMap.get 0 (l / 8) s.u.net.light
  (List.range 4).all (fun n => Nat.testBit m (4 * (l % 8 / 4) + n))

/-- A DARK link leaves it when it is enabled, its light is within limits and the device has an address, and its clocks run (R451). -/
def tryCalibrate (l : Nat) (s : State) : State :=
  if (s.link l).st = 0 && decide (l < s.nLinks) && bitOf (lnkCfg s l) 63 && bitOf (lnkAddr s) 63 && lightOk s l && s.u.pow.loss == 0 then
    (s.updLinkSt l (fun x => { x with st := 1, fails := 0 })).updNet (fun n => { n with engine := SMap.set (l / 8) 1 n.engine })
  else s

/-- A bring-up step fails: three retries, then DOWN (R280). An engine that cannot tune has failed (R293). -/
def stepFail (l : Nat) (s : State) : State :=
  if 3 ≤ (s.link l).fails then
    linkDown l (some 0x4802) (if (s.link l).st = 1 then s.updNet (fun n => { n with engine := SMap.set (l / 8) 3 n.engine }) else s)
  else s.updLink l (fun x => { x with fails := x.fails + 1 })

def calibrationDone (l : Nat) (ok : Bool) (s : State) : State :=
  if (s.link l).st ≠ 1 then s
  else if ok then (s.updLinkSt l (fun x => { x with st := 2, fails := 0 })).updNet (fun n => { n with engine := SMap.set (l / 8) 2 n.engine })
  else stepFail l s

/-- The link enters EXCHANGE with its counts at the buffer sizes (R274). -/
def trainingDone (l : Nat) (ok : Bool) (s : State) : State :=
  if (s.link l).st ≠ 2 then s
  else if ok then s.updLinkSt l (fun x => { x with st := 3, fails := 0, tx := {}, rx := {} })
  else stepFail l s

/-- The partner's address, link number and ENC_REQ have come (R280, R281). Nothing is sealed until keys are agreed (R289). -/
def exchangeDone (l addr plink : Nat) (enc : Bool) (s : State) : State :=
  if (s.link l).st ≠ 3 then s
  else
    let c := lnkCfg s l
    let s1 := s.updLink l (fun x => { x with peerAddr := addr % 2 ^ 20, peerLink := plink % 64 })
    if (bitOf c 61 && (decide (addr % 2 ^ 20 ≠ bitsOf c 19 0) || decide (plink % 64 ≠ bitsOf c 37 32))) || decide (addr % 2 ^ 20 = s.devAddr) then
      linkDown l (some 0x4805) s1
    else if enc || bitOf c 62 then authHello l (s1.updLinkSt l (fun x => { x with st := 4, enc := false }))
    else s1.updLinkSt l (fun x => { x with st := lkUp, enc := false })

/-- "ZSL LINK" and "ZSL SALT". -/
def infoKey (dir idx : Nat) : List Byte := [0x5A#8, 0x53#8, 0x4C#8, 0x20#8, 0x4C#8, 0x49#8, 0x4E#8, 0x4B#8, BitVec.ofNat 8 dir, BitVec.ofNat 8 idx]
def infoSalt : List Byte := [0x5A#8, 0x53#8, 0x4C#8, 0x20#8, 0x53#8, 0x41#8, 0x4C#8, 0x54#8]

/-- Key of a direction and index (R436). -/
def linkKey (secret transcript : List Byte) (dir idx : Nat) : BitVec 256 := BitVec.ofNat 256 (leNat (hkdf secret transcript (infoKey dir idx) 32))

/-- Directions of sending and receiving: 0 from the lower to the higher address. -/
def sendDir (s : State) (l : Nat) : Nat := if s.devAddr < (s.link l).peerAddr then 0 else 1

/-- A generation 7 part number: it begins "EVZ7". [DEDUCED: log 172] -/
def gen7 (p : List Byte) : Bool := p.take 4 == [0x45#8, 0x56#8, 0x5A#8, 0x37#8]

/-- A partner's certificate chain is valid: each certificate is signed by the one before, the root certificate is that whose SHA-256 stands in
RTU ROM, and the device certificate carries a generation 7 part number (R434, R436). -/
def chainOk (s : State) (c : Chain) : Bool := c.signed && sha256 c.root == s.u.ctl.rtuRoot && gen7 c.part

/-- Authentication ends: the partner's chain and signature (`ok`) are valid and both identities usable, and keys stand at indices 0 and 1 for
each direction with the salt; or the link fails (R289, R290, R436). [DESIGN CHOICE: log 86] -/
def authDone (l : Nat) (ok : Bool) (c : Chain) (secret transcript : List Byte) (s : State) : State :=
  if (s.link l).st ≠ 4 then s
  else if ok && chainOk s c && s.u.ctl.idUsable then
    let d := sendDir s l
    let k := linkKey secret transcript
    s.updLinkSt l (fun x => { x with
      st := lkUp, enc := true, hello := [], peerHello := []
      keys := { tx := [k d 0, k d 1], rx := [k (1 - d) 0, k (1 - d) 1], salt := BitVec.ofNat 32 (beNat (hkdf secret transcript infoSalt 4)) } })
  else linkDown l (some 0x4804) s

/-- A rekey derives and installs the idle index, to which the sender switches at the next packet (R289, R436). -/
def rekey (l : Nat) (ok : Bool) (c : Chain) (secret transcript : List Byte) (s : State) : State :=
  let x := s.link l
  if x.st ≠ lkUp || !x.enc then s
  else if ok && chainOk s c && s.u.ctl.idUsable then
    let d := sendDir s l
    let i := 1 - x.keys.cur
    let j := 1 - x.keys.rxCur
    let k := linkKey secret transcript
    s.updLink l (fun x => { x with hello := [], peerHello := [], keys := { x.keys with
      tx := (List.range 2).map (fun n => if n = i then k d i else nth 0 x.keys.tx n), txN := setAt x.keys.txN i 0, cur := i
      rx := (List.range 2).map (fun n => if n = j then k (1 - d) j else nth 0 x.keys.rx n), rxN := setAt x.keys.rxN j 0,
      rxHeld := (List.range 2).map (fun n => decide (n = j) || nth false x.keys.rxHeld n) } })
  else linkDown l (some 0x4804) s

/-- ENABLE is cleared: the link returns to DARK; a link with traffic loses it first (R280, R291). The engine of a group
whose links are all DARK is dark (R293). [DEDUCED: log 82] -/
def linkDisable (l : Nat) (s : State) : State :=
  let s1 := if (s.link l).st = lkDown then s else linkDown l none s
  let s2 := s1.updLinkSt l (fun x => { x with st := 0, fails := 0 })
  if (s.link l).st = 0 then s
  else if (List.range 8).all (fun k => decide ((s2.link (l / 8 * 8 + k)).st = 0)) then s2.updNet (fun n => { n with engine := SMap.set (l / 8) 0 n.engine }) else s2

/-- A wavelength stays outside its limits (R268, R479): the links of the fibre go to DOWN. -/
def laserOut (g f n : Nat) (s : State) : State :=
  let m := SMap.get 0 g s.u.net.light
  let b := 4 * (f % 2) + n % 4
  let s1 := s.updNet (fun t => { t with light := SMap.set g (if Nat.testBit m b then m - 2 ^ b else m) t.light })
  let s2 := lnkEvent 0x4803 (8 * g + 4 * (f % 2)) none 0 s1
  (List.range 4).foldl (fun s k =>
    let l := 8 * g + 4 * (f % 2) + k
    if (s.link l).st = 0 || (s.link l).st = lkDown then s else linkDown l none s) s2

/-- A wavelength is within its limits again (R268, R280). -/
def laserIn (g f n : Nat) (s : State) : State :=
  let m := SMap.get 0 g s.u.net.light
  let b := 4 * (f % 2) + n % 4
  let s1 := s.updNet (fun t => { t with light := SMap.set g (if Nat.testBit m b then m else m + 2 ^ b) t.light })
  (List.range 8).foldl (fun s k => tryCalibrate (8 * g + k) s) s1

/-- A drift that the heaters cannot follow takes the engine's links through RETRAINING (R268). -/
def wavelengthDrift (g : Nat) (s : State) : State :=
  (List.range 8).foldl (fun s k => if (s.link (8 * g + k)).st = lkUp then toRetrain (8 * g + k) s else s) s

/-! ### Routing (R282 to R286, R340) -/

/-- Width of address field i (R282). -/
def addrW (s : State) (i : Nat) : Nat := bitsOf (lnkAddr s) (35 + 4 * i) (32 + 4 * i)
def addrLow (s : State) (i : Nat) : Nat := (List.range i).foldl (fun a k => a + addrW s k) 0
/-- Field i of a device address. -/
def addrField (s : State) (i a : Nat) : Nat := (a >>> addrLow s i) % 2 ^ addrW s i

/-- Register-space offset of a route-table entry's mask; its policy is 8 above. -/
def routeOff (p lev i : Nat) : Nat := 0x900000 + ((4 * p + lev) * 256 + i) * 16

/-- Where a packet goes. -/
inductive Route where
  | deliver
  | via (mask policy : Nat)
  deriving DecidableEq, Repr

def upMask (s : State) (m : Nat) : List Nat := (List.range s.nLinks).filter (fun l => Nat.testBit m l && (s.link l).st == lkUp)

/-- The procedure of R283, without the links' states; none is no route. -/
def route (s : State) (dst pat : Nat) : Option Route :=
  if dst >>> addrLow s 4 ≠ 0 then none
  else match [3, 2, 1, 0].find? (fun i => addrField s i dst != addrField s i s.devAddr) with
    | none => some .deliver
    | some i =>
      let o := routeOff pat i (addrField s i dst)
      some (.via (s.reg 0 o).toNat (bitsOf (s.reg 0 (o + 8)) 1 0))

/-- A flow's packets (R284). -/
def sameFlow (a b : Pkt) : Bool :=
  a.src == b.src && a.dst == b.dst && a.vc == b.vc && a.flow == b.flow && a.pat == b.pat

/-- A link has a packet of the flow queued or in transmission: one that waits there, or flits of one that are not acknowledged. -/
def carries (x : Link) (p : Pkt) : Bool :=
  (txq x p.vc).any (fun (t : TxPkt) => sameFlow t.hop.pkt p) || x.tx.buf.any (fun (f : RFlit) => sameFlow { vc := f.vc, hdr := f.hdr, body := [], crc := 0 } p)

/-- The flow's current link: one with a packet of it queued or in transmission. -/
def flowLink (s : State) (p : Pkt) (up : List Nat) : Option Nat := up.find? (fun l => carries (s.link l) p)

/-- The link of a spread policy among the links of the effective mask (R284). [DEDUCED: log 84] -/
def spread (s : State) (policy : Nat) (p : Pkt) (up : List Nat) : Nat :=
  match policy with
  | 1 =>
    let h := mix64 (BitVec.ofNat 64 (p.src * 2 ^ 44 + p.dst * 2 ^ 24 + p.vc * 2 ^ 16 + p.flow))
    nth 0 up (h.toNat % up.length)
  | 2 => match flowLink s p up with
    | some l => l
    | none => up.foldl (fun b l => if nth 0 (s.link b).tx.cred p.vc < nth 0 (s.link l).tx.cred p.vc then l else b) (nth 0 up 0)
  | _ => nth 0 up 0

/-- The link limit of R340 on a packet that this device injects. -/
def injectMask (s : State) (h : Hop) (m : Nat) : Nat :=
  match h.local_, s.ownerOfTag h.pkt.tag with
  | true, some p => m &&& cfgLinks (s.owner p).cfg
  | _, _ => m

/-- Take the first packet of the hop that satisfies f. -/
def takeHop (f : Hop → Bool) (s : State) : Option (Hop × State) :=
  match s.u.net.hop.findIdx? f with
  | none => none
  | some i => (s.u.net.hop[i]?).map (fun h => (h, s.updNet (fun n => { n with hop := n.hop.eraseIdx i })))

/-- Whether a packet at this hop is for this device. -/
def isMine (s : State) (h : Hop) : Bool := route s h.pkt.dst h.pkt.pat == some .deliver

/-- Links that a packet may take: those of its mask that are UP (R283, R285). -/
def openLinks (s : State) (h : Hop) (m : Nat) : List Nat := upMask s (injectMask s h m)

/-- A packet's link by its route. -/
def hopLink (s : State) (h : Hop) : Option Nat := match route s h.pkt.dst h.pkt.pat with
  | some (.via m pol) => match openLinks s h m with
    | [] => none
    | up => some (spread s pol h.pkt up)
  | _ => none

/-- A packet waits while one of its flow is still in transmission on another link (R284). [DEDUCED: log 185] -/
def hopHeld (s : State) (h : Hop) : Bool := match hopLink s h with
  | some l => (List.range s.nLinks).any (fun k => k != l && carries (s.link k) h.pkt)
  | none => false

/-- Route a packet and put it into its output queue (R283 to R286). -/
def forwardHop (h : Hop) (s0 : State) : State :=
  let s := freeFlits h s0
  let hops := h.pkt.hops + (if h.from_.isSome then 1 else 0)
  let age := (s.course.toNat % 65536 + 65536 - h.pkt.born) % 65536
  if bitsOf (lnkLimits s) 37 32 < hops || bitsOf (lnkPat s) 47 32 < age then pktEvent 0x8804 h s
  else match hopLink s h with
    | none => pktEvent 0x8801 h s
    | some l =>
      let p := { h.pkt with hdr := putBytes h.pkt.hdr 7 1 hops }
      s.updTx l (fun t => stallMark s.course.toNat { t with q := SMap.set p.vc (SMap.get [] p.vc t.q ++ [{ hop := { h with pkt := p, from_ := none, flits := 0 } }]) t.q })

/-- The oldest packet at this device that is for another and has not to wait leaves (R283, R284). -/
def packetForward (s : State) : State :=
  match takeHop (fun h => !isMine s h && !hopHeld s h) s with
  | some (h, s1) => forwardHop h s1
  | none => s

/-- Deliver a packet to its tag's holder, or to the unit that its type names (R278, R279). -/
def deliverHop (h : Hop) (s0 : State) : State :=
  let s := freeFlits h s0
  let p := h.pkt
  let inbox := s.updNet (fun n => { n with inbox := n.inbox ++ [p] })
  if e2eCrc p.hdr p.body != p.crc then pktEvent 0x8803 h s
  else if p.tag = 0 then authTake p inbox
  else match s.ownerOfTag p.tag with
    | none => pktEvent 0x4806 h s
    | some o => if s.u.flt.out && (s.owner o).st == .faulted then s else inbox

def packetDeliver (s : State) : State :=
  match takeHop (isMine s) s with
  | some (h, s1) => deliverHop h s1
  | none => s

/-- A VC has waited without credit for STALL courses (R276): one event for each job tag that waits there. -/
def creditStall (l v : Nat) (s : State) : State :=
  let x := s.link l
  let q := txq x v
  match SMap.find v x.tx.stall with
  | some (c, false) =>
    if s.course.toNat < c + bitsOf (lnkLimits s) 63 48 || q.isEmpty || nth 0 x.tx.cred v ≠ 0 then s
    else (dedupe (q.map (fun t => t.hop.pkt.tag))).foldl (fun s t =>
      lnkEvent 0x8805 l (s.ownerOfTag t) ((q.find? (fun (x : TxPkt) => x.hop.pkt.tag == t)).elim 0 (fun x => x.hop.pkt.hdr)) s)
      (s.updTx l (fun t => { t with stall := SMap.set v (c, true) t.stall }))
  | _ => s

/-! ### Patterns (R287, R288) -/

/-- Neither active now nor within the last GUARD courses. -/
def patIdle (s : State) (p : Nat) : Bool :=
  p != s.pattern && (match SMap.find p s.u.net.patLast with
    | some c => decide (c + bitsOf (lnkPat s) 63 48 < s.course.toNat)
    | none => true)

/-- Make a Pattern active (R287). -/
def setPattern (p : Nat) (s : State) : State :=
  let old := s.pattern
  let s1 := s.setReg 0x880008 (putBits (lnkPat s) 3 0 p)
  if old = p then s1 else s1.updNet (fun n => { n with patLast := SMap.set old s.course.toNat n.patLast })

def patValid (s : State) (p : Nat) : Bool := bitOf (s.reg 0 0x880010) p

/-- A PATTERN arm fires (R288). -/
def patternArm (own p : Nat) (s : State) : State :=
  if patValid s p then setPattern p s else s.raise 0x8806 0x7000 (some own) 0 0

/-! ### The meanings -/

/-- A command to link l; a number at or above the part's links names no unit. -/
def onLink (l : Nat) (s : State) (f : State → State) : Host.Outcome State Fault Refusal :=
  if l < s.nLinks then .next (f s) else .refused .noSuchUnit

def onGroup (g : Nat) (s : State) (f : State → State) : Host.Outcome State Fault Refusal :=
  if g < s.nGroups then .next (f s) else .refused .noSuchUnit

/-- `FLIT_SEND` (R275). -/
def execFlitSend (l : Nat) (s : State) : Host.Outcome State Fault Refusal := onLink l s (flitSend l)
/-- `FLIT_RECEIVE` (R271). -/
def execFlitReceive (l : Nat) (f : BitVec 2048) (s : State) : Host.Outcome State Fault Refusal := onLink l s (flitReceive l f)
/-- `ACK_TIMEOUT` (R271). -/
def execAckTimeout (l : Nat) (s : State) : Host.Outcome State Fault Refusal := onLink l s (ackTimeout l)
/-- `RETRAIN_COMPLETE` (R272). -/
def execRetrainComplete (l : Nat) (s : State) : Host.Outcome State Fault Refusal := onLink l s (retrainDone l)
/-- `LASER_OUT_OF_LIMITS` (R268, R479). -/
def execLaserOutOfLimits (g f n : Nat) (s : State) : Host.Outcome State Fault Refusal := onGroup g s (laserOut g f n)
/-- `LASER_WITHIN_LIMITS` (R280). -/
def execLaserWithinLimits (g f n : Nat) (s : State) : Host.Outcome State Fault Refusal := onGroup g s (laserIn g f n)
/-- `WAVELENGTH_DRIFT` (R268). -/
def execWavelengthDrift (g : Nat) (s : State) : Host.Outcome State Fault Refusal := onGroup g s (wavelengthDrift g)
/-- `CALIBRATION_DONE` (R280). -/
def execCalibrationDone (l : Nat) (ok : Bool) (s : State) : Host.Outcome State Fault Refusal := onLink l s (calibrationDone l ok)
/-- `TRAINING_DONE` (R280). -/
def execTrainingDone (l : Nat) (ok : Bool) (s : State) : Host.Outcome State Fault Refusal := onLink l s (trainingDone l ok)
/-- `EXCHANGE_DONE` (R280, R281). -/
def execExchangeDone (l addr plink : Nat) (enc : Bool) (s : State) : Host.Outcome State Fault Refusal := onLink l s (exchangeDone l addr plink enc)
/-- `AUTHENTICATION_DONE` (R436, R290). -/
def execAuthenticationDone (l : Nat) (peer : Peer) (secret transcript : List Byte) (s : State) : Host.Outcome State Fault Refusal :=
  onLink l s (fun s => authDone l peer.ok peer.chain secret transcript (s.pendIf 4 (decide ((s.link l).st = 4))))
/-- `REKEY` (R436, R289). -/
def execRekey (l : Nat) (peer : Peer) (secret transcript : List Byte) (s : State) : Host.Outcome State Fault Refusal :=
  onLink l s (fun s => rekey l peer.ok peer.chain secret transcript (s.pendIf 4 (decide ((s.link l).st = lkUp) && (s.link l).enc)))
/-- `PACKET_FORWARD` (R283 to R286). -/
def execPacketForward (s : State) : Host.Outcome State Fault Refusal := .next (packetForward s)
/-- `PACKET_DELIVER` (R279). -/
def execPacketDeliver (s : State) : Host.Outcome State Fault Refusal := .next (packetDeliver s)
/-- `CREDIT_STALL` (R276). -/
def execCreditStall (l v : Nat) (s : State) : Host.Outcome State Fault Refusal := onLink l s (creditStall l v)

end Sys2Proof.Machine
end

