-- ==== Sys2Proof/Machine/Crs.lean ====
section
/-!
DEFINITION. Course time (R250 to R256): roles, synchronisation and lock states; and the step ledger (R261 to R264).
-/

namespace Sys2Proof.Machine

open Sys2Proof

/-! ### Registers -/

def crsCtrl (s : State) : W64 := s.reg 0x7F00 0x500008
def crsLimits (s : State) : W64 := s.reg 0x03840003E8000004 0x500010
def crsLead (s : State) : Bool := bitOf (crsCtrl s) 1
def crsParent (s : State) : Nat := bitsOf (crsCtrl s) 14 8
def crsTol (s : State) : Nat := bitsOf (crsLimits s) 63 48
def crsHold (s : State) : Nat := bitsOf (crsLimits s) 47 24
def crsLeadMin (s : State) : Nat := bitsOf (crsLimits s) 7 0
/-- CRS_LINK.ASYM of a link, in ticks. -/
def crsAsym (s : State) (l : Nat) : Int := signed 16 (bitsOf (s.reg 0 (0x501000 + 8 * l)) 63 48)

/-- Codes of CRS_CTRL.STATE (R256). -/
def tsStopped : Nat := 0
def tsAcquiring : Nat := 1
def tsLocked : Nat := 2
def tsHoldover : Nat := 3
def tsLost : Nat := 4

/-- Device time in ticks at a tick of the present course (R250). -/
def nowTicks (s : State) (tick : Nat) : Int := s.course.toNat * 9000 + tick % 9000

def crsLinkOf (s : State) (l : Nat) : CrsLink := SMap.get {} l s.u.crs.links
def updCrsLink (l : Nat) (f : CrsLink → CrsLink) (s : State) : State :=
  s.updCrs (fun c => { c with links := SMap.set l (f (crsLinkOf s l)) c.links })

/-! ### Running, leading, following (R252, R256) -/

/-- The effect of RUN changing (R252, R256): no excursion is under way. -/
def runChanged (on : Bool) (s0 : State) : State :=
  let on := on && s0.u.pow.loss == 0
  let s := s0.updCrs (fun c => { c with beyond := false })
  if !on then s.updCrsSt (fun c => { c with st := tsStopped })
  else if crsLead s then s.updCrsSt (fun c => { c with st := tsLocked, tick := 0 })
  else s.updCrsSt (fun c => { c with st := tsAcquiring, tick := 0, synced := false, good := 0 })

/-- The effect of LEAD changing: a follower in HOLDOVER that is promoted is LOCKED under its own counter (R256). [DEDUCED: log 73] -/
def leadChanged (on : Bool) (s : State) : State :=
  if on && decide (s.u.crs.st = tsHoldover) then s.updCrsSt (fun c => { c with st := tsLocked, steer := 0 }) else s

/-- The offset of a sync while LOCKED: one event for each excursion beyond TOL (R256). -/
def excursion (off : Int) (s : State) : State :=
  let out := decide (crsTol s < off.natAbs)
  let s1 := s.updCrs (fun c => { c with beyond := out })
  if out && !s.u.crs.beyond then s1.raise 0x4701 0x7000 none 0 0 else s1

/-- A sync from the parent, with its stamp in ticks and the own tick of its arrival (R254, R256). -/
def syncReceive (l stamp tick : Nat) (s : State) : State :=
  let st := s.u.crs.st
  if l ≠ crsParent s || crsLead s || (st ≠ tsAcquiring && st ≠ tsLocked && st ≠ tsHoldover) then s
  else
    let pt : Int := stamp + (crsLinkOf s l).delay
    let off := pt - nowTicks s tick
    let s1 := (updCrsLink l (fun x => { x with offset := off }) s).updCrs (fun c => { c with steer := off, lastSync := s.course.toNat })
    if st = tsAcquiring then
      if !s.u.crs.synced then
        settle { s1.updCrs (fun c => { c with synced := true, good := 0, steer := 0, tick := (pt % 9000).toNat, lastSync := (pt / 9000).toNat }) with
          course := BitVec.ofNat 64 (pt / 9000).toNat }
      else
        let good := if off.natAbs ≤ crsTol s then s.u.crs.good + 1 else 0
        s1.updCrsSt (fun c => { c with good, beyond := false, st := if 16 ≤ good then tsLocked else tsAcquiring })
    else excursion off (s1.updCrsSt (fun c => { c with st := tsLocked }))

/-- Syncs are sent on the links that lead to a child (R254); the runtime's tree names them. [DEDUCED: log 71] -/
def syncSend (ls : List Nat) (s : State) : State :=
  if s.u.crs.st = tsLocked || s.u.crs.st = tsHoldover then
    ls.foldl (fun s l => if (s.link l).st = lkUp then s.updTx l (fun t => { t with time := t.time ++ [(0, 0)] }) else s) s
  else s

/-- A follower sends a delay request on each link (R254). -/
def delayRequest (s : State) : State :=
  if crsLead s then s
  else (List.range s.nLinks).foldl (fun s l => if (s.link l).st = lkUp then s.updTx l (fun t => { t with time := t.time ++ [(1, 0)] }) else s) s

/-- A delay reply with t2 and t3 arrives at t4, in ticks (R254). [DEDUCED: log 72] -/
def delayReply (l : Nat) (t2 t3 t4 : Int) (s : State) : State :=
  match (crsLinkOf s l).t1 with
  | none => s
  | some t1 =>
    let delay := ((t4 - t1) - (t3 - t2)) / 2
    let off := ((t2 - t1) - (t4 - t3)) / 2 - crsAsym s l / 2
    let s1 := updCrsLink l (fun x => { x with delay, t1 := none }) s
    if l = crsParent s then s1.updCrs (fun c => { c with steer := off }) else s1

/-- No sync for 1,024 courses (R256). -/
def holdoverEnter (s : State) : State :=
  let c := s.u.crs
  if c.st = tsLocked && !crsLead s && decide (c.lastSync + 1024 ≤ s.course.toNat) then
    (s.updCrsSt (fun c => { c with st := tsHoldover, heldAt := s.course.toNat })).raise 0x4702 0x7000 none 0 0
  else s

/-- Holdover longer than HOLD: every owner that holds an arm gets the event, and those arms are cancelled (R256). -/
def syncLost (s : State) : State :=
  let c := s.u.crs
  if c.st = tsHoldover && decide (c.heldAt + crsHold s < s.course.toNat) then
    (dedupe (c.arms.map armOwner)).foldl (fun s p => cancelArms p (s.raise 0x8701 0x7000 (some p) 0 0)) (s.updCrsSt (fun c => { c with st := tsLost }))
  else s

/-- A TIME flit arrives (R273): one whose CRC fails is discarded. `tick` is the own tick of arrival. -/
def timeFlitReceive (l : Nat) (f : BitVec 2048) (tick : Nat) (s : State) : State :=
  let x := s.link l
  let b := leBytes 256 f.toNat
  let w := leNat (b.take 4)
  if (x.st ≠ 4 && x.st ≠ lkUp) || !flitGood b || !Nat.testBit w 29 then s
  else
    let s1 := takeWord l w (((b.drop 4).take 4).map (fun c => c.toNat)) s
    let pay := BitVec.ofNat 1952 (leNat ((b.drop 8).take 244))
    match Config.timeKind pay with
    | 0 => syncReceive l (Config.timeStamp pay) tick s1
    | 1 => s1.updTx l (fun t => { t with time := t.time ++ [(2, (nowTicks s tick).toNat)] })
    | _ => delayReply l (Config.timeT2 pay) (Config.timeStamp pay) (nowTicks s tick) s1

/-! ### The step ledger (R262 to R264) -/

/-- The record's tensor entries: those its history programs left, and for an entry without one what the table holds. -/
def recordEntries (s : State) (r : StepRec) : List Line :=
  (validEntries s).map (fun x => (SMap.find x r.entries).getD (ledgerTensor s s (scaleBase s + 512 * x) (r.step.toNat % 2) r.step false false))

/-- A record is a replay's: its step lies at or below FLT_O_HORIZON (R395), or the job has begun the step before, which its flag says (R262). [DEDUCED: log 79] -/
def isReplay (s : State) (r : StepRec) : Bool :=
  Nat.testBit r.flags 1 || (match (s.fltOwner r.own).horizon with
    | some h => decide (r.step.toNat ≤ h)
    | none => false)

/-- The bytes of a ledger record (R263). -/
def recordBytes (s : State) (r : StepRec) : List Byte :=
  let es := recordEntries s r
  let warm := es.any (fun e => bitOf e 40)
  let fl := r.flags ||| (if isReplay s r then 2 else 0) ||| (if r.noise.isNone then 4 else 0) ||| (if warm then 32 else 0)
  let nz := r.noise.getD [0, 0, 0, 0, 0]
  let w4 := fun n => leBytes 4 (min n (2 ^ 32 - 1))
  leBytes 4 0x5A4C4447 ++ leBytes 2 1 ++ leBytes 2 fl ++ leBytes 8 r.step.toNat ++ leBytes 8 r.gauge.toNat ++ leBytes 8 r.job.toNat ++
  leBytes 4 s.devAddr ++ leBytes 4 es.length ++ leBytes 8 r.start ++ leBytes 8 r.stop ++
  (List.range 16).flatMap (fun i => leBytes 4 (SMap.get 0xFFFFFFFF i r.marks)) ++ leBytes 8 r.shard.toNat ++
  nz.flatMap (fun v => leBytes 4 v) ++ leBytes 4 0 ++ r.swatch.flatMap w4 ++ leBytes 4 0 ++ leBytes 8 r.fill ++ leBytes 8 r.stall ++
  w4 r.evInfo ++ w4 r.evCorr ++ leBytes 64 0 ++ es.flatMap (fun e => leBytes 64 e.toNat)

def ledgerBase (s : State) : Nat := bitsOf (s.reg 0 0x500040) 47 6 * 64

/-- The oldest waiting record is written if its history programs have ended and the ring has room (R262, R264). -/
def ledgerWrite (s : State) : State :=
  match s.u.crs.closed with
  | [] => s
  | r :: rest =>
    if !r.ready then s
    else
      let b := recordBytes s r
      let n := b.length / 64
      match ledgerPlace s n with
      | none => s
      | some o =>
        let cap := bitsOf (s.reg 0 0x500040) 63 48 * 16384
        let h := s.u.crs.head
        let skip := if o ≠ h then [(ledgerBase s + 64 * h, leBytes 4 0x5A4C534B ++ List.replicate 60 0)] else []
        (putDev { fn := some r.own, ws := skip ++ [(ledgerBase s + 64 * o, b)] } s).updCrs (fun c => { c with
          closed := rest, head := (o + n) % cap
          written := SMap.set r.own (max (SMap.get 0 r.own c.written) r.step.toNat) c.written })

/-- Write waiting records while there is room. -/
def ledgerDrain : Nat → State → State
  | 0, s => s
  | n + 1, s => if (ledgerWrite s).u.crs.closed.length < s.u.crs.closed.length then ledgerDrain n (ledgerWrite s) else s

/-! ### The meanings -/

/-- `SYNC_SEND` (R254). -/
def execSyncSend (ls : List Nat) (s : State) : Host.Outcome State Fault Refusal := .next (syncSend ls s)
/-- `SYNC_RECEIVE` (R254, R256). -/
def execSyncReceive (l stamp tick : Nat) (s : State) : Host.Outcome State Fault Refusal := onLink l s (syncReceive l stamp tick)
/-- `DELAY_REQUEST` (R254). -/
def execDelayRequest (s : State) : Host.Outcome State Fault Refusal := .next (delayRequest s)
/-- `DELAY_REPLY` (R254). -/
def execDelayReply (l t2 t3 t4 : Nat) (s : State) : Host.Outcome State Fault Refusal := onLink l s (delayReply l t2 t3 t4)
/-- `HOLDOVER_ENTER` (R256). -/
def execHoldoverEnter (s : State) : Host.Outcome State Fault Refusal := .next (holdoverEnter s)
/-- `SYNC_LOST` (R256). -/
def execSyncLost (s : State) : Host.Outcome State Fault Refusal := .next (syncLost s)
/-- `TIME_FLIT_RECEIVE` (R273, R254). -/
def execTimeFlitReceive (l : Nat) (f : BitVec 2048) (tick : Nat) (s : State) : Host.Outcome State Fault Refusal :=
  onLink l s (timeFlitReceive l f tick)
/-- `LEDGER_RECORD_WRITE` (R264). -/
def execLedgerRecordWrite (s : State) : Host.Outcome State Fault Refusal := .next (ledgerWrite s)

end Sys2Proof.Machine
end

