-- ==== Sys2Proof/Machine/Col.lean ====
section
/-!
DEFINITION. The collective engine (R294 to R324): groups, conversations, how data moves under grants, chains, barriers.
-/

namespace Sys2Proof.Machine

open Sys2Proof

/-! ### Packets (R303) -/

/-- The 48-byte collective header. [DEDUCED: log 87] -/
def colHdr (op flags gid epoch role seq hash off pos dest step dig : Nat) : List Byte :=
  leBytes 1 op ++ leBytes 1 flags ++ leBytes 2 gid ++ leBytes 2 epoch ++ leBytes 2 role ++ leBytes 4 seq ++ leBytes 4 hash ++ leBytes 8 off ++
  leBytes 4 pos ++ leBytes 4 dest ++ leBytes 8 step ++ leBytes 4 dig ++ leBytes 4 0

/-- Header fields of a collective packet. -/
def Pkt.c (p : Pkt) (i n : Nat) : Nat := leNat ((p.body.drop i).take n)
def Pkt.cOp (p : Pkt) : Nat := p.c 0 1
def Pkt.cFlags (p : Pkt) : Nat := p.c 1 1
def Pkt.cGid (p : Pkt) : Nat := p.c 2 2 % 4096
def Pkt.cEpoch (p : Pkt) : Nat := p.c 4 2
def Pkt.cRole (p : Pkt) : Nat := p.c 6 2
def Pkt.cSeq (p : Pkt) : Nat := p.c 8 4
def Pkt.cHash (p : Pkt) : Nat := p.c 12 4
def Pkt.cOff (p : Pkt) : Nat := p.c 16 8
def Pkt.cPos (p : Pkt) : Nat := p.c 24 4
def Pkt.cDest (p : Pkt) : Nat := p.c 28 4
def Pkt.cData (p : Pkt) : List Byte := p.body.drop 48

/-! ### Registers and groups (R294 to R297) -/

def colCtrl (s : State) : W64 := s.reg 0x000007D000000000 0xA00000
def colOn (s : State) : Bool := bitOf (colCtrl s) 0
def colWindow (s : State) : Nat := bitsOf (colCtrl s) 63 32
def groupBase (s : State) : Nat := bitsOf (s.reg 0 0xA00008) 47 6 * 64

def wordEp (w : Nat) : Nat := (w >>> 20) % 256
def wordDev (w : Nat) : Nat := w % 2 ^ 20

/-- A member word is valid (R294); one of this device names an enabled unit (R3). -/
def wordOk (s : State) (w : Nat) : Bool :=
  let ep := wordEp w
  decide (w < 2 ^ 28) && (decide (ep < 0xC0) || decide (ep = 0xFE)) &&
    (decide (wordDev w ≠ s.devAddr) || decide (ep = 0xFE) || (if ep < 0x80 then decide (ep < s.nCores) else decide (ep - 0x80 < s.nCh)))

/-- Segment of a rank, its first and its last rank. -/
def Group.segLen (g : Group) : Nat := if grSeg g.e = 0 then max 1 g.n else grSeg g.e
def Group.segOf (g : Group) (r : Nat) : Nat := r / g.segLen
def Group.segFirst (g : Group) (r : Nat) : Nat := g.segOf r * g.segLen
def Group.segLast (g : Group) (r : Nat) : Nat := min (g.segFirst r + g.segLen - 1) (g.n - 1)
def Group.lastSeg (g : Group) : Nat := g.segOf (g.n - 1)
/-- Canonical position of position `pos` of rank r (R306). -/
def Group.canon (g : Group) (r pos : Nat) : Nat := (List.range r).foldl (fun a i => a + g.count i) pos

def updGroup (i : Nat) (f : Group → Group) (s : State) : State :=
  match s.group i with
  | some g => s.updCol (fun t => { t with groups := SMap.set i (f g) t.groups })
  | none => s

/-- Local member positions of a group. -/
def localPositions (s : State) (g : Group) : Nat :=
  (List.range g.n).foldl (fun a r => if wordDev (g.member r) = s.devAddr then a + g.count r else a) 0

/-- Read a group-table entry and its lists. -/
def readGroup (s : State) (i : Nat) : Group :=
  let e := s.line (groupBase s + 64 * i)
  let n := if grN e ≤ 65536 then grN e else 0
  let pc := byteField e 30 6
  let words := fun a k => (List.range k).map (fun j => s.rd (a + 4 * j) 4)
  let members := words (byteField e 24 6) n
  let pcount := if pc = 0 then [] else (List.range n).map (fun j => s.rd (pc + 2 * j) 2)
  let fanout := words (byteField e 36 6) (min (grFanN e) 255)
  let ws := [grN e, grSeg e, grTerm e] ++ members ++ pcount ++ fanout
  { e, members, pcount, fanout, ghash := dhash (ws.map (fun v => BitVec.ofNat 64 v)) }

/-- A conversation of a group is open here. -/
def groupOpen (s : State) (i : Nat) : Bool := s.u.col.convs.any (fun c => c.gid == i && c.st != .done)

/-- The cases of R296 in which a load is refused. -/
def groupBad (s : State) (i : Nat) (g : Group) : Bool :=
  decide (32 ≤ grFlags g.e) || decide ((grFlags g.e >>> 3) % 4 = 3) || decide (byteField g.e 20 4 ≠ 0) || decide (byteField g.e 42 22 ≠ 0) ||
  decide (255 < grFanN g.e) || !Nat.testBit (grFlags g.e) 0 || g.members.isEmpty || decide (grN g.e > 65536) ||
  (g.members ++ g.fanout).any (fun w => !wordOk s w) || (decide (grTerm g.e ≠ 0xFFFFFFFF) && !wordOk s (grTerm g.e)) ||
  g.pcount.any (fun c => decide (c = 0)) || (decide (grSeg g.e ≠ 0) && !g.pcount.isEmpty) || groupOpen s i ||
  decide (16384 < s.u.col.groups.foldl (fun a e => if e.1 = i then a else a + localPositions s e.2) (localPositions s g)) ||
  (g.side && decide (1024 < g.n)) || g.fanout.any (fun w => decide (wordDev w = wordDev g.term))

/-- D0 of a collective event (R370). -/
def colD0 (gid epoch seq : Nat) : W64 := BitVec.ofNat 64 (gid % 4096 + epoch % 65536 * 2 ^ 16 + seq % 2 ^ 32 * 2 ^ 32)
def colD1 (mine theirs : Nat) : W64 := BitVec.ofNat 64 (mine % 2 ^ 32 + theirs % 2 ^ 32 * 2 ^ 32)

/-- [DEDUCED: log 96] -/
def colRaise (code : Nat) (own : Option Nat) (gid epoch seq mine theirs : Nat) (s : State) : State :=
  s.raise code 0x6000 own (colD0 gid epoch seq) (colD1 mine theirs)

/-- Nothing of a group's earlier conversations is left once it is loaded anew or unloaded: its sequences begin at 0 again (R296). -/
def forgetGroup (i : Nat) (t : ColSt) : ColSt :=
  { t with
    convs := t.convs.filter (fun c => c.gid != i)
    gone := t.gone.filter (fun e => e.1 != i)
    seen := t.seen.filter (fun a => a.gid != i)
    early := t.early.filter (fun p => p.cGid != i)
    asks := t.asks.filter (fun p => p.gid != i)
    fans := t.fans.filter (fun f => f.gid != i)
    fin := t.fin.filter (fun e => e.1 != i) }

/-- `COL_GROUP_LOAD.LOAD` (R296). -/
def groupPut (i : Nat) (s : State) : State :=
  let g := readGroup s i
  if groupBad s i g then colRaise 0x8306 (s.ownerOfTag (grTag g.e)) i (grEpoch g.e) 0 0 0 s
  else s.updCol (fun t => { forgetGroup i t with groups := SMap.set i g t.groups })

/-- The load, unless the entry or one of its lists reads uncorrectable (R236). -/
def groupLoad (i : Nat) (s : State) : State :=
  let a := groupBase s + 64 * i
  let e := s.line a
  let n := if grN e ≤ 65536 then grN e else 0
  s.guardRead none [(a, 64), (byteField e 24 6, 4 * n), (byteField e 30 6, if byteField e 30 6 = 0 then 0 else 2 * n), (byteField e 36 6, 4 * min (grFanN e) 255)] (groupPut i)

/-- `COL_GROUP_LOAD.UNLOAD` (R296). -/
def groupUnload (i : Nat) (s : State) : State :=
  match s.group i with
  | none => s
  | some g => if groupOpen s i then colRaise 0x8306 (s.ownerOfTag (grTag g.e)) i (grEpoch g.e) 0 0 0 s
    else s.updCol (fun t => { forgetGroup i t with groups := SMap.erase i t.groups })

/-- A group whose EPOCH is not its owner's current epoch is dormant (R327). -/
def dormant (s : State) (g : Group) : Bool :=
  match groupOwner s g with
  | some p => decide (grEpoch g.e ≠ curEpoch s p)
  | none => false

/-! ### Conversations -/

def findConv (s : State) (id : Nat) : Option Conv := s.u.col.convs.find? (fun c => c.id == id)
def updConv (id : Nat) (f : Conv → Conv) (s : State) : State :=
  s.updCol (fun t => { t with convs := t.convs.map (fun c => if c.id == id then f c else c) })
def Conv.stream (c : Conv) (k : Nat) : Stream := SMap.get {} k c.streams
def updStream (id k : Nat) (f : Stream → Stream) (s : State) : State :=
  updConv id (fun c => { c with streams := SMap.set k (f (c.stream k)) c.streams }) s

/-- The front moves past the packets behind it that are here (fuel bounds them). -/
def Stream.close : Nat → Stream → Stream
  | 0, x => x
  | n + 1, x => if x.gaps.contains x.front then Stream.close n { x with front := x.front + 1, gaps := x.gaps.erase x.front } else x

/-- Packet k of a stream has been taken in. -/
def Stream.take (k : Nat) (x : Stream) : Stream := Stream.close (x.gaps.length + 1) { x with got := x.got + 1, gaps := k :: x.gaps }

def openCount (s : State) : Nat := (s.u.col.convs.filter (fun c => c.st != .done)).length

/-- Bytes of an element of a reduction. -/
def elemSize (l : Line) : Nat := if rqElem l % 16 = 0xA then 5 else 4

/-- Descriptor hashes (R299). -/
def hash32 (ws : List Nat) : Nat := (dhash (ws.map (fun v => BitVec.ofNat 64 v))).toNat % 2 ^ 32
def reqHash (g : Group) (l : Line) : Nat :=
  let op := byteField l 0 1
  if op = 8 then hash32 [op, rqNb l, g.ghash.toNat]
  else hash32 [op + 256 * rqElem l + 65536 * (if rqAll l then 1 else 0), rqSize l, rqRoot l, g.ghash.toNat]

/-- Member word of an endpoint of this device. -/
def ownWord (s : State) (ep : Nat) : Nat := ep * 2 ^ 20 + s.devAddr

/-- Whether an endpoint is member `rank`, or its registered backup: none is neither, true a backup (R301, R315). -/
def memberAs (s : State) (g : Group) (rank ep : Nat) : Option Bool :=
  if decide (g.n ≤ rank) then none
  else if g.member rank = ownWord s ep then some false
  else if SMap.find rank g.backups == some (ownWord s ep) then some true
  else none

/-- The cases of R301 for a request by endpoint ep: kind 0 SEND, 1 RECV, 2 CHAIN, 3 EDF; own is the issuer's owner. -/
def reqBad (s : State) (kind ep : Nat) (own : Option Nat) (l : Line) : Bool :=
  let op := byteField l 0 1
  let fl := rqFlags l
  let red := op = 6 || op = 7
  !colOn s || reqOpBad kind op || decide (16 ≤ fl) || decide (16 ≤ byteField l 3 1) || decide (64 ≤ rqElem l) || decide (64 ≤ byteField l 9 1) ||
  decide (16 ≤ byteField l 10 1) || decide (byteField l 11 1 ≠ 0) || decide (byteField l 60 4 ≠ 0) ||
  (match s.group (rqGroup l) with
    | none => true
    | some g =>
      (match own with
        | some p => decide (grTag g.e ≠ cfgTag (s.owner p).cfg)
        | none => decide (ep < 0x80)) ||
      (memberAs s g (rqRank l) ep).isNone || decide (g.count (rqRank l) ≤ rqPos l) ||
      decide (rqSize l = 0) ||
      (if red then !([9, 0xA].contains (rqElem l % 16)) || decide (2 < rqElem l / 16) || decide (rqSize l % elemSize l ≠ 0) || decide (rqStg l = 0) ||
          decide (8 < rqStg l) || (decide (ep < 0x80) && (decide (rqStage l % 64 ≠ 0) || decide (spSize < rqStage l + rqStg l * g.ppc * 8192)))
        else decide (rqElem l ≠ 0)) ||
      (decide (op ≠ 2) && decide (rqRoot l ≠ 0)) || (decide (op = 2) && decide (g.n ≤ rqRoot l)) || (!red && decide (rqPos l ≠ 0)) ||
      (decide (op = 5) && decide (g.n ≠ 2)) || (decide (op = 8) && decide (rqNb l = 0)) ||
      (decide (op = 2) && decide (kind ≠ 3) && (decide (kind = 0) != decide (rqRoot l = rqRank l))) ||
      (rqAll l && (decide (op ≠ 6) || g.termRank.isNone)) ||
      (g.pcount.any (fun c => decide (1 < c)) && decide (op ≠ 6)) ||
      (Nat.testBit fl 0 && decide (op ≠ 1)) || (Nat.testBit fl 1 && !Nat.testBit fl 0) ||
      (decide (op ≠ 8) && decide (rqDl l ≠ 0) && decide (rqDl l ≤ rqNb l)))

/-- The master that issued a conversation is frozen (R298). -/
def freezeIssuer (ep : Nat) (s : State) : State := if ep < 0x80 then State.freezeCoreAt ep s else s

/-- A request ends without a signal: it is no longer outstanding at its core (R149). -/
def reqGone (ep : Nat) (sem : Option Nat) (s : State) : State :=
  if ep < 0x80 then (match sem with
    | some m => s.updCore ep (fun k => { k with reqs := k.reqs.erase m })
    | none => s) else s

/-- The conversations of a group and sequence at this device are abandoned (R304); their result areas hold free bytes. -/
def abandonSeq (gid seq : Nat) (s : State) : State :=
  let gone := s.u.col.convs.filter (fun c => c.gid == gid && c.seq == seq)
  let s1 := s.updCol (fun t => { t with
    convs := t.convs.filter (fun c => c.gid != gid || c.seq != seq), gone := (gid, seq) :: t.gone
    pieces := t.pieces.filter (fun p => p.gid != gid || p.seq != seq)
    asks := t.asks.filter (fun p => p.gid != gid || p.seq != seq)
    fans := t.fans.filter (fun f => f.gid != gid || f.seq != seq)
    staged := gone.foldl (fun m c => if c.staged then SMap.set c.ep (SMap.get 0 c.ep m - 1) m else m) t.staged })
  spoil s gone (gone.foldl (fun s c => reqGone c.ep c.sem s) s1)

/-- Abandon with an event. -/
def abandonWith (code : Nat) (c : Conv) (mine theirs : Nat) (s : State) : State :=
  colRaise code c.own c.gid c.epoch c.seq mine theirs (abandonSeq c.gid c.seq s)

/-- Where a position's counter is kept: a backup counts its own (R297, R315). -/
def seqKey (rank pos : Nat) (backup : Bool) : Nat := 65536 * rank + pos + (if backup then 2 ^ 32 else 0)

/-- Take the sequence number of a position (R297). -/
def takeSeq (gid rank pos : Nat) (backup : Bool) (g : Group) (s : State) : Nat × State :=
  let k := seqKey rank pos backup
  let q := SMap.get 0 k g.seqs
  (q, updGroup gid (fun g => { g with seqs := SMap.set k ((q + 1) % 2 ^ 32) g.seqs }) s)

/-- Sequence a lies before b, modulo 2^32 (R297). -/
def seqBefore (a b : Nat) : Bool := decide ((b + 2 ^ 32 - a % 2 ^ 32) % 2 ^ 32 ≠ 0) && decide ((b + 2 ^ 32 - a % 2 ^ 32) % 2 ^ 32 ≤ 2 ^ 31)

/-- The member's next position for its sequence (R309): every earlier position of the member has issued it. -/
def posInOrder (g : Group) (rank pos : Nat) (backup : Bool) : Bool :=
  decide (pos = 0) || seqBefore (SMap.get 0 (seqKey rank pos backup) g.seqs) (SMap.get 0 (seqKey rank (pos - 1) backup) g.seqs)

/-- A conversation is held in GATED (R304, R319). -/
def isGated (s : State) (g : Group) (c : Conv) : Bool :=
  let nb := if c.kind = 0 then rqNb c.blk else 0
  (decide (c.op ≠ 8) && decide (nb ≠ 0) && decide (s.course.toNat < nb)) ||
  (g.gated && (match g.mark with
    | some m => decide (m < c.seq)
    | none => true))

/-! ### Sending packets (R303) -/

/-- Virtual channel of a packet type (R303). -/
def colVc (ty : Nat) : Nat := if ty ≤ 2 then 0 else if ty ≤ 4 then 1 else 2

/-- Send a collective packet to a device. The flow label is the group ID. -/
def sendCol (g : Group) (gid ty dev : Nat) (hdr data : List Byte) (s : State) : State :=
  s.sendPkt (colVc ty) ty (grTag g.e) gid dev (hdr ++ data)

/-- Devices of a rank: its member's and, where the value goes to both, its backup's (R315). -/
def rankDevs (g : Group) (r : Nat) (both : Bool) : List Nat :=
  wordDev (g.member r) :: (if both then (SMap.find r g.backups).toList.map wordDev else [])

/-! ### The shape of an operation -/

def dataBytes : Nat := 8192
/-- AF40 values of a chain packet: the most that 8,192 bytes hold. -/
def chainVals : Nat := 1638

/-- Values of a chain's piece, and its pieces. -/
def Conv.elems (c : Conv) : Nat := if c.kind = 0 then rqSize c.blk / elemSize c.blk else c.vals.length
def Conv.pieces (g : Group) (c : Conv) : Nat := if c.op = 7 then g.n else 1
/-- Packets of a piece and of the whole chain. -/
def Conv.perPiece (c : Conv) : Nat := max 1 (cdiv c.elems chainVals)
def Conv.chainPkts (g : Group) (c : Conv) : Nat := c.pieces g * c.perPiece
def isChain (op : Nat) : Bool := op = 6 || op = 7 || op = 9 || op = 0xA || op = 0xB
def Conv.all (c : Conv) : Bool := if c.kind = 0 then rqAll c.blk else if c.op = 9 then bitOf c.desc 104 else c.op = 0xB
/-- Bytes of a contribution of an operation that is no chain. -/
def Conv.size (c : Conv) : Nat := if c.kind = 3 then c.data.length else rqSize c.blk
def Conv.bytePkts (c : Conv) : Nat := cdiv c.size dataBytes

/-- Member ranks by canonical broadcast path (R318): to which ranks a rank forwards a broadcast from a root, and from which it comes. -/
def bcTargets (g : Group) (root r : Nat) : List Nat :=
  let first := g.segFirst r
  let last := g.segLast r
  let heads := if r = root then ((List.range (g.lastSeg + 1)).map (fun k => k * g.segLen)).filter (fun h => decide (g.segOf h ≠ g.segOf root)) else []
  let nxt := if g.segOf r = g.segOf root then
      (let w := if r = last then first else r + 1; if w = root then [] else [w])
    else (if r = last then [] else [r + 1])
  nxt ++ heads
def bcPrev (g : Group) (root r : Nat) : Nat :=
  if g.segOf r = g.segOf root then (if r = g.segFirst r then g.segLast r else r - 1) else (if r = g.segFirst r then root else r - 1)

/-- A rank that a chain's result stops at: the terminal's, or the piece's own in a chain-reduce-scatter; none where no member takes it. -/
def resRank (g : Group) (op piece : Nat) : Option Nat := if op = 7 then some piece else g.termRank

/-- Bytes before packet k of a stream: AF40 values until the terminal has narrowed them (R307). -/
def Conv.bytesAt (c : Conv) (stream k : Nat) : Nat :=
  if isChain c.op then
    let w := if stream = 3 && ((decide (c.kind = 0) && decide (rqElem c.blk % 16 = 9)) || decide (c.op = 0xB)) then 4 else 5
    (k / c.perPiece * c.elems + k % c.perPiece * chainVals) * w
  else min (k * dataBytes) c.size

/-- Whether this member takes results of a chain at the end of it: terminal, rank of a piece. -/
def Conv.takes (g : Group) (c : Conv) : Bool := isChain c.op && c.op != 0xA && (decide (c.op = 7) || g.termRank == some c.rank) && decide (c.pos + 1 = g.count c.rank)
/-- Result packets that reach a member. -/
def Conv.resPkts (c : Conv) : Nat := c.perPiece

/-- Incoming streams of a conversation: rank, stream (0 contributions and running sums, 1 results, 2 segment totals), packets. -/
def Conv.ins (g : Group) (c : Conv) : List (Nat × Nat × Nat) :=
  let others := (List.range g.n).filter (fun r => decide (r ≠ c.rank))
  if c.op = 1 || c.op = 4 then others.map (fun r => (r, 0, c.bytePkts))
  else if c.op = 2 then (if c.rank = rqRoot c.blk then [] else [(bcPrev g (rqRoot c.blk) c.rank, 0, c.bytePkts)])
  else if c.op = 5 then (if c.recv then [(1 - c.rank, 0, c.bytePkts)] else [])
  else if isChain c.op then
    (if decide (c.pos = 0) && decide (c.rank ≠ g.segFirst c.rank) then [(c.rank - 1, 0, c.chainPkts g)] else []) ++
    (if decide (c.pos + 1 = g.count c.rank) && decide (c.rank = g.segLast c.rank) && decide (g.segOf c.rank ≠ 0) then [(g.segFirst c.rank - 1, 2, c.chainPkts g)] else []) ++
    (if c.takes g && decide (c.rank ≠ g.n - 1) then [(g.n - 1, 1, c.resPkts)] else []) ++
    (if c.all && decide (c.pos + 1 = g.count c.rank) then (match g.termRank with
      | some t => if t = c.rank then [] else [(bcPrev g t c.rank, 3, c.resPkts)]
      | none => []) else [])
  else []

/-- Where a finished value of a chain goes from its last position here: rank (g.n for a terminal that is no member), stream. -/
def chainDest (g : Group) (op r piece : Nat) : Nat × Nat :=
  if r ≠ g.segLast r then (r + 1, 0)
  else if g.segOf r ≠ g.lastSeg then (g.segLast (r + 1), 2)
  else (if op = 0xA then g.n else (resRank g op piece).getD g.n, 1)

/-- Outgoing streams: rank, stream. -/
def Conv.outs (g : Group) (c : Conv) : List (Nat × Nat) :=
  let others := (List.range g.n).filter (fun r => decide (r ≠ c.rank))
  if c.op = 1 || c.op = 4 then others.map (fun r => (r, 0))
  else if c.op = 2 then (bcTargets g (rqRoot c.blk) c.rank).map (fun r => (r, 0))
  else if c.op = 5 then (if c.recv then [] else [(1 - c.rank, 0)])
  else if isChain c.op then
    (if c.pos + 1 ≠ g.count c.rank then []
     else if c.op = 7 && decide (c.rank = g.n - 1) then others.map (fun r => (r, 1))
     else (let d := chainDest g c.op c.rank 0; if d.1 = c.rank then [] else [d])) ++
    (if c.all && decide (c.pos + 1 = g.count c.rank) then (match g.termRank with
      | some t => (bcTargets g t c.rank).map (fun r => (r, 3))
      | none => []) else [])
  else []

/-- Chunks of a stream, and how many we grant at first (R302). -/
def Conv.window (c : Conv) (g : Group) (pkts : Nat) : Nat :=
  let total := cdiv pkts g.ppc
  let stg := if c.kind = 0 then rqStg c.blk else 1
  if stg = 0 then total else min stg total

/-- A stream's number: of a rank and 0 contributions and running sums, 1 results, 2 segment totals, 3 the broadcast of a result. -/
def skey (rank stream : Nat) : Nat := 4 * rank + stream

/-- DEST of a packet for a rank: zero outside all-to-all and chain-reduce-scatter (R303). -/
def destOf (op rank : Nat) : Nat := if op = 4 || op = 7 then rank else 0

/-- Send a grant: ROLE is the rank that grants, POS the rank granted and the stream, OFFSET the cumulative chunks. -/
def sendGrant (g : Group) (c : Conv) (rank stream n : Nat) (s : State) : State :=
  (rankDevs g rank true).foldl (fun s d => sendCol g c.gid 0x05 d
    (colHdr c.op (if c.backup then 2 else 0) c.gid c.epoch c.rank c.seq c.hash n (skey rank stream) (destOf c.op rank) 0 0) [] s) s

/-! ### Data of a conversation -/

/-- Element format of a chain's results: 4 bytes narrowed to FP32, or 5 bytes AF40. -/
def Conv.fp32 (c : Conv) : Bool := (decide (c.kind = 0) && decide (rqElem c.blk % 16 = 9)) || decide (c.op = 0xB)
def valBytes (fp32 : Bool) (l : List AF40) : List Byte := l.flatMap (fun v => if fp32 then leBytes 4 (afNarrow v).toNat else leBytes 5 v.toNat)
def unpackVals (b : List Byte) : List AF40 := (chunks 5 b).map (fun c => BitVec.ofNat 40 (leNat c))
def unpackRes (fp32 : Bool) (b : List Byte) : List AF40 := if fp32 then (chunks 4 b).map (fun c => afWiden (BitVec.ofNat 32 (leNat c))) else unpackVals b

/-- The member's own values of chain packet k. -/
def Conv.local_ (s : State) (c : Conv) (k : Nat) : List AF40 :=
  let piece := k / c.perPiece
  let e0 := (k % c.perPiece) * chainVals
  let n := min chainVals (c.elems - e0)
  if c.kind = 0 then
    let a := rqSrc c.blk + piece * rqSize c.blk
    (List.range n).map (fun i =>
      if rqElem c.blk % 16 = 9 then afWiden (BitVec.ofNat 32 (s.rd (a + 4 * (e0 + i)) 4)) else BitVec.ofNat 40 (s.rd (a + 5 * (e0 + i)) 5))
  else (c.vals.drop e0).take n

/-- op of R307. -/
def Conv.comb (c : Conv) (a b : AF40) : AF40 :=
  let r := if c.op = 0xB then 1 else if c.kind = 0 then rqElem c.blk / 16 else 0
  match r with
  | 0 => afAdd a b
  | 1 => afMinMax true a b
  | _ => afMinMax false a b
/-- [DEDUCED: log 93] -/
def combine (c : Conv) (a b : List AF40) : List AF40 := List.zipWith c.comb a b

/-- Where packet k to a rank of an operation that is no chain is read: address and length. -/
def Conv.source (c : Conv) (rank k : Nat) : Nat × Nat :=
  ((if c.op = 4 then rqSrc c.blk + rank * c.size else if c.op = 2 && decide (c.rank ≠ rqRoot c.blk) then rqDst c.blk else rqSrc c.blk) + k * dataBytes,
    min dataBytes (c.size - k * dataBytes))

/-- Where a request's own values of chain packet k are read. -/
def Conv.localAt (c : Conv) (k : Nat) : Nat × Nat :=
  let e0 := (k % c.perPiece) * chainVals
  (rqSrc c.blk + k / c.perPiece * rqSize c.blk + elemSize c.blk * e0, elemSize c.blk * min chainVals (c.elems - e0))

/-- The engine reads bytes for a conversation. While they are out of reach it waits (R234, R402, R415); a read of
memory that is out of reach for good freezes the issuer (R407, R415); data that reads uncorrectable raises its event; both abandon it (R236, R243, R304). Else f goes on. -/
def convRead (c : Conv) (p : Nat × Nat) (f : State → State) (s : State) : State :=
  if memBusy s p.1 p.2 then s.updCol (fun t => { t with stuck := true })
  else if memGone s p.1 p.2 then
    (freezeIssuer c.ep (abandonSeq c.gid c.seq s)).raise 0x8201 0x6000 c.own (BitVec.ofNat 64 p.1) (BitVec.ofNat 64 (2 * (p.2 % 256)))
  else match s.memUe p.1 p.2 with
    | some x => abandonSeq c.gid c.seq (s.raiseUe x c.own)
    | none => f (s.readNote p.1 p.2)

/-- Bytes of packet k towards a stream. -/
def Conv.packet (s : State) (c : Conv) (rank stream k : Nat) : List Byte :=
  if isChain c.op then
    let v := if stream = 3 then SMap.get [] k c.res else
      SMap.get [] (if c.op = 7 && stream = 1 then rank * c.perPiece + k else k) c.made
    let pre := if (c.op = 9 || c.op = 0xA) && stream ≠ 3 then leBytes 16 c.desc.toNat else []
    pre ++ (if stream = 3 then valBytes c.fp32 v else v.flatMap (fun x => leBytes 5 x.toNat))
  else if c.kind = 3 then (c.data.drop (k * dataBytes)).take (min dataBytes (c.size - k * dataBytes))
  else s.bytes (c.source rank k).1 (c.source rank k).2

/-- Packets of an outgoing stream that are ready now, and in all. -/
def Conv.ready (g : Group) (c : Conv) (rank stream : Nat) : Nat × Nat :=
  if isChain c.op then
    (if stream = 3 then (((List.range c.resPkts).takeWhile (fun k => (SMap.find k c.res).isSome)).length, c.resPkts)
     else if c.op = 7 && stream = 1 then (min c.resPkts (c.next - rank * c.perPiece), c.resPkts)
     else (c.next, c.chainPkts g))
  else if c.op = 2 && decide (c.rank ≠ rqRoot c.blk) then ((c.stream (skey (bcPrev g (rqRoot c.blk) c.rank) 0)).front, c.bytePkts)
  else (c.bytePkts, c.bytePkts)

/-- The packet at which the bytes of a stream begin that follow the first n (R348). -/
def Conv.packetsOf (g : Group) (c : Conv) (rank stream n : Nat) : Nat :=
  ((List.range ((c.ready g rank stream).2 + 1)).find? (fun k => decide (n ≤ c.bytesAt stream k))).getD 0

/-- The stamp of a working copy at an address (R215, R317): that of the slice whose working copy lies there, a free value where none does. [DESIGN CHOICE: log 92] -/
def stampOf (s : State) (a : Nat) : W64 × W32 :=
  match (sliceEntries s).find? (fun e => decide (slWc s e = a)) with
  | some e => ((s.slice (slId s e)).stampStep, (s.slice (slId s e)).stampDig)
  | none => (Config.word s.fresh, (Config.word s.fresh).truncate 32)

/-- [DEDUCED: log 88] -/
def pktType (op stream : Nat) : Nat := if stream = 3 then 1 else if isChain op then 2 else if op = 5 then 3 else 1

/-- Send packet k of a stream. -/
def sendStreamPkt (g : Group) (c : Conv) (rank stream k : Nat) (s : State) : State :=
  let data := c.packet s rank stream k
  let tot := (c.ready g rank stream).2
  let lastChunk := decide (k / g.ppc = (tot - 1) / g.ppc)
  let stamp := decide (c.op = 1) && decide (c.kind = 0) && Nat.testBit (rqFlags c.blk) 0
  let st := if stamp then stampOf s (rqSrc c.blk) else (0, 0)
  let fl := (if lastChunk then 1 else 0) + (if c.backup then 2 else 0) + (if stamp then 4 else 0) + (if stream = 2 || (stream = 1 && decide (grSeg g.e ≠ 0)) then 16 else 0)
  let role := if stream = 3 then g.termRank.getD 0 else if c.op = 2 then rqRoot c.blk else c.rank
  let off := if isChain c.op then (k % c.perPiece) * chainVals * (if stream = 3 && c.fp32 then 4 else 5) else k * dataBytes
  let pos := if stream = 2 || (stream = 1 && decide (grSeg g.e ≠ 0)) then g.segOf c.rank else if isChain c.op && stream ≠ 3 then g.canon c.rank c.pos else 0
  let dest := if c.op = 4 then rank else if c.op = 7 then (if stream = 1 then rank else k / c.perPiece) else 0
  let h := fun f => colHdr c.op f c.gid c.epoch role c.seq c.hash off pos dest st.1.toNat st.2.toNat
  let devs := if rank = g.n then [wordDev g.term] else rankDevs g rank (isChain c.op && stream ≠ 3)
  let sd := decide (c.op = 0xA) && g.side
  devs.foldl (fun s d =>
    let s1 := if sd then sendCol g c.gid 0x02 d (h (fl + 8)) (c.outSide.flatMap (fun v => leBytes 4 v)) s else s
    sendCol g c.gid (pktType c.op stream) d (h fl) data s1) s

/-- Send what a stream's grants allow, oldest packet first (fuel bounds the packets). A terminal that is no member
grants by accepting the piece (R312). [DESIGN CHOICE: log 89] -/
def pumpStream (g : Group) (id rank stream : Nat) : Nat → State → State
  | 0, s => s
  | n + 1, s =>
    match findConv s id with
    | none => s
    | some c =>
      let st := c.stream (skey rank stream)
      let allowed := if rank = g.n then (c.ready g rank stream).1 else min (c.ready g rank stream).1 (st.granted * g.ppc)
      let go := fun s => pumpStream g id rank stream n (updConv id (fun x => { x with st := if x.st == .opened then .moving else x.st })
        (updStream id (skey rank stream) (fun x => { x with sent := x.sent + 1 }) (sendStreamPkt g c rank stream st.sent s)))
      if allowed ≤ st.sent then s
      else if c.kind = 0 && !isChain c.op then convRead c (c.source rank st.sent) go s
      else go s

/-- Return grants for the chunks of a stream consumed so far (R302): what is granted stays `window` ahead of what is consumed. -/
def regrant (g : Group) (id rank stream consumed pkts : Nat) (s : State) : State :=
  match findConv s id with
  | none => s
  | some c =>
    let total := cdiv pkts g.ppc
    let want := min total (consumed / g.ppc + c.window g pkts)
    if (c.stream (skey rank stream)).gave < want then
      sendGrant g c rank stream want (updStream id (skey rank stream) (fun x => { x with gave := want }) s)
    else s

/-- What of an incoming stream has been consumed: for a chain, what has been handed on. -/
def Conv.consumed (g : Group) (c : Conv) (rank stream : Nat) : Nat :=
  if isChain c.op && (stream = 0 || stream = 2) then
    (match c.outs g with
      | [] => c.next
      | o :: _ => if c.op = 7 && o.2 = 1 then c.next else if c.pos + 1 ≠ g.count c.rank then c.next else (c.stream (skey o.1 o.2)).sent)
  else (c.stream (skey rank stream)).got

/-! ### Chains (R307 to R311) -/

/-- Launch a chain add for a member's piece on the engine of the slice, or one that the sequence picks (R216). -/
def launchAdd (c : Conv) (s : State) : State :=
  let slice := byteField c.desc 4 4
  let e := match sliceFind s slice with
    | some a => if slEngine s a < s.nCh then slEngine s a else c.seq % s.nCh
    | none => c.seq % s.nCh
  enterLaunch e { own := c.own, blk := mkBlock 2 true (if (sliceFind s slice).isSome then slice else noSlice), conv := c.id, src := 0x6000 } s

/-- First position of a segment: it has no incoming value. -/
def Conv.first (g : Group) (c : Conv) : Bool := decide (c.pos = 0) && decide (c.rank = g.segFirst c.rank)
def Conv.lastPos (g : Group) (c : Conv) : Bool := decide (c.pos + 1 = g.count c.rank)
def Conv.needsSeg (g : Group) (c : Conv) : Bool := c.lastPos g && decide (c.rank = g.segLast c.rank) && decide (g.segOf c.rank ≠ 0)

/-- The value of chain packet k after this position, once all it needs is here. -/
def Conv.value (g : Group) (s : State) (c : Conv) (k : Nat) : Option (List AF40) :=
  let t : Option (List AF40) :=
    if c.op = 0xA then c.own_
    else if c.first g then some (c.local_ s k)
    else (SMap.find k c.runs).map (fun r => combine c r (c.local_ s k))
  match t with
  | none => none
  | some t => if c.needsSeg g then (SMap.find k c.segs).map (fun r => combine c r t) else some t

/-- The side record handed on (R311): this member's slot is in its own record; a spine merges the records. -/
def Conv.sideOut (g : Group) (c : Conv) : List Nat :=
  let own := c.outSide
  if c.needsSeg g then
    let sg := c.segSide.getD []
    (List.range g.n).map (fun r => if r < g.segFirst c.rank then nth 0 sg r else nth 0 own r)
  else own

/-- Whether the chain add of an update piece can be launched: its running sum and side record are here. -/
def Conv.canAdd (g : Group) (c : Conv) : Bool :=
  decide (c.op = 0xA) && !c.asked && c.st != .gated && (c.first g || ((SMap.find 0 c.runs).isSome && (!g.side || c.side.isSome)))

/-- Place a result packet: narrowed at the terminal where the format is FP32, rows of 32 at a core for a chain step (R307, R310). -/
def placeResult (c : Conv) (k : Nat) (v : List AF40) (s : State) : State :=
  if c.kind = 0 then s.store (rqDst c.blk + k * chainVals * (if c.fp32 then 4 else 5)) (valBytes c.fp32 v)
  else if c.op = 9 then
    let cols := byteField c.desc 12 1 % 64
    let base := spBase c.ep + byteField c.desc 8 4
    (List.range 32).foldl (fun s i => s.putBytes (base + 160 * i)
      ((List.range 32).flatMap (fun j => leBytes 5 (if j < cols then (nth 0 v (cols * i + j)).toNat else 0)))) s
  else s

def takeResult (id k : Nat) (v : List AF40) (s : State) : State :=
  match findConv s id with
  | none => s
  | some c => updConv id (fun x => { x with res := SMap.set k v x.res }) (placeResult c k v s)

/-- Make the chain values that can be made at a position, in ascending packet order (fuel bounds the packets). A value stops here where
this member is the last one and the terminal; positions of one member hand on to each other. -/
def makeVals (g : Group) (id : Nat) : Nat → State → State
  | 0, s => s
  | n + 1, s =>
    match findConv s id with
    | none => s
    | some c =>
      let k := c.next
      if c.st == .gated || c.chainPkts g ≤ k then s
      else match c.value g s k with
        | none => s
        | some v =>
          let go := fun s =>
            let piece := k / c.perPiece
            let stop := c.lastPos g && decide (c.rank = g.n - 1) && resRank g c.op piece == some c.rank && decide (c.op ≠ 0xA)
            let s1 := updConv id (fun x => { x with next := k + 1, made := SMap.set k v x.made, outSide := if c.op = 0xA then c.sideOut g else x.outSide }) s
            let s2 := if stop then takeResult id (k % c.perPiece) v s1 else s1
            let s3 := if c.lastPos g then s2 else
              (match s2.u.col.convs.find? (fun d => d.gid == c.gid && d.seq == c.seq && d.rank == c.rank && d.pos == c.pos + 1 && d.backup == c.backup) with
                | some d => updConv d.id (fun x => { x with runs := SMap.set k v x.runs }) s2
                | none => s2)
            makeVals g id n s3
          if c.kind = 0 then convRead c (c.localAt k) go s else go s

/-! ### Driving a conversation -/

/-- The outgoing packets of some streams have been sent; a reduced piece has been accepted by a terminal that is no member (R312). -/
def Conv.sentOf (g : Group) (c : Conv) (outs : List (Nat × Nat)) : Bool :=
  outs.all (fun o => decide ((c.ready g o.1 o.2).2 ≤ (c.stream (skey o.1 o.2)).sent) && (decide (o.1 ≠ g.n) || decide (c.op ≠ 0xA) || c.accepted)) &&
    (!isChain c.op || decide (c.chainPkts g ≤ c.next))

/-- Every outgoing packet has been sent. -/
def Conv.sentAll (g : Group) (c : Conv) : Bool := c.sentOf g (c.outs g)

/-- The staged piece is no longer needed (R311, R312): it has left this device, or its chain add has ended, but the last position keeps the
reduced piece until the terminal accepts it. -/
def Conv.left (g : Group) (c : Conv) : Bool :=
  c.sentOf g ((c.outs g).filter (fun o => decide (o.2 ≠ 3))) || (c.own_.isSome && !(c.outs g).any (fun o => decide (o.1 = g.n)))

/-- Free the staging slot of a drained piece (R311). -/
def freeStage (g : Group) (id : Nat) (s : State) : State :=
  match findConv s id with
  | none => s
  | some c =>
    if c.staged && c.left g then
      (updConv id (fun x => { x with staged := false }) s).updCol (fun t => { t with staged := SMap.set c.ep (SMap.get 0 c.ep t.staged - 1) t.staged })
    else s

/-- Chunks of a gather's result signalled in canonical order (R316): those whose chunk and every chunk before it are visible. -/
def Conv.signalable (g : Group) (c : Conv) : Nat :=
  let per := cdiv c.bytePkts g.ppc
  let have_ := fun r => if r = c.rank then per else
    let n := (c.stream (skey r 0)).front
    if c.bytePkts ≤ n then per else n / g.ppc
  ((List.range g.n).foldl (fun (a : Nat × Bool) r => if a.2 then (a.1 + have_ r, decide (have_ r = per)) else a) (0, true)).1

/-- Add to a semaphore for the engine (R149): an overflow leaves it and raises 0x851A against the core's owner. -/
def colSem (ep sem n : Nat) (s : State) : State :=
  let p := semAdd ep sem n s
  if p.2 then p.1 else s.raise 0x851A 0x6000 (s.ownerOfCore ep) (BitVec.ofNat 64 (sem % 64 + 64 * ep)) 0

def chunkSignal (g : Group) (id : Nat) (s : State) : State :=
  match findConv s id with
  | none => s
  | some c =>
    if c.op = 1 && decide (c.kind = 0) && Nat.testBit (rqFlags c.blk) 3 && decide (c.ep < 0x80) && decide (c.signalled < c.signalable g) then
      settle (colSem c.ep (byteField c.blk 9 1 % 64) (c.signalable g - c.signalled) (updConv id (fun x => { x with signalled := c.signalable g }) s))
    else s

/-- Move everything of an open conversation that can move. -/
def drive (id : Nat) (s : State) : State :=
  match findConv s id with
  | none => s
  | some c => match s.group c.gid with
    | none => s
    | some g =>
      if c.st == .gated then s
      else
        let s1 := if c.canAdd g then launchAdd c (updConv id (fun x => { x with asked := true }) s) else s
        let s2 := if isChain c.op then makeVals g id (c.chainPkts g + 1) s1 else s1
        let s3 := (c.outs g).foldl (fun s o => pumpStream g id o.1 o.2 ((c.ready g o.1 o.2).2 + 1) s) s2
        let s4 := match findConv s3 id with
          | some d => (d.ins g).foldl (fun s i => regrant g id i.1 i.2.1 (d.consumed g i.1 i.2.1) i.2.2 s) s3
          | none => s3
        chunkSignal g id (freeStage g id s4)

/-- Drive a conversation and the positions of the same member behind it. -/
def driveAll (gid seq : Nat) (s : State) : State :=
  (s.u.col.convs.filter (fun c => c.gid == gid && c.seq == seq)).foldl (fun s c => drive c.id s) s

/-- Packets that came before their conversation come again (R302). -/
def requeueEarly (gid seq : Nat) (s : State) : State :=
  let mine := s.u.col.early.filter (fun p => p.cGid == gid && p.cSeq == seq)
  (s.updCol (fun t => { t with early := t.early.filter (fun p => p.cGid != gid || p.cSeq != seq) })).updNet (fun n => { n with inbox := mine ++ n.inbox })

/-- A barrier member's arrival goes to the member of rank N - 1 (R319). -/
def sendArrival (g : Group) (c : Conv) (s : State) : State :=
  sendCol g c.gid 0x06 (wordDev (g.member (g.n - 1))) (colHdr 8 (if c.backup then 2 else 0) c.gid c.epoch c.rank c.seq c.hash 0 0 0 0 0) [] s

/-- The member's own share of a result is copied (R316, R318). -/
def ownCopy (c : Conv) (s : State) : State :=
  if c.kind ≠ 0 then (if c.kind = 3 then updConv c.id (fun x => { x with got := SMap.set c.rank c.data x.got }) s else s)
  else if c.op = 1 then s.store (rqDst c.blk + c.rank * c.size) (s.bytes (rqSrc c.blk) c.size)
  else if c.op = 4 then s.store (rqDst c.blk + c.rank * c.size) (s.bytes (rqSrc c.blk + c.rank * c.size) c.size)
  else if c.op = 2 && decide (c.rank = rqRoot c.blk) then s.store (rqDst c.blk) (s.bytes (rqSrc c.blk) c.size)
  else s

/-- A contribution of a stamped gather is complete (R317). -/
def stampCheck (id role : Nat) (s : State) : State :=
  match findConv s id with
  | none => s
  | some c =>
    let st := c.stream (skey role 0)
    let fl := rqFlags c.blk
    if !(decide (c.op = 1) && decide (c.kind = 0) && Nat.testBit fl 0) then s
    else
      let dg := (digest (s.bytes (rqDst c.blk + role * c.size) c.size) 2).truncate 32
      let a := (if c.ep < 0x80 then spBase c.ep else 0) + rqStamps c.blk + 16 * role
      let bad := dg != st.stampDig || st.stampStep != (s.jobOf c.own).step ||
        (Nat.testBit fl 1 && (decide (s.rd a 8 ≠ st.stampStep.toNat) || decide (s.rd (a + 8) 4 ≠ st.stampDig.toNat)))
      let chk := fun (s : State) => if bad then abandonWith 0x8304 c dg.toNat st.stampDig.toNat s
        else if Nat.testBit fl 1 then s
        else s.store a (leBytes 8 st.stampStep.toNat ++ leBytes 4 st.stampDig.toNat ++ leBytes 4 0)
      if Nat.testBit fl 1 then convRead c (a, 12) chk s else chk s

/-- The member's own contribution to a stamped gather, once its conversation is open. -/
def ownStamp (id : Nat) (s : State) : State :=
  match findConv s id with
  | none => s
  | some c =>
    if decide (c.op = 1) && decide (c.kind = 0) && Nat.testBit (rqFlags c.blk) 0 && c.st != .gated && decide ((c.stream (skey c.rank 0)).got = 0) then
      let st := stampOf s (rqSrc c.blk)
      stampCheck id c.rank (updStream id (skey c.rank 0) (fun x => { x with got := 1, stampStep := st.1, stampDig := st.2 }) s)
    else s

/-- The result area and first grants of a conversation that becomes OPEN (R302, R304), with its own
share and the check of that share's stamp (R316, R317). -/
def openConv (id : Nat) (s : State) : State :=
  match findConv s id with
  | none => s
  | some c => match s.group c.gid with
    | none => s
    | some g =>
      let s1 := updConv id (fun x => { x with st := .opened }) s
      if c.op = 8 then sendArrival g c s1
      else
        let c1 := { c with st := .opened }
        let s2 := ownStamp id (ownCopy c1 s1)
        driveAll c.gid c.seq ((c1.ins g).foldl (fun s i => regrant g id i.1 i.2.1 0 i.2.2 s) s2)

/-- Conversations that waited for memory go on. -/
def driveStuck (s : State) : State :=
  if s.u.col.stuck then (s.u.col.convs.filter (fun c => c.st != .gated && c.st != .done)).foldl (fun s c => drive c.id s) (s.updCol (fun t => { t with stuck := false }))
  else s

/-- Conversations whose gate has opened (R304, R305). -/
def openReleased (s : State) : State :=
  (s.u.col.convs.filter (fun c => c.st == .gated)).foldl (fun s c => match s.group c.gid with
    | some g => if isGated s g c then s else openConv c.id s
    | none => s) s

/-- A conversation begins: it is GATED or OPEN at once (R304). One whose deadline has passed is discarded (R305). -/
def beginConv (c : Conv) (s : State) : State :=
  match s.group c.gid with
  | none => s
  | some g =>
    let late := match g.late with
      | some m => decide (c.seq ≤ m)
      | none => false
    if late || s.u.col.gone.contains (c.gid, c.seq) then reqGone c.ep c.sem s
    else
      let id := s.u.col.nextId
      let prev := (s.u.col.convs.find? (fun d => d.gid == c.gid && d.seq == c.seq && d.rank == c.rank && d.pos + 1 == c.pos && d.backup == c.backup)).elim [] (fun d => d.made)
      let c1 := { c with id, st := .gated, runs := prev }
      let s1 := s.updCol (fun t => { t with
        convs := t.convs ++ [c1], nextId := id + 1
        staged := if c.staged then SMap.set c.ep (SMap.get 0 c.ep t.staged + 1) t.staged else t.staged })
      requeueEarly c.gid c.seq (if isGated s g c1 then s1 else openConv id s1)

end Sys2Proof.Machine
end

