-- ==== Sys2Proof/Machine/ColRx.lean ====
section
/-!
DEFINITION. The collective engine's commands: requests and drained pieces as they are issued, packets as they arrive, completion and
deadlines, amax reductions, digest agreement and fan-out (R297 to R321, R387).
-/

namespace Sys2Proof.Machine

open Sys2Proof

/-! ### Issue (R298, R300, R301, R306) -/

/-- The group's epoch stops an issue (R298, R327). -/
def grpEpochBad (s : State) (g : Group) (epoch : Nat) : Bool := decide (epoch ≠ grEpoch g.e) || dormant s g

/-- The epoch that a party of this device holds against another's, for D1. -/
def localEpoch (s : State) (g : Group) : Nat :=
  match groupOwner s g with
  | some p => curEpoch s p
  | none => grEpoch g.e

/-- Refuse at issue for its epoch: the issuing master is frozen (R298). -/
def epochRefuse (ep gid epoch : Nat) (own : Option Nat) (g : Group) (s : State) : State :=
  colRaise 0x8303 own gid epoch 0 (localEpoch s g) epoch (freezeIssuer ep s)

/-- The first request of operation op that is the oldest of its issuer. -/
def pickReq (op : Nat) (l : List CReq) : Option CReq :=
  l.find? (fun r => decide (byteField r.line 0 1 = op) && (match l.find? (fun q => q.core == r.core) with
    | some q => q == r
    | none => false))

/-- The areas of a request: address, length, and whether it is written. -/
def reqAreas (g : Group) (r : CReq) : List (Nat × Nat × Bool) :=
  let l := r.line
  let recv := if r.kind = 3 then decide (rqDst l ≠ 0) else decide (r.kind = 1)
  reqSpans g l ++ (if byteField l 0 1 = 5 then [(if recv then rqDst l else rqSrc l, rqSize l, recv)] else [])

/-- A span that the engine may not reach for a request; a read of host memory that has waited to its end is one (R337, R402, R407). -/
def areaOut (s : State) (own : Option Nat) (p : Nat × Nat × Bool) : Bool := !s.reach own p.1 p.2.1 p.2.2 || (!p.2.2 && hitsHost p.1 p.2.1 && linkGone s)

/-- A request passes its checks and begins, or is refused, or while its areas are out of reach stays where it is (R234, R298, R301, R306, R309,
R337, R402, R415). [DEDUCED: log 90] -/
def issueReq (r : CReq) (s0 : State) : State :=
  let s : State := { s0 with creqs := s0.creqs.erase r }
  let l := r.line
  let own := if r.core < 0x80 then s.ownerOfCore r.core else none
  let sem := if r.core < 0x80 then some r.sem else none
  let done := reqGone r.core sem
  if reqBad s r.kind r.core own l then done (reqRefuse (match own with
      | some p => some p
      | none => (s.group (rqGroup l)).bind (groupOwner s)) l s)
  else match s.group (rqGroup l) with
  | none => s
  | some g =>
    let gown := groupOwner s g
    let recv := if r.kind = 3 then decide (rqDst l ≠ 0) else decide (r.kind = 1)
    let spans := reqAreas g r
    if grpEpochBad s g (rqEpoch l) then done (epochRefuse r.core (rqGroup l) (rqEpoch l) gown g s)
    else if !posInOrder g (rqRank l) (rqPos l) (memberAs s g (rqRank l) r.core == some true) then done (reqRefuse gown l s)
    else if spans.any (fun p => memBusy s p.1 p.2.1) then s0
    else match spans.find? (areaOut s gown) with
    | some p => (done (freezeIssuer r.core s)).raise 0x8201 0x6000 gown (BitVec.ofNat 64 p.1) (BitVec.ofNat 64 ((if p.2.2 then 1 else 0) + 2 * (p.2.1 % 256)))
    | none => match (spans.filter (fun p => !p.2.2)).findSome? (fun p => s.memUe p.1 p.2.1) with
    | some x => done (s.raiseUe x gown)
    | none =>
      let s := (spans.filter (fun p => !p.2.2)).foldl (fun s p => s.readNote p.1 p.2.1) s
      let backup := memberAs s g (rqRank l) r.core == some true
      let q := takeSeq (rqGroup l) (rqRank l) (rqPos l) backup g s
      beginConv { id := 0, own := gown, gid := rqGroup l, seq := q.1, op := byteField l 0 1, rank := rqRank l, pos := rqPos l, ep := r.core
                  backup, hash := reqHash g l, epoch := rqEpoch l, sem, recv
                  blk := l, step := (s.jobOf gown).step } q.2

/-- The engine takes the oldest request of an operation; while 16,384 conversations are open it waits (R306). -/
def takeReq (op : Nat) (s : State) : State :=
  match pickReq op s.creqs with
  | none => s
  | some r => if 16384 ≤ openCount s then s else issueReq r s

/-- `COL_SUBMIT` (R300): a request of EDF, endpoint 0xFE; one whose operation is unassigned is refused at once. -/
def colSubmit (a : Nat) (s0 : State) : State :=
  s0.guardRead none [(a, 64)] (fun s =>
  let l := s.line a
  if reqOpBad 3 (byteField l 0 1) then reqRefuse ((s.group (rqGroup l)).bind (groupOwner s)) l s
  else { s with creqs := s.creqs ++ [{ core := 0xFE, kind := 3, sem := 0, line := l }] })

/-- The piece of a tile: 32 rows of its columns (R182, R310). -/
def tilePiece (t : Tile) : List AF40 :=
  let cols := byteField t.arg 12 1 % 64
  (List.range (32 * cols)).map (fun i => nth 0 t.vals (32 * (i / cols) + i % cols))

/-- The row block of an update piece: `RB` + q (R182). -/
def tileRb (t : Tile) : Nat := byteField t.arg 8 2 + t.q

/-- The descriptor that goes with a drained contribution: an update piece's names its own row block. -/
def tileDesc (t : Tile) : BitVec 128 := if t.chain then t.arg else putBits (putBits t.arg 79 64 (tileRb t % 65536)) 127 127 (tileRb t / 65536)

/-- Hash of an update piece (R183, R299). -/
def pieceHash (d : BitVec 128) : Nat := hash32 [byteField d 4 4, byteField d 8 2, byteField d 10 2, byteField d 12 1 % 64, byteField d 13 1 % 16, byteField d 14 2 % 4096]

/-- Rank, position and hash of a drained contribution (R299, R310, R182). -/
def tileShape (s : State) (g : Group) (t : Tile) : Option (Nat × Nat × Nat) :=
  let f := byteField t.arg
  if t.chain then
    (if g.n ≤ f 4 2 then none
     else some (f 4 2, f 6 2, hash32 [9, f 12 1 % 64, (f 8 4 + 2 ^ 32 - 5120 * t.q) % 2 ^ 32 + 2 ^ 32 * t.q, g.ghash.toNat]))
  else
    ((List.range g.n).find? (fun r => (memberAs s g r t.core).isSome)).map (fun r =>
      (r, 0, pieceHash (tileDesc t)))

/-- The checks of R301 on a drained contribution; a core that no owner holds has no job tag. -/
def tileBad (s : State) (g : Group) (t : Tile) (r pos : Nat) : Bool :=
  (match t.own with
    | some p => decide (grTag g.e ≠ cfgTag (s.owner p).cfg)
    | none => true) ||
  (memberAs s g r t.core).isNone || decide (g.count r ≤ pos) || !posInOrder g r pos (memberAs s g r t.core == some true) ||
  (t.chain && (decide (0x80 ≤ wordEp g.term) || (bitOf t.arg 104 && g.termRank.isNone))) ||
  (!t.chain && g.pcount.any (fun c => decide (1 < c)))

/-- A drained contribution enters the engine, or is refused and leaves the drain unsent (R298, R301). An update piece whose row block no slice
has falls outside every slice (R182, R184). -/
def issueTile (t : Tile) (s : State) : State :=
  let gid := byteField t.arg 0 2 % 4096
  let epoch := byteField t.arg 2 2
  let refuse := colRaise 0x8305 t.own gid epoch 0 0 0
  if !colOn s then refuse s
  else match s.group gid with
  | none => refuse s
  | some g =>
    if grpEpochBad s g epoch then epochRefuse t.core gid epoch t.own g s
    else match tileShape s g t with
    | none => refuse s
    | some (r, pos, hash) =>
      if tileBad s g t r pos then refuse s
      else
        let backup := memberAs s g r t.core == some true
        let q := takeSeq gid r pos backup g s
        beginConv { id := 0, kind := 1, own := groupOwner s g, gid, seq := q.1, op := if t.chain then 9 else 0xA, rank := r, pos, ep := t.core
                    backup, hash, epoch, desc := tileDesc t, array := t.array, staged := true
                    vals := tilePiece t, outSide := if !t.chain && g.side then List.replicate g.n 0 else []
                    step := (s.jobOf t.own).step } q.2

/-- The oldest tile of a kind that is the oldest of its core, with a staging slot free (R306, R311). -/
def takeTile (chain : Bool) (s : State) : State :=
  match s.tiles.find? (fun t => t.chain == chain && (s.tiles.find? (fun u => u.core == t.core)) == some t &&
      decide (SMap.get 0 t.core s.u.col.staged < stageSlots s t.core)) with
  | none => s
  | some t =>
    if 16384 ≤ openCount s then s
    else
      let s1 := issueTile t { s with tiles := s.tiles.erase t }
      if chain then s1 else s1.mark t.own 4

/-! ### Chain add (R216) -/

/-- Lines that a chain add moves: its own piece, the running value unless it is the chain's first, and the sum, 5 bytes for each value (R227).
[DEDUCED: log 165] -/
def chainLines (s : State) (id : Nat) : Nat :=
  match findConv s id with
  | none => 0
  | some c => (match s.group c.gid with
    | none => 0
    | some g => (if c.first g then 2 else 3) * linesOf 0 (5 * (c.local_ s 0).length))

def chainAdd (id : Nat) (s : State) : State :=
  match findConv s id with
  | none => s
  | some c => match s.group c.gid with
    | none => s
    | some g =>
      let loc := c.local_ s 0
      let t := if c.first g then loc else combine c (SMap.get [] 0 c.runs) loc
      let base := if c.first g then List.replicate g.n 0 else c.side.getD (List.replicate g.n 0)
      let side := if g.side then (List.range g.n).map (fun r => if r = c.rank then sumsq loc else nth 0 base r) else []
      drive id (updConv id (fun x => { x with own_ := some t, outSide := side }) s)

/-! ### Packets in (R298, R303, R315) -/

/-- Take the first delivered packet of a type that satisfies f. -/
def takeInboxOf (ty : Nat) (f : Pkt → Bool) (s : State) : Option (Pkt × State) :=
  match s.u.net.inbox.findIdx? (fun p => p.type == ty && f p) with
  | none => none
  | some i => (s.u.net.inbox[i]?).map (fun p => (p, s.updNet (fun n => { n with inbox := n.inbox.eraseIdx i })))

/-- Take the first delivered packet of a type. -/
def takeInbox (ty : Nat) (s : State) : Option (Pkt × State) := takeInboxOf ty (fun _ => true) s

/-- Every position of a member here, and every one that a backup here has begun with, has issued the sequence, and nothing of it is open. -/
def seqDone (s : State) (g : Group) (gid seq : Nat) : Bool :=
  let mine := (List.range g.n).flatMap (fun r => if wordDev (g.member r) = s.devAddr then (List.range (g.count r)).map (fun k => seqKey r k false) else [])
  !(s.u.col.convs.any (fun c => c.gid == gid && c.seq == seq && c.st != .done)) && !(mine.isEmpty && g.seqs.isEmpty) &&
    mine.all (fun k => seqBefore seq (SMap.get 0 k g.seqs)) && g.seqs.all (fun e => seqBefore seq e.2)

/-- A packet for a terminal that is no member: a reduced piece, a chain's result, or their side record (R307, R312). -/
def toTerminal (g : Group) (p : Pkt) : Bool :=
  decide (p.type = 2) && decide (p.cRole = g.n - 1) && (decide (p.cOp = 0xA) || (isChain p.cOp && decide (p.cOp ≠ 7) && g.termRank.isNone))

/-- What tells one arrival from another (R315). -/
def arrKey (p : Pkt) : List Nat := [p.type, p.cOp, if Nat.testBit p.cFlags 3 then 1 else 0, p.cRole, p.cOff, p.cPos, p.cDest]

/-- A packet of something that completed here (R330): a terminal's has come before; fan-out data, whose SEQ is the step, has no second sender. -/
def pktDone (s : State) (g : Group) (p : Pkt) : Bool :=
  if p.type = 1 && p.cOp = 3 then false
  else if toTerminal g p then s.u.col.seen.any (fun a => a.conv == 0 && a.gid == p.cGid && a.seq == p.cSeq && a.key == arrKey p)
  else seqDone s g p.cGid p.cSeq

/-- A second arrival that is not compared (R315, R330). -/
def lateDup (g : Group) (p : Pkt) (s : State) : State :=
  colRaise 0x1301 (groupOwner s g) p.cGid p.cEpoch p.cSeq 0 0 (s.updCol (fun t => { t with dupLate := satAdd 48 t.dupLate 1 }))

/-- The epoch of an armed fence of the group's owner (R327). -/
def fenceArmed (s : State) (g : Group) : Bool :=
  match groupOwner s g with
  | some p => s.u.crs.arms.any (fun a => armOwner a == p && decide (armKind a = 2) && decide (byteField a.e 12 2 = grEpoch g.e))
  | none => false

/-- Send an epoch reject to a packet's source (R298). -/
def sendReject (g : Group) (p : Pkt) (s : State) : State :=
  sendCol g p.cGid 0x07 p.src (colHdr p.cOp (p.cFlags &&& 2) p.cGid (localEpoch s g) p.cRole p.cSeq p.cHash 0 0 0 0 0) [] s

/-- A packet reaches its group, or goes no further: engine off, group unknown, abandoned conversation, epoch (R298, R301, R304, R327, R330). -/
def takePkt (p : Pkt) (s : State) : Option Group × State :=
  if !colOn s then (none, s)
  else match s.group p.cGid with
  | none => (none, s)
  | some g =>
    let ctl := p.type = 5 || p.type = 6
    if s.u.col.gone.contains (p.cGid, p.cSeq) then (none, s)
    else if decide (p.cEpoch ≠ grEpoch g.e) || dormant s g then
      (none,
        if decide (p.cEpoch = grEpoch g.e) && pktDone s g p then lateDup g p s
        else if ctl && decide (p.cEpoch = grEpoch g.e) && fenceArmed s g then s.updCol (fun t => { t with held := t.held ++ [p] })
        else
          let s1 := colRaise 0x8303 (groupOwner s g) p.cGid p.cEpoch p.cSeq (localEpoch s g) p.cEpoch (abandonSeq p.cGid p.cSeq s)
          sendReject g p s1)
    else (some g, s)

/-- A packet that no conversation here takes yet waits for its own; one whose hash differs from that of an open conversation of its group and
sequence abandons it (R298). -/
def hold (p : Pkt) (s : State) : State :=
  match s.u.col.convs.find? (fun c => c.gid == p.cGid && c.seq == p.cSeq && c.st != .done && decide (c.hash ≠ p.cHash)) with
  | some c => abandonWith 0x8301 c c.hash p.cHash s
  | none => s.updCol (fun t => { t with early := t.early ++ [p] })

/-- A packet of a role comes from that rank's device, or from its backup's (R315). -/
def roleFrom (g : Group) (p : Pkt) : Bool :=
  if Nat.testBit p.cFlags 1 then (match SMap.find p.cRole g.backups with
    | some w => decide (wordDev w = p.src)
    | none => false)
  else decide (p.cRole < g.n) && decide (wordDev (g.member p.cRole) = p.src)

/-- The stream of a chain packet by its role (R307). -/
def sumStream (g : Group) (p : Pkt) : Nat :=
  if p.cRole ≠ g.segLast p.cRole then 0 else if g.segOf p.cRole ≠ g.lastSeg then 2 else 1

/-- A broadcast, or the broadcast of a result, that comes along the path to no member here (R315, R318). -/
def strayCast (s : State) (g : Group) (p : Pkt) : Bool :=
  decide (p.type = 1) && (decide (p.cOp = 2) || isChain p.cOp) &&
    !(List.range g.n).any (fun r => decide (r ≠ p.cRole) && decide (wordDev (g.member r) = s.devAddr) && decide (wordDev (g.member (bcPrev g p.cRole r)) = p.src))

/-- The local conversations a data packet can be for, with its stream. [DEDUCED: log 91] -/
def targets (s : State) (g : Group) (p : Pkt) : List (Conv × Nat × Nat) :=
  let cs := s.u.col.convs.filter (fun c => c.gid == p.cGid && c.seq == p.cSeq && c.op == p.cOp)
  if p.type = 2 then
    let st := sumStream g p
    let want := if st = 0 then p.cRole + 1 else if st = 2 then g.segLast (p.cRole + 1) else if p.cOp = 7 then p.cDest else g.termRank.getD g.n
    (cs.filter (fun c => decide (c.rank = want) && (if st = 0 then decide (c.pos = 0) else c.lastPos g))).map (fun c => (c, p.cRole, st))
  else if p.type = 3 then (cs.filter (fun c => c.recv)).map (fun c => (c, p.cRole, 0))
  else if isChain p.cOp then
    (cs.filter (fun c => c.lastPos g && decide (wordDev (g.member (bcPrev g p.cRole c.rank)) = p.src) && decide (c.rank ≠ p.cRole))).map (fun c => (c, bcPrev g p.cRole c.rank, 3))
  else if p.cOp = 2 then
    (cs.filter (fun c => decide (wordDev (g.member (bcPrev g p.cRole c.rank)) = p.src) && decide (c.rank ≠ p.cRole))).map (fun c => (c, bcPrev g p.cRole c.rank, 0))
  else (cs.filter (fun c => if p.cOp = 4 then decide (c.rank = p.cDest) else decide (c.rank ≠ p.cRole))).map (fun c => (c, p.cRole, 0))

def firstSeen (s : State) (id : Nat) (p : Pkt) : Option Arrival :=
  s.u.col.seen.find? (fun a => a.conv == id && a.gid == p.cGid && a.seq == p.cSeq && a.key == arrKey p)

def noteSeen (id : Nat) (p : Pkt) (s : State) : State :=
  s.updCol (fun t => { t with seen := t.seen ++ [⟨id, p.cGid, p.cSeq, arrKey p, s.course.toNat, p.cHash, p.cData, p.src⟩] })

/-- A second arrival (R315). -/
def secondArrival (g : Group) (a : Arrival) (p : Pkt) (s : State) : State :=
  if s.course.toNat < a.course + colWindow s then
    (if a.data == p.cData && decide (a.hash = p.cHash) then s.updCol (fun t => { t with dup := satAdd 48 t.dup 1 })
     else colRaise 0x8404 (groupOwner s g) p.cGid p.cEpoch p.cSeq a.hash p.cHash (abandonSeq p.cGid p.cSeq s))
  else lateDup g p s

/-- Packet number of a chain packet in its stream. -/
def sumIndex (c : Conv) (p : Pkt) (st : Nat) : Nat :=
  let k := p.cOff / (if st = 3 && c.fp32 then 4 else 5) / chainVals
  if c.op = 7 && st ≠ 1 then p.cDest * c.perPiece + k else k

def chainData (c : Conv) (p : Pkt) (st : Nat) : List AF40 :=
  let b := if (c.op = 9 || c.op = 0xA) && st ≠ 3 then p.cData.drop 16 else p.cData
  if st = 3 then unpackRes c.fp32 b else unpackVals b

/-- Take a data packet in. -/
def takeData (g : Group) (c : Conv) (role st : Nat) (p : Pkt) (s : State) : State :=
  let id := c.id
  if Nat.testBit p.cFlags 3 && isChain c.op then
    let side := (chunks 4 p.cData).map leNat
    drive id (updConv id (fun x => if st = 2 then { x with segSide := some side } else { x with side := some side }) s)
  else
    let s1 := updStream id (skey role st) (Stream.take (if isChain c.op then sumIndex c p st else p.cOff / dataBytes)) (updConv id (fun x => { x with st := if x.st == .opened then .moving else x.st }) s)
    if isChain c.op then
      let k := sumIndex c p st
      let v := chainData c p st
      if st = 0 then driveAll c.gid c.seq (updConv id (fun x => { x with runs := SMap.set k v x.runs }) s1)
      else if st = 2 then driveAll c.gid c.seq (updConv id (fun x => { x with segs := SMap.set k v x.segs }) s1)
      else driveAll c.gid c.seq (takeResult id k v s1)
    else
      let s2 := if c.kind = 3 then updConv id (fun x => { x with got := SMap.set role p.cData x.got }) s1
        else s1.store (rqDst c.blk + (if c.op = 1 || c.op = 4 then p.cRole * c.size else 0) + p.cOff) p.cData
      let s3 := if Nat.testBit p.cFlags 2 then updStream id (skey role st) (fun x => { x with stampStep := BitVec.ofNat 64 (p.c 32 8), stampDig := BitVec.ofNat 32 (p.c 40 4) }) s2 else s2
      let full := match findConv s3 id with
        | some d => decide (d.bytePkts ≤ (d.stream (skey role st)).got)
        | none => false
      let s4 := if full then stampCheck id role s3 else s3
      let _ := g
      drive id s4

/-- A packet for a sequence that is complete here is a second arrival (R315). -/
def doneArrival (g : Group) (p : Pkt) (s : State) : State :=
  match s.u.col.seen.find? (fun a => a.gid == p.cGid && a.seq == p.cSeq && a.key == arrKey p) with
  | some a => secondArrival g a p s
  | none => lateDup g p s

/-- A data packet for a conversation (R298, R315). -/
def dataIn (g : Group) (p : Pkt) (s : State) : State :=
  let ts := targets s g p
  match ts with
  | [] =>
    if seqDone s g p.cGid p.cSeq then doneArrival g p s
    else if strayCast s g p then colRaise 0x8301 (groupOwner s g) p.cGid p.cEpoch p.cSeq 0 p.cHash (abandonSeq p.cGid p.cSeq s)
    else hold p s
  | t0 :: _ =>
    let direct := p.type ≠ 1 || (p.cOp ≠ 2 && !isChain p.cOp)
    if direct && !roleFrom g p then abandonWith 0x8301 t0.1 t0.1.hash p.cHash s
    else match ts.find? (fun t => (firstSeen s t.1.id p).isNone) with
      | some t =>
        if t.1.hash ≠ p.cHash then abandonWith 0x8301 t.1 t.1.hash p.cHash s
        else takeData g t.1 t.2.1 t.2.2 p (noteSeen t.1.id p s)
      | none => match firstSeen s t0.1.id p with
        | some a => secondArrival g a p s
        | none => s

/-- The owner cannot take a reduced piece now: it stays with the last position, which sends it again when it is asked (R312). -/
def refusePiece (p : Piece) (s : State) : State :=
  s.updCol (fun t => { t with
    asks := t.asks ++ [{ p with vals := [], side := [] }]
    seen := t.seen.filter (fun a => a.conv != 0 || a.gid != p.gid || a.seq != p.seq) })

/-- A reduced piece, or its side record, reaches the terminal that is no member (R311, R312): a piece that can be taken waits for its fold. -/
def termIn (g : Group) (p : Pkt) (s : State) : State :=
  if !roleFrom g p then colRaise 0x8301 (groupOwner s g) p.cGid p.cEpoch p.cSeq 0 p.cHash (abandonSeq p.cGid p.cSeq s)
  else match firstSeen s 0 p with
  | some a => secondArrival g a p s
  | none =>
    let s1 := noteSeen 0 p s
    if Nat.testBit p.cFlags 3 then s1.updCol (fun t => { t with terms := t.terms ++ [⟨p.cGid, p.cSeq, (chunks 4 p.cData).map leNat⟩] })
    else
      let desc := BitVec.ofNat 128 (leNat (p.cData.take 16))
      let vals := unpackVals (p.cData.drop 16)
      if p.cOp = 0xA then
        let h := pieceHash desc
        if h ≠ p.cHash then colRaise 0x8301 (groupOwner s g) p.cGid p.cEpoch p.cSeq h p.cHash (abandonSeq p.cGid p.cSeq s1)
        else
          let side := (s1.u.col.terms.find? (fun t => t.gid == p.cGid && t.seq == p.cSeq)).elim [] (fun t => t.side)
          let q : Piece := { desc, vals, side, own := groupOwner s g, gid := p.cGid, seq := p.cSeq, hash := p.cHash }
          let s2 := s1.updCol (fun t => { t with terms := t.terms.filter (fun x => x.gid != p.cGid || x.seq != p.cSeq) })
          if (pieceArrive q s2).isNone then refusePiece q s2 else s2.updCol (fun t => { t with pieces := t.pieces ++ [q] })
      else if p.cOp = 9 then
        placeResult { id := 0, kind := 1, own := none, gid := p.cGid, seq := p.cSeq, op := 9, rank := 0, ep := wordEp g.term, hash := 0, epoch := 0, desc } 0 vals s1
      else s1

/-- Fan-out data reaches a target (R313): POS carries the slice. A hash that differs abandons the fan-out here (R298, R304); the last bytes
launch the slice's optimizer and digest. -/
def fanIn (g : Group) (p : Pkt) (s : State) : State :=
  let own := groupOwner s g
  let id := p.cPos
  match sliceFind s id with
  | none => pieceRaise 0x8521 0x6000 own id s
  | some a =>
    let h := hash32 [id, slRows s a, slCols s a]
    if sliceFrozen s a then pieceRaise 0x8521 (benchSrc (slEngine s a)) own id s
    else if h ≠ p.cHash then colRaise 0x8301 own p.cGid p.cEpoch p.cSeq h p.cHash (abandonSeq p.cGid p.cSeq s)
    else
      let mine := s.u.col.fans.find? (fun f => f.slice == id && f.gid == p.cGid && f.seq == p.cSeq)
      let offs := p.cOff :: (mine.elim [] (fun f => f.offs)).filter (fun o => o != p.cOff)
      let full := decide (cdiv (5 * slRows s a * slCols s a) dataBytes ≤ offs.length)
      let rest := s.u.col.fans.filter (fun f => f.slice != id)
      let s2 := (s.putBytes (slAcc s a + p.cOff) p.cData).updCol (fun t => { t with fans := if full then rest else ⟨id, p.cGid, p.cSeq, offs⟩ :: rest })
      if full then launchSlice 0x6000 a own 3 false (launchSlice 0x6000 a own (slOpt s a) false s2) else s2

/-- A member's later position has yet to take over what this one made (R309). -/
def Conv.feeds (g : Group) (c : Conv) : Bool :=
  isChain c.op && !c.lastPos g && !seqBefore c.seq (SMap.get 0 (seqKey c.rank (c.pos + 1) c.backup) g.seqs)

/-- Forget conversations that are done, have sent everything, and feed no later position. -/
def reap (s : State) : State :=
  let dead := s.u.col.convs.filter (fun c => c.st == .done && (match s.group c.gid with
    | some g => (c.op == 8 || c.sentAll g) && !c.feeds g
    | none => true))
  s.updCol (fun t => { t with
    convs := t.convs.filter (fun c => !dead.any (fun d => d.id == c.id))
    seen := t.seen.filter (fun a => !dead.any (fun d => d.id == a.conv && ((SMap.find d.gid t.groups).map (fun g => g.backups.isEmpty)).getD true)) })

/-- Where a data packet's bytes go: address and length. -/
def pktWrites (s : State) (p : Pkt) : List (Nat × Nat) :=
  match s.group p.cGid with
  | none => []
  | some g =>
    if p.type = 1 && p.cOp = 3 then ((sliceFind s p.cPos).map (fun a => (slAcc s a + p.cOff, p.cData.length))).toList
    else if toTerminal g p then []
    else (targets s g p).flatMap (fun t =>
      if t.1.kind ≠ 0 then []
      else if isChain t.1.op then
        (if t.2.2 = 1 || t.2.2 = 3 then
          let w := if t.1.fp32 then 4 else 5
          [(rqDst t.1.blk + sumIndex t.1 p t.2.2 * chainVals * w, w * (chainData t.1 p t.2.2).length)]
        else [])
      else [(rqDst t.1.blk + (if t.1.op = 1 || t.1.op = 4 then p.cRole * t.1.size else 0) + p.cOff, p.cData.length)])

/-- COL_DATA, CHAIN_SUM and P2P_DATA (R303). A packet whose bytes cannot be written now waits (R234, R402, R415). -/
def colPacket (ty : Nat) (s : State) : State :=
  match takeInboxOf ty (fun p => !(pktWrites s p).any (fun w => memBusy s w.1 w.2)) s with
  | none => s
  | some (p, s0) => match takePkt p s0 with
    | (none, s1) => s1
    | (some g, s1) =>
      reap (if ty = 1 && p.cOp = 3 then fanIn g p s1
        else if toTerminal g p then termIn g p s1
        else dataIn g p s1)

/-- A grant is taken in (R302): cumulative chunks, and after a resumption first the bytes that the receiver had accepted (R348). -/
def takeGrant (g : Group) (c : Conv) (p : Pkt) (s : State) : State :=
  reap (driveAll c.gid c.seq (updStream c.id (skey p.cRole (p.cPos % 4)) (fun x =>
    if x.resumed then { x with sent := c.packetsOf g p.cRole (p.cPos % 4) p.cOff, resumed := false } else { x with granted := max x.granted p.cOff }) s))

/-- The grant by which a terminal that is no member accepts a reduced piece, or with OFFSET 0 asks for one that it has not taken (R312): its
ROLE is the granted rank's. -/
def isAccept (g : Group) (p : Pkt) : Bool := decide (p.cOp = 0xA) && decide (p.cPos = skey (g.n - 1) 1) && decide (p.cRole = g.n - 1) && decide (p.src = wordDev g.term)

/-- COL_GRANT (R302, R315). Where a rank and its backup are both here, each takes its own copy. -/
def colGrant (s : State) : State :=
  match takeInbox 5 s with
  | none => s
  | some (p, s0) => match takePkt p s0 with
    | (none, s1) => s1
    | (some g, s1) =>
      let cs := s1.u.col.convs.filter (fun c => c.gid == p.cGid && c.seq == p.cSeq && c.rank == p.cPos / 4 && c.lastPos g)
      match cs with
      | [] => if seqDone s1 g p.cGid p.cSeq then doneArrival g p s1 else hold p s1
      | c0 :: _ =>
        if c0.hash ≠ p.cHash || !(isAccept g p || roleFrom g p) then abandonWith 0x8301 c0 c0.hash p.cHash s1
        else if isAccept g p then reap (driveAll c0.gid c0.seq (cs.foldl (fun s c => if p.cOff = 0 then (if c.accepted then s else updStream c.id (skey g.n 1) (fun x => { x with sent := 0 }) s)
          else updConv c.id (fun x => { x with accepted := true }) s) s1))
        else match cs.find? (fun c => (firstSeen s1 c.id p).isNone) with
          | some c => takeGrant g c p (noteSeen c.id p s1)
          | none => match firstSeen s1 c0.id p with
            | some a => secondArrival g a p s1
            | none => s1

/-- A barrier's release comes (R319): too late, once its course has begun. -/
def takeRelease (c : Conv) (s : State) : State :=
  if rqNb c.blk ≤ s.course.toNat then abandonWith 0x8302 c c.hash 0 s else updConv c.id (fun x => { x with released := true }) s

/-- A barrier's arrival comes; with the last one the releases go out (R319). -/
def takeArrival (g : Group) (c : Conv) (p : Pkt) (s : State) : State :=
  let arrived := if c.arrived.contains p.cRole then c.arrived else p.cRole :: c.arrived
  let s2 := updConv c.id (fun x => { x with arrived }) s
  if arrived.length = g.n && c.arrived.length ≠ g.n then
    (List.range g.n).foldl (fun s r => sendCol g c.gid 0x06 (wordDev (g.member r))
      (colHdr 8 1 c.gid c.epoch (g.n - 1) c.seq c.hash 0 r 0 0 0) [] s) s2
  else s2

/-- COL_ARRIVE (R319): an arrival at rank N - 1, or with FLAGS[0] a release at the rank that POS names. -/
def colArrive (s : State) : State :=
  match takeInbox 6 s with
  | none => s
  | some (p, s0) => match takePkt p s0 with
    | (none, s1) => s1
    | (some g, s1) =>
      let rel := Nat.testBit p.cFlags 0
      match s1.u.col.convs.find? (fun c => c.gid == p.cGid && c.seq == p.cSeq && c.op == 8 && c.rank == (if rel then p.cPos else g.n - 1)) with
      | none => if seqDone s1 g p.cGid p.cSeq then doneArrival g p s1 else hold p s1
      | some c =>
        if c.hash ≠ p.cHash || !roleFrom g p then abandonWith 0x8301 c c.hash p.cHash s1
        else match firstSeen s1 c.id p with
          | some a => secondArrival g a p s1
          | none => if rel then takeRelease c (noteSeen c.id p s1) else takeArrival g c p (noteSeen c.id p s1)

/-- The masters that issued a conversation here which is no longer held: the members, of the role or else any, that are cores of this device. -/
def issuers (s : State) (g : Group) (role : Nat) : List Nat :=
  let here := fun r => if wordDev (g.member r) = s.devAddr then [wordEp (g.member r)] else []
  dedupe (if (here role).isEmpty then (List.range g.n).flatMap here else here role)

/-- The snapshot fails: its slot stays without FLAGS[0] (R225). -/
def snapFail (s : State) : State :=
  match s.bench.snap with
  | none => s
  | some n => (s.updBench (fun b => { b with snap := none, snapFailed := true })).raise 0x4531 0 n.own 0 0

/-- COL_REJECT (R298): the masters that issued the conversation are frozen, and it is abandoned; one that sent nothing but what the engine
itself began, or that has ended, is abandoned all the same. A reject of snapshot data loses its partner (R321). [DEDUCED: log 186] -/
def colReject (s : State) : State :=
  match takeInbox 7 s with
  | none => s
  | some (p, s0) =>
    if !colOn s0 then s0
    else if p.cOp = 0 then (if (s0.bench.snap.bind (fun n => n.partner)) == some p.src then snapFail s0 else s0)
    else
      let cs := s0.u.col.convs.filter (fun c => c.gid == p.cGid && c.seq == p.cSeq)
      let of := cs.filter (fun c => decide (c.rank = p.cRole) && c.backup == Nat.testBit p.cFlags 1)
      match cs.head? with
      | some c => abandonWith 0x8303 c c.epoch p.cEpoch ((if of.isEmpty then cs else of).foldl (fun s c => freezeIssuer c.ep s) s0)
      | none => match s0.group p.cGid with
        | none => s0
        | some g =>
          if s0.u.col.gone.contains (p.cGid, p.cSeq) then s0
          else
            let eps := if p.cOp = 3 then [] else issuers s0 g p.cRole
            colRaise 0x8303 (groupOwner s0 g) p.cGid (grEpoch g.e) p.cSeq (localEpoch s0 g) p.cEpoch
              (abandonSeq p.cGid p.cSeq (eps.foldl (fun s e => freezeIssuer e s) s0))

/-! ### Completion (R304, R319, R320, R387) -/

/-- Every result byte of a conversation is visible at its member. -/
def resultDone (g : Group) (c : Conv) : Bool :=
  if c.op = 8 || c.st == .done || c.st == .gated then false
  else if isChain c.op then
    (if c.takes g || (c.all && c.lastPos g) then decide (c.resPkts ≤ c.res.length) else c.sentAll g)
  else (c.ins g).all (fun i => decide (i.2.2 ≤ (c.stream (skey i.1 i.2.1)).got)) && (!(c.ins g).isEmpty || c.sentAll g)

/-- Launch the amax-history programs of a scale domain (R213): one on every engine that holds entries of it. -/
def launchHistory (own : Option Nat) (scope : Nat) (step : W64) (s : State) : State :=
  (List.range s.nCh).foldl (fun s e =>
    if (engEntries s e scope).isEmpty then s
    else enterLaunch e { own, blk := mkBlock 1 false noSlice ||| (BitVec.ofNat 4096 step.toNat <<< 128), snap := scope, src := 0x7000 } s) s

/-- Address of an entry's AMAX of the bank of a step. -/
def amaxAddr (s : State) (step : W64) (x : Nat) : Nat := scaleBase s + 512 * x + 64 + 48 * (step.toNat % 2) + 30

/-- A snapshot's copies of a group scope's entries follow the scope's history programs (R224). -/
def snapScope (own : Option Nat) (scope : Nat) (s : State) : State :=
  match s.bench.snap with
  | none => s
  | some n => if n.own != own then s
    else (n.parts.filter (fun e => e.2 == scope)).foldl (fun s e => enterLaunch e.1 { own, blk := mkBlock 9 false noSlice, snap := n.slot, conv := scope, src := 0x7000 } s) s

/-- The amax reduction's values go back to the counter banks of its step, and the history programs are launched (R320). -/
def amaxDone (c : Conv) (s : State) : State :=
  let scope := c.desc.toNat % 65536
  let vals := (List.range c.perPiece).flatMap (fun k => SMap.get [] k c.res)
  snapScope c.own scope (launchHistory c.own scope c.step (((scaleIdx s scope).zip vals).foldl (fun s e => s.wr (amaxAddr s c.step e.1) 4 (afNarrow e.2).toNat) s))

/-- An agreement of shard digests is reached: phase mark 8 and FLAGS[4] (R387). -/
def digestAgreed (own : Option Nat) (s : State) : State :=
  match own with
  | none => s
  | some p => (s.updCrs (fun c => { c with steps := c.steps.map (fun (r : Nat × StepRec) => if r.1 == p then (r.1, { r.2 with flags := r.2.flags ||| 16 }) else r) })).mark own 8

/-- The digests of a gather are compared (R387, R388). -/
def digestDone (g : Group) (c : Conv) (s : State) : State :=
  let d := fun r => SMap.get [] r c.got
  let off := (List.range g.n).filter (fun r => d r != d 0)
  match off with
  | [] => digestAgreed c.own s
  | r :: _ => s.raise 0x8401 0x6000 c.own (BitVec.ofNat 64 (leNat c.data)) (BitVec.ofNat 64 (r % 65536 + off.length % 65536 * 65536))

/-- A completion is remembered for the rest of its course (R260). -/
def noteFin (c : Conv) (s : State) : State :=
  s.updCol (fun t => { t with fin := (c.gid, c.seq, s.course.toNat) :: t.fin.filter (fun e => decide (e.2.2 = s.course.toNat)) })

/-- A conversation completes: its completion semaphore rises by 1 (R149, R304). -/
def finishConv (g : Group) (c : Conv) (s0 : State) : State :=
  let s := noteFin c (updConv c.id (fun x => { x with st := .done }) s0)
  let s1 := match c.kind with
    | 0 => if c.ep < 0x80 then (match c.sem with
        | some m => endCheck c.ep (colSem c.ep m 1 (reqGone c.ep c.sem s))
        | none => s)
      else (s.updCol (fun t => { t with submitDone := (t.submitDone + 1) % 2 ^ 32 })).pend 5
    | 2 => amaxDone c s
    | 3 => digestDone g c s
    | _ => s
  settle (reap s1)

/-- A request's own deadline course has come: completing in it is late (R260, R305). -/
def pastDl (s : State) (c : Conv) : Bool := c.kind == 0 && c.op != 8 && decide (rqDl c.blk ≠ 0) && decide (rqDl c.blk ≤ s.course.toNat)

/-- The counter bank of a scale domain is out of reach (R235). -/
def bankBusy (s : State) (scope : Nat) (step : W64) : Bool := (scaleIdx s scope).any (fun x => memBusy s (amaxAddr s step x) 4)

/-- `CONVERSATION_DONE`: the oldest conversation whose result is whole completes, or is late. -/
def conversationDone (s : State) : State :=
  match s.u.col.convs.find? (fun c => match s.group c.gid with
      | some g => resultDone g c && !(c.kind == 2 && bankBusy s (c.desc.toNat % 65536) c.step)
      | none => false) with
  | none => s
  | some c => match s.group c.gid with
    | some g => if pastDl s c then abandonWith 0x8302 c c.hash 0 s else finishConv g c s
    | none => s

/-- `BARRIER_COURSE` (R319): members that hold the release complete, the others miss. [DESIGN CHOICE: log 89] -/
def barrierCourse (s : State) : State :=
  (s.u.col.convs.filter (fun c => c.op == 8 && c.st != .done && decide (rqNb c.blk ≤ s.course.toNat))).foldl (fun s c =>
    match findConv s c.id, s.group c.gid with
    | some d, some g => if d.released then finishConv g d s else abandonWith 0x8302 d d.hash 0 s
    | _, _ => s) s

/-- `REQUEST_DEADLINE` (R305, R260). -/
def requestDeadline (s : State) : State :=
  (s.u.col.convs.filter (fun c => c.st != .done && pastDl s c)).foldl (fun s c =>
    match findConv s c.id with
    | some d => abandonWith 0x8302 d d.hash 0 s
    | none => s) s

/-- Sequences at most q that a group has not completed here in a course below this one: open ones, those that a local position has yet to
issue, and those completed in this course (R260, R305). -/
def unfinished (s : State) (gid : Nat) (g : Group) (q : Nat) : List Nat :=
  let opened := (s.u.col.convs.filter (fun c => c.gid == gid && c.st != .done && decide (c.seq ≤ q))).map (fun c => c.seq)
  let ctrs := fun (backup : Bool) (word : Nat → Option Nat) => (List.range g.n).flatMap (fun r =>
    if (word r).map wordDev == some s.devAddr then (List.range (g.count r)).map (fun p => SMap.get 0 (seqKey r p backup) g.seqs) else [])
  let lo := (ctrs false (fun r => some (g.member r)) ++ ctrs true (fun r => SMap.find r g.backups)).foldl min (q + 1)
  let late := (s.u.col.fin.filter (fun e => decide (e.1 = gid) && decide (e.2.1 ≤ q) && decide (e.2.2 = s.course.toNat))).map (fun e => e.2.1)
  dedupe (opened ++ late ++ (List.range (q + 1 - lo)).map (fun i => lo + i))

/-- A DEADLINE arm fires for a group and sequence (R305). [DEDUCED: log 95] -/
def groupDeadline (gid q : Nat) (s : State) : State :=
  match s.group gid with
  | none => s
  | some g =>
    let s1 := (unfinished s gid g q).foldl (fun s sq => colRaise 0x8302 (groupOwner s g) gid (grEpoch g.e) sq 0 0 (abandonSeq gid sq s)) s
    updGroup gid (fun g => { g with late := some (max q (g.late.getD 0)) }) s1

/-- A NOT_BEFORE arm fires (R305). -/
def notBefore (gid q : Nat) (s : State) : State :=
  openReleased (updGroup gid (fun g => { g with mark := some (max q (g.mark.getD 0)) }) s)

/-! ### Conversations of the engine itself (R313, R320, R387) -/

/-- Conversations wait while 16,384 are open (R306). -/
def colFull (s : State) : Bool := decide (16384 ≤ openCount s)

/-- The engine begins an amax reduction of a scale domain for a step, or refuses it (R320). -/
def amaxBegin (own : Option Nat) (scope : Nat) (step : W64) (s : State) : State :=
  let gid := scope % 4096
  let refuse := colRaise 0x8305 own gid 0 0 0 0
  if !colOn s then refuse s
  else match s.group gid with
  | none => refuse s
  | some g =>
    match (List.range g.n).find? (fun r => g.member r = ownWord s 0xFE) with
    | none => refuse s
    | some r =>
      if g.members.any (fun w => decide (wordEp w ≠ 0xFE)) || g.termRank.isNone then refuse s
      else if grpEpochBad s g (grEpoch g.e) then epochRefuse 0xFE gid (grEpoch g.e) own g s
      else
        let xs := scaleIdx s scope
        let q := takeSeq gid r 0 false g s
        beginConv { id := 0, kind := 2, own, gid, seq := q.1, op := 0xB, rank := r, ep := 0xFE, epoch := grEpoch g.e, step
                    hash := hash32 ([0xB, xs.length] ++ xs.map (fun x => s.rd (scaleBase s + 512 * x) 4)), desc := BitVec.ofNat 128 scope
                    vals := xs.map (fun x => afWiden (BitVec.ofNat 32 (s.rd (amaxAddr s step x) 4))) } q.2

/-- The amax reduction of a scale domain begins, or waits for room (R306, R320). -/
def amaxReduce (own : Option Nat) (scope : Nat) (s : State) : State :=
  let step := (s.jobOf own).step
  if colFull s || bankBusy s scope step then s.updCol (fun t => { t with wait := t.wait ++ [⟨true, own, scope, step⟩] }) else amaxBegin own scope step s

/-- EDF submits the gather of a shard digest over the owner's digest group (R301, R387). -/
def digestBegin (own : Option Nat) (shard : W64) (s : State) : State :=
  match own with
  | none => s
  | some p =>
    let c := s.reg 0 (0x410000 + p * 0x100)
    let gid := bitsOf c 59 48
    if !bitOf c 63 then s
    else
      let refuse := colRaise 0x8305 own gid 0 0 0 0
      if !colOn s then refuse s
      else match s.group gid with
      | none => refuse s
      | some g => match (List.range g.n).find? (fun r => g.member r = ownWord s 0xFE) with
        | none => refuse s
        | some r =>
          if g.pcount.any (fun c => decide (1 < c)) then refuse s
          else if g.n = 1 then digestAgreed own s
          else if grpEpochBad s g (grEpoch g.e) then epochRefuse 0xFE gid (grEpoch g.e) own g s
          else
            let q := takeSeq gid r 0 false g s
            beginConv { id := 0, kind := 3, own, gid, seq := q.1, op := 1, rank := r, ep := 0xFE, epoch := grEpoch g.e
                        hash := hash32 [1, 8, 0, g.ghash.toNat], data := leBytes 8 shard.toNat } q.2

/-- The digest gather begins, or waits for room (R306, R387). -/
def submitDigest (own : Option Nat) (s : State) : State :=
  if colFull s then s.updCol (fun t => { t with wait := t.wait ++ [⟨false, own, 0, shardDigest s⟩] }) else digestBegin own (shardDigest s) s

/-- What waits for room among the open conversations begins (fuel bounds it). -/
def beginWaiting : Nat → State → State
  | 0, s => s
  | n + 1, s => match s.u.col.wait with
    | [] => s
    | r :: rest =>
      if colFull s || (r.amax && bankBusy s r.scope r.step) then s
      else
        let s1 := s.updCol (fun t => { t with wait := rest })
        beginWaiting n (if r.amax then amaxBegin r.own r.scope r.step s1 else digestBegin r.own r.step s1)

/-- Send one slice's accumulator to a fan-out target (R313). -/
def fanSend (g : Group) (own : Option Nat) (a w : Nat) (s : State) : State :=
  let n := 5 * slRows s a * slCols s a
  let step := (s.jobOf own).step.toNat % 2 ^ 32
  let h := hash32 [slId s a, slRows s a, slCols s a]
  (List.range (cdiv n dataBytes)).foldl (fun s k =>
    let m := min dataBytes (n - k * dataBytes)
    sendCol g (slGroup s a % 4096) 0x01 (wordDev w) (colHdr 3 (if k / g.ppc = (cdiv n dataBytes - 1) / g.ppc then 1 else 0) (slGroup s a % 4096) (grEpoch g.e) (g.n - 1) step h (k * dataBytes) (slId s a) 0 0 0)
      (s.bytes (slAcc s a + k * dataBytes) m) s) s

/-- A slice's fold is complete and not yet fanned out. -/
def fanReady (s : State) (a : Nat) : Bool := (s.slice (slId s a)).folded && !(s.slice (slId s a)).fanned

/-- `FAN_OUT` (R313): the accumulator goes to every target, and the slice's own optimizer and digest are launched; over a group of another
epoch it is refused (R298, R327). -/
def fanOut (s : State) : State :=
  match (sliceEntries s).find? (fun a => fanReady s a && !memBusy s (slAcc s a) (5 * slRows s a * slCols s a)) with
  | none => s
  | some a =>
    let own := sliceOwner s a
    let s1 := s.updSlice (slId s a) (fun x => { x with fanned := true })
    let go := fun s => launchSlice 0x6000 a own 3 false (launchSlice 0x6000 a own (slOpt s a) false s)
    match s.group (slGroup s a % 4096) with
    | none => if slLead s a then colRaise 0x8305 own (slGroup s a % 4096) 0 0 0 0 s1 else go s1
    | some g =>
      if !colOn s && !g.fanout.isEmpty then colRaise 0x8305 own (slGroup s a % 4096) (grEpoch g.e) 0 0 0 s1
      else if dormant s g && !g.fanout.isEmpty then epochRefuse 0xFE (slGroup s a % 4096) (grEpoch g.e) own g s1
      else if g.fanout.isEmpty then go s1
      else s1.guardRead own [(slAcc s a, 5 * slRows s a * slCols s a)] (fun s1 => go (g.fanout.foldl (fun s w => fanSend g own a w s) s1))

/-- The owner has taken a reduced piece: the last position, and its backup, need keep it no longer (R312). [DESIGN CHOICE: log 89] -/
def acceptPiece (p : Piece) (s : State) : State := match s.group p.gid with
  | none => s
  | some g => (rankDevs g (g.n - 1) true).foldl (fun s d => sendCol g p.gid 0x05 d
      (colHdr 0xA 0 p.gid (grEpoch g.e) (g.n - 1) p.seq p.hash 1 (skey (g.n - 1) 1) 0 0 0) [] s) s

/-- A piece that stayed with the last position can be taken now: it is asked for. -/
def askPiece (p : Piece) (s : State) : State := match s.group p.gid with
  | none => s
  | some g => (rankDevs g (g.n - 1) true).foldl (fun s d => sendCol g p.gid 0x05 d
      (colHdr 0xA 0 p.gid (grEpoch g.e) (g.n - 1) p.seq p.hash 0 (skey (g.n - 1) 1) 0 0 0) [] s) s
def askAgain (s : State) : State :=
  let due := s.u.col.asks.filter (fun p => (pieceArrive p s).isSome)
  due.foldl (fun s p => askPiece p s) (s.updCol (fun t => { t with asks := t.asks.filter (fun p => !due.contains p) }))

/-- The oldest reduced piece that its owner can take now (R184, R185, R312). -/
def pieceNext (s : State) : List Piece → List Piece → Option State
  | _, [] => none
  | pre, p :: r => match pieceArrive p s with
    | some t => some (acceptPiece p (t.updCol (fun c => { c with pieces := pre ++ r })))
    | none => pieceNext s (pre ++ [p]) r

/-- `PIECE_ARRIVE`: the oldest piece that can be taken; where none can, those here go back to their senders, and those that can be taken by now are
asked for (R312). -/
def pieceCommand (s : State) : State := match pieceNext s [] s.u.col.pieces with
  | some t => t
  | none => askAgain (s.u.col.pieces.foldl (fun s p => refusePiece p s) (s.updCol (fun t => { t with pieces := [] })))

/-! ### Noise statistics of the step (R220, R335) -/

/-- The lead slices of an owner with FLAGS[2]. -/
def noiseSlices (s : State) (p : Nat) : List Nat := (slicesOf s (some p)).filter (fun a => slNoise s a && slLead s a)

/-- N of the update groups in force, where every one of an owner's noise slices has side records and at most 1,024 members (R335). -/
def noiseMembers (s : State) (p : Nat) : Option Nat :=
  let gs := (noiseSlices s p).map (fun a => s.group (slGroup s a % 4096))
  match gs with
  | (some g) :: _ => if gs.all (fun g => match g with
      | some g => g.side && decide (g.n ≤ 1024)
      | none => false) then some g.n else none
  | _ => none

/-- L, Q, N, b and s of an owner's step (R220), where the groups of its step course allow them (R335). -/
def noiseRec (s : State) (p : Nat) (n : Option Nat) : Option (List Nat) :=
  match noiseSlices s p, n with
  | a :: as, some n =>
    let fs := (a :: as).flatMap (fun a =>
      let mine := s.bench.folds.filter (fun f => f.slice == slId s a)
      (mine.map (fun f => f.rb * 65536 + f.col0)).mergeSort.filterMap (fun k => mine.find? (fun f => f.rb * 65536 + f.col0 == k)))
    some [fs.foldl (fun x f => fa x f.l.toNat) 0, fs.foldl (fun x f => fa x f.q.toNat) 0, n, slTokens s a, slMbs s a / slSpan s a]
  | _, _ => none

def setNoise (own : Option Nat) (s : State) : State :=
  match own with
  | none => s
  | some p => s.updCrs (fun c => { c with steps := c.steps.map (fun (r : Nat × StepRec) =>
      if r.1 == p then (r.1, { r.2 with noise := noiseRec s p r.2.members }) else r) })

end Sys2Proof.Machine
end

