-- ==== Sys2Proof/Machine/ColCmds.lean ====
section
/-!
DEFINITION. The meanings of the collective commands, and of the Bench programs whose end the collective engine acts on.
-/

namespace Sys2Proof.Machine

open Sys2Proof

/-- `GATHER` (R316). -/
def execGather (s : State) : Host.Outcome State Fault Refusal := .next (takeReq 1 s)
/-- `BROADCAST` (R318). -/
def execBroadcast (s : State) : Host.Outcome State Fault Refusal := .next (takeReq 2 s)
/-- `ALL_TO_ALL` (R318). -/
def execAllToAll (s : State) : Host.Outcome State Fault Refusal := .next (takeReq 4 s)
/-- `POINT_TO_POINT` (R318). -/
def execPointToPoint (s : State) : Host.Outcome State Fault Refusal := .next (takeReq 5 s)
/-- `CHAIN_REDUCE` (R307). -/
def execChainReduce (s : State) : Host.Outcome State Fault Refusal := .next (takeReq 6 s)
/-- `CHAIN_REDUCE_SCATTER` (R308). -/
def execChainReduceScatter (s : State) : Host.Outcome State Fault Refusal := .next (takeReq 7 s)
/-- `COURSE_BARRIER` (R319). -/
def execCourseBarrier (s : State) : Host.Outcome State Fault Refusal := .next (takeReq 8 s)
/-- `CHAIN_STEP` (R310). -/
def execChainStep (s : State) : Host.Outcome State Fault Refusal := .next (takeTile true s)
/-- `UPDATE_PIECE` (R182). -/
def execUpdatePiece (s : State) : Host.Outcome State Fault Refusal := .next (takeTile false s)
/-- `COL_DATA` (R303, R302, R313): packet type 0x01. -/
def execColData (s : State) : Host.Outcome State Fault Refusal := .next (colPacket 1 s)
/-- `CHAIN_SUM` (R307): packet type 0x02. -/
def execChainSum (s : State) : Host.Outcome State Fault Refusal := .next (colPacket 2 s)
/-- `P2P_DATA` (R318): packet type 0x03. -/
def execP2pData (s : State) : Host.Outcome State Fault Refusal := .next (colPacket 3 s)
/-- `COL_GRANT` (R302). -/
def execColGrant (s : State) : Host.Outcome State Fault Refusal := .next (colGrant s)
/-- `COL_ARRIVE` (R319). -/
def execColArrive (s : State) : Host.Outcome State Fault Refusal := .next (colArrive s)
/-- `COL_REJECT` (R298). -/
def execColReject (s : State) : Host.Outcome State Fault Refusal := .next (colReject s)
/-- `CONVERSATION_DONE` (R304). -/
def execConversationDone (s : State) : Host.Outcome State Fault Refusal := .next (conversationDone s)
/-- `BARRIER_COURSE` (R319). -/
def execBarrierCourse (s : State) : Host.Outcome State Fault Refusal := .next (barrierCourse s)
/-- `REQUEST_DEADLINE` (R305). -/
def execRequestDeadline (s : State) : Host.Outcome State Fault Refusal := .next (requestDeadline s)
/-- `FAN_OUT` (R313). -/
def execFanOut (s : State) : Host.Outcome State Fault Refusal := .next (fanOut s)
/-- `PIECE_ARRIVE` (R184). -/
def execPieceArrive (s : State) : Host.Outcome State Fault Refusal := .next (pieceCommand s)

/-- `CHAIN_ADD` (R216): standard program 2; its sum goes on in the chain once the launch has ended. -/
def execChainAdd (e : Nat) (s : State) : Host.Outcome State Fault Refusal :=
  match stdRun e 2 (fun _ s => s) s with
  | .next t => .next (match (s.eng e).cur with
    | some l => if (s.eng e).running && decide (l.slot = 2) then chainAdd l.conv (countLines e (chainLines s l.conv) t) else t
    | none => t)
  | r => r

/-- `DIGEST` (R219): standard program 3. The last digest of the step makes the shard digest ready, and EDF submits its gather (R387). -/
def execDigest (e : Nat) (s : State) : Host.Outcome State Fault Refusal :=
  match stdRun e 3 (fun l => onSlice l (digestRun e l)) s with
  | .next t => .next (if shardReady t && !shardReady s then submitDigest (((s.eng e).cur).bind (fun (l : Launch) => l.own)) t else t)
  | r => r

/-- `NOISE_STATISTICS` (R220): standard program 4. The step's record takes the sums. -/
def execNoiseStatistics (e : Nat) (s : State) : Host.Outcome State Fault Refusal :=
  stdRun e 4 (fun l s => setNoise l.own (onSlice l (noiseRun e l) s)) s

end Sys2Proof.Machine
end

