-- ==== Sys2Proof/Machine/Mem.lean ====
section
/-!
DEFINITION. The memory controllers' and scratchpads' commands (R228 to R248): accesses, retraining, patrol, leaks, start-up tests and
initialisation.
-/

namespace Sys2Proof.Machine

open Sys2Proof

/-- The shared cache as memory of the control cores, while they boot or the GDDR7 map changes (R420). -/
def cacheAt (s : State) (a n : Nat) : Bool :=
  within a n 0xF810000000 0xF812000000 && (decide (s.u.ctl.boot < 3) || s.u.mem.ch.any (fun e => decide (e.2.state = 1)))

/-- The private window of the control cores: the APLIC, the interrupt files of the harts, and the shared cache (R420). -/
def privAt (s : State) (a n : Nat) : Bool :=
  within a n 0xF800000000 0xF800008000 || (List.range 32).any (fun h => within a n (0xF800100000 + 0x1000 * h) (0xF800101000 + 0x1000 * h)) || cacheAt s a n

/-- Whether a master may reach bytes [a, a + n) (R5, R203, R337, R350, R420, R421): a write to a program slot while a job runs is
discarded. -/
def whoReach (s : State) (w : Who) (a n : Nat) (wr : Bool) : Bool :=
  match w with
  | .ctl => (within a n 0 s.gddrTop || (spCore s a n).isSome || cxlOk s a n || privAt s a n) && !(wr && (hitsQueues s none a n || (anyJob s && hitsPrograms s a n)))
  | .fn f => s.fnReach f (whoOwner s w) a n wr
  | .bench e => engReach s e (whoOwner s w) a n wr
  | _ => s.reach (whoOwner s w) a n wr

/-- A master is stopped at an access that consumed uncorrectable data (R164, R207, R236). -/
def ueStop (w : Who) (s : State) : State :=
  match w with
  | .dma k => freezeDma (k / 4) (k % 4) s
  | .bench e => (s.updEng e (fun x => if x.running then Engine.dropOwner { x with st := .halted } (x.cur.bind (fun (l : Launch) => l.own)) else x)).pendIf 6
      ((s.eng e).running && (s.eng e).cur.any Launch.edf)
  | .fn f => s.out (.completion f 4 [])
  | _ => s

/-- A read consumes a sector that is uncorrectable or mismatches (R236). [DEDUCED: log 65] -/
def consumeUe (w : Who) (sec : Nat) (r : EccRes) (s : State) : State :=
  let ch := (s.gddrMap (256 * sec)).1
  let own := whoOwner s w
  let mis := r.out == .mismatch
  (ueStop w (s.setLastUe (if mis then 1 else 0) ch sec)).raise (if mis then 0x8103 else 0x8102) (0x4000 + ch) own (memD0 ch sec) (memD1 r 0)

/-- A GDDR7 access takes effect (R231 to R233). One that was queued behind a read that corrected goes on from the corrected data, which it does
not decode again (R233). -/
def memDo (o : MemOp) (s0 : State) : State :=
  let sec := o.a / 256
  let ch := (s0.gddrMap o.a).1
  let r := readUnder s0 sec o.from_
  let fwd := (s0.memCh ch).fwd == some sec
  let s := if fwd && !o.behind then updMemCh ch (fun c => { c with fwd := none }) s0 else s0
  if o.kind = 1 then s.putBytes (256 * sec) ((o.data ++ List.replicate 256 0).take 256)
  else
    match r.out with
    | .clean => if o.kind = 0 then s else s.putBytes o.a o.data
    | .corrected =>
      let s1 := if fwd then s else correctSector sec r o.behind s
      if o.kind ≠ 0 then (s1.putAll (256 * sec) r.data).putBytes o.a o.data
      else if o.behind && !fwd then updMemCh ch (fun c => { c with fwd := some sec }) s1 else s1
    | _ => consumeUe o.who sec r s

/-- A GDDR7 access arrives at its channel: it waits while the channel is not in service (R234, R235). A transfer whose CRC fails `fails` times
is repeated; after the fourth repeat the channel retrains (R235). What the control complex does in its private window reaches no channel (R420). [DESIGN CHOICE: log 64] -/
def memAccess (o : MemOp) (n fails : Nat) (s : State) : State :=
  let wr := decide (o.kind ≠ 0)
  if o.who == .ctl && privAt s o.a n then (if cacheAt s o.a n && wr then s.putBytes o.a (o.data.take n) else s)
  else if !whoReach s o.who o.a n wr || !within o.a n 0 s.gddrTop then violate o.who o.a n wr s
  else
    let ch := (s.gddrMap o.a).1
    let c := s.memCh ch
    if c.state ≠ 2 then updMemCh ch (fun c => { c with wait := c.wait ++ [o] }) s
    else
      let s1 := if fails = 0 then s else updMemCh ch (fun c => { c with retry := satAdd 48 c.retry (min fails 4) }) s
      if fails < 5 then memDo o s1
      else (updMemCh ch (fun c => { c with state := 3, wait := [o] }) s1).raise 0x4103 (0x4000 + ch) none (memD0 ch (o.a / 256)) 0

/-- Symbol errors have appeared in a stored sector. -/
def upset (sec : Nat) (e : BitVec 2112) (s : State) : State :=
  { s with ecc := SMap.setD 0 sec (SMap.get 0 sec s.ecc ^^^ e) s.ecc }

/-- Accesses that waited take effect in the order they came (R232); one of a sector that another follows has it queued behind (R233). -/
def serveAll : List MemOp → State → State
  | [], s => s
  | o :: r, s => serveAll r (memDo { o with behind := o.behind || r.any (fun x => decide (x.a / 256 = o.a / 256)) } s)

def memServe (ch : Nat) (s : State) : State := serveAll (s.memCh ch).wait (updMemCh ch (fun c => { c with wait := [] }) s)

/-- A channel's retraining ends and the transfer is repeated once more (R235). -/
def retrainEnd (ch : Nat) (ok : Bool) (s : State) : State :=
  let c := s.memCh ch
  if c.state ≠ 3 then s
  else if ok then memServe ch (updMemCh ch (fun c => { c with state := 2 }) s)
  else
    let sec := (c.wait.head?.map (fun o => o.a / 256)).getD 0
    (updMemCh ch (fun c => { c with state := 0 }) s).raise 0xC101 (0x4000 + ch) none (memD0 ch sec) 0

/-- The device physical address of a channel offset: the inverse of R192 and R193. -/
def gddrAddr (s : State) (ch t : Nat) : Nat :=
  let r := SMap.get 0x80 0xE00000 s.regs
  let l := bitsOf r 6 0
  let g := match bitsOf r 8 7 with | 0 => 256 | 2 => 16384 | _ => 2048
  let u := 0x4000000
  let i := s.nCh * (93 - l) * u
  if t < (93 - l) * u then
    let v := (t / g * s.nCh + ch) * g + t % g
    if v < i - 0x40000000 then v else v + s.nCh * l * u
  else i - 0x40000000 + ch * l * u + (t - (93 - l) * u)

/-- A pass of patrol over a channel begins one period after the pass before it began: PATROL units of 2^20 elapsed courses (R241). [DEDUCED: log 170] -/
def patrolEarly (s : State) (c : MemCh) : Bool :=
  decide (c.patrol = 0) && (match c.pass with
    | some t => decide (s.elapsed < t + memPatrol s * 2 ^ 20)
    | none => false)

/-- Patrol reads the next sector of a channel (R241, R237). -/
def patrolRead (ch : Nat) (s : State) : State :=
  let c := s.memCh ch
  if memPatrol s = 0 || c.state ≠ 2 || patrolEarly s c then s
  else
    let sec := gddrAddr s ch (256 * c.patrol) / 256
    let s1 := updMemCh ch (fun c => { c with
      patrol := (c.patrol + 1) % (93 * 0x40000), pass := if c.patrol = 0 then some s.elapsed else c.pass }) s
    let r := s.sectorRead sec
    match r.out with
    | .clean => s1
    | .corrected => takeRead sec r s1
    | _ => (s1.setLastUe 2 ch sec).raise 0x4105 (0x4000 + ch) none (memD0 ch sec) (memD1 r 0)

/-- A scratchpad word is read (R243): `e` holds the bits of its stored word and check byte that have newly changed, `idx` the index of the
access. [DESIGN CHOICE: log 63] -/
def sramRead_ (w : Who) (a : Nat) (e : BitVec 72) (idx : Nat) (s : State) : State :=
  let wa := a / 8 * 8
  if !whoReach s w wa 8 false then violate w wa 8 false s
  else match spCore s wa 8 with
  | none => violate w wa 8 false s
  | some c =>
    let x := wa / 8
    let s0 : State := { s with sp := { s.sp with err := SMap.setD 0 x (SMap.get 0 x s.sp.err ^^^ e) s.sp.err } }
    let v := SMap.get 0 x s0.sp.err
    let word := s.rd wa 8
    let own := (wa - spBase c) / 8
    let r := sramRead (word ^^^ bitsOf v 63 0) (sramCheck word own ^^^ bitsOf v 71 64) (idx % 2 ^ 22)
    match r.1 with
    | .clean => s0
    | .corrected => wordFix x r.2 s0
    | _ => (ueStop w s0).raise 0x8102 (0x1000 + c) (whoOwner s w) (memD0 0 (wa / 256)) 0

/-- A word of another array of a core is read (R242, R243): the same code, under its position. The array's word and whether it is corrected
again before anything wrote it are the command's, since no rule gives the arrays' layout, and D0 of its events is a free value, as such a word
has no sector. [DESIGN CHOICE: log 191] -/
def arrayRead (n pos : Nat) (word : W64) (again : Bool) (e : BitVec 72) (idx : Nat) (s : State) : State :=
  let w := word.toNat
  let r := sramRead (w ^^^ bitsOf e 63 0) (sramCheck w pos ^^^ bitsOf e 71 64) (idx % 2 ^ 22)
  let x := s.draw
  let d0 := BitVec.ofNat 64 ((Config.word x.1).toNat % 2 ^ 46)
  match r.1 with
  | .clean => s
  | .corrected =>
    let count (t : State) := t.updMem (fun m => { m with sramCe := SMap.set n (satAdd 48 (SMap.get 0 n m.sramCe) 1) m.sramCe })
    if again then (count x.2).raise 0x4104 (0x1000 + n) none d0 0 else count s
  | _ => x.2.raise 0x8102 (0x1000 + n) (s.ownerOfCore n) d0 0

/-! ### Checker self-tests (R245, R246) -/

/-- The base data of the sector patterns, their written sector address, and the check bytes stored with them. -/
def testData : List Byte := (List.range 256).map (fun k => BitVec.ofNat 8 k)
def testSec : Nat := 0x5AA55AA55A

/-- The stored symbols of the patterns with position p (0 to 131, counted from c_5) of codeword w xored by v, for each (w, p, v). -/
def testFlip (l : List (Nat × Nat × Byte)) : List Byte × List Byte :=
  l.foldl (fun b x =>
    let i := 4 * x.1 + (x.2.1 - 128)
    if x.2.1 < 128 then (flipData b.1 x.1 x.2.1 x.2.2, b.2) else (b.1, b.2.set i (nth 0 b.2 i ^^^ x.2.2))) (testData, sectorCheck testSec testData)

/-- The outcome of a sector pattern read under a sector address. -/
def testRead (l : List (Nat × Nat × Byte)) (sec : Nat) : EccRes := let b := testFlip l; sectorDecode sec b.1 b.2

/-- A single-symbol pattern is corrected at its position and value. -/
def testSingle (w p : Nat) (v : Byte) : Bool :=
  let r := testRead [(w, p, v)] testSec
  r.out == .corrected && (if w = 0 then r.cw0 == .corrected && r.pos0 == p && r.cw1 == .clean else r.cw1 == .corrected && r.pos1 == p && r.cw0 == .clean) &&
    r.data == testData

/-- The table "Sector checker patterns": a decoder gives every required outcome. -/
def sectorTestOk : Bool :=
  (testRead [] testSec).out == .clean &&
  [0, 1].all (fun w => (List.range 132).all (fun p => testSingle w p 0x01 && testSingle w p 0xFF)) &&
  (testRead [(0, 0, 0x01), (0, 131, 0x01)] testSec).out == .uncorrectable &&
  (testRead [(1, 0, 0x01), (1, 64, 0x01), (1, 131, 0x01)] testSec).out == .uncorrectable &&
  (testRead [(0, 10, 0x55), (1, 10, 0x55)] testSec).out == .mismatch &&
  (testRead [] (testSec ^^^ 0x0000000001)).out == .mismatch && (testRead [] (testSec ^^^ 0x0101010000)).out == .mismatch

/-- The word and word index that the patterns of the SRAM checkers use. [DESIGN CHOICE: log 171] -/
def testWord : Nat := 0x0706050403020100
def testIdx : Nat := 0x155555

/-- The table "SRAM checker patterns": a checker gives every required outcome. -/
def sramTestOk : Bool :=
  let c := sramCheck testWord testIdx
  sramRead testWord c testIdx == (.clean, testWord) &&
  (List.range 64).all (fun i => sramRead (testWord ^^^ 1 <<< i) c testIdx == (.corrected, testWord)) &&
  (List.range 8).all (fun i => sramRead testWord (c ^^^ 1 <<< i) testIdx == (.corrected, testWord)) &&
  (sramRead (testWord ^^^ 0x8000000000000001) c testIdx).1 == .uncorrectable &&
  (sramRead testWord c (testIdx ^^^ 1)).1 == .uncorrectable && c ^^^ sramCheck testWord (testIdx ^^^ 1) == 0x03 &&
  (sramRead testWord c (testIdx ^^^ 3)).1 == .uncorrectable && c ^^^ sramCheck testWord (testIdx ^^^ 3) == 0x06

/-- The start-up tests are still to come: no channel has been tested. -/
def testsDue (s : State) : Bool := s.u.mem.ch.all (fun e => decide (e.2.state = 0) && !e.2.testOk)

/-- Channels and cores of the part whose checkers fail go out of service (R246). -/
def badOut (badCh badCore : List Nat) (s : State) : State :=
  let s1 := badCh.foldl (fun s c => if c < s.nCh then
    ((updMemCh c (fun x => { x with testOk := false, state := 0 }) s).updEng c (fun x => { x with ok := false })).raise 0xC501 (0x4000 + c) none 0 0 else s) s
  badCore.foldl (fun s c => if c < s.nCores then
    (s.updFlt (fun f => { f with coreOut := if f.coreOut.contains c then f.coreOut else c :: f.coreOut })).raise 0xC501 (0x1000 + c) none 0 0 else s) s1

/-- Start-up tests of the sector decoders and scratchpad checkers (R245, R246), before the initialisation: the channels and cores whose
checkers fail a pattern go out of service, and the initialisation of the others begins (R234). A checker that works gives the outcomes of the
code; `badCh` and `badCore` are the units whose checkers do not work. -/
def selfTest (badCh badCore : List Nat) (s : State) : State :=
  if !testsDue s then s
  else
    let chs := (List.range s.nCh).filter (fun c => badCh.contains c || !sectorTestOk)
    let cores := (List.range s.nCores).filter (fun c => badCore.contains c || !sramTestOk)
    badOut chs cores ((List.range s.nCh).foldl (fun s c => updMemCh c (fun x => { x with testOk := true, state := 1 }) s) s)

/-- Every data sector has been written as zero; EDF writes back what it kept (R234). -/
def initDone (s : State) : State :=
  if s.u.mem.ch.any (fun e => decide (e.2.state = 1)) then
    let s1 : State := { s with
      mem := SMap.onto (s.mem.filter (fun e => decide (s.gddrTop ≤ e.1))) s.u.mem.keep
      ecc := [] }
    let s2 := (s1.inject 0 s.gddrTop).updMem (fun m => { m with keep := [], ch := m.ch.map (fun e => (e.1, if e.2.state = 1 then { e.2 with state := 2 } else e.2)) })
    (List.range s.nCh).foldl (fun s c => if (s.memCh c).state = 2 then memServe c s else s) s2
  else s

/-- An accepted write of `BNC_MAP` (R194, R234): EDF keeps the program slots of its region, and the sectors are initialised. [DEDUCED: log 67; DEDUCED: log 133] -/
def mapChanged (s : State) : State :=
  s.updMem (fun m => { m with
    keep := if s.edfBase ≤ progBase s then SMap.slice (progBase s) 0x80000 s.mem else []
    ch := m.ch.map (fun e => (e.1, if e.2.state = 0 then e.2 else { e.2 with state := 1 })) })

/-- A channel's number beyond the part names no unit. -/
def onCh (c : Nat) (s : State) (f : State → State) : Host.Outcome State Fault Refusal :=
  if c < s.nCh then .next (f s) else .refused .noSuchUnit

/-- `GDDR7_READ` (R231, R233, R235, R236): a 64-byte line is read at address a, while the array delivers the stored symbols of sector
`from_`, in which errors `e` have appeared. -/
def execGddr7Read (who : Who) (a from_ : Nat) (e : BitVec 2112) (behind : Bool) (fails : Nat) (s : State) : Host.Outcome State Fault Refusal :=
  .next (memAccess { kind := 0, who, a := a / 64 * 64, from_, behind } 64 fails (upset from_ e s))

/-- `GDDR7_WRITE` (R232): a whole aligned sector. -/
def execGddr7Write (who : Who) (sec : Nat) (d : BitVec 2048) (fails : Nat) (s : State) : Host.Outcome State Fault Refusal :=
  .next (memAccess { kind := 1, who, a := 256 * sec, data := leBytes 256 d.toNat, from_ := sec } 256 fails s)

/-- `PARTIAL_WRITE` (R232): bytes within one sector; bytes that do not fit in the sector of the first are not part of the access. -/
def execPartialWrite (who : Who) (a : Nat) (d : List Byte) (e : BitVec 2112) (fails : Nat) (s : State) : Host.Outcome State Fault Refusal :=
  let n := min d.length (256 - a % 256)
  .next (memAccess { kind := 2, who, a, data := d.take n, from_ := a / 256 } n fails (upset (a / 256) e s))

/-- `PATROL_READ` (R241): errors `e` have appeared in the sector that patrol reads. -/
def execPatrolRead (c : Nat) (e : BitVec 2112) (s : State) : Host.Outcome State Fault Refusal :=
  onCh c s (fun s => patrolRead c (upset (gddrAddr s c (256 * (s.memCh c).patrol) / 256) e s))

/-- `BUCKET_LEAK` (R238). -/
def execBucketLeak (s : State) : Host.Outcome State Fault Refusal := .next (bucketLeak s)

/-- `SRAM_READ` (R243). -/
def execSramRead (who : Who) (x : SramWord) (e : BitVec 72) (idx : Nat) (s : State) : Host.Outcome State Fault Refusal :=
  match x with
  | .pad a => .next (sramRead_ who a e idx s)
  | .array n _ pos word again => if n < s.nCores then .next (arrayRead n pos word again e idx s) else .refused .noSuchUnit

end Sys2Proof.Machine
end

