-- ==== Sys2Proof/Machine/Snapshot.lean ====
section
/-!
DEFINITION. Agreed snapshots (R222 to R226, R321): arming, copying, completing, restoring, and a partner's window.
-/

namespace Sys2Proof.Machine

open Sys2Proof

/-! ### Slots (R222) -/

/-- The slot the next snapshot takes: they alternate, and the last agreed one is never overwritten. [DEDUCED: log 58] -/
def nextSlot (b : BenchSt) : Nat :=
  if b.lastValid then 1 - b.lastSlot else match b.snapUsed with
    | some k => 1 - k
    | none => 0

/-- Lay bytes at an offset of a slot: in the CXL tier, or as packets to the partner, whose OFFSET is the address there, with FLAGS[0] on the
last of the image (R303, R321). -/
def snapPut (own : Option Nat) (k off fl : Nat) (l : List Byte) (s : State) : State :=
  if snapRemote s k then
    let n := l.length
    let tag := match own with
      | some p => cfgTag (s.owner p).cfg
      | none => 0
    (List.range (cdiv n dataBytes)).foldl (fun s i =>
      s.sendPkt 1 0x04 tag 0 (snapPartner s k) (colHdr 0 fl 0 0 0 0 0 (snapBase s k + off + i * dataBytes) 0 0 0 0 ++ (l.drop (i * dataBytes)).take dataBytes)) s
  else s.putBytes (snapBase s k + off) l

/-! ### The image (R223) -/

/-- Scopes of an owner's job whose amax reduction is open: their entries are copied after it (R224, R320). -/
def scopesOpen (s : State) (own : Option Nat) : List Nat :=
  dedupe ((s.u.col.convs.filter (fun (c : Conv) => c.kind == 2 && c.own == own && c.st != .done)).map (fun c => c.desc.toNat % 65536) ++
    (s.u.col.wait.filter (fun r => r.amax && r.own == own)).map (fun r => r.scope))

/-- The copies to make: an engine that holds a part, with 0 or with a scope that waits. -/
def snapEngines (s : State) (late : List Nat) (entries : List Nat) : List (Nat × Nat) :=
  (0 :: late).flatMap (fun x => ((List.range s.nCh).filter (fun e => !(snapParts s e late x entries).isEmpty)).map (fun e => (e, x)))

/-- A snapshot arm fires (R224): the copies are launched in the background, those that wait for an amax
reduction once it is done. One still under way has missed its deadline. A slice whose entry names no engine has its copy refused (R208), and
the whole snapshot is while a remote slot's engine is off (R301). -/
def snapArm (own : Option Nat) (deadline : Nat) (s0 : State) : State :=
  let s := snapFail s0
  let k := nextSlot s.bench
  if snapRemote s k && !colOn s then colRaise 0x8305 own 0 0 0 0 0 s
  else
    let j := s.jobOf own
    let es := validEntries s
    let late := scopesOpen s own
    let en := snapEngines s late es
    let s1 := s.updBench (fun b => { b with
      snap := some { slot := k, own, step := j.step, gauge := j.gauge, seed := j.seed, deadline, parts := en, late, entries := es,
                      partner := if snapRemote s k then some (snapPartner s k) else none }
      snapUsed := some k })
    let s2 := snapPut own k 0 0 (List.replicate 256 0) s1
    let s3 := (en.filter (fun e => e.2 == 0)).foldl (fun s e => enterLaunch e.1 { own, blk := mkBlock 9 false noSlice, snap := k, src := 0x7000 } s) s2
    ((sliceEntries s3).filter (fun a => decide (s3.nCh ≤ slEngine s3 a))).foldl (fun s a => s.raise 0x8532 0x7000 (sliceOwner s a) 0 (benchD1 0 (slId s a))) s3

/-- The shard digest of the snapshot's step is kept once it is ready. -/
def snapShard (s : State) : State :=
  s.updBench (fun b => { b with snap := b.snap.map (fun n => if n.shard.isNone && shardReady s then { n with shard := some (shardDigest s) } else n) })

/-- The first sector of what an engine copies that reads uncorrectable. -/
def snapUe (s : State) (e : Nat) (late : List Nat) (scope : Nat) (entries : List Nat) : Option Nat :=
  ((sliceEntries s).filter (fun a => decide (scope = 0) && decide (slEngine s a = e))).findSome? (fun a =>
    match s.memUe (slMaster s a) (4 * slRows s a * slCols s a) with
    | some x => some x
    | none => s.memUe (slState s a) (slStateBytes s a)) |>.orElse (fun _ =>
    (entries.filter (fun x => decide ((s.gddrMap (scaleBase s + 512 * x)).1 = e) && copyTakes s late scope x)).findSome? (fun x => s.memUe (scaleBase s + 512 * x) 512))

/-- The copy program of an engine (R224): its parts go to the slot, and the image digest grows. A write that the owner may not make freezes
the launch (R201). -/
def snapCopy (e : Nat) (l : Launch) (s : State) : State :=
  match s.bench.snap with
  | none => s
  | some n =>
    if !n.parts.contains (e, l.conv) || n.slot ≠ l.snap then s
    else match snapUe s e n.late l.conv n.entries with
    | some sec => ueLaunch e sec s
    | none =>
      let ps := snapParts s e n.late l.conv n.entries
      let bad := if snapRemote s n.slot then none else ps.find? (fun p => !engReach s e l.own (snapBase s n.slot + 256 + p.1) p.2.length true)
      match bad with
      | some p => freezeLaunch e (snapBase s n.slot + 256 + p.1, p.2.length, true) s
      | none =>
        let s1 := ps.foldl (fun s p => snapPut l.own n.slot (256 + p.1) 0 p.2 s) s
        let add := ps.foldl (fun t p => t + digestSum 3 (p.1 / 8) (words64 p.2)) (0 : W64)
        snapShard (s1.updBench (fun b => { b with
          snap := b.snap.map (fun n => { n with parts := n.parts.filter (fun x => x != (e, l.conv)), sum := n.sum + add }) }))

/-- The header of a complete image (R223). -/
def snapHeader (s : State) (n : Snap) : List Byte :=
  let body := snapEntryOff s + 512 * n.entries.length
  let image := mix64 (n.sum ^^^ mix64 (BitVec.ofNat 64 body))
  leBytes 4 0x5A534E50 ++ leBytes 2 1 ++ leBytes 1 1 ++ leBytes 1 0 ++ leBytes 8 n.step.toNat ++ leBytes 8 n.gauge.toNat ++ leBytes 8 n.seed.toNat ++
  leBytes 8 (n.shard.getD (shardDigest s)).toNat ++ leBytes 8 image.toNat ++ leBytes 4 (sliceCount s) ++ leBytes 4 n.entries.length ++
  leBytes 8 (shardBytes s) ++ leBytes 3 s.devAddr ++ List.replicate 189 0

/-- The record of the snapshot's step takes FLAGS[3] and phase mark 10 (R261, R263). -/
def snapRecord (n : Snap) (s : State) : State :=
  let f := fun (r : StepRec) => if n.own == some r.own && r.step == n.step then { r with
    flags := r.flags ||| 8, marks := if (SMap.find 10 r.marks).isSome then r.marks else SMap.set 10 (s.course.toNat - r.start) r.marks } else r
  s.updCrs (fun c => { c with steps := c.steps.map (fun e => (e.1, f e.2)), closed := c.closed.map f })

/-- Every part is visible: the header is written with FLAGS[0], and the completion is reported to the job lead (R224); a remote slot's once the
partner has acknowledged the header, its last bytes (R321). `agreed` is the job lead's answer: every device has its copy and the digests have
agreed (R222). A destination error or a lost partner fails the snapshot (R225). -/
def snapComplete (ok agreed : Bool) (s : State) : State :=
  match s.bench.snap with
  | none => s
  | some n =>
    if !ok then snapFail s
    else if !n.parts.isEmpty then s
    else if n.partner.isSome && !n.sent then
      (snapPut n.own n.slot 0 1 (snapHeader s n) s).updBench (fun b => { b with snap := some { n with sent := true } })
    else if n.partner.isSome && !n.acked then s
    else
      let s1 := snapRecord n (if n.partner.isSome then s else snapPut n.own n.slot 0 1 (snapHeader s n) s)
      (s1.updBench (fun b => { b with snap := none, lastValid := b.lastValid || agreed, lastSlot := if agreed then n.slot else b.lastSlot })).out
        (.snapReport n.own n.step)

/-- A snapshot not complete at its deadline course fails (R225). -/
def snapDeadline (s : State) : State :=
  match s.bench.snap with
  | none => s
  | some n => if n.deadline ≤ s.course.toNat then snapFail s else s

/-! ### Restore (R226) -/

/-- The image is one this job restores. -/
def imageOk (s : State) (own : Option Nat) (b : List Byte) : Bool :=
  let body := b.drop 256
  let n := 128 * imgF b 48 4
  decide (imgF b 0 4 = 0x5A534E50) && decide (imgF b 4 2 = 1) && Nat.testBit (imgF b 6 1) 0 && decide (imgF b 16 8 = (s.jobOf own).gauge.toNat) &&
  decide (imgF b 40 8 = (digest body 3).toNat) && decide (imgF b 32 8 = (digest ((body.drop n).take (imgF b 56 8)) 1).toNat)

/-- The restore program of an engine: its slices' masters and state, and the scale entries it serves. [DEDUCED: log 59] -/
def snapRestore (e : Nat) (l : Launch) (img : List Byte) (s : State) : State :=
  let k := (l.arg 0).toNat % 2
  let b0 := if snapRemote s k then img else s.bytes (snapBase s k) 256
  let b := if snapRemote s k then img.take (imageLen b0) else s.bytes (snapBase s k) (imageLen b0)
  if !snapRemote s k && !engReach s e l.own (snapBase s k) (imageLen b0) false then freezeLaunch e (snapBase s k, imageLen b0, false) s
  else if !imageOk s l.own b then haltLaunch e 0x8535 s
  else match (restEntries s e b).find? (fun p => !engReach s e l.own p.1 p.2.1 true) with
  | some p => freezeLaunch e p s
  | none =>
    let shard := b.drop (256 + 128 * imgF b 48 4)
    let s1 := ((sliceEntries s).filter (fun a => decide (slEngine s a = e))).foldl (fun t a =>
      let m := 4 * slRows s a * slCols s a
      (t.putBytes (slMaster s a) ((shard.drop (slImgOff s a)).take m)).putBytes (slState s a) ((shard.drop (slImgOff s a + m)).take (slStateBytes s a))) s
    let s2 := if imgF b 52 4 = 0 then
        (validEntries s).foldl (fun t x =>
          let a := scaleBase s + 512 * x
          if (s.gddrMap a).1 = e then (t.wr (a + 10) 1 0).putBytes (a + 5) [s.byte (a + 5) ||| 2] else t) s1
      else (imageEntries s e b).foldl (fun t r => t.putBytes r.1 r.2) s1
    if snapRemote s k then countLines e (lineSum (restEntries s e b)) s2 else s2

/-! ### The partner's side (R321) -/

/-- The partner's acknowledgement comes (R321). -/
def snapAck (p : Pkt) (s : State) : State :=
  s.updBench (fun b => { b with snap := b.snap.map (fun n => if n.partner == some p.src && n.sent then { n with acked := true } else n) })

/-- The spans cover [lo, hi) (the fuel bounds their number). -/
def spansCover (l : List (Nat × Nat)) (hi : Nat) : Nat → Nat → Bool
  | 0, lo => decide (hi ≤ lo)
  | n + 1, lo => decide (hi ≤ lo) || (match l.find? (fun p => decide (p.1 ≤ lo) && decide (lo < p.1 + p.2)) with
    | some p => spansCover l hi n (p.1 + p.2)
    | none => false)

/-- The image as a packet leaves it: a packet over bytes that have come already, but for the complete header, begins an image anew. -/
def snapTake (src a n : Nat) (last : Bool) (l : List SnapIn) : SnapIn :=
  let x := (l.find? (fun i => decide (i.src = src))).getD { src }
  if last then { x with spans := (a, n) :: x.spans, hdr := some (min a (x.hdr.getD a)) }
  else if x.spans.any (fun p => overlap a n p.1 p.2) then { src, spans := [(a, n)] }
  else { x with spans := (a, n) :: x.spans }

/-- Every byte of the image is visible (R223, R321). -/
def snapWhole (s : State) (x : SnapIn) : Bool :=
  match x.hdr with
  | none => false
  | some h => spansCover x.spans (h + imageLen (s.bytes h 256)) (x.spans.length + 1) h

/-- A `SNAP_DATA` packet is written within the window, and only from the device that the window names: an image is
acknowledged, by a packet without data, once every byte of it is visible, and a packet that may not be written is rejected. [DEDUCED: log 57] -/
def snapData (s : State) : State :=
  match takeInbox 4 s with
  | none => s
  | some (p, s1) =>
    if memBusy s p.cOff p.cData.length then s else
    let w := s1.reg 0 0xA00030
    let lo := bitsOf w 35 0 * 4096
    let ok := decide (bitsOf w 63 56 ≠ 0) && decide (p.src = bitsOf w 55 36) && within p.cOff p.cData.length lo (lo + bitsOf w 63 56 * 0x40000000) &&
      gddrOk s1 p.cOff p.cData.length && !hitsMaster s1 none p.cOff p.cData.length && !hitsQueues s1 none p.cOff p.cData.length
    let answer := fun (ty fl : Nat) (s : State) => s.sendPkt (colVc ty) ty p.tag 0 p.src (colHdr 0 fl 0 0 0 0 0 p.cOff 0 0 0 0)
    if !colOn s1 then s1
    else if p.cData.isEmpty then snapAck p s1
    else if ok then
      let s2 := s1.putBytes p.cOff p.cData
      let x := snapTake p.src p.cOff p.cData.length (Nat.testBit p.cFlags 0) s1.u.col.snapIn
      let rest := s1.u.col.snapIn.filter (fun i => decide (i.src ≠ p.src))
      if snapWhole s2 x then answer 4 1 (s2.updCol (fun t => { t with snapIn := rest })) else s2.updCol (fun t => { t with snapIn := x :: rest })
    else colRaise 0x8307 (s1.ownerOfTag p.tag) p.cGid p.cEpoch p.cSeq 0 0 (answer 7 0 s1)

/-! ### The meanings -/

/-- `SNAPSHOT_COPY` (R224): standard program 9. -/
def execSnapshotCopy (e : Nat) (s : State) : Host.Outcome State Fault Refusal := stdRun e 9 (snapCopy e) s
/-- `SNAPSHOT_COMPLETE` (R224, R225). -/
def execSnapshotComplete (ok agreed : Bool) (s : State) : Host.Outcome State Fault Refusal := .next (snapComplete ok agreed s)
/-- `SNAPSHOT_RESTORE` (R226): standard program 10; `img` is what a partner's slot delivers. -/
def execSnapshotRestore (e : Nat) (img : List Byte) (s : State) : Host.Outcome State Fault Refusal := stdRun e 10 (fun l => snapRestore e l img) s
/-- `SNAP_DATA` (R321). -/
def execSnapData (s : State) : Host.Outcome State Fault Refusal := .next (snapData s)

end Sys2Proof.Machine
end

