-- ==== Sys2Proof/Machine/Serve.lean ====
section
/-!
DEFINITION. Owners' queues and dispatchers (R350 to R364): doorbells, arbitration, placement of kernels on cores, the deadline monitor, and
KV-cache pages.
-/

namespace Sys2Proof.Machine

open Sys2Proof

/-! ### Owners' images (R338) -/

def cfgEpoch (c : Line) : Nat := byteField c 12 2
def cfgKTable (c : Line) : Nat := byteField c 48 6 / 64 * 64
def cfgKCount (c : Line) : Nat := byteField c 54 2
def cfgPool (c : Line) : Option Nat := if Nat.testBit (byteField c 56 8) 0 then some (byteField c 56 6 / 64 * 64) else none
/-- Memory ranges of an owner: pairs of first address and one past the last. -/
def cfgRanges (c : Line) : List (Nat × Nat) := cfgMem c ++ cfgCxl c

/-- Bytes [a, a + n) lie in one of the owner's ranges. -/
def inRanges (c : Line) (a n : Nat) : Bool := inUnion (cfgRanges c) a n

/-! ### Doorbells (R350, R351) -/

/-- A valid descriptor that is otherwise invalid. [DEDUCED: log 102] -/
def qdBad (cfg d : Line) : Bool :=
  decide (8 ≤ qdFlags d) || decide (4 ≤ byteField d 1 1) || decide (byteField d 6 2 ≠ 0) || decide (byteField d 14 2 ≠ 0) || decide (byteField d 22 2 ≠ 0) ||
  decide (byteField d 40 24 ≠ 0) || decide (qdLog d < 4) || decide (16 < qdLog d) || decide (qdWeight d = 0) ||
  decide (qdRing d % 64 ≠ 0) || decide (qdCring d % 32 ≠ 0) || !inRanges cfg (qdRing d) (64 * 2 ^ qdLog d) || !inRanges cfg (qdCring d) (32 * 2 ^ qdLog d)

/-- A queue is put in error and its owner stops. -/
def queueError (f q : Nat) (s : State) : State :=
  (s.updQueue q (fun x => { x with err := true })).raise 0x8901 (0x8000 + f) (some f) (BitVec.ofNat 64 q) 0

/-- A doorbell write of function f: `n` bytes at window offset `off` of queue q. [DEDUCED: log 103] -/
def doorbell (f q off n : Nat) (v : W64) (s : State) : State :=
  let o := s.owner f
  if fnFrozen s (.fn f) || !o.exists || off ≠ 0 || n ≠ 8 then s
  else if !s.holds f q then violate (.fn f) (64 * q + off) n true s
  else
    let x := s.queue q
    let idle := decide (x.tail = x.done) && decide (x.head = x.done)
    s.guardRead (some f) (if idle then [(qtableBase s + 64 * q, 64)] else []) (fun s =>
    let d := if idle then s.line (qtableBase s + 64 * q) else x.desc
    if !Nat.testBit (qdFlags d) 0 then s
    else if idle && qdBad o.cfg d then queueError f q s
    else
      let dist := (v.toNat + 2 ^ 64 - x.tail % 2 ^ 64) % 2 ^ 64
      let tail := x.tail + dist
      if 2 ^ 63 ≤ dist || x.done + 2 ^ qdLog d < tail then queueError f q s
      else s.updQueue q (fun x => { x with desc := d, tail }))

/-! ### Commands and kernels (R352, R355) -/

/-- The command at the head of a queue. -/
def headCmd (s : State) (x : Queue) : Line := s.line (qdRing x.desc + 64 * (x.head % 2 ^ qdLog x.desc))

def cmdOp (c : Line) : Nat := byteField c 0 1
def cmdKernel (c : Line) : Nat := byteField c 2 2
def cmdDeadline (c : Line) : Nat := byteField c 8 8
def cmdBatch (c : Line) : Bool := Nat.testBit (byteField c 1 1) 0
def cmdBatchD (c : Line) : Nat := byteField c 24 6
/-- COUNT of a RESERVE, signed. -/
def cmdCount (c : Line) : Int := signed 32 (byteField c 32 4)

/-- A kernel-table entry (R355). -/
def kernelEntry (s : State) (cfg : Line) (k : Nat) : Line := s.line (cfgKTable cfg + 64 * k)
def kEntry (l : Line) : Nat := byteField l 0 6
def kCores (l : Line) : Nat := byteField l 6 1
def kWidth (l : Line) : Nat := byteField l 7 1
def kWset (l : Line) : Nat := byteField l 8 4
def kFallback (l : Line) : Nat := byteField l 12 2
def kEst (l : Line) : Nat := byteField l 16 4
def kMargin (l : Line) : Nat := byteField l 20 4

def kernelBad (l : Line) : Bool :=
  decide (kEntry l % 32 ≠ 0) || decide (byteField l 14 2 ≠ 0) || decide (byteField l 24 40 ≠ 0) || decide (kWidth l < 28) || decide (32 < kWidth l) ||
  !([1, 2, 4].contains (kCores l) || (decide (kCores l ≠ 0) && decide (kCores l % 8 = 0)))

/-- A kernel that a command may name: its entry and that of its fallback are valid. -/
def kernelOk (s : State) (cfg : Line) (k : Nat) : Bool :=
  let l := kernelEntry s cfg k
  decide (k < cfgKCount cfg) && !kernelBad l &&
  (decide (kFallback l = 0xFFFF) || (decide (kFallback l < cfgKCount cfg) && !kernelBad (kernelEntry s cfg (kFallback l))))

/-- Batch descriptor fields (R362). -/
def batchN (s : State) (b : Nat) : Nat := s.rd b 4
def batchEntry (b i : Nat) : Nat := b + 64 + 32 * i

def batchBad (s : State) (cfg : Line) (b : Nat) : Bool :=
  !inRanges cfg b 64 || decide (batchN s b = 0) || decide (4096 < batchN s b) || (s.bytes (b + 4) 60).any (fun x => x != 0) ||
  !inRanges cfg b (64 + 32 * batchN s b) || (cfgPool cfg).isNone ||
  (List.range (batchN s b)).any (fun i =>
    let e := batchEntry b i
    let f := s.rd (e + 6) 1
    decide (8 ≤ f) || (Nat.testBit f 0 == Nat.testBit f 1) || decide (s.rd (e + 10) 2 ≠ 0) || (s.bytes (e + 22) 10).any (fun x => x != 0))

/-- A command that is invalid (R352). -/
def cmdBad (s : State) (cfg c : Line) : Bool :=
  let fl := byteField c 1 1
  match cmdOp c with
  | 1 => decide (4 ≤ fl) || decide (byteField c 22 2 ≠ 0) || decide (byteField c 30 2 ≠ 0) || decide (byteField c 32 32 ≠ 0) ||
      !kernelOk s cfg (cmdKernel c) || (cmdBatch c && batchBad s cfg (cmdBatchD c))
  | 2 => decide (fl / 2 * 2 ≠ fl) || decide (4 ≤ fl) || decide (byteField c 2 2 ≠ 0) || decide (byteField c 8 56 ≠ 0)
  | 3 => decide (fl / 2 * 2 ≠ fl) || decide (4 ≤ fl) || decide (byteField c 8 24 ≠ 0) || decide (byteField c 36 28 ≠ 0) || decide (cmdCount c = 0) || (cfgPool cfg).isNone
  | _ => true

/-! ### KV pages (R360 to R364) -/

def poolBase (s : State) (k : Nat) : Nat := s.rd k 6
def poolPages (s : State) (k : Nat) : Nat := s.rd (k + 8) 4
def poolStack (s : State) (k : Nat) : Nat := s.rd (k + 16) 6
def poolTable (s : State) (k : Nat) : Nat := s.rd (k + 24) 6
def poolFree (s : State) (k : Nat) : Nat := s.rd (k + 32) 4
def poolReserved (s : State) (k : Nat) : Nat := s.rd (k + 36) 4
/-- Where the count of a reservation lies. -/
def poolCount (s : State) (k r : Nat) : Nat := poolTable s k + 4 * r

/-- The descriptor at k and its pool lie in the owner's ranges, with counts and page size that R360 gives (R339). -/
def poolOk (s : State) (c : Line) (k : Nat) : Bool :=
  inRanges c k 64 && decide (poolPages s k ≠ 0) && decide (poolPages s k ≤ 16777216) && decide (14 ≤ s.rd (k + 6) 1) && decide (s.rd (k + 6) 1 ≤ 21) &&
  inRanges c (poolBase s k) (poolPages s k * 2 ^ s.rd (k + 6) 1) && inRanges c (poolStack s k) (4 * poolPages s k) && inRanges c (poolTable s k) 0x40000

/-- The pool of a new owner: page 0 on top of the free stack, whose top is its highest word in use. -/
def poolInit (cfg : Line) (s : State) : State :=
  match cfgPool cfg with
  | none => s
  | some k =>
    if !poolOk s cfg k then s else
    let n := poolPages s k
    let st := poolStack s k
    let tb := poolTable s k
    State.asOne [(st, 4 * n), (tb, 0x40000), (k + 32, 8)] (fun s =>
      ((((List.range n).foldl (fun t i => t.wr (st + 4 * i) 4 (n - 1 - i)) s).zero tb 0x40000).wr (k + 32) 4 n).wr (k + 36) 4 0) s

/-- `RESERVE` (R361): the completion status. -/
def reserve (k r : Nat) (n : Int) (s : State) : Nat × State :=
  let c := s.rd (poolCount s k r) 4
  if 0 < n then
    (if n ≤ (poolFree s k : Int) - poolReserved s k then
      (0, (s.wr (poolCount s k r) 4 (c + n.toNat)).wr (k + 36) 4 (poolReserved s k + n.toNat))
    else (3, s))
  else
    let m := min n.natAbs c
    (0, (s.wr (poolCount s k r) 4 (c - m)).wr (k + 36) 4 (poolReserved s k - m))

/-- Take a page from the top of the free stack. [DEDUCED: log 105] -/
def popPage (k : Nat) (s : State) : Nat × State :=
  let f := poolFree s k
  (s.rd (poolStack s k + 4 * (f - 1)) 4, s.wr (k + 32) 4 (f - 1))
def pushPage (k p : Nat) (s : State) : State :=
  let f := poolFree s k
  (s.wr (poolStack s k + 4 * f) 4 p).wr (k + 32) 4 (f + 1)

/-- Admit a batch entry (R363): whether it was admitted. -/
def admitEntry (k e : Nat) (s : State) : Bool × State :=
  let need := s.rd (e + 8) 2
  let r := s.rd (e + 4) 2
  let held := s.rd (e + 12) 4
  let c := s.rd (poolCount s k r) 4
  if need ≤ c then
    let s1 := (List.range need).foldl (fun t i => let p := popPage k t; p.2.wr (s.rd (e + 16) 6 + 4 * (held + i)) 4 p.1) s
    (true, (((s1.wr (e + 12) 4 (held + need)).wr (poolCount s k r) 4 (c - need)).wr (k + 36) 4 (poolReserved s k - need)).wr (e + 7) 1 0)
  else (false, s.wr (e + 7) 1 1)

/-- Admit a batch's entries in ascending order: admitted and deferred. -/
def admitBatch (k b : Nat) (s : State) : Nat × Nat × State :=
  (List.range (batchN s b)).foldl (fun a i =>
    let r := admitEntry k (batchEntry b i) a.2.2
    if r.1 then (a.1 + 1, a.2.1, r.2) else (a.1, a.2.1 + 1, r.2)) (0, 0, s)

/-- An admitted entry with LEAVE returns its pages and the rest of its reservation (R364). -/
def leaveEntry (k e : Nat) (s : State) : State :=
  if Nat.testBit (s.rd (e + 6) 1) 2 && decide (s.rd (e + 7) 1 = 0) then
    let r := s.rd (e + 4) 2
    let s1 := (List.range (s.rd (e + 12) 4)).foldl (fun t i => pushPage k (s.rd (s.rd (e + 16) 6 + 4 * i) 4) t) s
    let c := s1.rd (poolCount s k r) 4
    (((s1.wr (e + 12) 4 0).wr (poolCount s k r) 4 0).wr (k + 36) 4 (poolReserved s1 k - c)).wr (e + 7) 1 2
  else s

def leaveBatch (k b : Nat) (s : State) : State := (List.range (batchN s b)).foldl (fun t i => leaveEntry k (batchEntry b i) t) s

/-! ### Placement (R356, R357) -/

/-- CORE_ARRAYS.CORE_OK: an enabled array, and not out of service (R386). [DESIGN CHOICE: log 213] -/
def coreOk (s : State) (c : Nat) : Bool := hasArray s c && !s.u.flt.coreOut.contains c

/-- A cluster in service: one of its cores is (R339, R349). [DEDUCED: log 163] -/
def clusterOk (s : State) (k : Nat) : Bool := decide (k < s.nClusters) && (List.range 8).any (fun i => coreOk s (8 * k + i))

/-- The clusters in service. -/
def clustersOk (s : State) : Nat := ((List.range 16).filter (clusterOk s)).foldl (fun m k => m + 2 ^ k) 0

/-- An idle core the dispatcher may choose for width w. -/
def coreFree (s : State) (w c : Nat) : Bool :=
  (s.core c).seq.run == .idle && !(s.core c).seq.frozen && coreOk s c && decide (s.width c = w)

/-- [DEDUCED: log 104] -/
def tagIs (s : State) (v c : Nat) : Bool := decide ((s.core c).tag.toNat = v)

/-- Free cores of a cluster, best first: tag equal, tag 0, others. -/
def clusterCores (s : State) (w wset k : Nat) : List Nat :=
  let l := ((List.range 8).map (fun i => 8 * k + i)).filter (coreFree s w)
  let r := l.filter (fun c => !tagIs s wset c)
  l.filter (tagIs s wset) ++ r.filter (tagIs s 0) ++ r.filter (fun c => !tagIs s 0 c)

/-- The clusters of a list, most matching cores first, ties to the lower number. -/
def byMatch (s : State) (w wset : Nat) (ks : List Nat) : List Nat :=
  let m := fun k => ((clusterCores s w wset k).filter (tagIs s wset)).length
  (List.range 9).flatMap (fun i => ks.filter (fun k => decide (m k = 8 - i)))

/-- The cores for a kernel, if there is a choice. -/
def placeKernel (s : State) (cfg l : Line) : Option (List Nat) :=
  let n := kCores l
  let w := kWidth l
  let ks := (List.range s.nClusters).filter (fun k => Nat.testBit (cfgClusters cfg) k)
  if n ≤ 8 then
    ((byMatch s w (kWset l) (ks.filter (fun k => decide (n ≤ (clusterCores s w (kWset l) k).length)))).head?).map (fun k =>
      (clusterCores s w (kWset l) k).take n)
  else
    let idle := byMatch s w (kWset l) (ks.filter (fun k => decide ((clusterCores s w (kWset l) k).length = 8)))
    if n / 8 ≤ idle.length then some ((idle.take (n / 8)).flatMap (fun k => (List.range 8).map (fun i => 8 * k + i))) else none

/-- A core's state as R96 gives it; its counters, tag and scratchpad stay. -/
def freshCore (k : Core) : Core :=
  { r := {}
    m := { cntMma := k.m.cntMma, cntZskip := k.m.cntZskip, cntDrain := k.m.cntDrain, cntBank := k.m.cntBank }
    seq := { cntFill := k.seq.cntFill, cntStall := k.seq.cntStall, cntLatec := k.seq.cntLatec, done := k.seq.done }
    tag := k.tag }

/-- Start one core of a dispatch (R357). -/
def startCore (c i first q req arg wset entry : Nat) (s : State) : State :=
  let k := s.core c
  let f := freshCore k
  let sv : SMap W64 := [(0, BitVec.ofNat 64 arg), (1, BitVec.ofNat 64 q), (2, BitVec.ofNat 64 req), (3, BitVec.ofNat 64 i), (4, BitVec.ofNat 64 first),
    (5, if k.tag.toNat = wset then 1 else 0)]
  gotoAddr c (BitVec.ofNat 48 entry) (s.setCore c { f with r := { f.r with s := sv }, seq := { f.seq with run := .running } })

/-! ### Arbitration (R354, R358) -/

/-- The kernel a DISPATCH would run now, and whether it is the fallback (R358). -/
def monitor (s : State) (cfg c : Line) : Nat × Bool :=
  let l := kernelEntry s cfg (cmdKernel c)
  let d := cmdDeadline c
  if d ≠ 0 && kFallback l ≠ 0xFFFF && decide ((d : Int) - kMargin l < (s.course.toNat : Int) + kEst l) then (kFallback l, true) else (cmdKernel c, false)

/-- A DISPATCH with DROP_LATE has reached its deadline (R358). -/
def expired (s : State) (x : Queue) (c : Line) : Bool :=
  Nat.testBit (qdFlags x.desc) 1 && decide (cmdOp c = 1) && decide (cmdDeadline c ≠ 0) && decide (cmdDeadline c ≤ s.course.toNat)

/-- How a head stands: 0 ready, 1 a DISPATCH that waits for cores, 2 a FENCE that waits. -/
def headState (s : State) (cfg : Line) (q : Nat) (x : Queue) : Nat :=
  let c := headCmd s x
  if cmdBad s cfg c then 0
  else match cmdOp c with
  | 1 => if expired s x c || (placeKernel s cfg (kernelEntry s cfg (monitor s cfg c).1)).isSome then 0 else 1
  | 2 => if s.u.que.disp.any (fun d => d.q == q) then 2 else 0
  | _ => 0

/-- Queues of an owner with a command at the head, in ascending number. -/
def heads (s : State) (p : Nat) : List (Nat × Queue) :=
  s.u.que.qs.filter (fun e => s.holds p e.1 && decide (e.2.head < e.2.tail) && !e.2.err)

/-- The queue whose turn it is among the ready ones of a class. -/
def turnOf (p cls : Nat) (s : State) (l : List (Nat × Queue)) : Option (Nat × Queue × Disper) :=
  let d : Disper := SMap.get {} p s.u.que.dper
  let cur := SMap.get 0 cls d.turnQ
  match l.find? (fun e => decide (e.1 = cur) && decide (0 < SMap.get 0 cls d.left)) with
  | some e => some (e.1, e.2, { d with left := SMap.set cls (SMap.get 0 cls d.left - 1) d.left })
  | none => (((l.filter (fun e => decide (cur < e.1))) ++ l.filter (fun e => decide (e.1 ≤ cur))).head?).map (fun e =>
      (e.1, e.2, { d with turnQ := SMap.set cls e.1 d.turnQ, left := SMap.set cls (qdWeight e.2.desc - 1) d.left }))

/-- The queue an owner's dispatcher takes from next: a lower class first; a class with a DISPATCH that waits holds back the higher ones. -/
def nextQueue (p : Nat) (s : State) : List Nat → Option (Nat × Queue × Disper)
  | [] => none
  | cls :: r =>
    let cfg := (s.owner p).cfg
    let hs := (heads s p).filter (fun e => decide (qdPrio e.2.desc = cls))
    match turnOf p cls s (hs.filter (fun e => decide (headState s cfg e.1 e.2 = 0))) with
    | some t => some t
    | none => if hs.any (fun e => decide (headState s cfg e.1 e.2 = 1)) then none else nextQueue p s r

/-- Take the head of a queue: HEAD rises and is written to the descriptor (R350). -/
def takeHead (q : Nat) (s : State) : State :=
  let h := (s.queue q).head + 1
  putDev { fn := (s.ownerList.find? (fun p => s.holds p q)), ws := [(qtableBase s + 64 * q + 24, leBytes 8 h)] } (s.updQueue q (fun x => { x with head := h }))

def updDisper (p : Nat) (f : Disper → Disper) (s : State) : State :=
  s.updQue (fun t => { t with dper := SMap.set p (f (SMap.get {} p t.dper)) t.dper })

/-- Dispatch a command on cores (R356, R357, R358, R363). -/
def runDispatch (p q : Nat) (x : Queue) (c : Line) (s : State) : State :=
  let cfg := (s.owner p).cfg
  if expired s x c then (takeHead q s).finish { q, i := x.head, own := p, cmd := c, kernel := cmdKernel c } 2
  else
    let m := monitor s cfg c
    let l := kernelEntry s cfg m.1
    match placeKernel s cfg l with
    | none => s
    | some cs =>
      let ad := match cfgPool cfg with
        | some k => if cmdBatch c then admitBatch k (cmdBatchD c) s else (0, 0, s)
        | none => (0, 0, s)
      let order := (List.range s.nCores).filter (fun k => cs.contains k)
      let s1 := takeHead q ad.2.2
      let d : Disp := { q, i := x.head, own := p, cmd := c, kernel := m.1, fb := m.2, wset := kWset l, cores := order, left := order, start := s.course.toNat, admitted := ad.1, deferred := ad.2.1 }
      let s2 := updDisper p (fun d => { d with
        cntDispatch := satAdd 48 d.cntDispatch 1, cntFallback := satAdd 48 d.cntFallback (if m.2 then 1 else 0), cntDefer := satAdd 48 d.cntDefer ad.2.1 })
        (s1.updQue (fun t => { t with disp := t.disp ++ [d] }))
      (List.range order.length).foldl (fun s i => startCore (nth 0 order i) i (nth 0 order 0) q (byteField c 4 4) (byteField c 16 6) (kWset l) (kEntry l) s) s2

/-- The bytes that an owner's dispatcher reads: its queues' heads, with the kernels, batches and pool that they name (R231, R236). -/
def dispSpans (s : State) (p : Nat) : List (Nat × Nat) :=
  let cfg := (s.owner p).cfg
  let kernel := fun (k : Nat) => ((cfgKTable cfg + 64 * k, 64) : Nat × Nat)
  (heads s p).flatMap (fun e =>
    let c := headCmd s e.2
    (qdRing e.2.desc + 64 * (e.2.head % 2 ^ qdLog e.2.desc), 64) ::
    ((match cmdOp c with
      | 1 => [kernel (cmdKernel c)] ++ (if kFallback (kernelEntry s cfg (cmdKernel c)) = 0xFFFF then [] else [kernel (kFallback (kernelEntry s cfg (cmdKernel c)))]) ++
          (if cmdBatch c then [(cmdBatchD c, 64 + 32 * batchN s (cmdBatchD c))] else [])
      | _ => []) : List (Nat × Nat))) ++
  (match cfgPool cfg with
    | some k => [(k, 64), (poolStack s k, 4 * poolPages s k), (poolTable s k, 0x40000)]
    | none => [])

/-- The owner's dispatcher takes the next command if it is of operation `op`; one that is invalid stops the owner (R352). -/
def dispatcher (op p : Nat) (s0 : State) : State :=
  if (s0.owner p).st != .active then s0
  else s0.guardRead (some p) (dispSpans s0 p) (fun s => match nextQueue p s [0, 1, 2, 3] with
  | none => s
  | some (q, x, d) =>
    let c := headCmd s x
    let s1 := updDisper p (fun _ => d) s
    if cmdBad s (s.owner p).cfg c then s1.raise 0x8902 0x0000 (some p) (BitVec.ofNat 64 q) (BitVec.ofNat 64 x.head)
    else if cmdOp c ≠ op then s
    else match op with
    | 1 => runDispatch p q x c s1
    | 2 => (takeHead q s1).finish { q, i := x.head, own := p, cmd := c, kernel := 0 } 0
    | _ => match cfgPool (s.owner p).cfg with
      | none => s1
      | some k =>
        let r := reserve k (cmdKernel c) (cmdCount c) (takeHead q s1)
        r.2.finish { q, i := x.head, own := p, cmd := c, kernel := 0 } r.1)

/-- EST after a dispatch of t courses (R359). -/
def newEst (est t : Nat) : Nat := ((est : Int) + ((t : Int) - est) / 8).toNat

/-- A dispatch whose every core is idle completes (R353, R357, R359, R364). -/
def dispatchDone (q i : Nat) (s : State) : State :=
  match s.u.que.disp.find? (fun d => d.q == q && d.i == i) with
  | none => s
  | some d =>
    if d.cores.isEmpty || !d.left.isEmpty then s
    else
      let cfg := (s.owner d.own).cfg
      let ka := cfgKTable cfg + 64 * d.kernel
      s.guardRead (some d.own) ((ka, 64) :: (if cmdBatch d.cmd then [(cmdBatchD d.cmd, 64 + 32 * batchN s (cmdBatchD d.cmd))] else [])) (fun s =>
      let s1 := match cfgPool cfg with
        | some k => if cmdBatch d.cmd then leaveBatch k (cmdBatchD d.cmd) s else s
        | none => s
      let s2 := s1.wr (ka + 16) 4 (newEst (s1.rd (ka + 16) 4) (d.stop - d.start))
      s2.finish d (if d.fb then 1 else 0))

/-- A waiting DROP_LATE command of an owner reaches its deadline (R358). -/
def commandExpire (p : Nat) (s : State) : State :=
  if (s.owner p).st != .active then s
  else
    s.guardRead (some p) (dispSpans s p) (fun s =>
    let cfg := (s.owner p).cfg
    match (heads s p).find? (fun e => !cmdBad s cfg (headCmd s e.2) && expired s e.2 (headCmd s e.2)) with
    | some e => runDispatch p e.1 e.2 (headCmd s e.2) s
    | none => s)

/-- An owner's number beyond the part names no unit. -/
def onOwner (p : Nat) (s : State) (f : State → State) : Host.Outcome State Fault Refusal :=
  if p < s.nOwners then .next (f s) else .refused .noSuchUnit

/-- `DOORBELL` (R351). -/
def execDoorbell (f q off n : Nat) (v : W64) (s : State) : Host.Outcome State Fault Refusal := onOwner f s (fun s => if fnLive s f then doorbell f q off n v s else s)
/-- `DISPATCH` (R354, R356). -/
def execDispatch (p : Nat) (s : State) : Host.Outcome State Fault Refusal := onOwner p s (dispatcher 1 p)
/-- `FENCE` (R354). -/
def execFence (p : Nat) (s : State) : Host.Outcome State Fault Refusal := onOwner p s (dispatcher 2 p)
/-- `RESERVE` (R361). -/
def execReserve (p : Nat) (s : State) : Host.Outcome State Fault Refusal := onOwner p s (dispatcher 3 p)
/-- `DISPATCH_COMPLETE` (R353). -/
def execDispatchComplete (q k : Nat) (s : State) : Host.Outcome State Fault Refusal := .next (dispatchDone q k s)
/-- `COMMAND_EXPIRE` (R358). -/
def execCommandExpire (p : Nat) (s : State) : Host.Outcome State Fault Refusal := onOwner p s (commandExpire p)

end Sys2Proof.Machine
end

