-- ==== Sys2Proof/Machine/Handover.lean ====
section
/-!
DEFINITION. Creating, suspending, resuming, resetting and removing owners (R338 to R349, R365, R366).
-/

namespace Sys2Proof.Machine

open Sys2Proof

/-! ### Descriptors (R341) -/

def hoBase (s : State) : Nat := bitsOf (s.reg 0 0x600010) 47 12 * 4096
def hoKind (d : Line) : Nat := byteField d 0 1
def hoPreempt (d : Line) : Bool := Nat.testBit (byteField d 1 1) 0
def hoResume (d : Line) : Bool := Nat.testBit (byteField d 1 1) 1
def hoLeave (d : Line) : Nat := byteField d 2 2
def hoEnter (d : Line) : Nat := byteField d 4 2
def hoDrain (d : Line) : Nat := byteField d 6 2
def hoSave (d : Line) : Nat := byteField d 8 6
def hoConfig (d : Line) : Nat := byteField d 16 6

/-- Owners of a 16-bit set. -/
def ownersIn (m : Nat) : List Nat := (List.range 16).filter (fun p => Nat.testBit m p)

/-- The descriptor of an index, and its 16 images. -/
def readHandover (s : State) (i : Nat) : Line × List Line :=
  let d := s.line (hoBase s + 64 * i)
  (d, (List.range 16).map (fun p => s.line (hoConfig d + 64 * p)))

/-- Bytes of a save region (R341). -/
def saveRegion : Nat := 0xC8500000

/-! ### Consistency (R339) -/

def rangeBad (w : Nat) : Bool := decide ((w >>> 13) % 2 ^ 35 ≠ 0) || decide ((w >>> 61) % 4 ≠ 0) ||
  (Nat.testBit w 63 && decide ((w >>> 48) % 8192 < w % 8192))

/-- What an image shows alone. -/
def imageBad (s : State) (c : Line) : Bool :=
  let cl := cfgClusters c
  decide (cl = 0) || decide (cl &&& clustersOk s ≠ cl) || decide (cfgTag c = 0) ||
  decide (cfgQCount c = 0) || decide (65536 < cfgQFirst c + cfgQCount c) || decide (cfgEpoch c = 0xFFFF) ||
  decide (byteField c 6 2 ≠ 0) || decide (byteField c 14 2 ≠ 0) || rangeBad (byteField c 16 8) || rangeBad (byteField c 24 8) || rangeBad (byteField c 32 8) ||
  decide (byteField c 48 6 % 64 ≠ 0) || decide (byteField c 56 8 % 64 / 2 ≠ 0) || decide (byteField c 62 2 ≠ 0) ||
  (cfgMem c).any (fun r => decide (s.edfBase < r.2)) ||
  (cfgCxl c).any (fun r => !(List.range 2).any (fun p => (List.range 4).any (fun n => match hdmRange s p n with
    | some h => within r.1 (r.2 - r.1) h.1 h.2
    | none => false))) ||
  !(decide (cfgKCount c = 0) || inRanges c (cfgKTable c) (64 * cfgKCount c)) ||
  (match cfgPool c with
    | none => false
    | some k => !poolOk s c k)

def rangesMeet (a b : List (Nat × Nat)) : Bool := a.any (fun x => b.any (fun y => overlap x.1 (x.2 - x.1) y.1 (y.2 - y.1)))

/-- Two owners' images that cannot stand together. -/
def imagesClash (a b : Line) : Bool :=
  decide (cfgClusters a &&& cfgClusters b ≠ 0) || decide (cfgTag a = cfgTag b) || rangesMeet (cfgRanges a) (cfgRanges b) ||
  overlap (cfgQFirst a) (cfgQCount a) (cfgQFirst b) (cfgQCount b)

/-- Ranges retained of a suspended owner, with its save region (R346). -/
def retained (c : Line) (save : Nat) : List (Nat × Nat) := (save, save + saveRegion) :: cfgRanges c

/-- The images of the owners after a handover are consistent; `ret` is the retained ranges and tag of a suspended owner. -/
def consistent (s : State) (shared : Bool) (after : List (Nat × Line)) (ret : Option (List (Nat × Nat) × Nat)) : Bool :=
  after.all (fun a => !imageBad s a.2) &&
  (List.range after.length).all (fun i => (List.range i).all (fun j =>
    !imagesClash ((after.getD i (0, 0)).2) ((after.getD j (0, 0)).2))) &&
  (shared || (after.all (fun a => decide (a.1 = 0) && decide (cfgClusters a.2 = clustersOk s)))) &&
  (match ret with
    | none => true
    | some (rs, tag) => after.all (fun a => !rangesMeet (cfgRanges a.2) rs && decide (cfgTag a.2 ≠ tag)))

/-- Owners after a handover, with their images. -/
def afterOwners (s : State) (d : Line) (imgs : List Line) : List (Nat × Line) :=
  let stay := (s.ownerList.filter (fun p => !Nat.testBit (hoLeave d) p)).map (fun p => (p, (s.owner p).cfg))
  if hoResume d then (match s.u.que.susp with
    | some x => stay ++ [(0, x.cfg)]
    | none => stay)
  else stay ++ (ownersIn (hoEnter d)).map (fun p => (p, imgs.getD p 0))

/-- What is retained while and after a handover, in which the exclusive owner may be pre-empted. [DEDUCED: log 97] -/
def retainedAfter (s : State) (d : Line) (pre : Bool) : Option (List (Nat × Nat) × Nat) :=
  if pre then some (retained (s.owner 0).cfg (hoSave d), cfgTag (s.owner 0).cfg)
  else if hoResume d then none
  else s.u.que.susp.map (fun x => (retained x.cfg x.save, cfgTag x.cfg))

/-- The images stand together now (R339, R349); `pre` says that the exclusive owner is pre-empted into the save region (R346). -/
def handoverFits (s : State) (d : Line) (imgs : List Line) (pre : Bool) : Bool :=
  consistent s (decide (hoKind d ≠ 2)) (afterOwners s d imgs) (retainedAfter s d pre)

/-- A descriptor is invalid (R342). [DEDUCED: log 98] -/
def hoBad (s : State) (d : Line) (imgs : List Line) : Bool :=
  let k := hoKind d
  let ex := s.ownerList
  let leave := ownersIn (hoLeave d)
  let none_ := ex.isEmpty
  let sh := s.u.que.shared
  let after := afterOwners s d imgs
  decide (k = 0) || decide (3 < k) || decide (4 ≤ byteField d 1 1) || decide (byteField d 14 2 ≠ 0) || decide (byteField d 22 42 ≠ 0) || decide (hoSave d % 0x100000 ≠ 0) ||
  leave.any (fun p => !ex.contains p) || (decide (k ≠ 3) && ex.any (fun p => !leave.contains p)) ||
  (hoPreempt d && (decide (k ≠ 1) || s.u.que.susp.isSome || decide (s.gddrTop < hoSave d + saveRegion))) ||
  (hoResume d && (decide (k ≠ 2) || (match s.u.que.susp with
    | some x => decide (x.save ≠ hoSave d)
    | none => true))) ||
  (hoResume d && decide (hoEnter d / 2 ≠ 0)) ||
  (ownersIn (hoEnter d)).any (fun p => ex.contains p && !leave.contains p) ||
  !handoverFits s d imgs (hoPreempt d) ||
  (match k with
    | 1 => !(none_ || (!sh && ex.contains 0))
    | 2 => !(none_ || sh)
    | _ => !(sh && !none_)) ||
  (if k = 2 then decide (after.map (fun a => a.1) ≠ [0]) else after.isEmpty || decide (s.nOwners < after.length) || after.any (fun a => decide (s.nOwners ≤ a.1)))

/-! ### Leaving (R343 to R346) -/

/-- A core as a new owner finds it: as reset leaves it, unfrozen (R96, R343). -/
def clearCore (c : Nat) (s : State) : State := s.setCore c (freshCore { s.core c with tag := 0 })

/-- The engines forget that they drop an owner's launches (R207). -/
def forgetLaunches (p : Nat) (s : State) : State :=
  s.updBench (fun b => { b with eng := b.eng.map (fun e => (e.1, { e.2 with drop := e.2.drop.filter (fun q => q != p) })) })

/-- A master of a leaving owner that is frozen is unfrozen. -/
def unfreezeOwner (p : Nat) (s : State) : State :=
  let s1 := (s.coresOf p).foldl (fun s c => s.updCore c (fun k => { k with
    seq := { k.seq with frozen := false }, dma := k.dma.map (fun e => (e.1, { e.2 with frozen := false })) })) s
  forgetLaunches p (s1.updHost (fun h => { h with frozen := h.frozen.filter (fun f => f != p) }))

/-- Groups of a tag are unloaded (R343). -/
def unloadGroups (tag : Nat) (s : State) : State := s.updCol (fun t =>
  let mine := t.groups.filter (fun e => decide (grTag e.2.e = tag))
  mine.foldl (fun t e => { forgetGroup e.1 t with groups := SMap.erase e.1 t.groups }) t)

/-- What an owner held must be cleared before another owner reaches it (R347). [DESIGN CHOICE: log 106] -/
def markDirty (cfg : Line) (s : State) : State :=
  s.updQue (fun t => { t with
    dirty := t.dirty ++ (cfgRanges cfg).filter (fun r => !t.dirty.contains r)
    dirtyCl := t.dirtyCl ||| cfgClusters cfg })

def dropOwner (p : Nat) (s : State) : State := s.setOwner p {}

/-- Each command that waits in a queue completes with status ABORTED (R343). [DEDUCED: log 100] -/
def abortQueue (p q : Nat) (s : State) : State :=
  let x := s.queue q
  if x.err then s
  else (List.range (x.tail - x.head)).foldl (fun s _ =>
    let y := s.queue q
    (takeHead q s).finish { q, i := y.head, own := p, cmd := headCmd s y, kernel := cmdKernel (headCmd s y) } 0xFF) s

/-- An owner leaves for good: what it still has in progress or queued is aborted, its step closes, its groups go (R262, R343). -/
def leaveOwner (p : Nat) (s : State) : State :=
  let o := s.owner p
  let s1 := cancelArms p s
  let s2 := (s1.u.que.disp.filter (fun d => d.own == p)).foldl (fun s d => s.finish d 0xFF) s1
  let s2 := (s2.u.que.qs.filter (fun e => s.holds p e.1)).foldl (fun s e => abortQueue p e.1 s) s2
  let s3 := (s2.coresOf p).foldl (fun s c => clearCore c s) (unfreezeOwner p (dropLaunches p (abandonOwner p s2)))
  dropOwner p (markDirty o.cfg (unloadGroups (cfgTag o.cfg) (closeStepEv p 0 true (readyClosed p s3))))

/-- The exclusive owner is quiet (R344). -/
def quiet (p : Nat) (s : State) : Bool :=
  (s.coresOf p).all (fun c =>
    let k := s.core c
    k.seq.run == .idle && k.reqs.isEmpty && (List.range 4).all (fun q => (k.dmaq q).xs.isEmpty)) &&
  !(s.u.col.convs ++ s.u.col.back).any (fun c => c.own == some p && c.st != .done) && !s.u.col.wait.any (fun r => r.own == some p) && s.creqs.all (fun r => s.ownerOfCore r.core != some p) &&
  s.tiles.all (fun t => t.own != some p) &&
  !s.bench.eng.any (fun e => (e.2.fg ++ e.2.bg ++ e.2.fgw ++ e.2.bgw).any (fun (l : Launch) => l.own == some p) ||
    (e.2.running && (e.2.cur.bind (fun (l : Launch) => l.own)) == some p))

/-- A launch that a Bench engine runs passes to another owner number. -/
def passLaunch (p q : Nat) (x : Engine) : Engine :=
  { x with cur := x.cur.map (fun (l : Launch) => if l.own == some p then { l with own := some q } else l) }

/-- A core is being saved or restored already (R165, R167): it has quiesced. -/
def halfway (q : CoreSeq) : Bool := q.run == .quiescing || q.run == .saved || q.run == .restoring

/-- Core c's area of a save region (R345). -/
def saveArea (save c : Nat) : Nat := save + 0x100000 + 0x1900000 * c

/-- Every core of an owner quiesces, unless it has already, and is saved into its area of a save region (R345); then it is as a new owner finds
it. A save that would be a forbidden write is none (R186). -/
def saveCores (save p : Nat) (s : State) : State :=
  (s.coresOf p).foldl (fun s c => clearCore c (if saveHits s (saveArea save c) c then saveForbid (saveArea save c) c s else saveCoreAt (saveArea save c) c s))
    ((s.coresOf p).foldl (fun s c => if halfway (s.core c).seq then s else quiesce c s) s)

/-- The exclusive owner is pre-empted into a save region and becomes suspended (R345, R346): cores are saved, conversations go into the
conversation image, whose layout the manual does not give, with what the collective engine has not begun, and queued launches are dropped. A
launch that an engine runs goes on to its end under owner number 16, which no register names and whose image is the suspended owner's. [DEDUCED: log 45; DESIGN CHOICE: log 162] -/
def suspendOwner (save : Nat) (s : State) : State :=
  let o := s.owner 0
  let convs := (s.u.col.convs ++ s.u.col.back).filter (fun c => c.own == some 0 && c.st != .done)
  let wait := s.u.col.wait.filter (fun r => r.own == some 0)
  let creqs := s.creqs.filter (fun r => s.ownerOfCore r.core == some 0)
  let tiles := s.tiles.filter (fun t => t.own == some 0)
  let pieces := s.u.col.pieces.filter (fun q => q.own == some 0)
  let asks := s.u.col.asks.filter (fun q => q.own == some 0)
  let staged := s.u.col.staged.filter (fun e => s.ownerOfCore e.1 == some 0)
  let runs := ((s.coresOf 0).filter (fun c => halfway (s.core c).seq)).map (fun c => (c, (s.core c).seq.run, (s.core c).seq.held, (s.core c).seq.done))
  let qs := s.u.que.qs.filter (fun e => s.holds 0 e.1)
  let disp := s.u.que.disp.filter (fun d => d.own == 0)
  let s0 : State := { s with
    creqs := s.creqs.filter (fun r => s.ownerOfCore r.core != some 0), tiles := s.tiles.filter (fun t => t.own != some 0) }
  let s1 := saveCores save 0 (cancelArms 0 s0)
  let s2 := ((s1.wr save 64 o.cfg.toNat).wr (save + 64) 8 s.course.toNat)
  let s3 := freeBytes (save + 0xC8100000) (256 * convs.length) s2
  let s4 := s3.updCol (fun t => { t with
    convs := t.convs.filter (fun c => c.own != some 0), pieces := t.pieces.filter (fun q => q.own != some 0)
    asks := t.asks.filter (fun q => q.own != some 0)
    back := t.back.filter (fun c => c.own != some 0), wait := t.wait.filter (fun r => r.own != some 0)
    staged := t.staged.filter (fun e => s.ownerOfCore e.1 != some 0) })
  let s5 := s4.updBench (fun b => { b with eng := b.eng.map (fun e =>
    let keep := fun (l : List Launch) => l.filter (fun (i : Launch) => i.own != some 0)
    (e.1, ({ passLaunch 0 16 e.2 with fg := keep e.2.fg, bg := keep e.2.bg, fgw := keep e.2.fgw, bgw := keep e.2.bgw, drop := e.2.drop.filter (fun q => q != 0) } : Engine).refill)) })
  let s6 := s5.updHost (fun h => { h with frozen := h.frozen.filter (fun f => f != 0) })
  ((dropOwner 0 (closeStepEv 0 0 true (readyClosed 0 s6))).setOwner 16 { cfg := o.cfg, job := o.job }).updQue (fun t => { t with
    qs := t.qs.filter (fun e => !s.holds 0 e.1), disp := t.disp.filter (fun d => d.own != 0)
    susp := some { cfg := o.cfg, save, job := o.job, epoch := s.reg 0 0xA00050, convs, creqs, tiles, pieces, asks, staged, wait, qs, disp, runs }, dirtyCl := t.dirtyCl ||| cfgClusters o.cfg })

/-! ### Entering (R338, R343, R347, R348) -/

/-- An owner is created from its image; it is ACTIVE once its clusters and ranges are cleared (R338, R343). [DEDUCED: log 101; DEDUCED: log 107] -/
def enterOwner (p : Nat) (cfg : Line) (s : State) : State :=
  let o := 0xA00050 + 8 * p
  let s1 := s.setOwner p { st := .creating, cfg, pool := ((cfgPool cfg).map (fun k => s.line k)).getD 0 }
  let s2 := s1.setReg o (putBits (s1.reg 0 o) 15 0 (cfgEpoch cfg))
  s2.updQue (fun t => { t with qs := t.qs.filter (fun e => !s2.holds p e.1) })

/-- Clear the part of a range that another owner has held. -/
def clearDirty (r : Nat × Nat) (s : State) : State :=
  s.u.que.dirty.foldl (fun s d =>
    let lo := max r.1 d.1
    let hi := min r.2 d.2
    if lo < hi then (s.zero lo (hi - lo)).inject lo (hi - lo) else s) s

/-- A stream as a resumed conversation takes it up: a receiver keeps what it has accepted without a gap, a sender waits for the first grant. -/
def resumeStream (g : Group) (into : Bool) (x : Stream) : Stream :=
  if into then { x with got := x.front, gaps := [], gave := x.front / g.ppc } else { x with granted := 0, resumed := true }

/-- A conversation reopens from its record (R348): the first grant to each sender carries the bytes that this receiver had accepted, and each
sender resends from there; it waits while 16,384 are open (R306). [DEDUCED: log 46] -/
def reopenConv (c : Conv) (s : State) : State :=
  match s.group c.gid with
  | none => s
  | some g =>
    if colFull s then s.updCol (fun t => { t with back := t.back ++ [c] })
    else
      let ins := c.ins g
      let outs := (c.outs g).map (fun o => skey o.1 o.2)
      let ks := dedupe (c.streams.map (fun e => e.1) ++ outs)
      let c1 := { c with
        arrived := []
        streams := ks.foldl (fun m k => SMap.set k (resumeStream g (ins.any (fun i => decide (skey i.1 i.2.1 = k))) (c.stream k)) m) [] }
      let s1 := s.updCol (fun t => { t with convs := t.convs ++ [c1], seen := t.seen.filter (fun a => a.conv != c.id) })
      if c.st == .gated then s1
      else if c.op = 8 then (if c.released then s1 else sendArrival g c1 s1)
      else drive c.id (ins.foldl (fun s i => sendGrant g c1 i.1 i.2.1 (c1.bytesAt i.2.1 (c1.stream (skey i.1 i.2.1)).front) s) s1)

/-- What waits for room among the open conversations goes on (R306): those that reopen, then those that the engine begins. [DESIGN CHOICE: log 187] -/
def engineWaits (s : State) : State :=
  if s.u.col.back.isEmpty && s.u.col.wait.isEmpty then s
  else
    let s1 := s.u.col.back.foldl (fun s c => reopenConv c s) (s.updCol (fun t => { t with back := [] }))
    beginWaiting s1.u.col.wait.length s1

/-- The KV pool of an owner is initialised under the descriptor that it was created with, which the clearing may have zeroed (R347, R360). [DESIGN CHOICE: log 193] -/
def poolStart (o : Owner) (s : State) : State :=
  match cfgPool o.cfg with
  | none => s
  | some k => poolInit o.cfg (s.wr k 64 o.pool.toNat)

/-- An entering owner becomes ACTIVE: its clusters and ranges are clear, its KV pool initialised, and a resumed owner restored. -/
def ownerActive (p : Nat) (s : State) : State :=
  let o := s.owner p
  if o.st != .creating then s
  else
    let dirty := s.u.que.dirtyCl
    let s1 := ((List.range s.nClusters).filter (fun k => Nat.testBit (cfgClusters o.cfg) k && Nat.testBit dirty k)).foldl (fun s k =>
      (List.range 8).foldl (fun s i => clearCore (8 * k + i) (s.zero (spBase (8 * k + i)) spSize)) s) s
    let back := s.u.que.resuming && decide (p = 0)
    match s.u.que.susp with
    | some x =>
      if back then
        let s2 := (s.coresOf 0).foldl (fun s c => s.guardRead none (restSpans s (saveArea x.save c)) (restoreCoreAt (saveArea x.save c) c)) s1
        let s2 := x.runs.foldl (fun s e => s.updSeq e.1 (fun q => { q with run := e.2.1, held := e.2.2.1, done := e.2.2.2 })) s2
        let s3 := ((dropOwner 16 s2).setOwner 0 { o with st := .active, job := x.job }).updQue (fun t => { t with
          susp := none, resuming := false, qs := SMap.onto t.qs x.qs, disp := t.disp ++ x.disp })
        let s3 := ((s3.setReg 0xA00050 x.epoch).updBench (fun b => { b with eng := b.eng.map (fun e => (e.1, passLaunch 16 0 e.2)) })).updCol (fun t => { t with
          pieces := t.pieces ++ x.pieces, asks := t.asks ++ x.asks, wait := t.wait ++ x.wait, staged := SMap.onto t.staged x.staged })
        let s3 : State := { s3 with creqs := s3.creqs ++ x.creqs, tiles := s3.tiles ++ x.tiles }
        settle (x.convs.foldl (fun s c => reopenConv c s) s3)
      else poolStart o (((cfgRanges o.cfg).foldl (fun s r => clearDirty r s) s1).setOwner p { o with st := .active })
    | none => poolStart o (((cfgRanges o.cfg).foldl (fun s r => clearDirty r s) s1).setOwner p { o with st := .active })

/-! ### Handover (R343, R344, R349) -/

/-- A handover takes no effect (R349): owners continue, and drained ones dispatch again. -/
def handoverFailed (own : Option Nat) (s : State) : State := (undrain s).raise 0x4902 0x7000 own 0 0

/-- The owners change (R343); convicted columns of cores that no owner holds meanwhile are bypassed (R88, R386). [DEDUCED: log 99; DEDUCED: log 100] -/
def handover (own : Option Nat) (d : Line) (imgs : List Line) (s : State) : State :=
  let exc := decide (hoKind d = 1) && !s.u.que.shared && (s.owner 0).exists
  let calm := quiet 0 s
  let forced := exc && !hoPreempt d && !calm
  let pre := hoPreempt d || (forced && decide (hoSave d ≠ 0))
  if s.u.flt.out || s.u.flt.running || !handoverFits s d imgs pre || (forced && s.u.que.susp.isSome) then handoverFailed own s
  else
    let s1 := (ownersIn (hoLeave d)).foldl (fun s p => cancelArms p s) s
    let s2 :=
      if exc then
        let s2 := if forced then s1.raise 0x4901 0x7000 (some 0) 0 0 else s1
        if pre then suspendOwner (hoSave d) s2 else leaveOwner 0 s2
      else (ownersIn (hoLeave d)).foldl (fun s p => leaveOwner p s) s1
    let s3 := applyConvictions (s2.updQue (fun t => { t with shared := decide (hoKind d ≠ 2), resuming := hoResume d }))
    if hoResume d then (match s3.u.que.susp with
      | some x => enterOwner 0 x.cfg s3
      | none => s3)
    else (ownersIn (hoEnter d)).foldl (fun s p => enterOwner p (imgs.getD p 0) s) s3

/-- Leaving partitions of an armed handover stop dispatching (R343). -/
def drainArm (a : Arm) (s : State) : State :=
  if a.course ≤ s.course.toNat + hoDrain a.desc then
    (ownersIn (hoLeave a.desc)).foldl (fun s p =>
      let o := s.owner p
      if o.st == .active && s.u.que.shared then s.setOwner p { o with st := .draining } else s) s
  else s

def drainStart (s : State) : State := (s.u.crs.arms.filter (fun a => armKind a == 1)).foldl (fun s a => drainArm a s) s

/-- `QUE_MODE.NOW` (R344): false says the write is forbidden. -/
def modeNow (i : Nat) (s : State) : Option State :=
  let h := readHandover s i
  if !s.ownerList.isEmpty || !s.u.crs.arms.isEmpty || hoBad s h.1 h.2 then none
  else some (handover none h.1 h.2 s)

/-! ### Reset of a partition (R366) -/

/-- A core of an owner that is reset: idle, its resident tag 0; what R366 does not name stays. [DESIGN CHOICE: log 215] -/
def resetCore (c : Nat) (s : State) : State :=
  s.updCore c (fun k => { k with tag := 0, seq := { k.seq with run := .idle, ending := false, main := none, unmet := false } })

/-- An owner is reset under the same image. [DESIGN CHOICE: log 215] -/
def resetOwner (p : Nat) (s : State) : State :=
  let o := s.owner p
  let cs := s.coresOf p
  let s1 := cs.foldl (fun s c => State.haltCoreAt c s) s
  let s2 := (s1.u.que.disp.filter (fun d => d.own == p)).foldl (fun s d => s.finish d 0xFF) s1
  let s3 := unfreezeOwner p s2
  let s4 := cs.foldl (fun s c => resetCore c (s.zero (spBase c) spSize)) s3
  let s5 := s4.updQue (fun t => { t with qs := t.qs.map (fun e => if s.holds p e.1 then (e.1, { e.2 with err := false, tail := e.2.done, head := e.2.done }) else e) })
  let s6 := ((s5.u.que.qs.filter (fun e => s.holds p e.1))).foldl (fun s e => s.wr (qtableBase s + 64 * e.1 + 24) 8 e.2.done) s5
  closeWindow p ((poolInit o.cfg s6).setOwner p { o with st := .active })

/-- A partition that `RESET` may name. -/
def resetOk (p : Nat) (s : State) : Bool := s.u.que.shared && ((s.owner p).st == .active || (s.owner p).st == .faulted)

/-! ### The meanings -/

/-- `DRAIN_START` (R343). -/
def execDrainStart (s : State) : Host.Outcome State Fault Refusal := .next (drainStart s)

end Sys2Proof.Machine
end

