-- ==== Sys2Proof/Machine/Arms.lean ====
section
/-!
DEFINITION. Armed events (R257 to R260, R329, R342, R489), the step (R262), and the course boundary (R250, R251, R487).
-/

namespace Sys2Proof.Machine

open Sys2Proof

/-! ### Arm entries (R257) -/

def armCourse (e : BitVec 256) : Nat := byteField e 0 8
def armTarget (e : BitVec 256) : Nat := byteField e 12 4
def armArg (e : BitVec 256) : Nat := byteField e 16 8
def armPeriod (e : BitVec 256) : Nat := byteField e 24 4
def armRepeat (e : BitVec 256) : Bool := bitOf e 72

/-- Reserved bits of `TARGET` and `ARG` by kind, and an unassigned kind (R258, R489). -/
def armFieldBad (e : BitVec 256) : Bool :=
  let t := armTarget e
  let a := armArg e
  match byteField e 8 1 with
  | 1 => decide (256 ≤ t) || decide (a ≠ 0)
  | 2 => decide (65536 ≤ t) || decide (a ≠ 0)
  | 3 => decide (16 ≤ t) || decide (a ≠ 0)
  | 4 => decide (t ≠ 0)
  | 5 => decide (t ≠ 0) || decide (a ≠ 0)
  | 6 => decide (t ≠ 0)
  | 7 => (decide (4096 ≤ t) && decide (t ≠ 0x80000000)) || decide (2 ^ 32 ≤ a)
  | 8 => decide (4096 ≤ t) || decide (2 ^ 32 ≤ a)
  | 9 => decide (64 ≤ t) || decide (2 ^ 48 ≤ a)
  | 0xA => decide (16384 ≤ t) || decide (a = 0) || decide (255 < a)
  | _ => true

/-- The other reserved bits of an entry, and `PERIOD` against the repeat flag (R257). -/
def armRsvBad (e : BitVec 256) : Bool :=
  decide (byteField e 9 1 / 2 ≠ 0) || decide (byteField e 10 1 / 16 ≠ 0) || decide (byteField e 11 1 ≠ 0) || decide (byteField e 28 4 ≠ 0) ||
  (if armRepeat e then decide (armPeriod e = 0) else decide (armPeriod e ≠ 0))

/-- The owner that an entry names exists; owner 0 of exclusive mode may be still to come. -/
def armOwnerOk (s : State) (p : Nat) : Bool := (s.owner p).exists || (decide (p = 0) && !s.u.que.shared)

/-- What R259, R331, R342 and R489 refuse, for an entry at a course; `again` says that it re-arms. -/
def armBad (s : State) (e : BitVec 256) (course : Nat) (d : Line) (imgs : List Line) : Bool :=
  let c := s.u.crs
  let p := byteField e 10 1 % 16
  armFieldBad e || armRsvBad e ||
  decide (course < s.course.toNat + crsLeadMin s) || decide (1024 ≤ c.arms.length) ||
  decide (64 ≤ (c.arms.filter (fun a => a.course == course)).length) ||
  (c.st != tsLocked && c.st != tsHoldover) || !armOwnerOk s p ||
  (match byteField e 8 1 with
    | 1 => hoBad s d imgs || c.arms.any (fun a => armKind a == 1)
    | 2 => decide (armTarget e = 0xFFFF) || decide (armTarget e = curEpoch s p)
    | 4 => (s.owner p).job.isNone
    | 0xA =>
      let k := armTarget e % 256
      decide (s.nCores ≤ k) || s.ownerOfCore k != some p
    | _ => false)

/-- Refuse an entry (R259, R370). -/
def armRefuse (e : BitVec 256) (course : Nat) (s : State) : State :=
  let p := byteField e 10 1 % 16
  s.raise 0x8702 0x7000 (if (s.owner p).exists then some p else none) (BitVec.ofNat 64 course) (BitVec.ofNat 64 (byteField e 8 8))

/-- The entry in the four words is pushed (R257, R259); a HANDOVER captures its descriptor and images (R342). -/
def armPut (e : BitVec 256) (s : State) : State :=
  let h := if byteField e 8 1 = 1 then readHandover s (armTarget e % 256) else (0, [])
  let at_ := armCourse e
  if armBad s e at_ h.1 h.2 then armRefuse e at_ s
  else
    let a : Arm := { e, course := at_, seq := s.u.crs.armSeq, desc := h.1, imgs := h.2 }
    let s1 := s.updCrs (fun c => { c with arms := c.arms ++ [a], armSeq := c.armSeq + 1 })
    if byteField e 8 1 = 1 then drainArm a s1 else s1

/-- The bytes that a push reads: those of a HANDOVER's descriptor and images (R342). -/
def armReads (s : State) (e : BitVec 256) : List (Nat × Nat) :=
  if byteField e 8 1 = 1 then
    let a := hoBase s + 64 * (armTarget e % 256)
    [(a, 64), (hoConfig (s.line a), 1024)]
  else []

/-- A push, unless what it reads is uncorrectable (R236). -/
def armPush (e : BitVec 256) (s : State) : State := s.guardRead none (armReads s e) (armPut e)

/-! ### The epoch fence (R329) -/

/-- Cores that issued what is still open for an owner, and whether anything is open at all. -/
def fenceOpen (p : Nat) (s : State) : List Nat × Bool :=
  let cv := s.u.col.convs.filter (fun c => c.own == some p && c.st != .done)
  let tl := s.tiles.filter (fun (t : Tile) => t.own == some p)
  let ofGroup := fun (i : Nat) => (s.group i).bind (groupOwner s) == some p
  let rq := s.creqs.filter (fun (r : CReq) => if r.core < 0x80 then s.ownerOfCore r.core == some p else ofGroup (rqGroup r.line))
  let st := s.u.col.staged.filter (fun e => s.ownerOfCore e.1 == some p && decide (e.2 ≠ 0))
  let ln := s.bench.eng.any (fun x => (x.2.fg ++ x.2.bg ++ x.2.fgw ++ x.2.bgw ++ x.2.cur.toList).any (fun (l : Launch) => (decide (l.slot = 2) || l.fold.isSome) && l.own == some p))
  (dedupe ((cv.map (fun c => c.ep)).filter (fun e => decide (e < 0x80)) ++ tl.map (fun t => t.core) ++ (rq.map (fun r => r.core)).filter (fun e => decide (e < 0x80)) ++ st.map (fun e => e.1)),
    s.u.col.pieces.any (fun q => q.own == some p) || s.u.col.fans.any (fun f => ofGroup f.gid) || s.u.col.terms.any (fun t => ofGroup t.gid) || s.u.col.back.any (fun c => c.own == some p) || s.u.col.wait.any (fun r => r.own == some p) || (slicesOf s (some p)).any (fanReady s) || !cv.isEmpty || !tl.isEmpty || !rq.isEmpty || !st.isEmpty || ln)

/-- An EPOCH_FENCE fires (R329). What R327 held for it comes back to the inbox. [DEDUCED: log 78] -/
def epochFence (p e : Nat) (s : State) : State :=
  let o := 0xA00050 + 8 * p
  let r := s.reg 0 o
  let f := fenceOpen p s
  let give := fun (s : State) => ({ s with u := { s.u with net := { s.u.net with inbox := s.u.col.held ++ s.u.net.inbox } } }).updCol (fun t => { t with held := [] })
  if f.2 then
    let s1 := f.1.foldl (fun s c => State.freezeCoreAt c s) (s.setReg o (putBits r 32 32 1))
    give (s1.raise 0x8303 0x7000 (some p) (BitVec.ofNat 64 (e * 65536)) (BitVec.ofNat 64 (bitsOf r 15 0 + e * 2 ^ 32)))
  else give (tableTakesEffect p (s.setReg o (putBits (putBits r 31 16 (bitsOf r 15 0)) 15 0 e)))

/-! ### The step (R262, R209, R221) -/

/-- A new step of a slice: nothing folded, no piece held; the stamp of the working copy stays until the cast, and the
parameter block of the step course and the frozen mark are kept (R177, R209, R215, R217). -/
def freshSlice (a : Nat) (s : State) : State :=
  let id := slId s a
  let s1 := s.updSlice id (fun x => { stampStep := x.stampStep, stampDig := x.stampDig, par := some (s.line (slParams s a)), frozen := some (slFrozen s a) })
  clearHold a ((s1.updCol (fun t => { t with fans := t.fans.filter (fun f => f.slice != id) })).updBench (fun b => { b with folds := b.folds.filter (fun f => f.slice != id), noise := b.noise.filter (fun n => n.slice != id) }))

/-- A STEP fires (R262): the open record closes, the step number changes, and every engine launches its casts (R221). The new record counts
from this course on (R263), and takes N from the groups in force (R335). -/
def stepFires (p : Nat) (n : W64) (s0 : State) : State :=
  let s := closeStepEv p 0 (!histLeft s0 p) (snapShard s0)
  let o := s.owner p
  match o.job with
  | none => s
  | some j =>
    let s1 := s.setOwner p { o with job := some { j with step := n, ran := true } }
    let begun := SMap.get [] p s.u.crs.begun
    let r : StepRec := { own := p, step := n, start := s.course.toNat, job := j.id, gauge := j.gauge
                         flags := if begun.contains n.toNat then 2 else 0, members := noiseMembers s p
                         evInfo := eventsNow s p 1, evCorr := eventsNow s p 4
                         swatch0 := [s.u.sw.sampled, s.u.sw.failed, s.u.sw.abandoned]
                         fill0 := coreSum s (fun q => q.cntFill), stall0 := coreSum s (fun q => q.cntStall) }
    let s2 := (s1.updCrs (fun c => { c with steps := SMap.set p r c.steps, begun := SMap.set p (if begun.contains n.toNat then begun else n.toNat :: begun) c.begun })).updBench (fun b => { b with digSum := 0 })
    let as := slicesOf s2 (some p)
    let s3 := as.foldl (fun s a => freshSlice a s) s2
    as.foldl (fun s a => launchSlice 0x7000 a (some p) 0 false s) s3

/-! ### Firing (R258, R260) -/

/-- The group scopes that valid scale entries name (R320). -/
def groupScopes (s : State) : List Nat := dedupe ((validEntries s).map (scopeOf s)) |>.filter (fun x => decide (x ≠ 0))

/-- A HISTORY fires (R213, R320). -/
def historyFires (p : Nat) (s : State) : State :=
  (groupScopes s).foldl (fun s x => amaxReduce (some p) x s) (launchHistory (some p) 0 (s.jobOf (some p)).step s)

/-- The update deadline: the digest of each frozen slice is launched (R219), and one event for each other owned slice whose optimizer has not
ended is raised (R221, R370). [DEDUCED: log 54] -/
def updateDeadline (p : Nat) (s0 : State) : State :=
  let step := (s0.jobOf (some p)).step.toNat % 2 ^ 32
  let good := (slicesOf s0 (some p)).filter (fun a => (s0.memUe a 128).isNone)
  let s1 := (slicesOf s0 (some p)).foldl (fun s a => match s0.memUe a 128 with
    | some x => s.raiseUe x (some p)
    | none => s.readNote a 128) s0
  let s := (good.filter (sliceFrozen s0)).foldl (fun s a => launchSlice 0x7000 a (some p) 3 false s) s1
  (good.filter (fun a => !sliceFrozen s a && !(s.slice (slId s a)).opted)).foldl (fun t a =>
    t.raise 0x8302 0x7000 (some p) (BitVec.ofNat 64 (slGroup s a % 4096 + slEpoch s a * 65536 + step * 2 ^ 32))
      (BitVec.ofNat 64 (slId s a * 2 ^ 32))) s

/-- A SIGNAL fires (R489). -/
def signalFires (p t n : Nat) (s : State) : State :=
  let r := semAdd (t % 256) (t / 256 % 64) n s
  if r.2 then settle r.1
  else r.1.raise 0x851A 0x7000 (some p) (BitVec.ofNat 64 (t / 256 % 64 + 64 * (t % 256))) 0

/-- A BENCH arm enters its launch block (R198). -/
def benchFires (p e a : Nat) (s : State) : State :=
  s.guardRead (some p) [(a, 512)] (fun s =>
    let l : Launch := { own := some p, addr := a, blk := BitVec.ofNat 4096 (s.rd a 512), src := 0x7000 }
    if e < s.nCh then enterLaunch e l s
    else s.raise 0x8532 0x7000 (some p) (BitVec.ofNat 64 a) (benchD1 0 l.slice))

/-- What the firing of an entry does (R258). -/
def fireEffect (a : Arm) (s : State) : State :=
  let p := armOwner a
  let t := armTarget a.e
  let g := armArg a.e
  match armKind a with
  | 1 => handover (if (s.owner p).exists then some p else none) a.desc a.imgs s
  | 2 => epochFence p t s
  | 3 => patternArm p t s
  | 4 => s.guardRead (some p) [(sliceBase s, 128 * sliceCount s)] (stepFires p (BitVec.ofNat 64 g))
  | 5 => historyFires p s
  | 6 => snapArm (some p) g s
  | 7 => if t = 0x80000000 then updateDeadline p s else groupDeadline t g s
  | 8 => notBefore t g s
  | 9 => benchFires p t g s
  | _ => signalFires p t g s

/-- A repeating entry re-arms at `COURSE` + `PERIOD` in its first place, under the same checks (R259, R260), unless the firing stopped its
owner or let it leave, whose arms are cancelled. [DEDUCED: log 77] -/
def rearm (a : Arm) (s : State) : State :=
  let at_ := a.course + armPeriod a.e
  if !armRepeat a.e || (s.owner (armOwner a)).st == .faulted || !armOwnerOk s (armOwner a) then s
  else if armBad s a.e at_ a.desc a.imgs then armRefuse a.e at_ s
  else
    let b : Arm := { a with course := at_ }
    let s1 := s.updCrs (fun c => { c with arms := c.arms ++ [b] })
    if armKind b = 1 then drainArm b s1 else s1

/-- Whether the counter runs: from its first sync on in ACQUIRING, and in LOCKED, HOLDOVER and LOST (R256). -/
def counterRuns (s : State) : Bool :=
  let c := s.u.crs
  (decide (c.st = tsAcquiring) && c.synced) || decide (c.st = tsLocked) || decide (c.st = tsHoldover) || decide (c.st = tsLost)

/-- The next entry to fire in the present course: ascending kind, then order of pushes (R260). -/
def nextArm (s : State) : Option Arm :=
  (s.u.crs.arms.filter (fun a => decide (a.course ≤ s.course.toNat))).foldl (fun (b : Option Arm) a => match b with
    | none => some a
    | some x => if armKind a < armKind x || (armKind a == armKind x && decide (a.seq < x.seq)) then some a else b) none

/-- Fire one entry. [DESIGN CHOICE: log 76] -/
def fireArm (a : Arm) (s : State) : State :=
  rearm a (fireEffect a (s.updCrs (fun c => { c with arms := c.arms.filter (fun b => b.seq != a.seq) })))

/-- Fire the next due entry if it is of kind k. -/
def fireKind (k : Nat) (s : State) : State :=
  if !counterRuns s then s
  else match nextArm s with
  | none => s
  | some a => if armKind a = k then fireArm a s else s

/-- Fire every due entry, at most n. -/
def fireDue : Nat → State → State
  | 0, s => s
  | n + 1, s => match nextArm s with
    | none => s
    | some a => fireDue n (fireArm a s)

/-! ### The course boundary (R250, R251, R487) -/

/-- The debt and every suspect's weight fall by a 64th, rounded up, once at each elapsed course that is a multiple of 2^26 (R390). -/
def healthDecay (s : State) : State :=
  if s.elapsed % 2 ^ 26 = 0 && s.u.flt.decayAt != some s.elapsed then
    let s1 := s.updFlt (fun f => { f with
      debt := f.debt - cdiv f.debt 64, decayAt := some s.elapsed
      suspects := (f.suspects.map (fun e => (e.1, { e.2 with weight := e.2.weight - cdiv e.2.weight 64 }))).filter (fun e => decide (e.2.weight ≠ 0)) })
    s1.updFlt (fun f => { f with low := decide (score f.debt < bitsOf (s1.reg 0x0100000300010258 0x400008) 9 0) })
  else s

/-- What the ending course still owes: drains, entries due, deadlines, holdover. -/
def endCourse (s : State) : State :=
  if counterRuns s then
    syncLost (holdoverEnter (barrierCourse (requestDeadline (fireDue 1088 (drainStart s)))))
  else s

/-- A course boundary: an elapsed course passes, and the counter, where it runs, takes the next number. [DEDUCED: log 75] -/
def courseBoundary (s0 : State) : State :=
  let s := healthDecay (drainNotes (bucketLeak (endCourse s0)))
  let s1 := (s.updCrs (fun c => { c with elapsed := c.elapsed + 1, tick := if counterRuns s then 0 else c.tick })).updMem (fun m => { m with
    bucket := s.reg 0x1040989680989680 0xC00008 })
  let s1 := s1.cores.foldl (fun t e => if e.2.seq.run == .idle then t else t.idleNow e.1) s1
  if counterRuns s then settle (snapDeadline (barrierCourse (driveStuck (openReleased (engineWaits { s1 with course := s.course + 1 }))))) else s1

/-! ### The meanings -/

/-- `HANDOVER` (R258, R343): the entry of that kind that is next fires. -/
def execHandover (s : State) : Host.Outcome State Fault Refusal := .next (fireKind 1 s)
/-- `EPOCH_FENCE` (R258, R329). -/
def execEpochFence (s : State) : Host.Outcome State Fault Refusal := .next (fireKind 2 s)
/-- `PATTERN` (R258, R288). -/
def execPattern (s : State) : Host.Outcome State Fault Refusal := .next (fireKind 3 s)
/-- `STEP` (R258, R262). -/
def execStep (s : State) : Host.Outcome State Fault Refusal := .next (fireKind 4 s)
/-- `HISTORY` (R258, R213, R320). -/
def execHistory (s : State) : Host.Outcome State Fault Refusal := .next (fireKind 5 s)
/-- `SNAPSHOT` (R258, R224). -/
def execSnapshot (s : State) : Host.Outcome State Fault Refusal := .next (fireKind 6 s)
/-- `DEADLINE` (R258, R260, R305, R221). -/
def execDeadline (s : State) : Host.Outcome State Fault Refusal := .next (fireKind 7 s)
/-- `NOT_BEFORE` (R258, R305). -/
def execNotBefore (s : State) : Host.Outcome State Fault Refusal := .next (fireKind 8 s)
/-- `BENCH_ARM` (R258, R198). -/
def execBenchArm (s : State) : Host.Outcome State Fault Refusal := .next (fireKind 9 s)
/-- `SIGNAL_ARM` (R258, R489). -/
def execSignalArm (s : State) : Host.Outcome State Fault Refusal := .next (fireKind 10 s)
/-- `HEALTH_DECAY` (R390). -/
def execHealthDecay (s : State) : Host.Outcome State Fault Refusal := .next (healthDecay s)

end Sys2Proof.Machine
end

