-- ==== Sys2Proof/Machine/Frog.lean ====
section
/-!
DEFINITION. Swatch checks, known-answer tiles, the condition matrix and convictions (R62, R381 to R386), requalification (R392, R393),
stopping and frogging (R375, R379, R394, R395), posted evidence (R396).
-/

namespace Sys2Proof.Machine

open Sys2Proof

/-! ### Registers -/

def fltHcfg (s : State) : W64 := s.reg 0x0100000300010258 0x400008
def fltConvict (s : State) : Nat := bitsOf (fltHcfg s) 35 32
def fltReqTests (s : State) : Nat := bitsOf (fltHcfg s) 63 48
def fltIst (s : State) : Bool := bitOf (fltHcfg s) 16

/-! ### Physical columns (R87, R383) -/

/-- The physical columns of an array in ascending order that are not bypassed: logical column j is the j-th. -/
def physCols (s : State) (n a : Nat) : List Nat := (List.range 32).filter (fun x => !Nat.testBit (s.bypass n a) x)

/-- The physical mask of logical columns. -/
def physMask (s : State) (n a : Nat) (js : List Nat) : Nat :=
  (dedupe js).foldl (fun m j => match (physCols s n a)[j]? with
    | some x => m ||| 2 ^ x
    | none => m) 0

/-! ### The condition matrix and convictions (R385, R386) -/

/-- A cell of the condition matrix: array 4n + a, cell. -/
def cellKey (arr cell : Nat) : Nat := 1024 * arr + cell
def State.cell (s : State) (arr cell : Nat) : Cell := SMap.get {} (cellKey arr cell) s.u.flt.cmat
def updCell (arr cell : Nat) (f : Cell → Cell) (s : State) : State :=
  s.updFlt (fun t => { t with cmat := SMap.set (cellKey arr cell) (f (s.cell arr cell)) t.cmat })

/-- Whether a cell convicts. -/
def cellConvicts (s : State) (c : Cell) : Bool := decide (fltConvict s ≤ c.swmis + c.stmis) && decide (1 ≤ c.stmis)

/-- EDF writes the convictions to health records A and B in turn: over the one that is not valid or has the lower sequence number (R438). [DEDUCED: log 110] -/
def writeHealth (s : State) : State :=
  let seq := fun (r : Option (Nat × List (Nat × Nat))) => match r with
    | some x => x.1 + 1
    | none => 0
  let a := nth none s.u.ctl.flashHr 0
  let b := nth none s.u.ctl.flashHr 1
  let rec_ := some (max (seq a) (seq b), s.u.flt.hr.take 256)
  s.updCtl (fun c => { c with flashHr := if seq a ≤ seq b then [rec_, b] else [a, rec_] })

/-- Columns of an array become convicted (R386): the event, the health record, and their bypass as soon as it may be. -/
def convictCols (arr m : Nat) (s : State) : State :=
  let old := SMap.get 0 arr s.u.flt.hr
  let new := m ^^^ (m &&& old)
  if new = 0 then s
  else
    let s1 := s.updFlt (fun f => { f with
      hr := SMap.set arr (old ||| m) f.hr, pend := SMap.set arr (SMap.get 0 arr f.pend ||| new) f.pend, degraded := true, reqConv := f.reqConv || f.running })
    applyConvictions (writeHealth (s1.raise 0x4601 (0xD000 + arr) none (BitVec.ofNat 64 (new * 2 ^ 32)) 0))

/-- Convict by a cell if it does. -/
def convictCell (arr cell : Nat) (s : State) : State :=
  let c := s.cell arr cell
  if cellConvicts s c then convictCols arr c.stmask s else s

/-- Detail words of a mismatch (R370). -/
def misD0 (arr cell row col mask : Nat) : W64 := BitVec.ofNat 64 (arr + cell * 2 ^ 9 + row * 2 ^ 19 + col * 2 ^ 24 + mask * 2 ^ 32)
def misD1 (r v : Nat) : W64 := BitVec.ofNat 64 (v % 2 ^ 32 + r % 2 ^ 32 * 2 ^ 32)

/-! ### The Swatch bound (R62) -/

/-- The elements of a block as the vector unit decodes them: FP32, element × 2^SHIFT. -/
def swatchEls (fmt : Nat) (b : Block) : List Nat :=
  if b.z then List.replicate 32 0
  else (blkVals fmt b).map (fun v => (flRound 23 false (if fmt = 8 then v else flScale b.shift v)).bits)

/-- V and P of one output: FP32 fused multiply-adds in ascending K order from +0. -/
def swatchSum (ws xs : List Nat) (vp : Nat × Nat) : Nat × Nat :=
  (ws.zip xs).foldl (fun a e => (fma e.1 e.2 a.1, fma (fAbs 23 e.1).bits (fAbs 23 e.2).bits a.2)) vp

/-- Q of one output (R62). -/
def swatchQ (t : Sample) (i j : Nat) : Fl :=
  if (t.fmtW = 1 && t.fmtA = 1) || t.fmtW = 8 then
    t.trace.foldl (fun q e =>
      let w := nth (zeroBlock t.fmtW) e.1 j
      let a := nth (zeroBlock t.fmtA) e.2 i
      if t.fmtW = 8 then (match blockTop (blkVals 8 w) (blkVals 8 a) with
        | some p => flAdd q (.fin false 1 (p - 44))
        | none => q)
      else flAdd q (.fin false 1 (w.shift + a.shift - 14))) (.fin false 0 0)
  else .fin false 0 0

/-- One output of a sampled tile: R narrowed, V, and whether it passes. -/
def swatchOut (t : Sample) (i j : Nat) : Nat × Nat × Bool :=
  let r := (afNarrow (tileAt t.vals i j)).toNat
  let vp : Nat × Nat := t.trace.foldl (fun a e => swatchSum (swatchEls t.fmtW (nth (zeroBlock t.fmtW) e.1 j)) (swatchEls t.fmtA (nth (zeroBlock t.fmtA) e.2 i)) a) (0, 0)
  let fr := flDecode 23 r
  let fv := flDecode 23 vp.1
  let K := 32 * t.trace.length
  let pass :=
    if flIsFin fr && flIsFin fv then
      (match flDecode 23 (fAbs 23 (fs r vp.1)).bits, flDecode 23 vp.2 with
        | d, .fin _ m e =>
          let bound := flAdd (flAdd (.fin false ((2 * K + 8) * m) (e - 24)) (swatchQ t i j)) (.fin false K (-149))
          flCmp d bound != .gt
        | _, _ => true)
    else (flIsNan fr && flIsNan fv) || (!flIsNan fr && !flIsNan fv && !flIsFin fr && !flIsFin fv && (Nat.testBit r 31 == Nat.testBit vp.1 31))
  (r, vp.1, pass)

/-- The outputs of a tile that fail, by row and logical column, with R and V. -/
def swatchFails (t : Sample) : List (Nat × Nat × Nat × Nat) :=
  (List.range 32).flatMap (fun i => (List.range t.width).filterMap (fun j =>
    let o := swatchOut t i j
    if o.2.2 then none else some (i, j, o.1, o.2.1)))

/-- A write has reached a line after the load that first read it (R382). -/
def swatchStale (s : State) (t : Sample) : Bool := t.reads.any (fun e => match s.sp.wrote e.1 with
  | some w => decide (e.2 ≤ w)
  | none => false)

/-- The oldest open check is made (R62, R63, R382, R383). -/
def swatchCheck (s : State) : State :=
  match s.u.sw.live with
  | [] => s
  | t :: rest =>
    let s1 := s.updSw (fun w => { w with live := rest })
    if swatchStale s t then s1.updSw (fun w => { w with abandoned := w.abandoned + 1 })
    else match swatchFails t with
      | [] => s1
      | f :: fs =>
        let arr := 4 * t.core + t.array
        let s2 := updCell arr t.cell (fun c => { c with swmis := satAdd 8 c.swmis 1 }) (s1.updSw (fun w => { w with failed := w.failed + 1 }))
        convictCell arr t.cell (s2.raise 0x4410 (0xD000 + arr) t.own
          (misD0 arr t.cell f.1 f.2.1 (physMask s t.core t.array ((f :: fs).map (fun x => x.2.1)))) (misD1 f.2.2.1 f.2.2.2))

/-- A gated core is to run: its wake is a request of the next course, unless one waits (R457). [DEDUCED: log 190] -/
def askWake (n : Nat) (s : State) : State :=
  if s.u.pow.run && !s.u.pow.awake.contains n && !s.u.pow.reqs.any (fun r => r.core == some n && r.wake) then
    s.updPow (fun p => { p with reqs := p.reqs ++ [{ at_ := p.n + 1, core := some n }] })
  else s

/-! ### Known-answer tiles (R385) -/

/-- The phase of requalification (R392): 0 none, 1 the patterns, 2 to 5 the segments, 6 the cells that lack tests, 7 the verdicts. The patterns
last until they have run; the others take the times of the table, in elapsed courses. [DEDUCED: log 111] -/
def requalPhase (s : State) : Nat :=
  let f := s.u.flt
  if !f.running then 0
  else if !f.reqTested then 1
  else
    let t := (s.elapsed - f.reqAt) / 1000000
    if t < 75 then 2 else if t < 135 then 3 else if t < 195 then 4 else if t < 255 then 5 else if t < 345 then 6 else 7

/-- The condition cell of a tile on array a of core n. In a segment of requalification the first 512 tiles of an array in a band that it has newly
entered run the 8 load classes in turn, 64 each, so the fault manager sets their load (R392); every other tile has the load of R384. -/
def tileCell (n a : Nat) (s : State) : Nat × State :=
  let p := s.condCell n
  let k := requalPhase s
  if k < 2 || 5 < k then p
  else
    let band := p.1 % 24
    let e := SMap.get (24, 0) (4 * n + a) s.u.flt.reqLoad
    let m := if e.1 = band then e.2 else 0
    (if m < 512 then p.1 % 96 + 96 * (m / 64) else p.1, p.2.updFlt (fun f => { f with reqLoad := SMap.set (4 * n + a) (band, m + 1) f.reqLoad }))

/-- A known-answer tile runs on array a of core n, in service or in requalification: `mask` the physical columns whose output differs,
`row`, `col`, `r`, `v` the first failing output, its logical column, what it is and what is stored. -/
def knownTile (n a mask row col r v : Nat) (s : State) : State :=
  let arr := 4 * n + a
  let p := tileCell n a s
  let s1 := (p.2.updCore n (fun k => { k with m := { k.m with sk := [], wh := [], fh := [] } })).updSw (fun w => { w with
    tested := SMap.set n (a :: (SMap.get [] n w.tested).filter (fun b => b != a)) w.tested })
  let s2 := updCell arr p.1 (fun c => { c with checks := satAdd 16 c.checks 1 }) s1
  if mask = 0 then s2
  else
    let s3 := updCell arr p.1 (fun c => { c with stmis := satAdd 8 c.stmis 1, stmask := c.stmask ||| mask }) s2
    convictCell arr p.1 (s3.raise 0x4411 (0xD000 + arr) none (misD0 arr p.1 (row % 32) (col % 32) mask) (misD1 r v))

/-! ### Requalification (R392, R393) -/

/-- `FLT_REQUAL.START` may be written. -/
def requalOk (s : State) : Bool := s.ownerList.isEmpty && s.u.crs.arms.isEmpty && !s.u.flt.out
def requalStart (s : State) : State := s.updFlt (fun f => { f with running := true, verdict := 0, reqAt := s.elapsed, reqTested := false, reqBad := [], reqConv := false, reqLoad := [] })
def requalAbort (s : State) : State := if s.u.flt.running then s.updFlt (fun f => { f with running := false, verdict := 4 }) else s

/-- A listed array's cell that mismatched and lacks tests: the first one, of the first such array, by its number (R392). -/
def wantedCell (s : State) : Option Nat :=
  let want := s.u.flt.cmat.filter (fun e => decide (0 < e.2.swmis) && decide (e.2.checks < fltReqTests s) &&
    s.u.flt.suspects.any (fun x => decide (x.2.unit = 0xD000 + e.1 / 1024)))
  want.head?.map (fun e => e.1 % 1024)

/-- The operating point that requalification sets: a segment its own as it begins, ARITH /4, /5, /6 and /8 in turn; then that of the cell whose
tests run (R392). -/
def requalVf (old : Nat) (s : State) : Option Nat :=
  let k := requalPhase s
  if k = 6 then (wantedCell s).map (fun c => c / 24 % 4) else if k = old || k < 2 || 5 < k then none else some (k - 2)
def requalPoint (old : Nat) (s : State) : State := match requalVf old s with
  | none => s
  | some v => s.updPow (fun p => { p with point := v, goal := p.goal.set 0 (nth 8 [4, 5, 6, 8] v) })

/-- The patterns run on every sector decoder and scratchpad checker, and the march on their memory: units that fail either go out of service
(R246, R392). -/
def requalPatterns (badCh badCore : List Nat) (s : State) : State :=
  if requalPhase s ≠ 1 then s
  else
    let s1 := badOut badCh badCore s
    requalPoint 1 (s1.updFlt (fun f => { f with reqTested := true, reqBad := badCh.map (fun c => 0x4000 + c) ++ badCore.map (fun c => 0x1000 + c) }))

/-- Cells of an array in the matrix. -/
def cellsOf (s : State) (arr : Nat) : List Cell := (s.u.flt.cmat.filter (fun e => decide (e.1 / 1024 = arr))).map (fun e => e.2)

/-- The cells of an array below `REQ_TESTS`. -/
def uncovered (s : State) (arr : Nat) : Nat := ((cellsOf s arr).filter (fun c => decide (0 < c.swmis) && decide (c.checks < fltReqTests s))).length

/-- The decision on a listed unit: none for one not tested; 0 cleared, 1 convicted, 2 undecided. `bad` lists units whose pattern failed. [DEDUCED: log 111] -/
def requalEntry (s : State) (bad : List Nat) (unit : Nat) : Option Nat :=
  let k := unit / 4096
  if k = 0xD then
    let cs := cellsOf s (unit % 4096)
    if cs.any (cellConvicts s) then some 1
    else if (cs.filter (fun c => decide (0 < c.swmis))).all (fun c => decide (fltReqTests s ≤ c.checks) && decide (c.stmis = 0)) then some 0
    else some 2
  else if k = 4 || k = 1 then some (if bad.contains unit then 1 else 0)
  else none

/-- The phases are over (R393): `badCh` and `badCore` are channels and cores that are found bad with the verdict, which go out of service too
(R246). A unit that failed, or an array that was convicted, counts as convicted whether it is listed or not. -/
def requalVerdict (badCh badCore : List Nat) (s0 : State) : State :=
  if requalPhase s0 < 2 then s0
  else
    let s := badOut badCh badCore s0
    let bad := s.u.flt.reqBad ++ badCh.map (fun c => 0x4000 + c) ++ badCore.map (fun c => 0x1000 + c)
    let ds := s.u.flt.suspects.map (fun e => (e, requalEntry s bad e.2.unit))
    let keep := (ds.filter (fun d => d.2 != some 0)).map (fun d => d.1)
    let und := ds.filter (fun d => d.2 == some 2)
    let conv := ds.any (fun d => d.2 == some 1) || !bad.isEmpty || s.u.flt.reqConv
    let v := if !und.isEmpty then 3 else if conv then 2 else 1
    let s2 := s.updFlt (fun f => { f with
      running := false, verdict := v, suspects := keep, debt := min 65535 (keep.foldl (fun a e => a + e.2.weight) 0)
      uncovered := (und.foldl (fun a d => a + uncovered s (d.1.2.unit % 4096)) 0) % 65536 })
    let s3 := s2.updFlt (fun f => { f with low := decide (score f.debt < bitsOf (fltHcfg s2) 9 0) })
    writeHealth (applyConvictions (s3.raise 0x1601 0xA000 none (BitVec.ofNat 64 v) 0))

/-! ### Which array is tested (R385, R392) -/

/-- An array has an entry on the suspect list. -/
def suspectArray (s : State) (n a : Nat) : Bool := s.u.flt.suspects.any (fun e => decide (e.2.unit = 0xD000 + 4 * n + a))

/-- An array may run a known-answer tile now: in service on a core idle for 4 courses while `IST` is set, arrays of the suspect list first; in
requalification in its segments after the 15 s in which the arrays are idle, and then where a listed array's present cell lacks tests. -/
def testAllowed (s : State) (n a : Nat) : Bool :=
  match requalPhase s with
  | 0 => fltIst s && s.idleFor n 4 && (suspectArray s n a ||
      (List.range 4).all (fun b => !(suspectArray s n b && s.arrayOn n b) || (SMap.get [] n s.u.sw.tested).contains b))
  | 1 | 7 => false
  | 6 =>
    let c := s.cell (4 * n + a) (s.condCell n).1
    suspectArray s n a && decide (0 < c.swmis) && decide (c.checks < fltReqTests s)
  | k => decide (30 + 60 * (k - 2) ≤ (s.elapsed - s.u.flt.reqAt) / 1000000)

/-! ### Stopping and frogging (R375, R394, R395) -/

/-- `FLT_O_CTRL.FROG` may be written. -/
def frogOk (s : State) (p : Nat) : Bool := decide (p = 0) && !s.u.que.shared && (s.owner 0).st == .faulted

/-- A core after a frog reset: idle, with what R394 names cleared and the rest as it stands; a skein whose drain, park or resume stood in the
matrix queues is FREE. -/
def frogCore (n : Nat) (s : State) : State :=
  let s1 := (s.zero (spBase n) spSize).idleNow n
  s1.updCore n (fun k => { k with
    r := { k.r with sem := [] }
    m := { k.m with carry := [], pend := [], dcbs := [], sk := k.m.sk.filter (fun e => e.2.st == .opened || e.2.st == .sealed) }
    seq := { cntFill := k.seq.cntFill, cntStall := k.seq.cntStall, cntLatec := k.seq.cntLatec, done := k.seq.done, wmode := k.seq.wmode
             baddr := k.seq.baddr, raddr := k.seq.raddr }
    dma := [], reqs := [], tag := 0 })

/-- Every queue of every engine is empty and nothing runs or is dropped. -/
def emptyBench (s : State) : State :=
  s.updBench (fun b => { b with eng := b.eng.map (fun e => (e.1, { e.2 with
    st := .idle, cur := none, fg := [], bg := [], fgw := [], bgw := [], drop := [] })) })

/-- The frog reset of owner 0. [DEDUCED: log 113] -/
def frogReset (s : State) : State :=
  let s1 := closeStepEv 0 1 true s
  let s2 := (List.range s.nCores).foldl (fun s n => frogCore n s) s1
  let s3 := (unfreezeOwner 0 (cancelArms 0 (abandonOwner 0 (emptyBench s2)))).updHost (fun h => { h with frozen := [] })
  let s4 := closeWindow 0 s3
  let o := s4.owner 0
  let s5 := s4.setOwner 0 { o with st := .active, job := o.job.map (fun j => { j with ran := false }) }
  let s6 := s5.updFltOwner 0 (fun f => { f with
    frogReq := false, cntFrog := satAdd 48 f.cntFrog 1
    horizon := match SMap.find 0 s.u.crs.written with
      | some n => some n
      | none => f.horizon })
  applyConvictions s6

/-- A stop notice comes to the device of an exclusive owner. -/
def stopMember (s : State) : State :=
  let s1 := stopOwnerEv 0 s
  if (s.owner 0).job.any (fun j => decide (j.lead = s.devAddr)) then s1.out (.stopForward 0) else s1

/-! ### The meanings -/

/-- `CHECKER_SELF_TEST` (R245, R246, R392): at start-up, or in the first phase of requalification. -/
def execCheckerSelfTest (badCh badCore : List Nat) (s : State) : Host.Outcome State Fault Refusal :=
  .next (if s.u.flt.running then requalPatterns badCh badCore s else selfTest badCh badCore s)

/-- `COURSE_BOUNDARY` (R250, R251, R487), with what convictions wait for (R386) and the segments of requalification (R392). -/
def execCourseBoundary (s : State) : Host.Outcome State Fault Refusal := .next (requalPoint (requalPhase s) (applyConvictions (courseBoundary s)))

/-- `SWATCH_CHECK` (R62, R382). -/
def execSwatchCheck (s : State) : Host.Outcome State Fault Refusal := .next (swatchCheck s)

/-- `IN_SERVICE_TEST` (R385): one known-answer tile. -/
def execInServiceTest (n a : Nat) (mask : W32) (row col : Nat) (r v : W32) (s : State) : Host.Outcome State Fault Refusal :=
  if n < s.nCores && a < 4 then
    .next (if testAllowed s n a && s.arrayOn n a then knownTile n a mask.toNat row col r.toNat v.toNat (askWake n s) else s)
  else .refused .noSuchUnit

/-- `REQUAL_VERDICT` (R393). -/
def execRequalVerdict (badCh badCore : List Nat) (s : State) : Host.Outcome State Fault Refusal := .next (requalVerdict badCh badCore s)

/-- `STOP_NOTICE` (R375): a member that receives one stops its exclusive owner without an event; the job lead forwards it to every member. -/
def execStopNotice (s : State) : Host.Outcome State Fault Refusal := .next (if s.u.que.shared then s else stopMember s)

end Sys2Proof.Machine
end

