-- ==== Sys2Proof/Machine/Pow.lean ====
section
/-!
DEFINITION. Clocks, power and heat (R445 to R462): start-up and ramps, clock loss, the power manager, slew admission, sensors, supply; and
module reset (R472, R481, R482).
-/

namespace Sys2Proof.Machine

open Sys2Proof

/-! ### Registers and tables -/

def pwrLimit (s : State) : Nat := bitsOf (s.reg 0x10960 0x200000) 11 0
def pwrFastest (s : State) : Nat := bitsOf (s.reg 0x10960 0x200000) 17 16
def pwrCtrl (s : State) : W64 := s.reg 0x000003E800040064 0x200008
def pwrHold (s : State) : Nat := bitsOf (pwrCtrl s) 15 0
def pwrHyst (s : State) : Nat := bitsOf (pwrCtrl s) 19 16
def pwrUpDelay (s : State) : Nat := bitsOf (pwrCtrl s) 47 32
def pwrSlew (s : State) : W64 := s.reg 0x1001F4 0x200010
def pwrBudget (s : State) : Nat := bitsOf (pwrSlew s) 11 0
def pwrGateDelay (s : State) : Nat := bitsOf (pwrSlew s) 23 16
def pwrThrottle (s : State) : Int := bitsOf (s.reg 0x0000736400000000 0x200028) 39 32 * 4

/-- The ARITH divider of a point (R452). -/
def pointDiv (p : Nat) : Nat := nth 8 [4, 5, 6, 8] p

/-- The largest margin that the calibration set gives an enabled core, 30 mV without a set. -/
def margin (s : State) (p : Nat) : Nat :=
  match s.u.ctl.cal with
  | none => 30
  | some c => (List.range s.nCores).foldl (fun m n => max m (min 30 (Config.calMargin c n p))) 0

/-- The core-rail voltage of a point in mV (R452). -/
def pointMv (s : State) (p : Nat) : Nat := nth 550 [700, 650, 610, 550] p + margin s p

/-! ### Domains (R446 to R450): 0 ARITH, 1 CTL, 2 NOC, 3 BENCH, 4 SLOW -/

def setDom (d : Nat) (on : Bool) (div goal : Nat) (s : State) : State :=
  s.updPow (fun p => { p with src := p.src.set d on, div := p.div.set d div, goal := p.goal.set d goal })

/-- Targets of the start-up ramps. -/
def startDiv (d : Nat) : Nat := nth 90 [5, 3, 6, 8, 90] d

/-- The domain after d in the order of R450. -/
def nextDom (d : Nat) : Option Nat := if d = 2 then some 3 else if d = 3 then some 1 else if d = 1 then some 0 else none

/-- A domain switches to the PLL at /64 and ramps to a divider (R449). -/
def startRamp (d : Nat) (s : State) : State := setDom d true 64 (startDiv d) s

/-- The PLL is stable (R446): SLOW switches to /90, the NOC's ramp begins, and the host port trains (R427); the core rail stands at the nominal
/5 voltage with the largest margin (R450). [DEDUCED: log 154] -/
def pllStable (s : State) : State :=
  if s.u.pow.pll = 1 then
    startRamp 2 (setDom 4 true 90 0 (((s.updPow (fun p => { p with pll := 2, rail := 680 })).updHost (fun h => { h with st := 1 })).pendIf 8 (decide (s.u.host.st ≠ 1))))
  else s

/-- ARITH has ended its start-up ramp: the power manager starts at point 1 (R450), with every core awake. -/
def startManager (s : State) : State :=
  s.updPow (fun p => { p with run := true, point := 1, rail := 680, n := 0, lastChange := 0, quiet := 0, awake := List.range s.nCores })

/-- One divider step of a ramping domain (R449); at its target the next domain of the start begins (R450). -/
def rampStep (d : Nat) (s : State) : State :=
  let v := nth 0 s.u.pow.div d
  let g := nth 0 s.u.pow.goal d
  if g = 0 then s
  else
    let v1 := if g < v then v - 1 else if v < g then v + 1 else v
    let s1 := setDom d (nth false s.u.pow.src d) v1 (if v1 = g then 0 else g) s
    if v1 ≠ g || s.u.pow.tripped || s.u.pow.run then s1
    else match nextDom d with
      | some k => if nth false s.u.pow.src k then s1 else startRamp k s1
      | none => startManager s1

/-! ### Stopping everything (R451, R461) -/

/-- Every core halts, every Bench engine stops and takes nothing more until module reset. -/
def stopAll (s : State) : State :=
  let s1 := s.cores.foldl (fun t e => State.haltCoreAt e.1 t) s
  (List.range s.nCh).foldl (fun t e => t.updEng e (fun x => { x with ok := false, st := if x.running then .halted else x.st })) s1

/-- A clock loss (R451): cause 1 the reference, 2 the PLL. -/
def clockLost (cause : Nat) (s : State) : State :=
  if s.u.pow.loss ≠ 0 then s
  else
    let s1 := stopAll (s.updPow (fun p => { p with
      loss := cause, pll := 3, intOsc := true, src := [false, false, false, false, false], div := [0, 0, 0, 0, 0], goal := [0, 0, 0, 0, 0] }))
    let s2 := (s1.updCrsSt (fun c => { c with st := tsStopped })).updHost (fun h => { h with
      st := 0, width := 0, downAt := if h.st = 2 then some s.course.toNat else h.downAt, cxl := h.cxl.map (fun e => (e.1, { e.2 with st := 0 })) })
    let s3 := ((List.range s.nLinks).foldl (fun t l => linkQuiet l t) s2).pendIf 8
      (decide (s.u.host.st ≠ 0) || s.u.host.cxl.any (fun e => decide (e.2.st ≠ 0)) || s.u.net.links.any (fun e => decide (e.2.st ≠ 0 ∧ e.2.st ≠ lkDown)))
    (s3.setReg 0x500008 (putBits (crsCtrl s3) 0 0 0)).raise 0xCC03 0 none 0 0

/-! ### The power manager (R453 to R457) -/

/-- The hottest valid sensor of 0 to 55: its number and temperature; the lowest number on ties. -/
def hottest (s : State) : Option (Nat × Int) :=
  (s.u.pow.sens.filter (fun e => decide (e.1 < 56))).foldl (fun b e => match b with
    | none => some e
    | some x => if x.2 < e.2 then some e else b) none

def histSum (n : Nat) (l : List Nat) : Nat × Nat := ((l.take n).foldl (· + ·) 0, (l.take n).length)

/-- The mean of the newest n entries exceeds a number. -/
def meanOver (n v : Nat) (l : List Nat) : Bool := decide (v * (histSum n l).2 < (histSum n l).1)

/-- The 1 ms average. -/
def avgPower (s : State) : Nat := let h := histSum 1000 s.u.pow.hist; if h.2 = 0 then 0 else h.1 / h.2

/-- The rail moves 10 mV towards its target (R453). -/
def moveRail (s : State) : State :=
  let w := s.u.pow
  let g := pointMv s (match w.faster with
    | some p => if w.admitted then p else w.point
    | none => w.point)
  s.updPow (fun p => { p with rail := if p.rail + 10 ≤ g then p.rail + 10 else if p.rail < g then g else if g + 10 ≤ p.rail then p.rail - 10 else g })

/-- The rail stands at the voltage it moves to. -/
def railSet (s : State) : Bool :=
  let w := s.u.pow
  decide (w.rail = pointMv s (match w.faster with
    | some p => if w.admitted then p else w.point
    | none => w.point))

/-- A step to a slower point (R453, R455): the divider changes first. [DEDUCED: log 150] -/
def slowerStep (byPower byHeat : Bool) (hot : Nat) (s : State) : State :=
  let p1 := s.u.pow.point + 1
  let s1 := s.updPow (fun p => { p with point := p1, lastChange := p.n, goal := p.goal.set 0 (pointDiv p1) })
  let s2 := rampStep 0 s1
  let s3 := if byPower then s2.raise 0x1C01 (0xC000 + (Config.railNo 0).toNat) none 0 0 else s2
  if byHeat then s3.raise 0x4C01 (0xC000 + hot) none 0 0 else s3

/-- A faster step under way is abandoned (R453). -/
def dropFaster (s : State) : State :=
  s.updPow (fun p => { p with faster := none, admitted := false, reqs := p.reqs.filter (fun r => r.core.isSome) })

/-- The decision of R455 for the course just measured. [DEDUCED: log 148] -/
def decidePoint (s : State) : State :=
  let w := s.u.pow
  let h := hottest s
  let t : Option Int := h.map (fun x => x.2)
  let atLeast := fun (v : Int) => match t with
    | some x => decide (v ≤ x)
    | none => false
  let above := meanOver (pwrHold s) (pwrLimit s) w.hist
  let heat := atLeast (pwrThrottle s)
  let urgent := atLeast 420 || decide (2600 < w.railA) || decide (w.point < pwrFastest s)
  let ready := decide (w.lastChange + pwrHold s ≤ w.n)
  let k := 2 ^ pwrHyst s
  let sum := histSum (pwrHold s) w.hist
  let low := decide (sum.1 * k ≤ pwrLimit s * (k - 1) * sum.2)
  let cool := !atLeast (pwrThrottle s - 20)
  let s1 := s.updPow (fun p => { p with
    floor := decide (w.point = 3) && (urgent || above || heat)
    limited := !low && decide (pwrFastest s < w.point), thermal := !cool && decide (pwrFastest s < w.point) })
  if urgent || above || heat then
    let s2 := s1.updPow (fun p => { p with quiet := 0 })
    let s3 := dropFaster s2
    if w.point < 3 && (urgent || ready) then slowerStep above heat (h.elim 0 (fun x => x.1)) s3 else s3
  else if low && cool && decide (pwrFastest s < w.point) then
    let q := w.quiet + 1
    if pwrUpDelay s ≤ q && ready && w.faster.isNone then
      s1.updPow (fun p => { p with quiet := 0, faster := some (w.point - 1), reqs := p.reqs ++ [{ at_ := w.n, core := none }] })
    else s1.updPow (fun p => { p with quiet := q })
  else s1.updPow (fun p => { p with quiet := 0 })

/-- Wakes that have arisen: a gated core that is no longer idle, in ascending number (R457). -/
def newWakes (s : State) : List SlewReq :=
  ((List.range s.nCores).filter (fun n => (s.core n).seq.run != .idle && !s.u.pow.awake.contains n &&
    !s.u.pow.reqs.any (fun r => r.core == some n && r.wake))).map (fun n => { at_ := s.u.pow.n, core := some n })

/-- A request that still stands: a gating only while its core is idle (R457). -/
def standing (s : State) (r : SlewReq) : Bool := r.wake || r.core.all (fun n => s.idleFor n (pwrGateDelay s))

/-- Place in the order of admission: earlier courses first, then by core, the faster step last. -/
def slewLe (a b : SlewReq) : Bool :=
  decide (a.at_ < b.at_) || (decide (a.at_ = b.at_) && decide (a.core.getD 4096 ≤ b.core.getD 4096))

/-- Admit requests while their sum, in units of A over the divider d, stays within what is left (R457). [DESIGN CHOICE: log 149] -/
def admitSlew (d : Nat) : List SlewReq → Nat → State → State
  | [], _, s => s.updPow (fun p => { p with reqs := [] })
  | r :: rest, left, s =>
    let cost := match r.core with
      | some _ => 48
      | none => 3 * s.u.pow.awake.length * d
    if cost ≤ left then
      admitSlew d rest (left - cost) (s.updPow (fun p => match r.core with
        | some n => if r.wake then { p with awake := if p.awake.contains n then p.awake else (n :: p.awake).mergeSort } else { p with awake := p.awake.filter (fun x => x != n) }
        | none => { p with admitted := p.faster.isSome }))
    else s.updPow (fun p => { p with reqs := r :: rest, defers := satAdd 48 p.defers (rest.length + 1) })

/-- One course of the power manager, with the input power in W and the core-rail current in A measured over it (R455 to R457). [DEDUCED: log 147] -/
def powerCourse (inW railA : Nat) (s : State) : State :=
  if !s.u.pow.run || s.stopped then s
  else
    let s1 := moveRail (s.updPow (fun p => { p with n := p.n + 1, inW, railA, hist := (inW :: p.hist).take 65535 }))
    let s2 := if meanOver 1000 (pwrLimit s1) s1.u.pow.hist then s1.updPow (fun p => { p with overs := satAdd 48 p.overs 1 }) else s1
    let s3 := decidePoint s2
    let rs := (s3.u.pow.reqs.filter (standing s3) ++ newWakes s3).mergeSort slewLe
    let d := max 1 (nth 1 s3.u.pow.div 0)
    admitSlew d rs (pwrBudget s3 * d) s3

/-- The divider of a faster step changes in the course after the rail has reached its voltage (R453, R455). -/
def fasterStep (s : State) : State :=
  match s.u.pow.faster with
  | none => s
  | some t =>
    if s.u.pow.admitted && railSet s && !s.stopped then
      rampStep 0 (s.updPow (fun p => { p with
        point := t, faster := none, admitted := false, lastChange := p.n + 1, goal := p.goal.set 0 (pointDiv t) }))
    else s

/-- A core idle for `GATE_DELAY` courses asks to be gated (R457). -/
def coreGate (n : Nat) (s : State) : State :=
  if s.u.pow.run && s.u.pow.awake.contains n && s.idleFor n (pwrGateDelay s) && !s.u.pow.reqs.any (fun r => r.core == some n) then
    s.updPow (fun p => { p with reqs := p.reqs ++ [{ at_ := p.n + 1, core := some n, wake := false }] })
  else s

/-! ### Heat (R458 to R461) -/

/-- The sensor exists on the part (R458): of the compute die those of its 12 or 16 clusters, by physical cluster until the locks are set (R469). -/
def sensorOn (s : State) (i : Nat) : Bool :=
  decide (i < 68) && !(s.is96 && ((decide (i < 48) && !(List.range 12).any (fun c => physCore s (8 * c) / 8 == i / 3)) ||
    i == 54 || i == 55 || i == 62 || i == 63))

/-- Trip temperature in quarter degrees. -/
def tripOf (i : Nat) : Option Int := if i < 56 then some 460 else if i < 65 then some 360 else if i < 67 then some 500 else none

/-- A Bench tile's throttle (R459): on at `THROTTLE`, off 5 °C below. -/
def benchThrottle (i : Nat) (t : Int) (s : State) : State :=
  if decide (48 ≤ i) && decide (i < 56) then
    let on := s.u.pow.benchHot.contains (i - 48)
    if !on && decide (pwrThrottle s ≤ t) then (s.updPow (fun p => { p with benchHot := p.benchHot ++ [i - 48] })).raise 0x4C01 (0xC000 + i) none 0 0
    else if on && decide (t ≤ pwrThrottle s - 20) then s.updPow (fun p => { p with benchHot := p.benchHot.filter (fun x => x != i - 48) })
    else s
  else s

def coolant (i : Nat) (t : Int) (s : State) : State :=
  if i = 67 then
    let s1 := s.updPow (fun p => { p with coolHot := decide (180 < t) })
    if decide (180 < t) && !s.u.pow.coolHot then s1.raise 0x4C01 0xC043 none 0 0 else s1
  else s

/-- A domain that runs from the PLL ramps to /64 (R461); one on the reference has no divider to move (R449). -/
def rampDown (d : Nat) (p : PowSt) : PowSt := if nth false p.src d then { p with goal := p.goal.set d 64 } else p

/-- A sensor that comes to its trip temperature from below it, `was` being its sample before, raises the event; the first one stops the device
(R461). [DESIGN CHOICE: log 196] -/
def tripCheck (i : Nat) (was : Option Int) (t : Int) (s : State) : State :=
  match tripOf i with
  | none => s
  | some v =>
    if v ≤ t && !was.any (fun x => decide (v ≤ x)) then
      let s1 := if s.u.pow.tripped then s
        else stopAll (s.updPow (fun p => rampDown 3 (rampDown 0 { p with tripped := true, faster := none, admitted := false, reqs := [] })))
      s1.raise 0xCC01 (0xC000 + i) none 0 0
    else s

/-- A sensor is sampled: its raw reading in quarter degrees, the calibration offset applied (R458). -/
def sensorSample (i : Nat) (raw : Int) (s : State) : State :=
  if !sensorOn s i then s
  else
    let t := raw + (match s.u.ctl.cal with
      | some c => Config.calOffset c i
      | none => 0)
    let s1 := s.updPow (fun p => { p with sens := SMap.set i t p.sens })
    let s2 := s1.updPow (fun p => { p with hot := p.sens.any (fun e => decide (e.1 < 56) && decide (420 ≤ e.2)) })
    tripCheck i (SMap.find i s.u.pow.sens) t (coolant i t (benchThrottle i t s2))

/-! ### Module reset (R472, R481, R482) and supply (R462) -/

/-- Module reset: every register and unit as reset leaves it; module flash, OTP and memory stay, and what the power stages hold (R480). [DEDUCED: log 153] -/
def moduleReset (s0 : State) : State :=
  let s := tiersOut s0
  let c := s.u.ctl
  { State.reset with
    part := s.part, mem := s.mem, ecc := s.ecc, fresh := s.fresh, pending := s.pending
    u := { State.reset.u with
      outs := s.u.outs
      host := { cxlDev := s.u.host.cxlDev }
      pow := { shut := s.u.pow.shut, okIn := s.u.pow.okIn }
      ctl := { otpSvn := c.otpSvn, unlocks := c.unlocks, flashKey := c.flashKey, flashImg := c.flashImg, flashCal := c.flashCal
               flashAsym := c.flashAsym, calWritten := c.calWritten, calMade := c.calMade, flashHr := c.flashHr
               certs := c.certs, chain := c.chain, rtuRoot := c.rtuRoot } } }

def inputOk (mv : Nat) : Bool := decide (40000 ≤ mv) && decide (mv ≤ 60000)

/-- RESET_L goes low with the input at a voltage: the reset acts when the input lies within its range (R482). -/
def resetPin (mv : Nat) (s : State) : State := if inputOk mv then moduleReset s else s.updPow (fun p => { p with rst := true })

/-- While the power stages hold the module in reset they count the courses at or above 40.0 V, and release it after 20 ms (R480). -/
def supplyHeld (mv : Nat) (s : State) : State :=
  let n := if 40000 ≤ mv then s.u.pow.okIn + 1 else 0
  s.updPow (fun p => { p with shut := decide (n < 20000), okIn := if n < 20000 then n else 0 })

/-- One course's check of the input and the core rail, in mV (R462, R480). [DEDUCED: log 152] -/
def supplyCheck (inMv railMv : Nat) (s : State) : State :=
  if s.u.pow.shut then supplyHeld inMv s
  else if s.u.pow.rst && inputOk inMv then moduleReset s
  else if !s.u.pow.run then s
  else
    let bi := if inputOk inMv then 0 else s.u.pow.badIn + 1
    let off := decide (railMv + 50 < s.u.pow.rail) || decide (s.u.pow.rail + 50 < railMv)
    let br := if !railSet s then s.u.pow.badRail else if off then s.u.pow.badRail + 1 else 0
    let s1 := s.updPow (fun p => { p with inMv, railMv, badIn := bi, badRail := br })
    let s2 := if bi = 10 && s.u.pow.badIn = 9 then s1.raise 0xCC02 (0xC000 + (Config.railNo 0).toNat) none 0 0 else s1
    if br = 10 && s.u.pow.badRail = 9 then s2.raise 0xCC02 (0xC000 + (Config.railNo 1).toNat) none 0 0 else s2

/-- Below 38 V the module shuts down without a record (R462): as reset, with what memory held of GDDR7 and scratchpads gone. -/
def undervoltage (mv : Nat) (s : State) : State :=
  if mv < 38000 then
    ({ moduleReset s with mem := s.mem.filter (fun e => decide (0x100000000000 ≤ e.1)), ecc := [] } : State).updPow (fun p => { p with shut := true, okIn := 0 })
  else s

/-! ### The meanings -/

/-- `PLL_STABLE` (R446, R450). -/
def execPllStable (s : State) : Host.Outcome State Fault Refusal := .next (pllStable s)
/-- `DOMAIN_RAMP_STEP` (R449, R450): domain 0 ARITH, 1 CTL, 2 NOC, 3 BENCH. -/
def execDomainRampStep (d : Nat) (s : State) : Host.Outcome State Fault Refusal := if d < 4 then .next (rampStep d s) else .refused .noSuchUnit
/-- `REFERENCE_LOST` (R445, R451). -/
def execReferenceLost (s : State) : Host.Outcome State Fault Refusal := .next (clockLost 1 s)
/-- `PLL_LOCK_LOSS` (R446, R451): only after the PLL is judged stable. -/
def execPllLockLoss (s : State) : Host.Outcome State Fault Refusal := .next (if s.u.pow.pll = 2 then clockLost 2 s else s)
/-- `POWER_MANAGER_COURSE` (R455 to R457). -/
def execPowerManagerCourse (inW railA : Nat) (s : State) : Host.Outcome State Fault Refusal := .next (powerCourse inW railA s)
/-- `FASTER_STEP` (R453, R455). -/
def execFasterStep (s : State) : Host.Outcome State Fault Refusal := .next (fasterStep s)
/-- `CORE_GATE` (R457). -/
def execCoreGate (c : Nat) (s : State) : Host.Outcome State Fault Refusal := onCore c s (coreGate c)
/-- `SENSOR_SAMPLE` (R458 to R461). -/
def execSensorSample (i : Nat) (raw : Int) (s : State) : Host.Outcome State Fault Refusal :=
  if i < 68 then .next (sensorSample i raw s) else .refused .noSuchUnit
/-- `SUPPLY_CHECK` (R462). -/
def execSupplyCheck (inMv railMv : Nat) (s : State) : Host.Outcome State Fault Refusal := .next (supplyCheck inMv railMv s)
/-- `INPUT_UNDERVOLTAGE` (R462). -/
def execInputUndervoltage (inMv : Nat) (s : State) : Host.Outcome State Fault Refusal := .next (undervoltage inMv s)
/-- `MODULE_RESET` (R472, R481, R482). -/
def execModuleReset (inMv : Nat) (s : State) : Host.Outcome State Fault Refusal := .next (resetPin inMv s)

end Sys2Proof.Machine
end

