-- ==== Sys2Proof/Machine/Host.lean ====
section
/-!
DEFINITION. The host port and the CXL ports (R399 to R415, R244): link states, BAR2, host reads, MSI-X, ATS, IDE, function resets, configuration
writes, CXL links and errors.
-/

namespace Sys2Proof.Machine

open Sys2Proof

/-! ### Functions (R336, R399, R410) -/

/-- A function that VF Enable or NumVFs leave out takes nothing; a number beyond the part names no function. -/
def onFn (f : Nat) (s : State) (g : State → State) : Host.Outcome State Fault Refusal :=
  if f < s.nOwners then .next (if fnLive s f then g s else s) else .refused .noSuchUnit

/-- Address in the host memory window. -/
def inHostWindow (a n : Nat) : Bool := within a n 0x400000000000 0x800000000000

/-- The DMA queue's head transfer reads, or writes, the host window. -/
def headHost (s : State) (k : Nat) (wr : Bool) : Option (Nat × Nat) :=
  match ((s.core (k / 4)).dmaq (k % 4)).xs with
  | [] => none
  | x :: _ => if x.done then none else
    ((if wr then (xferSpans x).2 else (xferSpans x).1).find? (fun p => decide (p.1 < 0x800000000000) && decide (0x400000000000 < p.1 + p.2)))

/-- The requests of function f to host memory that wait for the link are abandoned (R410): the head transfers of its owner's DMA queues, and the
device's own writes for it. [DESIGN CHOICE: log 197] -/
def abandonFn (f : Nat) (s : State) : State :=
  if s.u.host.st = 2 then s
  else
    let ks := (List.range (4 * s.nCores)).filter (fun k => s.ownerOfCore (k / 4) == some f && ((headHost s k false).isSome || (headHost s k true).isSome))
    ks.foldl (fun s k =>
      let d := (s.core (k / 4)).dmaq (k % 4)
      s.setDmaq (k / 4) (k % 4) { d with xs := d.xs.drop 1 })
      (s.updHost (fun h => { h with hostw := h.hostw.filter (fun w => w.fn != some f || !w.ws.any (fun p => hitsHost p.1 p.2.length)) }))

/-- The device-originated requests of a function are abandoned and its instance returns to reset (R410, R472). -/
def fnReset (f : Nat) (s : State) : State :=
  let o := 0x2001000 + 0x40 * f
  let s1 : State := { s with regs := SMap.erase o (SMap.erase (o + 8) s.regs) }
  (abandonFn f s1).updHost (fun h => { h with frozen := h.frozen.filter (fun x => x != f), fns := SMap.erase f h.fns, atc := h.atc.filter (fun e => e.1 != f), barw := h.barw.filter (fun b => b.f != f) })

/-- A function-level reset (R410). -/
def flReset (f : Nat) (s : State) : State :=
  if f = 0 then
    if s.u.que.shared then
      ((List.range 16).foldl (fun s p => if resetOk p s then resetOwner p s else s) (fnReset 0 s)).updHost (fun h => { h with vfEn := false })
    else stopOwnerEv 0 (fnReset 0 s)
  else if resetOk f s then resetOwner f (fnReset f s) else fnReset f s

/-! ### The host link (R401, R402) -/

/-- What the port can train to (R399): x16 or x8, at 32 GT/s without Flit Mode, at 64 and 128 GT/s with it. -/
def trainOk (rate width : Nat) (flit : Bool) : Bool := (decide (width = 16) || decide (width = 8)) && decide (rate < 3) && flit == decide (rate ≠ 0)

/-- The link trains, once the PLL is stable and until the clock is lost (R427, R451), to a rate (0 32, 1 64, 2 128 GT/s) and a width, with the
light of both laser inputs as given. [DEDUCED: log 124] -/
def linkTrained (rate width : Nat) (flit : Bool) (light : BitVec 2) (s : State) : State :=
  let s1 := (flushHeld ((flushHeld s).updHost (fun h => { h with st := 2, rate, width, flit, light := light.toNat, downAt := none }))).pendIf 8
    (decide (s.u.host.st ≠ 2))
  if !trainOk rate width flit || s.u.pow.pll ≠ 2 || s.u.pow.loss ≠ 0 then s
  else if rate ≠ 2 || width ≠ 16 then s1.raise 0x4B01 0 none 0 0 else s1

/-- The link leaves DL_Active or its light is lost. [DEDUCED: log 115] -/
def linkLoss (active : Bool) (light : BitVec 2) (s : State) : State :=
  let h := s.u.host
  let lost := (h.light &&& light.toNat) != h.light
  let down := decide (h.st = 2) && (!active || lost)
  let s1 := ((s.pendIf 8 (decide (h.st ≠ 0) && (!active || lost)))).updHost (fun h => { h with
    light := light.toNat, st := if active && !lost then h.st else 0, width := if active && !lost then h.width else 0
    downAt := if down then some s.course.toNat else h.downAt })
  if down || lost then s1.raise 0x4B03 0 none 0 0 else s1

/-- A master's read of host memory of n bytes ends without data: the master is frozen (R407). Of a read whose length no command gives, n = 0,
the size in the event is a free value. [DESIGN CHOICE: log 116] -/
def hostReadFail (w : Who) (a n : Nat) (s : State) : State :=
  let p := s.draw
  if n = 0 then violate w a ((Config.word p.1).toNat % 256) false p.2 else violate w a n false s

/-- 65,536 courses with the link down (R402): the pending request of a DMA queue ends, a read as a timeout, a write discarded. A transfer that
only writes there has then made its writes. -/
def waitExpiry (k : Nat) (s : State) : State :=
  match s.u.host.downAt with
  | none => s
  | some t =>
    if s.u.host.st = 2 || s.course.toNat < t + 65536 then s
    else match headHost s k false with
      | some p => hostReadFail (.dma k) p.1 p.2 s
      | none => match headHost s k true with
        | some _ =>
          let d := (s.core (k / 4)).dmaq (k % 4)
          s.setDmaq (k / 4) (k % 4) { d with xs := match d.xs with
            | x :: r => { x with done := true } :: r
            | [] => [] }
        | none => s

/-! ### Reads of host memory (R407, R408) -/

/-- Host address of a window address for function f (R407). [DESIGN CHOICE: log 199] -/
def hostAddr (s : State) (f a : Nat) : Nat := bitsOf (s.reg 0 (0x2001000 + 0x40 * f)) 17 0 * 2 ^ 46 + (a - 0x400000000000)

/-- A translation enters the cache of 4,096 entries (R408). -/
def atcAdd (f page : Nat) (s : State) : State :=
  s.updHost (fun h => { h with atc := if h.atc.contains (f, page) then h.atc else ((f, page) :: h.atc).take 4096 })

/-- A completion for a device read (R407): status 0 successful, 1 Unsupported Request, 2 Completer Abort, 3 poisoned. `old` says that its
function was reset meanwhile (R410). Successful data is what host memory holds at those addresses. [DESIGN CHOICE: log 116] -/
def hostCompletion (w : Who) (a status : Nat) (data : List Byte) (old : Bool) (s : State) : State :=
  if old || !inHostWindow a data.length then s
  else
    let own := whoOwner s w
    match status with
    | 0 =>
      let s1 := s.putAll a data
      (match own with
        | some f => if (s.fnOf f).ats then atcAdd f (hostAddr s f a / 4096) s1 else s1
        | none => s1)
    | 3 => (ueStop w s).raise 0x8102 (match own with
        | some f => 0x8000 + f
        | none => 0) own (BitVec.ofNat 64 (a / 256 % 2 ^ 40)) 0
    | _ => hostReadFail w a data.length s

/-- An Invalidation Request for host pages (R408): every request that used them has ended, as requests are one step. -/
def atsInvalidate (f page n : Nat) (s : State) : State :=
  (s.updHost (fun h => { h with atc := h.atc.filter (fun e => e.1 != f || decide (e.2 < page) || decide (page + n ≤ e.2)) })).out (.atsDone f)

/-! ### BAR2 (R403 to R405) -/

/-- The device physical address of a BAR2 offset (R404); none beyond a VF's ranges or without an owner. -/
def bar2Addr (s : State) (f off n : Nat) : Option Nat :=
  if f = 0 then some off
  else if !(s.owner f).exists then none
  else match (cfgMem (s.owner f).cfg) with
    | [] => none
    | [r] => if off + n ≤ r.2 - r.1 then some (r.1 + off) else none
    | r :: q :: _ =>
      if off + n ≤ r.2 - r.1 then some (r.1 + off)
      else if off < r.2 - r.1 then none
      else if off - (r.2 - r.1) + n ≤ q.2 - q.1 then some (q.1 + (off - (r.2 - r.1))) else none

/-- The size of a function's BAR2: 512 GiB for the PF and 64 GiB for a VF, unless the host has resized it (R403). -/
def bar2Size (s : State) (f : Nat) : Nat := 2 ^ 30 * 2 ^ ((s.fnOf f).bar2.getD (if f = 0 then 9 else 6))

/-- Function f may reach bytes [a, a + n) through BAR2: all of GDDR7 but the EDF region while no owner exists (R405), else what R337 gives. [DEDUCED: log 188] -/
def bar2Reach (s : State) (f a n : Nat) (wr : Bool) : Bool :=
  if f = 0 && s.ownerList.isEmpty then gddrOk s a n && !(wr && hitsMaster s none a n)
  else (s.owner f).exists && gddrOk s a n && s.fnReach f (some f) a n wr

def complete (f status : Nat) (d : List Byte) (wr : Bool) (s : State) : State := if wr then s else s.out (.completion f status d)

/-- A write through BAR2 that covers in part a sector whose read fails is discarded (R232, R236): posted, it has no completion. [DEDUCED: log 122] -/
def dropWrite (f sec : Nat) (s : State) : State :=
  s.raiseUe sec (some f)

/-- A host access through BAR2; one beyond its size is none of the function's. -/
def bar2 (b : BarOp) (s : State) : State :=
  let wr := b.wr.isSome
  if !fnLive s b.f || decide (bar2Size s b.f < b.off + b.n) then s
  else if s.u.host.frozen.contains b.f then complete b.f 4 [] wr s
  else match bar2Addr s b.f b.off b.n with
    | none => complete b.f 4 [] wr (violate (.fn b.f) b.off b.n wr s)
    | some a =>
      if !bar2Reach s b.f a b.n wr then complete b.f 4 [] wr (violate (.fn b.f) a b.n wr s)
      else if (s.owner b.f).st == .creating || memBusy s a b.n then s.updHost (fun h => { h with barw := h.barw ++ [b] })
      else match b.wr with
        | some d => match s.writeUe [(a, b.n)] with
          | some sec => dropWrite b.f sec s
          | none => (s.writeNote [(a, b.n)]).putBytes a d
        | none => match s.memUe a b.n with
          | some sec => consumeUe (.fn b.f) sec (s.sectorRead sec) s
          | none => (s.readNote a b.n).out (.completion b.f 0 (s.bytes a b.n))

/-- The accesses that waited for an owner's ranges. -/
def barDrain (p : Nat) (s : State) : State :=
  if (s.owner p).st == .creating then s
  else (s.u.host.barw.filter (fun b => b.f == p)).foldl (fun s b => bar2 b s)
    (s.updHost (fun h => { h with barw := h.barw.filter (fun b => b.f != p) }))

/-- The accesses that waited for their GDDR7 channel. -/
def barReady (s : State) : State := s.u.host.barw.foldl (fun s b => bar2 b s) (s.updHost (fun h => { h with barw := [] }))

/-! ### MSI-X, IDE, configuration (R399, R406, R409) -/

/-- A vector is unmasked: its pending message is sent (R406). -/
def msixUnmask (f v : Nat) (s : State) : State :=
  let h := s.fnOf f
  if 2048 ≤ v then s
  else
    let s1 := s.updFn f (fun h => { h with unmasked := if h.unmasked.contains v then h.unmasked else h.unmasked ++ [v] })
    if h.pba.contains v && h.msixEn then (s1.updFn f (fun h => { h with pba := h.pba.filter (fun x => x != v) })).out (.msix f v) else s1

/-- MSI-X Enable: messages that wait for unmasked vectors leave when it is set. -/
def msixEnable (f : Nat) (on : Bool) (s : State) : State :=
  let h := s.fnOf f
  let go := if on then h.pba.filter (fun v => h.unmasked.contains v) else []
  go.foldl (fun s v => s.out (.msix f v)) (s.updFn f (fun h => { h with msixEn := on, pba := h.pba.filter (fun v => !go.contains v) }))

/-- A TLP on an enabled IDE stream fails (R409). [DEDUCED: log 120] -/
def ideFail (k : Nat) (s : State) : State :=
  if s.u.host.ideOn.contains k && !s.u.host.ideBad.contains k then
    (s.updHost (fun h => { h with ideBad := h.ideBad ++ [k] })).raise 0x4B03 0 none 0 0
  else s

/-- The host writes configuration space (R399). -/
def configWrite (f : Nat) (c : Cfg) (s : State) : State :=
  match c with
  | .msixEnable on => msixEnable f on s
  | .ats on => (s.updFn f (fun h => { h with ats := on })).updHost (fun h => { h with atc := if on then h.atc else h.atc.filter (fun e => e.1 != f) })
  | .pasid on => s.updFn f (fun h => { h with pasid := on })
  | .bar2Size k => if k ≤ 9 then s.updFn f (fun h => { h with bar2 := some k }) else s
  | .d3hot => s.updFn f (fun h => { h with d3hot := true })
  | .flr => flReset f s
  | .vf en num => if f = 0 && num < s.nOwners then s.updHost (fun h => { h with vfEn := en, numVf := if h.vfEn then h.numVf else num }) else s

/-- A function leaves D3hot (R410). -/
def d3Exit (f : Nat) (s : State) : State :=
  if (s.fnOf f).d3hot then
    if Config.noSoftReset f then s.updFn f (fun h => { h with d3hot := false }) else flReset f s
  else s

/-! ### CXL ports (R411, R415, R244) -/

def State.cxlPort (s : State) (p : Nat) : CxlPort := SMap.get {} p s.u.host.cxl
/-- A port is updated; a change of its state is source 8 (R422). -/
def updCxl (p : Nat) (f : CxlPort → CxlPort) (s : State) : State :=
  (s.updHost (fun h => { h with cxl := SMap.set p (f (s.cxlPort p)) h.cxl })).pendIf 8 (decide ((f (s.cxlPort p)).st ≠ (s.cxlPort p).st))

def onPort (p : Nat) (s : State) (f : State → State) : Host.Outcome State Fault Refusal := if p < 2 then .next (f s) else .refused .noSuchUnit

/-- A port retrains: its requests wait. -/
def cxlRetrain (p : Nat) (s : State) : State :=
  if (s.cxlPort p).st = 2 then (updCxl p (fun x => { x with st := 3 }) s).raise 0x4B02 (0xB000 + p) none 0 0 else s

/-- A port reaches link-up, unless the clock is lost (R451). -/
def cxlLinkUp (p : Nat) (rate width : Nat) (target switch_ : Bool) (s : State) : State :=
  if s.u.pow.loss ≠ 0 then s else flushHeld (updCxl p (fun _ => { st := 2, rate := rate % 2, width := width % 32, target, switch := switch_ }) s)

/-- Window of a port (R412). -/
def cxlWindow (p : Nat) : Nat × Nat := if p = 0 then (0x100000000000, 0x140000000000) else (0x140000000000, 0x180000000000)

/-- The owner has a CXL range on the port. -/
def cxlOwner (s : State) (p q : Nat) : Bool := (cfgCxl (s.owner q).cfg).any (fun r => decide (r.1 < (cxlWindow p).2) && decide ((cxlWindow p).1 < r.2))

/-- A DMA queue's head transfer is a request outstanding to the port. -/
def cxlHeads (s : State) (p : Nat) : List Nat :=
  (List.range (4 * s.nCores)).filter (fun k => match ((s.core (k / 4)).dmaq (k % 4)).xs with
    | [] => false
    | x :: _ => !x.done && ((xferSpans x).1 ++ (xferSpans x).2).any (fun r => decide (r.1 < (cxlWindow p).2) && decide ((cxlWindow p).1 < r.1 + r.2)))

/-- The Bench engines whose standard launch has waited for a port that retrains. -/
def cxlEngines (s : State) (p : Nat) : List Nat :=
  (List.range s.nCh).filter (fun e => decide ((s.cxlPort p).st = 3) && (s.eng e).running && (match (s.eng e).cur with
    | some l => (stdReach s e l).any (fun r => decide (r.1 < (cxlWindow p).2) && decide ((cxlWindow p).1 < r.1 + r.2.1))
    | none => false))

/-- The conversations that have waited for a port that retrains. -/
def cxlConvs (s : State) (p : Nat) : List Conv :=
  s.u.col.convs.filter (fun c => decide ((s.cxlPort p).st = 3) && s.u.col.stuck && (match s.group c.gid with
    | some g => (reqSpans g c.blk).any (fun r => decide (r.1 < (cxlWindow p).2) && decide ((cxlWindow p).1 < r.1 + r.2.1))
    | none => false))

/-- A port goes down (R415): the event against every owner with a range there, then its outstanding requests end and their masters stop. [DEDUCED: log 200] -/
def cxlLoss (p : Nat) (s : State) : State :=
  if (s.cxlPort p).st ≠ 2 && (s.cxlPort p).st ≠ 3 then s
  else
    let s1 := (s.ownerList.filter (cxlOwner s p)).foldl (fun s q => s.raise 0x8B01 (0xB000 + p) (some q) 0 0) s
    let s2 := (cxlHeads s p).foldl (fun s k => freezeDma (k / 4) (k % 4) s) s1
    let s3 := (cxlEngines s p).foldl (fun s e => s.updEng e (fun x => Engine.dropOwner { x with st := .frozen } (x.cur.bind (fun (l : Launch) => l.own)))) s2
    let s4 := (cxlConvs s p).foldl (fun s c => freezeIssuer c.ep (abandonSeq c.gid c.seq s)) s3
    flushHeld (updCxl p (fun x => { x with st := 0, width := 0, target := false }) s4)

/-- A read completion of a port (R244, R415): `bad` says that it is poisoned or failed. Else the data is what the tier holds there. -/
def cxlCompletion (p : Nat) (w : Who) (a : Nat) (bad : Bool) (data : List Byte) (s : State) : State :=
  if !within a data.length (cxlWindow p).1 (cxlWindow p).2 || !s.cxlUp p then s
  else if bad then
    let own := whoOwner s w
    (ueStop w (s.setLastUe 3 0 (a / 256))).raise 0x8102 (0xB000 + p) own (memD0 0 (a / 256)) 0
  else s.putAll a data

/-! ### The meanings -/

/-- `CHANNEL_RETRAIN_DONE` (R235): `ok` says that retraining and the repeat succeed. -/
def execChannelRetrainDone (c : Nat) (ok : Bool) (s : State) : Host.Outcome State Fault Refusal := onCh c s (fun s => barReady (flushHeld (retrainEnd c ok s)))

/-- `HOST_LINK_TRAINED` (R401). -/
def execHostLinkTrained (rate width : Nat) (flit : Bool) (light : BitVec 2) (s : State) : Host.Outcome State Fault Refusal :=
  .next (linkTrained rate width flit light s)
/-- `HOST_LINK_LOSS` (R402). -/
def execHostLinkLoss (active : Bool) (light : BitVec 2) (s : State) : Host.Outcome State Fault Refusal := .next (linkLoss active light s)
/-- `HOST_LINK_WAIT_EXPIRY` (R402), for DMA queue k = 4n + q. -/
def execHostLinkWaitExpiry (k : Nat) (s : State) : Host.Outcome State Fault Refusal :=
  if k < 4 * s.nCores then .next (waitExpiry k s) else .refused .noSuchUnit
/-- `BAR2_ACCESS` (R404, R405). -/
def execBar2Access (f off n : Nat) (wr : Option (List Byte)) (s : State) : Host.Outcome State Fault Refusal :=
  onFn f s (bar2 { f, off, wr, n := match wr with
    | some d => d.length
    | none => n })
/-- `HOST_READ_COMPLETION` (R407, R408). -/
def execHostReadCompletion (w : Who) (a status : Nat) (data : List Byte) (old : Bool) (s : State) : Host.Outcome State Fault Refusal :=
  .next (hostCompletion w a status data old s)
/-- `HOST_READ_TIMEOUT` (R407). -/
def execHostReadTimeout (w : Who) (a : Nat) (s : State) : Host.Outcome State Fault Refusal := .next (if inHostWindow a 1 then hostReadFail w a 0 s else s)
/-- `ATS_INVALIDATION` (R408). -/
def execAtsInvalidation (f page n : Nat) (s : State) : Host.Outcome State Fault Refusal := onFn f s (atsInvalidate f page n)
/-- `MSIX_UNMASK` (R406). -/
def execMsixUnmask (f v : Nat) (s : State) : Host.Outcome State Fault Refusal := onFn f s (msixUnmask f v)
/-- `IDE_INTEGRITY_FAIL` (R409). -/
def execIdeIntegrityFail (k : Nat) (s : State) : Host.Outcome State Fault Refusal := if k < 5 then .next (ideFail k s) else .refused .noSuchUnit
/-- `FUNCTION_LEVEL_RESET` (R410). -/
def execFunctionLevelReset (f : Nat) (s : State) : Host.Outcome State Fault Refusal := onFn f s (flReset f)
/-- `D3HOT_EXIT` (R410). -/
def execD3hotExit (f : Nat) (s : State) : Host.Outcome State Fault Refusal := onFn f s (d3Exit f)
/-- `PCIE_CONFIG_WRITE` (R399). -/
def execPcieConfigWrite (f : Nat) (c : Cfg) (s : State) : Host.Outcome State Fault Refusal := onFn f s (configWrite f c)
/-- `CXL_RETRAIN` (R415). -/
def execCxlRetrain (p : Nat) (s : State) : Host.Outcome State Fault Refusal := onPort p s (cxlRetrain p)
/-- `CXL_LINK_UP` (R411, R415). -/
def execCxlLinkUp (p rate width : Nat) (target switch_ : Bool) (s : State) : Host.Outcome State Fault Refusal :=
  onPort p s (cxlLinkUp p rate width target switch_)
/-- `CXL_PORT_LOSS` (R415). -/
def execCxlPortLoss (p : Nat) (s : State) : Host.Outcome State Fault Refusal := onPort p s (cxlLoss p)
/-- `CXL_READ_COMPLETION` (R244, R415). -/
def execCxlReadCompletion (p : Nat) (w : Who) (a : Nat) (bad : Bool) (data : List Byte) (s : State) : Host.Outcome State Fault Refusal :=
  onPort p s (cxlCompletion p w a bad data)
/-- `CXL_MEDIA_ERROR_LOGGED` (R244). -/
def execCxlMediaErrorLogged (p : Nat) (s : State) : Host.Outcome State Fault Refusal := onPort p s (fun s => s.raise 0x4106 (0xB000 + p) none 0 0)
/-- `OWNER_ACTIVE` (R343, R405). -/
def execOwnerActive (p : Nat) (s : State) : Host.Outcome State Fault Refusal := onOwner p s (fun s => barDrain p (ownerActive p s))

end Sys2Proof.Machine
end

