-- ==== Sys2Proof/Machine/RegMap.lean ====
section
/-!
DEFINITION. The register map (R16 to R18, R466 to R473): every register of every block, its offset in the register space, its fields with
their access codes, and the value that its stored fields have after reset.
-/

namespace Sys2Proof.Machine

open Sys2Proof

/-- A register. Indices are core n, array pair or word i, tile t, engine e of the device, channel c, link l, group g, owner p,
function f, port p with decoder n, sensor and list entry i, and route-table entry i = (4 × Pattern + level) × 256 + entry. -/
inductive Reg where
  | devId | devConfig | devSerial
  | clkStatus | clkDiv
  | pwrLimit | pwrCtrl | pwrSlew | pwrStatus | pwrInput | pwrTherm | pwrCntOver | pwrCntDefer | pwrCntClear | pwrSensor (i : Nat)
  | rtuStatus
  | fltHealth | fltHcfg | fltSwatch | fltRequal | fltRingBase | fltRingPtr | fltEvidence | fltCmatSel | fltCmatData
  | fltSuspect (i : Nat) | fltDfirst (i : Nat)
  | foCtrl (p : Nat) | foRingBase (p : Nat) | foRingPtr (p : Nat) | foHorizon (p : Nat) | foFirst (p i : Nat) | foOvf (p i : Nat) | foCntFrog (p : Nat)
  | crsCount | crsCtrl | crsLimits | crsArm (i : Nat) | crsArmStatus | crsLedgerBase | crsLedgerPtr | crsLink (l : Nat)
  | queMode | queQtable | queHo | qpState (p : Nat) | qpCfg (p i : Nat) | qpCnt (p i : Nat) | qpClear (p : Nat)
  | lnkGroup (g : Nat) | lnkCfg (l : Nat) | lnkStatus (l : Nat) | lnkRetry (l : Nat) | lnkFec (l : Nat) | lnkClear (l : Nat)
  | lnkAddr | lnkPat | lnkPatValid | lnkLimits | lnkMask (i : Nat) | lnkPolicy (i : Nat)
  | colCtrl | colGroupBase | colGroupLoad | colSubmit | colStatus | colBackup | colSnapWin | colDup | colDupLate | colClear | colEpoch (p : Nat)
  | memCtrl | memBucket | memLastUe | memInject | memLogStatus | memLog (i : Nat)
  | mcStatus (c : Nat) | mcLevels (c : Nat) | mcCe (c : Nat) | mcRetry (c : Nat) | mcCompat (c : Nat) | mcClear (c : Nat)
  | bncMap | bncScale | bncSlice | bncProgBase | bncProgValid | bncSnapStatus | bncSnapDest (i : Nat)
  | btStatus (t : Nat) | beState (e : Nat) | beBusy (e : Nat) | beLines (e : Nat) | beClear (e : Nat)
  | coreMap (n : Nat) | coreArrays (n : Nat) | coreBypass (n i : Nat) | coreSkein (n : Nat) | coreCnt (n i : Nat) | coreClear (n : Nat)
  | coreStatus (n : Nat) | coreBaddr (n : Nat) | corePreempt (n : Nat) | coreSaveBase (n : Nat) | coreSaveBanks (n : Nat)
  | coreWcnt (n i : Nat) | coreWclear (n : Nat) | coreSramce (n : Nat) | coreStage (n : Nat)
  | hostLink | hfCtrl (f : Nat) | hfVec (f : Nat) | hfStatus (f : Nat) | cxlStatus (p : Nat) | hdmBase (p n : Nat) | hdmCtrl (p n : Nat)
  | ctlxBoot | ctlxLock | svcAddr | svcCtrl
  deriving DecidableEq, Repr

/-- Register-space offset of an engine register (R227). -/
def engOff (e o : Nat) : Nat := 0xE00000 + 0x10000 + e / 8 * 0x10000 + 0x1000 + e % 8 * 0x40 + o
def fltOff (p o : Nat) : Nat := 0x410000 + p * 0x100 + o
def queOff (p o : Nat) : Nat := 0x610000 + p * 0x100 + o
def mchOff (c o : Nat) : Nat := 0xC10000 + c * 0x100 + o
def hfnOff (f o : Nat) : Nat := 0x2001000 + f * 0x40 + o

/-- A register's offset in the register space (R468 and each block's table). -/
def Reg.off : Reg → Nat
  | .devId => 0x0 | .devConfig => 0x8 | .devSerial => 0x10
  | .clkStatus => 0x100000 | .clkDiv => 0x100008
  | .pwrLimit => 0x200000 | .pwrCtrl => 0x200008 | .pwrSlew => 0x200010 | .pwrStatus => 0x200018 | .pwrInput => 0x200020 | .pwrTherm => 0x200028
  | .pwrCntOver => 0x200030 | .pwrCntDefer => 0x200038 | .pwrCntClear => 0x200040 | .pwrSensor i => 0x200100 + 8 * i
  | .rtuStatus => 0x300000
  | .fltHealth => 0x400000 | .fltHcfg => 0x400008 | .fltSwatch => 0x400010 | .fltRequal => 0x400018 | .fltRingBase => 0x400020
  | .fltRingPtr => 0x400028 | .fltEvidence => 0x400030 | .fltCmatSel => 0x400040 | .fltCmatData => 0x400048
  | .fltSuspect i => 0x400080 + 8 * i | .fltDfirst i => 0x400180 + 8 * i
  | .foCtrl p => fltOff p 0 | .foRingBase p => fltOff p 8 | .foRingPtr p => fltOff p 0x10 | .foHorizon p => fltOff p 0x18
  | .foFirst p i => fltOff p (0x20 + 8 * i) | .foOvf p i => fltOff p (0x40 + 8 * i) | .foCntFrog p => fltOff p 0x60
  | .crsCount => 0x500000 | .crsCtrl => 0x500008 | .crsLimits => 0x500010 | .crsArm i => 0x500018 + 8 * i | .crsArmStatus => 0x500038
  | .crsLedgerBase => 0x500040 | .crsLedgerPtr => 0x500048 | .crsLink l => 0x501000 + 8 * l
  | .queMode => 0x600000 | .queQtable => 0x600008 | .queHo => 0x600010 | .qpState p => queOff p 0 | .qpCfg p i => queOff p (8 + 8 * i)
  | .qpCnt p i => queOff p (0x48 + 8 * i) | .qpClear p => queOff p 0x68
  | .lnkGroup g => 0x800000 + g * 0x10000 | .lnkCfg l => linkOff l 0 | .lnkStatus l => linkOff l 8 | .lnkRetry l => linkOff l 0x10
  | .lnkFec l => linkOff l 0x18 | .lnkClear l => linkOff l 0x20
  | .lnkAddr => 0x880000 | .lnkPat => 0x880008 | .lnkPatValid => 0x880010 | .lnkLimits => 0x880018
  | .lnkMask i => 0x900000 + 16 * i | .lnkPolicy i => 0x900008 + 16 * i
  | .colCtrl => 0xA00000 | .colGroupBase => 0xA00008 | .colGroupLoad => 0xA00010 | .colSubmit => 0xA00018 | .colStatus => 0xA00020
  | .colBackup => 0xA00028 | .colSnapWin => 0xA00030 | .colDup => 0xA00038 | .colDupLate => 0xA00040 | .colClear => 0xA00048
  | .colEpoch p => 0xA00050 + 8 * p
  | .memCtrl => 0xC00000 | .memBucket => 0xC00008 | .memLastUe => 0xC00010 | .memInject => 0xC00018 | .memLogStatus => 0xC00020
  | .memLog i => 0xC00080 + 8 * i
  | .mcStatus c => mchOff c 0 | .mcLevels c => mchOff c 8 | .mcCe c => mchOff c 0x10 | .mcRetry c => mchOff c 0x18 | .mcCompat c => mchOff c 0x20
  | .mcClear c => mchOff c 0x28
  | .bncMap => 0xE00000 | .bncScale => 0xE00008 | .bncSlice => 0xE00010 | .bncProgBase => 0xE00018 | .bncProgValid => 0xE00020
  | .bncSnapStatus => 0xE00028 | .bncSnapDest i => 0xE00030 + 8 * i
  | .btStatus t => 0xE10000 + t * 0x10000 | .beState e => engOff e 0 | .beBusy e => engOff e 8 | .beLines e => engOff e 0x10 | .beClear e => engOff e 0x18
  | .coreMap n => coreOff n 0 | .coreArrays n => coreOff n 8 | .coreBypass n i => coreOff n (0x10 + 8 * i) | .coreSkein n => coreOff n 0x20
  | .coreCnt n i => coreOff n (0x40 + 8 * i) | .coreClear n => coreOff n 0x60
  | .coreStatus n => coreOff n 0x100 | .coreBaddr n => coreOff n 0x108 | .corePreempt n => coreOff n 0x110 | .coreSaveBase n => coreOff n 0x118
  | .coreSaveBanks n => coreOff n 0x120 | .coreWcnt n i => coreOff n (0x128 + 8 * i) | .coreWclear n => coreOff n 0x140
  | .coreSramce n => coreOff n 0x148 | .coreStage n => coreOff n 0x150
  | .hostLink => 0x2000000 | .hfCtrl f => hfnOff f 0 | .hfVec f => hfnOff f 8 | .hfStatus f => hfnOff f 0x10
  | .cxlStatus p => 0x2002000 + 0x1000 * p | .hdmBase p n => hdmOff p n | .hdmCtrl p n => hdmOff p n + 8
  | .ctlxBoot => 0x3000000 | .ctlxLock => 0x3000008 | .svcAddr => 0x3000010 | .svcCtrl => 0x3000018

/-! ### The register at an offset -/

/-- The entry of a list of offsets that o is. -/
def pick (o : Nat) (l : List (Nat × Reg)) : Option Reg := (l.find? (fun e => decide (e.1 = o))).map (fun e => e.2)

/-- A row of k registers from offset b, 8 bytes apart. -/
def row (o b k : Nat) (f : Nat → Reg) : Option Reg := if b ≤ o && decide (o < b + 8 * k) then some (f ((o - b) / 8)) else none

def pwrAt (o : Nat) : Option Reg :=
  match pick o [(0, .pwrLimit), (8, .pwrCtrl), (0x10, .pwrSlew), (0x18, .pwrStatus), (0x20, .pwrInput), (0x28, .pwrTherm), (0x30, .pwrCntOver),
    (0x38, .pwrCntDefer), (0x40, .pwrCntClear)] with
  | some r => some r
  | none => row o 0x100 68 .pwrSensor

def fltOwnAt (p o : Nat) : Option Reg :=
  match pick o [(0, .foCtrl p), (8, .foRingBase p), (0x10, .foRingPtr p), (0x18, .foHorizon p), (0x60, .foCntFrog p)] with
  | some r => some r
  | none => match row o 0x20 4 (.foFirst p) with
    | some r => some r
    | none => row o 0x40 4 (.foOvf p)

def fltAt (o : Nat) : Option Reg :=
  if 0x10000 ≤ o && decide (o < 0x11000) then fltOwnAt ((o - 0x10000) / 0x100) (o % 0x100)
  else match pick o [(0, .fltHealth), (8, .fltHcfg), (0x10, .fltSwatch), (0x18, .fltRequal), (0x20, .fltRingBase), (0x28, .fltRingPtr),
    (0x30, .fltEvidence), (0x40, .fltCmatSel), (0x48, .fltCmatData)] with
  | some r => some r
  | none => match row o 0x80 32 .fltSuspect with
    | some r => some r
    | none => row o 0x180 4 .fltDfirst

def crsAt (o : Nat) : Option Reg :=
  match pick o [(0, .crsCount), (8, .crsCtrl), (0x10, .crsLimits), (0x38, .crsArmStatus), (0x40, .crsLedgerBase), (0x48, .crsLedgerPtr)] with
  | some r => some r
  | none => match row o 0x18 4 .crsArm with
    | some r => some r
    | none => row o 0x1000 64 .crsLink

def qpAt (p o : Nat) : Option Reg :=
  match pick o [(0, .qpState p), (0x68, .qpClear p)] with
  | some r => some r
  | none => match row o 8 8 (.qpCfg p) with
    | some r => some r
    | none => row o 0x48 4 (.qpCnt p)

def queAt (o : Nat) : Option Reg :=
  if 0x10000 ≤ o && decide (o < 0x11000) then qpAt ((o - 0x10000) / 0x100) (o % 0x100)
  else pick o [(0, .queMode), (8, .queQtable), (0x10, .queHo)]

def lnkAt (o : Nat) : Option Reg :=
  if o < 0x80000 then
    let g := o / 0x10000
    let q := o % 0x10000
    let l := 8 * g + (q - 0x1000) / 0x100
    if q = 0 then some (.lnkGroup g)
    else if 0x1000 ≤ q && decide (q < 0x1800) then pick (q % 0x100) [(0, .lnkCfg l), (8, .lnkStatus l), (0x10, .lnkRetry l), (0x18, .lnkFec l), (0x20, .lnkClear l)]
    else none
  else if 0x100000 ≤ o && decide (o < 0x100000 + 16 * 16384) then
    some (if o % 16 < 8 then .lnkMask ((o - 0x100000) / 16) else .lnkPolicy ((o - 0x100000) / 16))
  else pick o [(0x80000, .lnkAddr), (0x80008, .lnkPat), (0x80010, .lnkPatValid), (0x80018, .lnkLimits)]

def colAt (o : Nat) : Option Reg :=
  match pick o [(0, .colCtrl), (8, .colGroupBase), (0x10, .colGroupLoad), (0x18, .colSubmit), (0x20, .colStatus), (0x28, .colBackup),
    (0x30, .colSnapWin), (0x38, .colDup), (0x40, .colDupLate), (0x48, .colClear)] with
  | some r => some r
  | none => row o 0x50 16 .colEpoch

def memAt (o : Nat) : Option Reg :=
  if 0x10000 ≤ o && decide (o < 0x14000) then
    let c := (o - 0x10000) / 0x100
    pick (o % 0x100) [(0, .mcStatus c), (8, .mcLevels c), (0x10, .mcCe c), (0x18, .mcRetry c), (0x20, .mcCompat c), (0x28, .mcClear c)]
  else match pick o [(0, .memCtrl), (8, .memBucket), (0x10, .memLastUe), (0x18, .memInject), (0x20, .memLogStatus)] with
  | some r => some r
  | none => row o 0x80 16 .memLog

def bncAt (o : Nat) : Option Reg :=
  if 0x10000 ≤ o && decide (o < 0x90000) then
    let t := (o - 0x10000) / 0x10000
    let q := o % 0x10000
    let e := 8 * t + (q - 0x1000) / 0x40
    if q = 0 then some (.btStatus t)
    else if 0x1000 ≤ q && decide (q < 0x1200) then pick (q % 0x40) [(0, .beState e), (8, .beBusy e), (0x10, .beLines e), (0x18, .beClear e)]
    else none
  else match pick o [(0, .bncMap), (8, .bncScale), (0x10, .bncSlice), (0x18, .bncProgBase), (0x20, .bncProgValid), (0x28, .bncSnapStatus)] with
  | some r => some r
  | none => row o 0x30 2 .bncSnapDest

def coreAt (n o : Nat) : Option Reg :=
  match pick o [(0, .coreMap n), (8, .coreArrays n), (0x20, .coreSkein n), (0x60, .coreClear n), (0x100, .coreStatus n), (0x108, .coreBaddr n),
    (0x110, .corePreempt n), (0x118, .coreSaveBase n), (0x120, .coreSaveBanks n), (0x140, .coreWclear n), (0x148, .coreSramce n), (0x150, .coreStage n)] with
  | some r => some r
  | none => match row o 0x10 2 (.coreBypass n) with
    | some r => some r
    | none => match row o 0x40 4 (.coreCnt n) with
      | some r => some r
      | none => row o 0x128 3 (.coreWcnt n)

def hostAt (o : Nat) : Option Reg :=
  if o = 0 then some .hostLink
  else if 0x1000 ≤ o && decide (o < 0x1400) then
    let f := (o - 0x1000) / 0x40
    pick (o % 0x40) [(0, .hfCtrl f), (8, .hfVec f), (0x10, .hfStatus f)]
  else if 0x2000 ≤ o && decide (o < 0x4000) then
    let p := (o - 0x2000) / 0x1000
    let q := o % 0x1000
    if q = 0 then some (.cxlStatus p)
    else if 0x100 ≤ q && decide (q < 0x140) then some (if q % 16 < 8 then .hdmBase p ((q - 0x100) / 16) else .hdmCtrl p ((q - 0x100) / 16))
    else none
  else none

/-- The register that holds the byte at a register-space offset; none where no chapter defines one (R470). -/
def regAt (off : Nat) : Option Reg :=
  let o := off / 8 * 8
  if o < 0x100000 then pick o [(0, .devId), (8, .devConfig), (0x10, .devSerial)]
  else if o < 0x200000 then pick o [(0x100000, .clkStatus), (0x100008, .clkDiv)]
  else if o < 0x300000 then pwrAt (o - 0x200000)
  else if o < 0x400000 then pick o [(0x300000, .rtuStatus)]
  else if o < 0x500000 then fltAt (o - 0x400000)
  else if o < 0x600000 then crsAt (o - 0x500000)
  else if o < 0x800000 then queAt (o - 0x600000)
  else if o < 0xA00000 then lnkAt (o - 0x800000)
  else if o < 0xC00000 then colAt (o - 0xA00000)
  else if o < 0xE00000 then memAt (o - 0xC00000)
  else if o < 0x1000000 then bncAt (o - 0xE00000)
  else if o < 0x1800000 then coreAt ((o - 0x1000000) / 0x10000) ((o - 0x1000000) % 0x10000)
  else if o < 0x2000000 then none
  else if o < 0x3000000 then hostAt (o - 0x2000000)
  else pick o [(0x3000000, .ctlxBoot), (0x3000008, .ctlxLock), (0x3000010, .svcAddr), (0x3000018, .svcCtrl)]

/-! ### Fields (R18) -/

/-- Access codes (R18). Bits of a register in no field of its list are RSV. -/
inductive Acc where
  | ro
  | rw
  | w1c
  | wo
  | rwl
  deriving DecidableEq, Repr

/-- A field: its bits [hi:lo] and access code. -/
structure RField where
  hi : Nat
  lo : Nat
  acc : Acc
  deriving DecidableEq, Repr

def RField.mask (f : RField) : Nat := 2 ^ (f.hi + 1) - 2 ^ f.lo

def roF (hi lo : Nat) : RField := ⟨hi, lo, .ro⟩
def rwF (hi lo : Nat) : RField := ⟨hi, lo, .rw⟩
def woF (hi lo : Nat) : RField := ⟨hi, lo, .wo⟩
def w1cF (hi lo : Nat) : RField := ⟨hi, lo, .w1c⟩
def rwlF (hi lo : Nat) : RField := ⟨hi, lo, .rwl⟩

/-- The fields of a register, as its table lists them. -/
def Reg.fields : Reg → List RField
  | .devId => [roF 63 48, roF 47 32, roF 31 24]
  | .devConfig => [roF 44 40, roF 35 32, roF 31 24, roF 23 16, roF 15 8, roF 7 0]
  | .devSerial => [roF 63 0]
  | .clkStatus => [roF 16 15, roF 14 14, roF 13 13, roF 12 8, roF 7 3, roF 2 0]
  | .clkDiv => [roF 38 32, roF 30 24, roF 22 16, roF 14 8, roF 6 0]
  | .pwrLimit => [rwF 17 16, rwF 11 0]
  | .pwrCtrl => [rwF 47 32, rwF 19 16, rwF 15 0]
  | .pwrSlew => [rwF 23 16, rwF 11 0]
  | .pwrStatus => [roF 63 48, roF 39 32, roF 7 7, roF 6 6, roF 5 5, roF 4 4, roF 3 2, roF 1 0]
  | .pwrInput => [roF 63 48, roF 47 32, roF 31 16, roF 15 0]
  | .pwrTherm => [roF 47 40, rwF 39 32, roF 23 16, roF 15 0]
  | .pwrCntOver | .pwrCntDefer => [roF 47 0]
  | .pwrCntClear => [woF 0 0]
  | .pwrSensor _ => [roF 16 16, roF 15 0]
  | .rtuStatus => [roF 63 48, roF 47 32, roF 3 3, roF 2 2, roF 1 1, roF 0 0]
  | .fltHealth => [roF 48 48, roF 41 36, roF 33 32, roF 31 16, roF 9 0]
  | .fltHcfg => [rwF 63 48, rwF 35 32, rwF 16 16, rwF 9 0]
  | .fltSwatch => [rwF 63 32, rwF 6 6, rwF 5 0]
  | .fltRequal => [roF 63 48, roF 7 7, roF 6 4, woF 1 1, woF 0 0]
  | .fltRingBase | .foRingBase _ => [rwF 63 48, rwF 47 5]
  | .fltRingPtr | .foRingPtr _ => [roF 63 56, roF 55 32, rwF 23 0]
  | .fltEvidence => [woF 63 8, woF 0 0]
  | .fltCmatSel => [rwF 25 16, rwF 8 0]
  | .fltCmatData => [roF 63 32, roF 31 24, roF 23 16, roF 15 0]
  | .fltSuspect _ => [roF 63 63, roF 47 32, roF 15 0]
  | .fltDfirst _ | .foFirst _ _ | .foOvf _ _ => [roF 63 0]
  | .foCtrl _ => [rwF 63 63, rwF 59 48, roF 47 32, rwF 18 16, roF 5 5, roF 4 4, woF 3 3, woF 2 2, woF 0 0]
  | .foHorizon _ => [roF 63 63, roF 62 0]
  | .foCntFrog _ => [roF 47 0]
  | .crsCount => [rwF 63 0]
  | .crsCtrl => [roF 31 18, roF 17 15, rwF 14 8, rwF 1 1, rwF 0 0]
  | .crsLimits => [rwF 63 48, rwF 47 24, rwF 7 0]
  | .crsArm _ => [woF 63 0]
  | .crsArmStatus => [woF 23 23, woF 19 16, roF 10 0]
  | .crsLedgerBase => [rwF 63 48, rwF 47 6]
  | .crsLedgerPtr => [roF 61 32, rwF 29 0]
  | .crsLink _ => [rwF 63 48, roF 39 20, roF 19 0]
  | .queMode => [woF 56 56, woF 55 48, roF 23 8, roF 2 2, roF 1 1, roF 0 0]
  | .queQtable | .queHo => [rwF 47 12]
  | .qpState _ => [woF 63 63, roF 7 4, roF 2 0]
  | .qpCfg _ _ => [roF 63 0]
  | .qpCnt _ _ => [roF 47 0]
  | .qpClear _ => [woF 0 0]
  | .lnkGroup _ => [roF 9 8, roF 7 0]
  | .lnkCfg _ => [rwF 63 63, rwF 62 62, rwF 61 61, rwF 37 32, rwF 19 0]
  | .lnkStatus _ => [roF 63 61, roF 60 60, roF 37 32, roF 19 0]
  | .lnkRetry _ => [roF 47 0]
  | .lnkFec _ => [roF 63 32, roF 31 0]
  | .lnkClear _ => [woF 0 0]
  | .lnkAddr => [rwF 63 63, rwF 47 44, rwF 43 40, rwF 39 36, rwF 35 32, rwF 19 0]
  | .lnkPat => [rwF 63 48, rwF 47 32, rwF 3 0]
  | .lnkPatValid => [rwF 15 0]
  | .lnkLimits => [rwF 63 48, rwF 39 32, rwF 23 16, rwF 7 0]
  | .lnkMask _ => [rwF 63 0]
  | .lnkPolicy _ => [rwF 1 0]
  | .colCtrl => [rwF 63 32, rwF 0 0]
  | .colGroupBase => [rwF 47 6]
  | .colGroupLoad => [woF 63 63, woF 62 62, roF 61 61, rwF 11 0]
  | .colSubmit => [woF 47 6]
  | .colStatus => [roF 46 32, roF 31 0]
  | .colBackup => [woF 63 63, woF 59 48, woF 47 32, woF 31 0]
  | .colSnapWin => [rwF 63 56, rwF 55 36, rwF 35 0]
  | .colDup | .colDupLate => [roF 47 0]
  | .colClear => [woF 0 0]
  | .colEpoch _ => [w1cF 32 32, roF 31 16, rwF 15 0]
  | .memCtrl => [rwF 51 32, rwF 1 1, rwF 0 0]
  | .memBucket => [rwF 63 56, rwF 55 48, rwF 47 24, rwF 23 0]
  | .memLastUe => [w1cF 63 63, roF 62 61, roF 51 46, roF 39 0]
  | .memInject => [rwF 63 63, rwF 56 56, rwF 55 48, rwF 47 40, rwF 39 0]
  | .memLogStatus => [woF 8 8, roF 5 5, roF 4 0]
  | .memLog _ => [roF 63 63, roF 61 54, roF 53 52, roF 51 46, roF 39 0]
  | .mcStatus _ => [roF 3 3, roF 2 0]
  | .mcLevels _ => [roF 39 8, roF 7 0]
  | .mcCe _ | .mcRetry _ => [roF 47 0]
  | .mcCompat _ => [roF 15 0]
  | .mcClear _ => [woF 0 0]
  | .bncMap => [roF 23 17, rwF 8 7, rwF 6 0]
  | .bncScale => [rwF 47 25]
  | .bncSlice => [rwF 63 48, rwF 47 7]
  | .bncProgBase => [rwlF 47 19]
  | .bncProgValid => [rwF 31 0]
  | .bncSnapStatus => [w1cF 5 5, roF 4 4, roF 1 1, roF 0 0]
  | .bncSnapDest _ => [rwF 63 63, rwF 59 40, rwF 35 0]
  | .btStatus _ => [roF 7 0]
  | .beState _ => [roF 31 20, roF 19 13, roF 12 8, roF 2 0]
  | .beBusy _ | .beLines _ => [roF 47 0]
  | .beClear _ => [woF 0 0]
  | .coreMap _ => [rwlF 8 8, rwlF 7 0]
  | .coreArrays _ => [roF 14 14, roF 13 8, roF 7 4, rwF 3 0]
  | .coreBypass _ _ => [rwF 63 32, rwF 31 0]
  | .coreSkein _ => [roF 47 0]
  | .coreCnt _ _ | .coreWcnt _ _ => [roF 47 0]
  | .coreClear _ | .coreWclear _ => [woF 0 0]
  | .coreStatus _ => [roF 11 5, roF 4 4, roF 3 3, roF 2 0]
  | .coreBaddr _ => [roF 47 0]
  | .corePreempt _ => [w1cF 8 8, woF 1 1, woF 0 0]
  | .coreSaveBase _ => [rwF 47 20]
  | .coreSaveBanks _ => [rwF 47 0]
  | .coreSramce _ => [woF 63 63, roF 47 0]
  | .coreStage _ => [rwF 40 32, rwF 24 13]
  | .hostLink => [roF 14 13, roF 12 8, roF 6 6, roF 5 4, roF 2 0]
  | .hfCtrl _ => [rwF 63 63, rwF 51 32, rwF 17 0]
  | .hfVec _ => [rwF 63 63, rwF 10 0]
  | .hfStatus _ => [roF 2 2, roF 1 1, roF 0 0]
  | .cxlStatus _ => [roF 10 10, roF 9 9, roF 8 4, roF 3 3, roF 2 0]
  | .hdmBase _ _ => [rwF 47 28]
  | .hdmCtrl _ _ => [rwF 63 63, roF 62 62, rwF 61 40, rwF 34 20]
  | .ctlxBoot => [roF 63 32, roF 11 11, roF 10 10, roF 9 9, roF 8 8, roF 2 0]
  | .ctlxLock => [rwlF 0 0]
  | .svcAddr => [woF 47 6]
  | .svcCtrl => [rwF 63 63, rwF 42 32, roF 6 0]

/-- The bits of a register that have an access code. -/
def Reg.bits (r : Reg) (a : Acc) : Nat := (r.fields.filter (fun f => f.acc == a)).foldl (fun m f => m ||| f.mask) 0

/-- The reset value of a register's stored fields: RW and RWL fields, and those that the device writes beside them. -/
def Reg.init : Reg → W64
  | .pwrLimit => 0x10960
  | .pwrCtrl => 0x000003E800040064
  | .pwrSlew => 0x1001F4
  | .pwrTherm => 0x0000736400000000
  | .fltHcfg => 0x0100000300010258
  | .fltSwatch => 0xC
  | .crsCtrl => 0x7F00
  | .crsLimits => 0x03840003E8000004
  | .lnkPat => 0x0040002000000000
  | .lnkLimits => 0x03E8001000080003
  | .colCtrl => 0x000007D000000000
  | .memCtrl => 0x000141DE00000002
  | .memBucket => 0x1040989680989680
  | .bncMap => 0x80
  | .coreMap _ => 0xFF
  | .coreSaveBanks _ => 0x0000FFFFFFFFFFFF
  | .svcCtrl => 0x8000000000000000
  | _ => 0

/-- What the machine stores for a register. -/
def State.stored (s : State) (r : Reg) : W64 := s.reg r.init r.off

end Sys2Proof.Machine
end

