-- ==== Sys2Proof/Machine/RegView.lean ====
section
/-!
DEFINITION. What a register reads as (R18): its stored fields with the fields that the machine's state gives, and who may read it.
-/

namespace Sys2Proof.Machine

open Sys2Proof

/-- A value in bits [hi:lo]. -/
def fv (hi lo v : Nat) : Nat := v % 2 ^ (hi + 1 - lo) * 2 ^ lo
def fb (n : Nat) (b : Bool) : Nat := if b then 2 ^ n else 0
/-- Bits of a list of flags, the first at bit 0. -/
def flags (l : List Bool) : Nat := l.foldr (fun b a => (if b then 1 else 0) + 2 * a) 0

/-- Some crossing runs asynchronously: a domain runs from the reference, ramps, or has a divider outside its list (R448). -/
def clkAsync (w : PowSt) : Bool :=
  (List.range 5).any (fun d => !nth false w.src d || decide (nth 0 w.goal d ≠ 0) || !(nth [] [[4, 5, 6, 8], [3], [6], [8], [90]] d).contains (nth 0 w.div d))

/-- Service requests that wait or run (R423). -/
def svcQueued (s : State) : Nat := s.u.ctl.svc.length + (if s.u.ctl.fwReq.isSome then 1 else 0)

/-- FLT_HEALTH.SERVICE (R388, R392). -/
def service (f : FltSt) : Nat := if f.running then 2 else if f.out then 3 else if f.degraded then 1 else 0

/-- The registers of the fault manager. -/
def roFlt (s : State) : Reg → Nat
  | .fltHealth =>
    let f := s.u.flt
    fb 48 (decide (score f.debt < bitsOf (fltHcfg s) 9 0)) + fv 41 36 f.suspects.length + fv 33 32 (service f) + fv 31 16 f.debt + fv 9 0 (score f.debt)
  | .fltRequal => fv 63 48 s.u.flt.uncovered + fb 7 s.u.flt.running + fv 6 4 s.u.flt.verdict
  | .fltRingPtr => fv 63 56 s.u.flt.dropped + fv 55 32 s.u.flt.head
  | .fltCmatData =>
    let w := s.stored .fltCmatSel
    let c := s.cell (bitsOf w 8 0) (bitsOf w 25 16)
    fv 63 32 c.stmask + fv 31 24 (min c.stmis 255) + fv 23 16 (min c.swmis 255) + fv 15 0 (min c.checks 65535)
  | .fltSuspect i => match SMap.find i s.u.flt.suspects with
    | some e => fb 63 true + fv 47 32 e.weight + fv 15 0 e.unit
    | none => 0
  | .fltDfirst i => byteField s.u.flt.dfirst (8 * i) 8
  | .foCtrl p => let o := s.fltOwner p; fv 47 32 o.ovfCount + fb 5 o.frogReq + fb 4 o.handling
  | .foRingPtr p => let o := s.fltOwner p; fv 63 56 o.dropped + fv 55 32 o.head
  | .foHorizon p => match (s.fltOwner p).horizon with
    | some h => fb 63 true + fv 62 0 h
    | none => 0
  | .foFirst p i => byteField (s.fltOwner p).first (8 * i) 8
  | .foOvf p i => byteField (s.fltOwner p).ovf (8 * i) 8
  | .foCntFrog p => fv 47 0 (s.fltOwner p).cntFrog
  | _ => 0

/-- The registers of clocks, power, the RTU and the control complex. -/
def roPow (s : State) : Reg → Nat
  | .clkStatus =>
    let w := s.u.pow
    fv 16 15 w.loss + fb 14 w.intOsc + fb 13 (clkAsync w) +
      fv 12 8 (flags ([0, 1, 2, 3, 4].map (fun d => decide (nth 0 w.goal d ≠ 0)))) + fv 7 3 (flags ([0, 1, 2, 3, 4].map (fun d => nth false w.src d))) + fv 2 0 w.pll
  | .clkDiv =>
    let d := fun i => nth 0 s.u.pow.div i
    fv 38 32 (d 4) + fv 30 24 (d 3) + fv 22 16 (d 2) + fv 14 8 (d 1) + fv 6 0 (d 0)
  | .pwrStatus =>
    let w := s.u.pow
    fv 63 48 (avgPower s) + fv 39 32 w.awake.length + fb 7 w.floor + fb 6 w.hot + fb 5 w.thermal + fb 4 w.limited +
      fv 3 2 (w.faster.getD w.point) + fv 1 0 w.point
  | .pwrInput => let w := s.u.pow; fv 63 48 w.railMv + fv 47 32 w.railA + fv 31 16 w.inW + fv 15 0 w.inMv
  | .pwrTherm => fv 47 40 0x73 + (match hottest s with
    | some h => fv 23 16 h.1 + unsign 16 h.2
    | none => 0)
  | .pwrCntOver => fv 47 0 s.u.pow.overs
  | .pwrCntDefer => fv 47 0 s.u.pow.defers
  | .pwrSensor i => match SMap.find i s.u.pow.sens with
    | some t => fb 16 true + unsign 16 t
    | none => 0
  | .rtuStatus =>
    let c := s.u.ctl
    fv 63 48 c.svnMin + fv 47 32 c.svn + fb 3 c.idUsable + fb 2 c.debugOpen + fb 1 c.imgOk + fb 0 c.recovery
  | .ctlxBoot =>
    let c := s.u.ctl
    fv 63 32 c.harts + fb 11 c.hrecLost + fb 10 c.calValid + fb 9 c.calFactory + fb 8 c.updPending + fv 2 0 c.boot
  | .svcCtrl => fv 6 0 (svcQueued s)
  | .devId => fv 63 48 Config.vendor.toNat + fv 47 32 (if s.is96 then 0x7096 else 0x7100) + fv 31 24 Config.stepping.toNat
  | .devConfig => if s.is96 then 0x00000C0630300C60 else 0x0000100840401080
  | .devSerial => Config.serial.toNat
  | _ => 0

/-- The registers of course time, links, the collective engine and the queues. -/
def roNet (s : State) : Reg → Nat
  | .crsCount => s.course.toNat
  | .crsCtrl => fv 31 18 s.u.crs.tick + fv 17 15 s.u.crs.st
  | .crsArmStatus => fv 10 0 s.u.crs.arms.length
  | .crsLedgerPtr => fv 61 32 s.u.crs.head
  | .crsLink l => let x := crsLinkOf s l; fv 39 20 (unsign 20 x.offset) + fv 19 0 (unsign 20 x.delay)
  | .lnkGroup g => fv 9 8 (SMap.get 0 g s.u.net.engine) + fv 7 0 (SMap.get 0 g s.u.net.light)
  | .lnkStatus l => let x := s.link l; fv 63 61 x.st + fb 60 x.enc + fv 37 32 x.peerLink + fv 19 0 x.peerAddr
  | .lnkRetry l => fv 47 0 (s.link l).retry
  | .lnkFec l => let x := s.link l; fv 63 32 x.fecUnc + fv 31 0 x.fecCorr
  | .colStatus => fv 46 32 (openCount s) + fv 31 0 s.u.col.submitDone
  | .colDup => fv 47 0 s.u.col.dup
  | .colDupLate => fv 47 0 s.u.col.dupLate
  | .queMode =>
    fv 23 8 (s.ownerList.foldl (fun m p => m + 2 ^ p) 0) + fb 2 s.u.que.susp.isSome +
      fb 1 (s.u.que.resuming || s.ownerList.any (fun p => (s.owner p).st == .creating)) + fb 0 s.u.que.shared
  | .qpState p => fv 7 4 p + fv 2 0 (s.owner p).st.code
  | .qpCfg p i => byteField (s.owner p).cfg (8 * i) 8
  | .qpCnt p i => let d : Disper := SMap.get {} p s.u.que.dper; fv 47 0 (nth 0 [d.cntDispatch, d.cntFallback, d.cntLate, d.cntDefer] i)
  | _ => 0

/-- The registers of memory and Bench tiles. -/
def roMem (s : State) : Reg → Nat
  | .memLastUe => s.u.mem.lastUe.toNat
  | .memLogStatus => fb 5 s.u.mem.dropped + fv 4 0 s.u.mem.log.length
  | .memLog i => (nth 0 s.u.mem.log i).toNat
  | .mcStatus c => fb 3 (s.memCh c).testOk + fv 2 0 (s.memCh c).state
  | .mcLevels c => let x := s.memCh c; (List.range 4).foldl (fun a g => a + fv (8 * g + 15) (8 * g + 8) (nth 0 x.bg g)) (fv 7 0 x.lvl)
  | .mcCe c => fv 47 0 (s.memCh c).ce
  | .mcRetry c => fv 47 0 (s.memCh c).retry
  | .mcCompat c => fv 15 0 (s.memCh c).compat
  | .bncMap => fv 23 17 s.nCh
  | .bncSnapStatus => let b := s.bench; fb 5 b.snapFailed + fb 4 b.snap.isSome + fb 1 b.lastValid + fv 0 0 b.lastSlot
  | .btStatus t => flags ((List.range 8).map (fun i => (s.eng (8 * t + i)).ok))
  | .beState e => let x := s.eng e; fv 31 20 x.pc + fv 19 13 x.bg.length + fv 12 8 x.fg.length + fv 2 0 x.st.code
  | .beBusy e => fv 47 0 (s.eng e).cntBusy
  | .beLines e => fv 47 0 (s.eng e).cntLines
  | _ => 0

/-- The registers of the cores and of the host block. [DESIGN CHOICE: log 127] -/
def roCore (s : State) : Reg → Nat
  | .coreArrays n => fb 14 (hasArray s n) + fv 13 8 (s.width n) + fv 7 4 (flags ((List.range 4).map (fun a => s.arrayOn n a)))
  | .coreSkein n => (List.range 16).foldl (fun a k => a + fv (3 * k + 2) (3 * k) ((s.core n).m.skein k).st.code) 0
  | .coreCnt n i => let m := (s.core n).m; fv 47 0 (nth 0 [m.cntMma, m.cntZskip, m.cntDrain, m.cntBank] i)
  | .coreStatus n => let q := (s.core n).seq; fv 11 5 q.wq.length + fb 4 q.wmode + fb 3 q.infrag + fv 2 0 q.run.code
  | .coreBaddr n => (s.core n).seq.baddr.toNat
  | .corePreempt n => fb 8 (s.core n).seq.done
  | .coreWcnt n i => let q := (s.core n).seq; fv 47 0 (nth 0 [q.cntFill, q.cntStall, q.cntLatec] i)
  | .coreSramce n => fv 47 0 (SMap.get 0 n s.u.mem.sramCe)
  | .hostLink => let h := s.u.host; fv 14 13 h.light + fv 12 8 h.width + fb 6 h.flit + fv 5 4 h.rate + fv 2 0 h.st
  | .hfStatus f => fb 2 (s.owner f).exists + fb 1 (s.fnOf f).ats + fb 0 (s.u.host.frozen.contains f)
  | .cxlStatus p => let x := s.cxlPort p; fb 10 x.switch + fb 9 x.target + fv 8 4 x.width + fv 3 3 x.rate + fv 2 0 x.st
  | _ => 0

/-- The fields that the machine's state gives. -/
def roBits (s : State) (r : Reg) : Nat := roFlt s r + roPow s r + roNet s r + roMem s r + roCore s r

/-- Every block lock is set (R428). -/
def State.locked (s : State) : Bool := bitOf (s.reg 0 0x3000008) 0

/-- An instance of a unit or owner that the part lacks (R4). Until the lock, cores, link groups, tiles and channels are indexed by physical
unit, and every one of the die's has its instance (R469). -/
def Reg.absent (s : State) : Reg → Bool
  | .foCtrl p | .foRingBase p | .foRingPtr p | .foHorizon p | .foFirst p _ | .foOvf p _ | .foCntFrog p | .qpState p | .qpCfg p _ | .qpCnt p _
  | .qpClear p | .colEpoch p | .hfCtrl p | .hfVec p | .hfStatus p => decide (s.nOwners ≤ p)
  | .crsLink l => decide (s.nLinks ≤ l)
  | .lnkCfg l | .lnkStatus l | .lnkRetry l | .lnkFec l | .lnkClear l => s.locked && decide (s.nLinks ≤ l)
  | .lnkGroup g => s.locked && decide (s.nGroups ≤ g)
  | .mcStatus c | .mcLevels c | .mcCe c | .mcRetry c | .mcCompat c | .mcClear c => s.locked && decide (s.nCh ≤ c)
  | .btStatus t => s.locked && decide (s.nTiles ≤ t)
  | .beState e | .beBusy e | .beLines e | .beClear e => s.locked && decide (8 * s.nTiles ≤ e)
  | .coreMap n | .coreArrays n | .coreBypass n _ | .coreSkein n | .coreCnt n _ | .coreClear n | .coreStatus n | .coreBaddr n | .corePreempt n
  | .coreSaveBase n | .coreSaveBanks n | .coreWcnt n _ | .coreWclear n | .coreSramce n | .coreStage n => s.locked && decide (s.nCores ≤ n)
  | _ => false

/-- What a register reads as. After the lock, instance n of CORE_MAP reads logical number n, enabled (R469). -/
def State.regView (s : State) (r : Reg) : W64 :=
  if r.absent s then 0
  else match r with
    | .coreMap n => if s.locked then BitVec.ofNat 64 (0x100 + n) else s.stored r
    | _ => s.stored r ||| BitVec.ofNat 64 (roBits s r)

/-! ### Who may access (R94, R170, R227, R248, R265, R293, R323, R368, R398, R403, R417, R444, R467, R473) -/

/-- The registers of a VF's BAR0 view (R403). -/
def Reg.inView (f : Nat) : Reg → Bool
  | .foCtrl p | .foRingBase p | .foRingPtr p | .foHorizon p | .foFirst p _ | .foOvf p _ | .foCntFrog p | .qpState p | .qpCfg p _ | .qpCnt p _
  | .qpClear p | .hfCtrl p | .hfVec p | .hfStatus p => decide (p = f)
  | _ => false

/-- Registers of the FLT block that are no owner instance; only the control complex reaches them (R398). -/
def Reg.fltDevice : Reg → Bool
  | .fltHealth | .fltHcfg | .fltSwatch | .fltRequal | .fltRingBase | .fltRingPtr | .fltEvidence | .fltCmatSel | .fltCmatData | .fltSuspect _ | .fltDfirst _ => true
  | _ => false

/-- Whether a master may read a register. -/
def mayRead (w : Who) (r : Reg) : Bool :=
  match w with
  | .ctl => true
  | .fn 0 => !r.fltDevice && (match r with
    | .corePreempt _ | .coreSaveBase _ | .coreSaveBanks _ => false
    | .foCtrl p | .foRingBase p | .foRingPtr p | .foHorizon p | .foFirst p _ | .foOvf p _ | .foCntFrog p | .hfCtrl p | .hfVec p | .hfStatus p => decide (p = 0)
    | .cxlStatus _ | .hdmBase _ _ | .hdmCtrl _ _ => false
    | _ => true)
  | .fn f => r.inView f
  | _ => false

/-- The fields of a register that a master may write: all its fields for the control complex, the named fields for a host function. -/
def mayWrite (w : Who) (r : Reg) : List RField :=
  match w, r with
  | .ctl, r => r.fields.filter (fun f => f.acc != .ro)
  | .fn 0, .crsLedgerPtr => [rwF 29 0]
  | .fn 0, .svcAddr => [woF 47 6]
  | .fn 0, .svcCtrl => [rwF 42 32]
  | .fn f, .foRingPtr p => if p = f then [rwF 23 0] else []
  | .fn f, .foCtrl p => if p = f then [woF 2 2, woF 0 0] else []
  | .fn f, .hfCtrl p => if p = f then [rwF 63 63, rwF 51 32, rwF 17 0] else []
  | .fn f, .hfVec p => if p = f then [rwF 63 63, rwF 10 0] else []
  | _, _ => []

end Sys2Proof.Machine
end

