-- ==== Sys2Proof/Machine/Boot.lean ====
section
/-!
DEFINITION. Boot and the firmware image (R427 to R429, R438, R439): self-test of the RTU, verification of an image, and what EDF does
before it sets the locks.
-/

namespace Sys2Proof.Machine

open Sys2Proof

/-- Bytes [i, i + n) of a list as a number, least significant first. -/
def imgN (b : List Byte) (i n : Nat) : Nat := leNat ((b.drop i).take n)

/-- The first condition of R429 that an image fails: 0 key, 1 header, 2 SVN, 3 body, 4 signature; none when the RTU accepts it. -/
def imageFails (s : State) (img : List Byte) : Option Nat :=
  let c := s.u.ctl
  let key := sha256 c.flashKey
  let len := imgN img 24 4
  if !(List.range 4).any (fun i => Config.otpKeyHash i == key && !Config.otpRevoked i) then some 0
  else if imgN img 0 4 ≠ 0x5A454446 || imgN img 4 2 ≠ 1 || len = 0 || 0x1800000 < len then some 1
  else if imgN img 6 2 < c.svnMin then some 2
  else if sha256 ((img.drop 512).take len) != (img.drop 32).take 32 then some 3
  else if !pssVerify (Config.keyModulus c.flashKey) (Config.keyExponent c.flashKey) (img.take 64) ((img.drop 64).take 384) then some 4
  else none

/-- The RTU's known-answer tests (R427, R428), once the power stages have released the module (R480): it reads OTP, and when they pass enables
the PLL. -/
def rtuSelfTest (ok : Bool) (s : State) : State :=
  if s.u.ctl.boot ≠ 0 || s.u.pow.shut then s
  else
    let d := s.draw
    let s1 := (d.2.pend 4).updCtl (fun c => { c with svnMin := c.otpSvn, idUsable := ok, debugNonce := Config.debugNonce d.1, boot := if ok then 1 else 4 })
    if ok then s1.updPow (fun p => if p.pll = 0 then { p with pll := 1 } else p) else s1.raise 0xC501 0xE000 none 0 0

/-- The RTU verifies the image in flash, once the PLL is stable, and releases the control cores, or enters recovery; `harts` are those that pass their self-test. -/
def imageVerify (harts : W32) (s0 : State) : State :=
  let s := s0.pendIf 4 (decide (s0.u.ctl.boot = 1) && decide (s0.u.pow.pll = 2))
  let recover := s.updCtl (fun c => { c with recovery := true, boot := 5 })
  if s.u.ctl.boot ≠ 1 || s.u.pow.pll ≠ 2 then s
  else match s.u.ctl.flashImg with
  | none => recover
  | some img => match imageFails s img with
    | some _ => recover
    | none =>
      let svn := imgN img 6 2
      s.updCtl (fun c => { c with
        imgOk := true, svn, svnMin := max c.svnMin svn, otpSvn := max c.otpSvn svn, harts := harts.toNat
        run := { head := img.take 64, edfVer := BitVec.ofNat 64 (imgN img 8 8), ucodeVer := BitVec.ofNat 64 (imgN img 16 8) }
        boot := if harts == 0 then 4 else 2 })

/-- A calibration set whose MAGIC and digest are valid (R439). -/
def calOk (b : List Byte) : Bool := decide (imgN b 0 4 = 0x5A43414C) && Config.calDigest b == sha256 ((b.drop 64).take (Config.calLength b - 64))

/-- EDF applies the calibration set (R439, R454). -/
def applyCalibration (s : State) : State :=
  let c := s.u.ctl
  if !(calOk c.flashCal || c.calMade) then s
  else
    let s1 := s.updCtl (fun c => { c with calValid := true, calFactory := bitOf (BitVec.ofNat 64 (Config.calFlags c.flashCal)) 0 && !c.calWritten
                                          cal := some c.flashCal, calAsym := c.flashAsym })
    let s2 := (List.range s.nLinks).foldl (fun s l =>
      s.setReg (0x501000 + 8 * l) (putBits (s.reg 0 (0x501000 + 8 * l)) 63 48 (Config.calAsym c.flashAsym l).toNat)) s1
    s2.setReg 0x200000 (putBits (s2.reg 0x10960 0x200000) 17 16 0)

/-- The valid health record with the higher sequence number (R438). -/
def bestHealth (s : State) : Option (Nat × List (Nat × Nat)) :=
  match nth none s.u.ctl.flashHr 0, nth none s.u.ctl.flashHr 1 with
  | some a, some b => some (if a.1 < b.1 then b else a)
  | some a, none => some a
  | none, b => b

/-- EDF applies the health record: its columns enter the bypass masks again (R386, R438). [DEDUCED: log 145] -/
def applyHealth (s : State) : State :=
  match bestHealth s with
  | none => s.updCtl (fun c => { c with hrecLost := true })
  | some r => r.2.foldl (fun s e => orBypass (e.1 / 4) (e.1 % 4) e.2 s)
    (s.updFlt (fun f => { f with hr := r.2.foldl (fun m e => SMap.set e.1 e.2 m) [], degraded := f.degraded || r.2.any (fun e => decide (e.2 ≠ 0)) }))

/-- EDF loads the standard programs into slots 0 to 10 (R203). -/
def loadPrograms (s : State) : State :=
  let body := match s.u.ctl.flashImg with
    | some i => i.drop 512
    | none => []
  let b := progBase s
  let s1 := if s.edfBase ≤ b && decide (b + 0x80000 ≤ s.gddrTop) then
      (List.range 11).foldl (fun s k => s.putBytes (b + 16384 * k) ((Config.stdProgram body k).take 16384)) s
    else s
  s1.setReg 0xE00020 (s1.reg 0 0xE00020 ||| 0x7FF)

/-- A map by physical core becomes one by logical core. -/
def byLogical (s : State) (f : Nat → Nat) (m : SMap α) : SMap α :=
  (List.range s.nCores).foldl (fun t n => match SMap.find (f n) m with
    | some x => SMap.set n x t
    | none => t) []

/-- Sensors 3c to 3c + 2 of the compute die follow their cluster (R458). -/
def sensByLogical (s : State) (m : SMap Int) : SMap Int :=
  (List.range (s.nCores / 8 * 3)).foldl (fun t i => match SMap.find (3 * (physCore s (8 * (i / 3)) / 8) + i % 3) m with
    | some x => SMap.set i x t
    | none => t) (m.filter (fun e => decide (48 ≤ e.1)))

/-- As the locks are set, what was indexed by physical core is indexed by logical core, until the next boot (R3, R469). -/
def renumber (s : State) : State :=
  if (List.range s.nCores).all (fun n => physCore s n == n) then s
  else
    let f := physCore s
    let size := 0x10000
    let mine := s.regs.filter (fun e => decide (e.1 < coreOff 0 0) || decide (coreOff 128 0 ≤ e.1))
    let regs := (List.range s.nCores).foldl (fun t n =>
      (s.regs.filter (fun e => decide (coreOff (f n) 0 ≤ e.1) && decide (e.1 < coreOff (f n) size))).foldl (fun t e => SMap.set (coreOff n (e.1 - coreOff (f n) 0)) e.2 t) t) mine
    let s1 : State := { s with regs, cores := byLogical s f s.cores }
    (((s1.updFlt (fun x => { x with coreOut := (List.range s.nCores).filter (fun n => x.coreOut.contains (f n)) })).updSw (fun x => { x with
      idle := byLogical s f x.idle })).updMem (fun x => { x with sramCe := byLogical s f x.sramCe })).updPow (fun p => { p with
      sens := sensByLogical s p.sens })

/-- Memory has been initialised: no channel still is, and there are channels that take accesses (R234). -/
def memReady (s : State) : Bool := !s.u.mem.ch.any (fun e => decide (e.2.state = 1)) && s.u.mem.ch.any (fun e => decide (e.2.state = 2))

/-- EDF has done its part of the boot, with memory initialised and the locks set: `STATE` is complete (R427). -/
def finishBoot (s : State) : State :=
  if s.u.ctl.boot ≠ 2 || !memReady s || !s.locked then s
  else (loadPrograms (applyHealth (applyCalibration s))).updCtl (fun c => { c with boot := 3 })

/-- `MEM_INIT_COMPLETE` (R234): what waited goes on, EDF's boot among it where the locks are set. -/
def execMemInitComplete (s : State) : Host.Outcome State Fault Refusal := .next (barReady (flushHeld (finishBoot (initDone s))))

end Sys2Proof.Machine
end

