-- ==== Sys2Proof/Machine/Regs.lean ====
section
/-!
DEFINITION. Writes of registers (R17 to R19, R467 to R471, R486): the checks that discard a write, and what an accepted write does.
-/

namespace Sys2Proof.Machine

open Sys2Proof

/-! ### Conditions of the Meaning columns -/

/-- Some job or partition holds a GDDR7 range; a suspended owner keeps its own (R194, R240, R346). -/
def gddrHeld (s : State) : Bool :=
  s.ownerList.any (fun p => !(cfgMem (s.owner p).cfg).isEmpty) || s.u.que.susp.any (fun x => !(cfgMem x.cfg).isEmpty)

/-- A job or a partition runs (LNK_PAT). -/
def anyRuns (s : State) : Bool := anyJob s || (s.u.que.shared && !s.ownerList.isEmpty)

/-- A route-table entry's Pattern. -/
def routePat (i : Nat) : Nat := i / 1024

/-- A Pattern's tables may be written (R288). -/
def patOpen (s : State) (p : Nat) : Bool := !patValid s p && patIdle s p

/-- The present contents of a register's RW fields, those kept outside the register store included. -/
def State.rwVal (s : State) (r : Reg) : W64 :=
  match r with
  | .crsCount => s.course
  | _ => s.stored r

/-- A range meets no owner's `CXL` range. -/
def hdmFree (s : State) (r : Nat × Nat) : Bool :=
  !(s.ownerList.any (fun p => rangesMeet [r] (cfgCxl (s.owner p).cfg))) && !(s.u.que.susp.any (fun x => rangesMeet [r] (cfgCxl x.cfg)))

/-- A committed decoder may be rewritten (R413). -/
def hdmLoose (s : State) (p n : Nat) : Bool :=
  match hdmRange s p n with
  | some r => hdmFree s r
  | none => true

/-- The conditions on a commit of decoder n of port p with the control word `c` (R413). -/
def hdmCommitOk (s : State) (p n : Nat) (c : W64) : Bool :=
  let r := hdmSpan (s.reg 0 (hdmOff p n)) c
  let w := cxlWindow p
  let size := bitsOf c 34 20
  decide (w.1 ≤ r.1) && decide (r.2 ≤ w.2) && decide (1 ≤ size) && decide (size ≤ 16384) &&
    (List.range 4).all (fun k => k == n || (match hdmRange s p k with
      | some q => !rangesMeet [r] [q]
      | none => true)) &&
    (s.cxlPort p).st == 2 && (s.cxlPort p).target && hdmLoose s p n && hdmFree s r

/-- Whether a write is one that a Meaning column or a rule of the register forbids: `o` and `v` are the present and the new contents of the
RW fields, `w` the bits written and `m` the bits covered. `edf` says that the write is EDF's own or serves an MCTP request. [DEDUCED: log 70; DEDUCED: log 128; DEDUCED: log 132] -/
def regForbids (s : State) (edf : Bool) (r : Reg) (o v w : W64) (m : Nat) : Bool :=
  let ch := fun hi lo => decide (bitsOf o hi lo ≠ bitsOf v hi lo)
  let out := fun hi lo a b => decide (bitsOf v hi lo < a) || decide (b < bitsOf v hi lo)
  match r with
  | .pwrLimit => (decide (bitsOf v 17 16 = 0) && !s.u.ctl.calValid) || out 11 0 1400 2400
  | .pwrCtrl => decide (bitsOf v 47 32 = 0) || out 19 16 2 8 || decide (bitsOf v 15 0 = 0)
  | .pwrSlew => decide (bitsOf v 23 16 = 0) || out 11 0 100 2000
  | .pwrTherm => out 39 32 85 100
  | .fltHcfg => decide (bitsOf v 63 48 = 0) || out 35 32 2 15 || decide (1000 < bitsOf v 9 0)
  | .fltSwatch => out 5 0 4 20
  | .fltRequal => bitOf w 0 && !requalOk s
  | .fltRingBase => (ch 63 48 || ch 47 5) && !s.ownerList.isEmpty
  | .foRingBase p => (ch 63 48 || ch 47 5) && !((s.owner p).st == .absent || (s.owner p).st == .faulted)
  | .fltCmatSel => decide (767 < bitsOf v 25 16)
  | .foCtrl p => bitOf w 3 && !frogOk s p
  | .crsCount => ch 63 0 && s.u.crs.st != tsStopped
  | .crsCtrl => (ch 1 1 && s.u.crs.st != tsStopped && s.u.crs.st != tsHoldover) || (bitOf o 0 && !bitOf v 0 && !s.u.crs.arms.isEmpty) ||
      out 14 8 0 127 || (decide (63 < bitsOf v 14 8) && decide (bitsOf v 14 8 ≠ 127))
  | .crsLedgerBase => (ch 63 48 || ch 47 6) && anyJob s
  | .queMode => bitOf w 56 && (modeNow (bitsOf w 55 48) s).isNone
  | .queQtable | .queHo => ch 47 12 && !s.ownerList.isEmpty
  | .qpState p => bitOf w 63 && !resetOk p s
  | .lnkCfg l => ch 62 62 && decide ((s.link l).st ≠ 0)
  | .lnkAddr =>
    ((ch 63 0) && (List.range s.nLinks).any (fun l => decide ((s.link l).st ≠ 0) && decide ((s.link l).st ≠ lkDown))) ||
      [35, 39, 43, 47].any (fun h => decide (8 < bitsOf v h (h - 3))) ||
      (let sum := bitsOf v 35 32 + bitsOf v 39 36 + bitsOf v 43 40 + bitsOf v 47 44
       decide (20 < sum) || decide (bitsOf v 19 0 >>> sum ≠ 0))
  | .lnkPat => ch 3 0 && (anyRuns s || s.u.crs.arms.any (fun a => armKind a == 3))
  | .lnkPatValid => (List.range 16).any (fun p => bitOf o p && !bitOf v p && !patIdle s p)
  | .lnkLimits => out 39 32 1 63 || out 23 16 1 255 || out 7 0 1 255
  | .lnkMask i => ch 63 0 && !patOpen s (routePat i)
  | .lnkPolicy i => (ch 1 0 && !patOpen s (routePat i)) || decide (bitsOf v 1 0 = 3)
  | .colCtrl => decide (bitsOf v 63 32 = 0)
  | .colGroupBase => ch 47 6 && !s.u.col.groups.isEmpty
  | .colSubmit => decide (s.gddrTop < bitsOf w 47 6 * 64 + 64)
  | .colSnapWin => decide (0 < bitsOf v 63 56) && decide (s.gddrTop < bitsOf v 35 0 * 4096 + bitsOf v 63 56 * 0x40000000)
  | .colEpoch p => ch 15 0 && (s.jobRuns p || s.u.crs.arms.any (fun a => armOwner a == p))
  | .memCtrl => ch 0 0 && gddrHeld s
  | .memBucket => decide (bitsOf v 47 24 = 0) || decide (bitsOf v 23 0 = 0)
  | .memInject => (decide (o ≠ v) && gddrHeld s) || (bitOf v 63 && (decide (131 < bitsOf v 55 48) || decide (bitsOf v 47 40 = 0)))
  | .bncMap => ((ch 8 7 || ch 6 0) && gddrHeld s) || decide (bitsOf v 8 7 = 3) || decide (92 < bitsOf v 6 0)
  | .bncProgValid => ch 31 0 && anyJob s
  | .coreArrays n => ch 3 0 && !coreLoose s n
  | .coreBypass n _ => ch 63 0 && !coreLoose s n
  | .coreStage n => (ch 63 0 && !coreLoose s n) || out 40 32 0 256 ||
      (decide (0 < bitsOf v 40 32) && decide (0x1800000 < bitsOf v 24 13 * 8192 + bitsOf v 40 32 * 8192))
  | .hdmBase p n => ch 47 28 && !hdmLoose s p n
  | .hdmCtrl p n => !hdmLoose s p n || (Nat.testBit m 63 && bitOf v 63 && !hdmCommitOk s p n v)
  | .svcCtrl => ch 63 63 && !edf
  | _ => false

/-! ### What an accepted write does -/

/-- `LNK_CFG.ENABLE` as written (R280). -/
def enableWritten (l : Nat) (o v : W64) (s : State) : State :=
  if bitOf o 63 && !bitOf v 63 then linkDisable l s else tryCalibrate l s

/-- `COL_BACKUP` (R315): the registration of a rank of a loaded group. -/
def backupWrite (w : W64) (s : State) : State :=
  let r := bitsOf w 47 32
  match s.group (bitsOf w 59 48) with
  | none => s
  | some g => if g.n ≤ r then s
    else updGroup (bitsOf w 59 48) (fun g => { g with backups := if bitOf w 63 then SMap.set r (bitsOf w 31 0) g.backups else SMap.erase r g.backups }) s

/-- The PF submits the service block at an address (R423); a submission beyond 64 is discarded. [DEDUCED: log 139] -/
def svcSubmit (a : Nat) (s : State) : State :=
  if 64 ≤ svcQueued s then s else (s.updCtl (fun c => { c with svc := c.svc ++ [{ mctp := false, addr := a }] })).pend 2

/-- The effects of an accepted write beyond the fields it sets. [DEDUCED: log 131] -/
def regActs (r : Reg) (o v w : W64) (m : Nat) (s : State) : State :=
  let ch := fun hi lo => decide (bitsOf o hi lo ≠ bitsOf v hi lo)
  match r with
  | .pwrCntClear => if bitOf w 0 then s.updPow (fun p => { p with overs := 0, defers := 0 }) else s
  | .fltRequal =>
    let s1 := if bitOf w 1 then requalAbort s else s
    if bitOf w 0 then requalStart s1 else s1
  | .fltRingBase => if s.ownerList.isEmpty then s.updFlt (fun f => { f with dropped := 0 }) else s
  | .foRingBase p => if (s.owner p).st == .absent || (s.owner p).st == .faulted then s.updFltOwner p (fun f => { f with dropped := 0 }) else s
  | .fltEvidence => if bitOf w 0 then s.raise 0x4420 0 none (BitVec.ofNat 64 (bitsOf w 63 8)) 0 else s
  | .foCtrl p =>
    let s1 := if bitOf w 0 then closeWindow p s else s
    let s2 := if bitOf w 2 then stopOwnerEv p s1 else s1
    if bitOf w 3 then frogReset s2 else s2
  | .crsCount => if ch 63 0 then { s with course := v } else s
  | .crsCtrl =>
    let s1 := if ch 1 1 then leadChanged (bitOf v 1) s else s
    if ch 0 0 then runChanged (bitOf v 0) s1 else s1
  | .crsArm i => match i with
    | 0 => s.updCrs (fun c => { c with w0 := w })
    | 1 => s.updCrs (fun c => { c with w1 := w })
    | 2 => s.updCrs (fun c => { c with w2 := w })
    | _ => armPush (w ++ s.u.crs.w2 ++ s.u.crs.w1 ++ s.u.crs.w0) s
  | .crsArmStatus => if bitOf w 23 then cancelArms (bitsOf w 19 16) s else s
  | .crsLedgerPtr => ledgerDrain s.u.crs.closed.length s
  | .queMode => if bitOf w 56 then (modeNow (bitsOf w 55 48) s).getD s else s
  | .qpState p => if bitOf w 63 then resetOwner p s else s
  | .qpClear p => if bitOf w 0 then s.updQue (fun t => { t with dper := SMap.set p (let d : Disper := SMap.get {} p t.dper
      { d with cntDispatch := 0, cntFallback := 0, cntLate := 0, cntDefer := 0 }) t.dper }) else s
  | .lnkCfg l => enableWritten l o v s
  | .lnkAddr => (List.range s.nLinks).foldl (fun s l => tryCalibrate l s) s
  | .lnkPat => if ch 3 0 then s.updNet (fun n => { n with patLast := SMap.set (bitsOf o 3 0) s.course.toNat n.patLast }) else s
  | .lnkClear l => if bitOf w 0 then s.updLink l (fun x => { x with retry := 0, fecCorr := 0, fecUnc := 0 }) else s
  | .colGroupLoad =>
    let s1 := if bitOf w 63 then groupUnload (bitsOf v 11 0) s else s
    if bitOf w 62 then groupLoad (bitsOf v 11 0) s1 else s1
  | .colSubmit => colSubmit (bitsOf w 47 6 * 64) s
  | .colBackup => if Nat.testBit m 63 then backupWrite w s else s
  | .colClear => if bitOf w 0 then s.updCol (fun c => { c with dup := 0, dupLate := 0 }) else s
  | .colEpoch p => if bitOf w 32 then s.setReg (0xA00050 + 8 * p) (putBits (s.reg 0 (0xA00050 + 8 * p)) 32 32 0) else s
  | .memCtrl => if ch 0 0 then s.updMem (fun t => { t with
      log := [], dropped := false, ch := t.ch.map (fun e => (e.1, { e.2 with lvl := 0, bg := [0, 0, 0, 0], compat := 0 })) }) else s
  | .memLastUe => if bitOf w 63 then s.updMem (fun t => { t with lastUe := putBits t.lastUe 63 63 0 }) else s
  | .memLogStatus => if bitOf w 8 then s.updMem (fun t => { t with log := [], dropped := false }) else s
  | .mcClear c => if bitOf w 0 then updMemCh c (fun x => { x with ce := 0, retry := 0, compat := 0 }) s else s
  | .bncMap => if ch 8 7 || ch 6 0 then mapChanged s else s
  | .bncSnapStatus => if bitOf w 5 then { s with bench := { s.bench with snapFailed := false } } else s
  | .beClear e => if bitOf w 0 then s.updEng e (fun x => { x with cntBusy := 0, cntLines := 0 }) else s
  | .coreClear n => if bitOf w 0 then s.updMat n (fun x => { x with cntMma := 0, cntZskip := 0, cntDrain := 0, cntBank := 0 }) else s
  | .coreWclear n => if bitOf w 0 then s.updSeq n (fun q => { q with cntFill := 0, cntStall := 0, cntLatec := 0 }) else s
  | .corePreempt n =>
    if bitOf w 0 && bitOf w 1 then s
    else
      let s1 := if bitOf w 8 then s.updSeq n (fun q => { q with done := false }) else s
      if bitOf w 0 then preemptReq n s1 else if bitOf w 1 then preemptRestore n s1 else s1
  | .coreSramce n => if bitOf w 63 then s.updMem (fun t => { t with sramCe := SMap.erase n t.sramCe }) else s
  | .hdmBase p n =>
    let c := s.reg 0 (hdmOff p n + 8)
    if ch 47 28 then (tierOut p o c s).setReg (hdmOff p n + 8) (putBits c 62 62 0) else s
  | .hdmCtrl p n =>
    let b := s.reg 0 (hdmOff p n)
    let x := putBits v 62 62 (if Nat.testBit m 63 && bitOf v 63 then 1 else 0)
    (tierIn p b x (tierOut p b o s)).setReg (hdmOff p n + 8) x
  | .ctlxLock => if bitOf v 0 && !bitOf o 0 then finishBoot (renumber s) else s
  | .svcAddr => svcSubmit (bitsOf w 47 6 * 64) s
  | _ => s

/-! ### The checks of an access -/

/-- What a master may write of a register: nothing, every field, or some of its fields (R486). -/
inductive Right where
  | none
  | all
  | some (f : List RField)
  deriving DecidableEq, Repr

/-- A register whose every field is RO (R18). -/
def Reg.readOnly (r : Reg) : Bool := r.fields.all (fun f => f.acc == .ro)

/-- The right of a master to write a register (R94, R170, R227, R248, R265, R293, R323, R368, R398, R403, R417, R444, R464, R467, R473). [DEDUCED: log 129] -/
def writeRight (w : Who) (r : Reg) : Right :=
  match w with
  | .ctl => .all
  | .fn 0 => match r with
    | .devId | .devConfig | .devSerial | .clkStatus | .clkDiv => .all
    | .mcStatus _ | .mcLevels _ | .mcCe _ | .mcRetry _ | .mcCompat _ | .mcClear _ => .all
    | .btStatus _ | .beState _ | .beBusy _ | .beLines _ | .beClear _ => .all
    | .hfCtrl p | .hfVec p | .hfStatus p => if p = 0 then .all else .none
    | .svcAddr => .all
    | r => if (mayWrite (.fn 0) r).isEmpty then .none else .some (mayWrite (.fn 0) r)
  | .fn f => match r with
    | .hfCtrl p | .hfVec p | .hfStatus p => if p = f then .all else .none
    | r => if (mayWrite (.fn f) r).isEmpty then .none else .some (mayWrite (.fn f) r)
  | _ => .none

/-- The bits that an access of n bytes at a register-space offset covers (R17, R19). -/
def coverMask (off n : Nat) : Nat := if n = 8 then 2 ^ 64 - 1 else if off % 8 = 4 then 2 ^ 64 - 2 ^ 32 else 2 ^ 32 - 1

/-- The value in its place in the register. -/
def placed (off n : Nat) (v : W64) : W64 := if n = 8 then v else BitVec.ofNat 64 (v.toNat % 2 ^ 32 * 2 ^ (if off % 8 = 4 then 32 else 0))

/-- A write leaves every field outside `fs` as it stands: RW fields with their present values, everything else covered as 0 (R486). -/
def leavesRest (s : State) (r : Reg) (fs : List RField) (w : W64) (m : Nat) : Bool :=
  let mine := fs.foldl (fun a f => a ||| f.mask) 0
  let rest := m &&& (2 ^ 64 - 1 - mine)
  let keep := rest &&& (r.bits .rw ||| r.bits .rwl)
  let clear := rest &&& (2 ^ 64 - 1 - (r.bits .rw ||| r.bits .rwl ||| r.bits .ro))
  decide (w.toNat &&& keep = (s.rwVal r).toNat &&& keep) && decide (w.toNat &&& clear = 0)

/-- The new contents of the RW fields after a write of the covered bits. -/
def newVal (s : State) (r : Reg) (w : W64) (m : Nat) : W64 :=
  let rw := m &&& (r.bits .rw ||| r.bits .rwl)
  BitVec.ofNat 64 (((s.rwVal r).toNat &&& (2 ^ 64 - 1 - rw)) ||| (w.toNat &&& rw))

/-- A WO field is covered only in part (R471). -/
def partWo (r : Reg) (m : Nat) : Bool := r.fields.any (fun f => f.acc == .wo && decide (f.mask &&& m ≠ 0) && decide (f.mask &&& m ≠ f.mask))

/-- A locked field is covered (R18). -/
def lockHit (s : State) (r : Reg) (m : Nat) : Bool := s.locked && decide (r.bits .rwl &&& m ≠ 0)

/-- Whether a master's write of n bytes at a register-space offset is a protection violation. `edf` as in `regForbids`. [DEDUCED: log 134; DEDUCED: log 135] -/
def writeBad (s : State) (edf : Bool) (who : Who) (off n : Nat) (v : W64) : Bool :=
  if (n ≠ 4 && n ≠ 8) || off % n ≠ 0 then true
  else match regAt off with
    | none => true
    | some r =>
      let m := coverMask off n
      let w := placed off n v
      match writeRight who r with
      | .none => true
      | .some fs => !leavesRest s r fs w m || partWo r m || (!r.absent s && regForbids s edf r (s.rwVal r) (newVal s r w m) w m)
      | .all => partWo r m || lockHit s r m || (!r.absent s && regForbids s edf r (s.rwVal r) (newVal s r w m) w m)

/-- Store the RW fields of a register. -/
def storeReg (r : Reg) (v : W64) (s : State) : State :=
  match r with
  | .crsCount => s
  | _ => if r.bits .rw ||| r.bits .rwl = 0 then s else s.setReg r.off v

/-- An accepted write takes effect: the fields are set, then the register acts. An instance that the part lacks takes nothing (R4). -/
def writeDo (off n : Nat) (v : W64) (s : State) : State :=
  match regAt off with
  | none => s
  | some r =>
    if r.absent s then s
    else
      let m := coverMask off n
      let w := placed off n v
      let o := s.rwVal r
      let x := newVal s r w m
      regActs r o x w m (storeReg r x s)

/-- A function that is frozen or does not answer writes nothing (R373). Before boot is complete the PF's writes are discarded (R427), but for a
submission in recovery (R428). -/
def fnMute (s : State) (off : Nat) : Who → Bool
  | .fn f => !fnLive s f || s.u.host.frozen.contains f || (f == 0 && s.u.ctl.boot != 3 && !(s.u.ctl.boot == 5 && off == 0x3000010))
  | _ => false

/-- A write of n bytes at a register-space offset by a master. [DESIGN CHOICE: log 126] -/
def regWrite (who : Who) (off n : Nat) (v : W64) (s : State) : State :=
  if fnMute s off who then s
  else if writeBad s false who off n v then regViolate who off n s
  else writeDo off n v s

/-- The cycles that a core has lost to bank arbitration since its counter was last looked at: a free number (R91). [DESIGN CHOICE: log 25] -/
def bankWait (r : Reg) (s : State) : State :=
  match r with
  | .coreCnt n 3 => let p := s.draw; p.2.updMat n (fun m => { m with cntBank := satAdd 48 m.cntBank (Config.cycles p.1) })
  | _ => s

/-- A read of n bytes at a register-space offset by a master: the bytes it gets, and the state after (R17, R19). A frozen function's read
completes with Completer Abort (R373). [DESIGN CHOICE: log 125] -/
def regRead (who : Who) (off n : Nat) (s : State) : W64 × State :=
  let bad := (0, violate who (regSpace + off) n false s)
  if (match who with
      | .fn f => !fnLive s f
      | _ => false) then (0, s)
  else if fnFrozen s who then (0, match who with
      | .fn f => s.out (.completion f 4 [])
      | _ => s)
  else if who == .fn 0 && s.u.ctl.boot != 3 && off / 8 * 8 != 0x3000000 && off / 8 * 8 != 0x300000 then (0, s)
  else if (n ≠ 4 && n ≠ 8) || off % n ≠ 0 then bad
  else match regAt off with
    | none => bad
    | some r =>
      if !mayRead who r then bad
      else
        let t := bankWait r s
        if n = 8 then (t.regView r, t) else (BitVec.ofNat 64 (bitsOf (t.regView r) (if off % 8 = 4 then 63 else 31) (off % 8 * 8)), t)

/-! ### BAR0 (R403) -/

/-- The register-space offset of a VF's BAR0 offset. -/
def vfOffset (f x : Nat) : Option Nat :=
  if x < 0x100 then some (fltOff f x)
  else if 0x1000 ≤ x && decide (x < 0x1100) then some (queOff f (x - 0x1000))
  else if 0x2000 ≤ x && decide (x < 0x2040) then some (hfnOff f (x - 0x2000))
  else none

/-- The place of the MSI-X table in a function's BAR0. [PRESUMED: log 117] -/
def msixBase (f : Nat) : Nat := if f = 0 then 0xFF00000 else 0x8000

/-- A write of dword i of the MSI-X table: bit 0 of dword 3 of an entry masks its vector; the others hold the message's address and data. -/
def msixDword (f i v : Nat) (s : State) : State :=
  if i % 4 ≠ 3 then s.updFn f (fun h => { h with tbl := SMap.setD 0 i v h.tbl })
  else if v % 2 = 0 then msixUnmask f (i / 4) s
  else s.updFn f (fun h => { h with unmasked := h.unmasked.filter (fun x => x != i / 4) })

/-- A write to the MSI-X table at offset o. -/
def msixWrite (f o n : Nat) (v : W64) (s : State) : State :=
  let t := msixDword f (o / 4) (bitsOf v 31 0) s
  if n = 8 then msixDword f (o / 4 + 1) (bitsOf v 63 32) t else t

/-- Dword i of the MSI-X table and dword i of the PBA as the host reads them (R403, R406). -/
def msixWord (h : HFn) (i : Nat) : Nat := if i % 4 = 3 then (if h.unmasked.contains (i / 4) then 0 else 1) else SMap.get 0 i h.tbl
def pbaWord (h : HFn) (i : Nat) : Nat := (h.pba.filter (fun v => v / 32 == i)).foldl (fun n v => n ||| 2 ^ (v % 32)) 0

/-- A write at an offset as the master gives it: of its BAR0 for a host function, of the register space for every other master. [DEDUCED: log 123] -/
def barWrite (who : Who) (x n : Nat) (v : W64) (s : State) : State :=
  match who with
  | .fn f =>
    let b := msixBase f
    let ok := (n == 4 || n == 8) && decide (x % n = 0)
    if fnMute s x who then s
    else if b ≤ x && decide (x < b + 0x8000) && ok then msixWrite f (x - b) n v s
    else if b + 0x8000 ≤ x && decide (x < b + 0x8100) && ok then s
    else if f = 0 then regWrite who x n v s
    else match vfOffset f x with
      | some off => if n = 4 || n = 8 then regWrite who off n v s else violate who x n true s
      | none => violate who x n true s
  | _ => regWrite who x n v s

/-- A read at an offset as the master gives it (R403, R467): of its BAR0 for a host function, with the MSI-X table and the PBA in their places; of
the register space for every other master. -/
def barRead (who : Who) (x n : Nat) (s : State) : W64 × State :=
  match who with
  | .fn f =>
    let b := msixBase f
    let ok := fnLive s f && !fnFrozen s who && (n == 4 || n == 8) && decide (x % n = 0) && (f != 0 || s.u.ctl.boot == 3)
    let two := fun (w : Nat → Nat) (i : Nat) => (BitVec.ofNat 64 (w i + (if n = 8 then w (i + 1) * 2 ^ 32 else 0)), s)
    if b ≤ x && decide (x < b + 0x8000) && ok then two (msixWord (s.fnOf f)) ((x - b) / 4)
    else if b + 0x8000 ≤ x && decide (x < b + 0x8100) && ok then two (pbaWord (s.fnOf f)) ((x - b - 0x8000) / 4)
    else if f = 0 then regRead who x n s
    else match vfOffset f x with
      | some off => regRead who off n s
      | none => if fnLive s f && !fnFrozen s who then (0, violate who x n false s) else regRead who x n s
  | _ => regRead who x n s

end Sys2Proof.Machine
end

