-- ==== Sys2Proof/Machine/Ctl.lean ====
section
/-!
DEFINITION. The control complex and the RTU after boot (R418 to R443): firmware services, updates, attestation, the debug lock, calibration
and management.
-/

namespace Sys2Proof.Machine

open Sys2Proof

/-! ### The harts (R418) -/

/-- `mhartid` of hart h of cluster c. -/
def mhartid (c h : Nat) : Nat := 8 * c + h

/-- The `time` CSR: SLOW cycles at 100 MHz from module reset, 100 in each course that has passed and a free number of the present one.
[DESIGN CHOICE: log 146] -/
def timeCsr (s : State) : Nat := 100 * s.elapsed + Config.cycles s.fresh % 100

/-! ### Service requests (R423) -/

/-- Word i of a request's `ARGS`: 64-bit words from byte 16. [DESIGN CHOICE: log 136] -/
def svcArg (b : Line) (i : Nat) : Nat := byteField b (16 + 8 * i) 8

/-- The block of a request. -/
def svcBlock (s : State) (v : Svc) : Line := if v.mctp then v.blk else s.line v.addr

/-- Write a list of 64-bit results into a block over `ARGS`. -/
def putArgs (b : Line) : Nat → List W64 → Line
  | _, [] => b
  | i, w :: r => putArgs (putBytes b (16 + 8 * i) 8 w.toNat) (i + 1) r

/-- An MCTP message leaves: once the I3C target has an address, an in-band interrupt announces it (R441). -/
def mctpOut (o : Out) (s : State) : State := (if s.u.ctl.i3c.isSome then s.out .ibi else s).out o

/-- The vendor-defined MCTP message of a service block (R441): the PF's vendor ID, then the block. -/
def vendorMsg (b : Line) : List Byte := beBytes 2 Config.vendor.toNat ++ leBytes 64 b.toNat

/-- EDF answers a request: `STATUS`, an `INDEX` where there is one, the results; then the PF's message (R423), or the block over MCTP (R441). -/
def svcReply (v : Svc) (status : Nat) (index : Option Nat) (res : List W64) (s : State) : State :=
  let b0 := putBytes (svcBlock s v) 2 2 status
  let b1 := match index with
    | some i => putBytes b0 8 4 i
    | none => b0
  let b := putArgs b1 0 res
  if v.mctp then mctpOut (.mctp 0x7E (vendorMsg b)) s
  else (s.putBytes v.addr (leBytes 64 b.toNat)).msix 0 (bitsOf (s.stored .svcCtrl) 42 32)

/-- The codes of the table "Services". -/
def knownCode (c : Nat) : Bool := decide (1 ≤ c) && decide (c ≤ 8)

/-- The bytes in GDDR7 or host memory that a request is read from: its block, the images of codes 4, 5 and 8, the list of code 2. -/
def svcSpans (v : Svc) (b : Line) : List (Nat × Nat) :=
  (if v.mctp then [] else [(v.addr, 64)]) ++ (match byteField b 0 2 with
    | 2 => [(svcArg b 0, 16 * min (svcArg b 1) 4096)]
    | 4 | 5 => [(svcArg b 0, svcArg b 1)]
    | 8 => [(svcArg b 1, svcArg b 2)]
    | _ => [])

/-- A request waits while its bytes are out of reach (R234, R235, R402); behind an FW_UPDATE whose image is still being written every request does
but another FW_UPDATE, which is answered busy (R423, R430). [DEDUCED: log 138] -/
def svcWaits (s : State) (v : Svc) (b : Line) : Bool :=
  (svcSpans v b).any (fun p => memBusy s p.1 p.2) || (s.u.ctl.fwReq.isSome && decide (byteField b 0 2 ≠ 4))

/-- The request at the head of the queue is run where it is one of code `c`, or of no known code. What refuses every request of its path is
answered first (R423, R425). [DEDUCED: log 138] -/
def svcRun (c : Nat) (f : Svc → Line → State → State) (s : State) : State :=
  match s.u.ctl.svc with
  | [] => s
  | v :: rest =>
    let b := svcBlock s v
    let code := byteField b 0 2
    let s1 := s.updCtl (fun t => { t with svc := rest })
    if (s.u.ctl.boot ≠ 3 && s.u.ctl.boot ≠ 5) || svcWaits s v b then s
    else if knownCode code && code != c then s
    else if s.u.ctl.boot = 5 && code ≠ 4 then svcReply v 0x8003 none [] s1
    else if !v.mctp && !bitOf (s.stored .svcCtrl) 63 && code ≠ 1 then svcReply v 0x8003 none [] s1
    else if code != c then svcReply v 0x8001 none [] s1
    else f v b s1

/-! ### The services -/

/-- QUERY. -/
def svcQuery (v : Svc) (_ : Line) (s : State) : State :=
  let r := s.u.ctl.run
  svcReply v 1 none [r.edfVer, r.ucodeVer, BitVec.ofNat 64 s.u.ctl.svn, s.regView .ctlxBoot, s.regView .rtuStatus] s

/-- The refusal that a submission from the PF is charged with (R424, R425): its function is frozen. Over MCTP nothing is frozen. -/
def svcBlame (v : Svc) (a n : Nat) (s : State) : State := if v.mctp then s else violate (.fn 0) a n true s

/-- The writes of a REGLIST from entry i on (R424). -/
def regList (v : Svc) (a : Nat) : Nat → Nat → State → State
  | 0, _, s => svcReply v 1 none [] s
  | k + 1, i, s =>
    let off := s.rd (a + 16 * i) 8
    let w := BitVec.ofNat 64 (s.rd (a + 16 * i + 8) 8)
    if writeBad s v.mctp .ctl off 8 w then svcReply v 0x8005 (some i) [] (svcBlame v (regSpace + off) 8 s)
    else regList v a k (i + 1) (writeDo off 8 w s)

/-- REGLIST (R424). -/
def svcReglist (v : Svc) (b : Line) (s : State) : State :=
  let n := svcArg b 1
  if n = 0 || 4096 < n then svcReply v 0x8002 none [] s else regList v (svcArg b 0) n 0 s

/-- The images of the program slots that are valid now, in ascending slot order (R57, R203). [DEDUCED: log 142] -/
def progImages (s : State) : List Byte :=
  ((List.range 32).filter (fun k => bitOf (s.reg 0 0xE00020) k)).flatMap (fun k =>
    let a := progBase s + 16384 * k
    s.bytes a (64 + 4 * min (s.rd (a + 4) 2) 4080))

/-- The gauge word of a job that starts now under a policy word (R57). -/
def gaugeWord (s : State) (policy : W32) : W64 :=
  let r := s.u.ctl.run
  let inp := leBytes 8 r.edfVer.toNat ++ leBytes 8 r.ucodeVer.toNat ++ sha256 (progImages s) ++ leBytes 4 0x1000 ++ leBytes 4 policy.toNat ++ leBytes 8 0
  BitVec.ofNat 64 (leNat ((sha256 inp).take 8))

/-- A policy word that R58 refuses. -/
def policyBad (p : W32) : Bool := decide (bitsOf p 31 20 ≠ 0) || decide (bitsOf p 19 17 ≠ 0) || decide (bitsOf p 7 4 ≠ 0)

/-- START_JOB (R425): `ARGS` words 0 owner, 1 and 2 core mask, 3 policy word in [31:0] and job-lead address in [63:32], 4 seed, 5 job identifier.
Its gated cores wake (R457). [DEDUCED: log 137] -/
def svcStart (v : Svc) (b : Line) (s : State) : State :=
  let p := svcArg b 0
  let mask := byteField b 24 16
  let policy : W32 := BitVec.ofNat 32 (svcArg b 3)
  let cores := (List.range 128).filter (fun c => Nat.testBit mask c)
  if policyBad policy || cores.any (fun c => !coreOk s c || decide (s.nCores ≤ c)) then svcReply v 0x8002 none [] (svcBlame v 0 0 s)
  else if 16 ≤ p || !(s.owner p).exists || cores.any (fun c => s.ownerOfCore c != some p) then svcReply v 0x8002 none [] s
  else if (s.owner p).st != .active || s.jobRuns p then svcReply v 0x8003 none [] s
  else
    let g := gaugeWord s policy
    let j : Job := { seed := BitVec.ofNat 64 (svcArg b 4), policy, gauge := g, id := BitVec.ofNat 64 (svcArg b 5), lead := byteField b 44 4 }
    svcReply v 1 none [g] (cores.foldl (fun t c => askWake c t) (tableTakesEffect p (warmStart p ((s.setOwner p { s.owner p with job := some j }).updCrs (fun c => { c with begun := SMap.erase p c.begun })))))

/-- The bytes of an image or set in GDDR7 outside the EDF region, or in the host memory window, unless they read uncorrectable
or the host is gone (R402). -/
def fetchImage (s : State) (a n : Nat) : Option (List Byte) :=
  if (gddrOk s a n && (s.memUe a n).isNone) || (inHostWindow a n && !linkGone s) then some (s.bytes a n) else none

/-- An update is in progress (R430). -/
def updating (s : State) : Bool := s.u.ctl.writing.isSome

/-- A verified image begins to be written: the region holds no valid image until the write ends (R431, R432). -/
def beginWrite (img : List Byte) (pldm : Bool) (req : Option Svc) (s : State) : State :=
  s.updCtl (fun c => { c with writing := some img, flashImg := none, pldm, fwReq := req })

/-- An image fails its verification (R431). -/
def rejectImage (cond : Nat) (s : State) : State := s.raise 0x4D01 0xE000 none (BitVec.ofNat 64 cond) 0

/-- FW_UPDATE (R430, R431). [DEDUCED: log 140] -/
def svcUpdate (v : Svc) (b : Line) (s : State) : State :=
  if updating s then svcReply v 0x8004 none [] s
  else match fetchImage s (svcArg b 0) (svcArg b 1) with
    | none => svcReply v 0x8002 none [] (ctlRead (svcArg b 0) (svcArg b 1) s)
    | some img => match imageFails s img with
      | some k => svcReply v 0x8002 none [] (rejectImage k (s.pend 4))
      | none => beginWrite img false (some v) (s.pend 4)

/-- The image region is written (R432); over PLDM the activation is reported as requiring a reset. -/
def endWrite (pldm : Bool) (s : State) : State :=
  let c := s.u.ctl
  match c.writing with
  | none => s
  | some img =>
    if c.pldm != pldm then s
    else
      let s1 := s.updCtl (fun c => { c with flashImg := some img, writing := none, pldm := false, fwReq := none, updPending := true })
      match c.fwReq with
      | some v => svcReply v 1 none [] s1
      | none => if pldm then mctpOut (.pldmFw .resetRequired) s1 else s1

/-- No owner exists and no arm is held (R440). -/
def calAllowed (s : State) : Bool := s.ownerList.isEmpty && s.u.crs.arms.isEmpty

/-- A calibration set is written (R440). -/
def calStore (set asym : List Byte) (made : Bool) (s : State) : State :=
  (s.updCtl (fun c => { c with flashCal := set, flashAsym := asym, calWritten := true, calMade := made })).raise 0x1D01 0x9000 none 0 0

/-- CAL_WRITE (R440). -/
def svcCalWrite (v : Svc) (b : Line) (s : State) : State :=
  if !calAllowed s then svcReply v 0x8003 none [] s
  else if 0x100000 < svcArg b 1 then svcReply v 0x8002 none [] s
  else match fetchImage s (svcArg b 0) (svcArg b 1) with
    | none => svcReply v 0x8002 none [] (ctlRead (svcArg b 0) (svcArg b 1) s)
    | some set => if calOk set then svcReply v 1 none [] (calStore set set false s) else svcReply v 0x8002 none [] s

/-- CAL_RUN (R440): the measured values are free; `ASYM` stays that of the set in force. [DESIGN CHOICE: log 141] -/
def svcCalRun (v : Svc) (_ : Line) (s : State) : State :=
  if !calAllowed s then svcReply v 0x8003 none [] s
  else
    let p := s.draw
    svcReply v 1 none [] (calStore (Config.calMeasured p.1) (if s.u.ctl.calValid then s.u.ctl.calAsym else s.u.ctl.flashAsym) true p.2)

/-- REQUAL (R392): 1 start, 2 abort. -/
def svcRequal (v : Svc) (b : Line) (s : State) : State :=
  if svcArg b 0 = 1 then (if requalOk s then svcReply v 1 none [] (requalStart s) else svcReply v 0x8003 none [] s)
  else if svcArg b 0 = 2 then svcReply v 1 none [] (requalAbort s)
  else svcReply v 0x8002 none [] s

/-- The checks of a job's program image (R426). -/
def progOk (img : List Byte) : Bool :=
  let n := imgN img 4 2
  decide (imgN img 0 4 = 0x5A425047) && decide (1 ≤ n) && decide (n ≤ 4080) && decide (img.length = 64 + 4 * n) && ((img.drop 6).take 58).all (fun x => x == 0#8)

/-- PROG_LOAD (R426). -/
def svcProg (v : Svc) (b : Line) (s : State) : State :=
  let k := svcArg b 0
  let n := svcArg b 2
  let valid := s.reg 0 0xE00020
  if anyJob s then svcReply v 0x8003 none [] s
  else if k < 16 || 31 < k then svcReply v 0x8002 none [] s
  else if n = 0 then svcReply v 1 none [] (s.setReg 0xE00020 (putBits valid k k 0))
  else match fetchImage s (svcArg b 1) n with
    | none => svcReply v 0x8002 none [] (ctlRead (svcArg b 1) n s)
    | some img =>
      if !progOk img then svcReply v 0x8002 none [] s
      else svcReply v 1 none [] ((s.putBytes (progBase s + 16384 * k) img).setReg 0xE00020 (putBits valid k k 1))

/-! ### Management and attestation (R430, R433 to R437, R441, R442) -/

/-- The measurement blocks 1 to 8 (R435). [DEDUCED: log 143] -/
def measurements (s : State) : List Byte :=
  let c := s.u.ctl
  let hr := s.u.flt.hr.flatMap (fun e => leBytes 4 e.1 ++ leBytes 4 e.2)
  sha256 Config.rtuRom ++ sha256 c.run.head ++ leBytes 8 c.run.edfVer.toNat ++ leBytes 8 c.run.ucodeVer.toNat ++ sha256 (progImages s) ++
  sha256 (c.cal.getD [] ++ [if c.calFactory then 1 else 0]) ++
  sha256 ((List.range 16).flatMap (fun p => leBytes 8 (if s.jobRuns p then (s.jobOf (some p)).gauge.toNat else 0))) ++
  sha256 ([if c.debugOpen then 1 else 0] ++ leBytes 4 c.unlocks) ++ sha256 hr

/-- What PLDM monitoring presents (R442): the hottest junction, each thermal sensor, the 48 V input power, the core-rail current, the optical
power of the laser-input fibre at a receptacle position (R477), and the health score; and `CTLX_BOOT.STATE`, `FLT_HEALTH.SERVICE` and `UPD_PENDING`. -/
inductive Sensor where
  | hottest
  | thermal (i : Nat)
  | inputPower
  | railCurrent
  | light (pos : Nat)
  | score
  | bootState
  | service
  | updPending
  deriving DecidableEq, Repr

/-- The sensors of the part. -/
def sensorsOf (s : State) : List Sensor :=
  [.hottest] ++ ((List.range 68).filter (sensorOn s)).map .thermal ++ [.inputPower, .railCurrent] ++ ((List.range 22).map (fun i => .light (i + 1))) ++
    [.score, .bootState, .service, .updPending]

/-- What a sensor reads: temperatures in quarter degrees and none before a sample, watts, amperes, and the states' codes; the optical power is a
free value, the k-th draw. [DESIGN CHOICE: log 173] -/
def Sensor.reading (s : State) (k : Nat) : Sensor → Option Int
  | .hottest => (Machine.hottest s).map (fun e => e.2)
  | .thermal i => SMap.find i s.u.pow.sens
  | .inputPower => some s.u.pow.inW
  | .railCurrent => some s.u.pow.railA
  | .light p => some (Config.lightPower k p)
  | .score => some (Machine.score s.u.flt.debt)
  | .bootState => some s.u.ctl.boot
  | .service => some (Machine.service s.u.flt)
  | .updPending => some (if s.u.ctl.updPending then 1 else 0)

/-- The answer to a request over SPDM, PLDM or MCTP control: its bytes are free; with `mon`, of PLDM monitoring, it depends on the sensors. -/
def answer (mon : Bool) (b : List Byte) (s : State) : List Byte × State :=
  let p := s.draw
  (Config.reply p.1 b ((if s.u.ctl.idUsable then 1 else 0) :: (measurements s ++ s.u.ctl.certs)) (if mon then (sensorsOf s).map (Sensor.reading s p.1) else []), p.2)

/-- A complete MCTP message that no other row takes (R441): a vendor-defined service request joins the queue, MCTP control (0), PLDM (1), SPDM (5) and
secured SPDM (6) are answered; the endpoint carries no other type. [DESIGN CHOICE: log 201] -/
def mctpMessage (ty : Nat) (b : List Byte) (s0 : State) : State :=
  let s := s0.pend 3
  if ty = 0x7E then
    if b.length = 66 && beNat (b.take 2) = Config.vendor.toNat then
      (if 64 ≤ svcQueued s then s else (s.updCtl (fun c => { c with svc := c.svc ++ [{ mctp := true, blk := BitVec.ofNat 512 (leNat (b.drop 2)) }] })).pend 2)
    else s
  else if ty = 0 || ty = 1 || ty = 5 || ty = 6 then
    let a := answer (ty == 1) b s
    mctpOut (.mctp ty a.1) a.2
  else s

/-- PLDM for Firmware Update (R430 to R432): an image whose transfer is complete, or the end of its writing. -/
def pldmUpdate (img : Option (List Byte)) (s0 : State) : State :=
  let s := s0.pend 3
  match img with
  | none => endWrite true s
  | some i =>
    if s.u.ctl.boot ≠ 3 && s.u.ctl.boot ≠ 5 then s
    else if updating s then mctpOut (.pldmFw .alreadyInUpdateMode) s
    else match imageFails s i with
      | some k => rejectImage k (mctpOut (.pldmFw .rejected) (s.pend 4))
      | none => beginWrite i true none (mctpOut (.pldmFw .taken) (s.pend 4))

/-- The RTU answers an SPDM request (R435); without a usable identity it signs nothing and sets up no session (R433): `sess` says that the request sets up (true) or ends (false) a session, `ide` that IDE_KM installs
the keys of a stream and enables it (R409). [DESIGN CHOICE: log 144] -/
def spdmRequest (doe : Bool) (b : List Byte) (sess : Option Bool) (ide : Option Nat) (s0 : State) : State :=
  let s := (s0.pendIf 3 (!doe)).pend 4
  let a := answer false b s
  let s1 := if doe then a.2.out (.doe a.1) else mctpOut (.mctp 5 a.1) a.2
  let s2 := match sess with
    | some true => if !s.u.ctl.idUsable then s1 else s1.updCtl (fun c => { c with sessions := min 4 (c.sessions + 1) })
    | some false => s1.updCtl (fun c => { c with sessions := c.sessions - 1 })
    | none => s1
  match ide with
  | some k => if k < 5 && s.u.ctl.sessions ≠ 0 then s2.updHost (fun h => { h with
      ideOn := if h.ideOn.contains k then h.ideOn else h.ideOn ++ [k], ideBad := h.ideBad.filter (fun x => x != k) }) else s2
  | none => s2

/-- A debug unlock token over MCTP (R437): accepted where its signature verifies (`ok`) and it carries this device's serial number and the RTU's nonce,
which stands for one token. [DESIGN CHOICE: log 144] -/
def debugUnlock (k : Token) (s0 : State) : State :=
  let s := (s0.pend 3).pend 4
  let d := s.draw
  let t := d.2.updCtl (fun c => { c with debugNonce := Config.debugNonce d.1 })
  if k.ok && k.serial == s.u.ctl.chain.serial && k.nonce == s.u.ctl.debugNonce then
    let a := answer false [] (t.updCtl (fun c => { c with debugOpen := true, debugScope := k.scope, idUsable := false, unlocks := c.unlocks + 1 }))
    mctpOut (.mctp 5 a.1) a.2
  else mctpOut .invalidRequest s

/-- The I3C controller assigns an address (R441): by SETDASA to the static address 0x3A, or by ENTDAA, in which the target gives its
provisional ID. -/
def i3cAssign (setdasa : Bool) (static_ dyn : Nat) (s : State) : State :=
  if setdasa && static_ ≠ 0x3A then s
  else (if setdasa then s else s.out (.entdaa (Config.provisionalId s.u.ctl.chain.serial))).updCtl (fun c => { c with i3c := some dyn })

/-- The alert output (R443, R451). -/
def alert (s : State) : Bool :=
  let cap := bitsOf (s.stored .fltRingBase) 63 48 * 32
  let base := bitsOf (s.stored .fltRingBase) 47 5 * 32
  let tail := bitsOf (s.stored .fltRingPtr) 23 0
  let n := (s.u.flt.head + 2 ^ 24 - tail) % 2 ^ 24
  decide (s.u.pow.loss ≠ 0) || s.u.ctl.boot == 4 || s.u.ctl.boot == 5 || decide (service s.u.flt = 3) ||
    (decide (cap ≠ 0) && (List.range n).any (fun i => decide (heldRd s (base + 32 * ((tail + i) % 2 ^ 24 % cap)) 2 / 4096 = 0xC)))

/-! ### The meanings -/

/-- `QUERY` (R423). -/
def execQuery (s : State) : Host.Outcome State Fault Refusal := .next (svcRun 1 svcQuery s)
/-- `REGLIST` (R424). -/
def execReglist (s : State) : Host.Outcome State Fault Refusal := .next (svcRun 2 svcReglist s)
/-- `START_JOB` (R425). -/
def execStartJob (s : State) : Host.Outcome State Fault Refusal := .next (svcRun 3 svcStart s)
/-- `FW_UPDATE` (R431, R432): `fin` false takes a request, true ends the writing of its image. -/
def execFwUpdate (fin : Bool) (s : State) : Host.Outcome State Fault Refusal := .next (if fin then endWrite false s else svcRun 4 svcUpdate s)
/-- `CAL_WRITE` (R440). -/
def execCalWrite (s : State) : Host.Outcome State Fault Refusal := .next (svcRun 5 svcCalWrite s)
/-- `CAL_RUN` (R440). -/
def execCalRun (s : State) : Host.Outcome State Fault Refusal := .next (svcRun 6 svcCalRun s)
/-- `REQUAL` (R392, R423). -/
def execRequal (s : State) : Host.Outcome State Fault Refusal := .next (svcRun 7 svcRequal s)
/-- `PROG_LOAD` (R426). -/
def execProgLoad (s : State) : Host.Outcome State Fault Refusal := .next (svcRun 8 svcProg s)
/-- `PLDM_FW_UPDATE` (R430 to R432): an image whose transfer is complete, or none for the end of its writing. -/
def execPldmFwUpdate (img : Option (List Byte)) (s : State) : Host.Outcome State Fault Refusal := .next (pldmUpdate img s)
/-- `MCTP_MESSAGE` (R441). -/
def execMctpMessage (ty : Nat) (b : List Byte) (s : State) : Host.Outcome State Fault Refusal := .next (mctpMessage ty b s)
/-- `SPDM_REQUEST` (R435). -/
def execSpdmRequest (doe : Bool) (b : List Byte) (sess : Option Bool) (ide : Option Nat) (s : State) : Host.Outcome State Fault Refusal :=
  .next (spdmRequest doe b sess ide s)
/-- `DEBUG_UNLOCK_TOKEN` (R437). -/
def execDebugUnlockToken (token : Token) (s : State) : Host.Outcome State Fault Refusal := .next (debugUnlock token s)
/-- `CTL_CACHE_ERROR` (R419): hart or cache `unit`, corrected or uncorrectable. -/
def execCtlCacheError (unit : Nat) (ue : Bool) (s : State) : Host.Outcome State Fault Refusal :=
  .next (s.raise (if ue then 0xCD01 else 0x4D02) (0x9000 + unit % 4096) none 0 0)
/-- `HEARTBEAT_TIMEOUT` (R419). -/
def execHeartbeatTimeout (s : State) : Host.Outcome State Fault Refusal := .next (if s.u.ctl.boot = 3 then s.raise 0xCD01 0x9000 none 0 0 else s)
/-- `I3C_ADDRESS_ASSIGNMENT` (R441). -/
def execI3cAddressAssignment (setdasa : Bool) (static_ dyn : Nat) (s : State) : Host.Outcome State Fault Refusal := .next (i3cAssign setdasa static_ dyn s)
/-- `RTU_SELF_TEST` (R428). -/
def execRtuSelfTest (ok : Bool) (s : State) : Host.Outcome State Fault Refusal := .next (rtuSelfTest ok s)
/-- `IMAGE_VERIFY` (R429). -/
def execImageVerify (harts : W32) (s : State) : Host.Outcome State Fault Refusal := .next (imageVerify harts s)

end Sys2Proof.Machine
end

