-- ==== Sys2Proof/Machine/RegCmds.lean ====
section
/-!
DEFINITION. The commands that are register writes (R16 to R19): each row writes 64 bits of its register, with the bit that the row names set
and the other bits as given. Writes of 32 bits, and writes of registers that have no row, are `REGISTER_WRITE`.
-/

namespace Sys2Proof.Machine

open Sys2Proof

/-- A 64-bit write of a register. -/
def write64 (w : Who) (r : Reg) (v : W64) (s : State) : State := regWrite w r.off 8 v s

/-- A write of an instance: a number beyond the block's instances names no register. -/
def writeInst (w : Who) (i lim : Nat) (r : Reg) (v : W64) (s : State) : Host.Outcome State Fault Refusal :=
  if i < lim then .next (write64 w r v s) else .refused .noSuchUnit

/-- `PREEMPT_REQ` (R165): a write of `CORE_PREEMPT.REQ`. -/
def execPreemptReq (w : Who) (n : Nat) (v : W64) (s : State) : Host.Outcome State Fault Refusal := writeInst w n 128 (.corePreempt n) (v ||| 0x1) s
/-- `PREEMPT_RESTORE` (R167): a write of `CORE_PREEMPT.RESTORE`. -/
def execPreemptRestore (w : Who) (n : Nat) (v : W64) (s : State) : Host.Outcome State Fault Refusal := writeInst w n 128 (.corePreempt n) (v ||| 0x2) s
/-- `CORE_CNT_CLEAR` (R94): a write of `CORE_CNT_CLEAR.CLEAR`. -/
def execCoreCntClear (w : Who) (n : Nat) (v : W64) (s : State) : Host.Outcome State Fault Refusal := writeInst w n 128 (.coreClear n) (v ||| 0x1) s
/-- `CORE_CNT_WCLEAR` (R170): a write of `CORE_CNT_WCLEAR.CLEAR`. -/
def execCoreCntWclear (w : Who) (n : Nat) (v : W64) (s : State) : Host.Outcome State Fault Refusal := writeInst w n 128 (.coreWclear n) (v ||| 0x1) s
/-- `SRAMCE_CLEAR` (R249): a write of `CORE_CNT_SRAMCE.CLEAR`. -/
def execSramceClear (w : Who) (n : Nat) (v : W64) (s : State) : Host.Outcome State Fault Refusal := writeInst w n 128 (.coreSramce n) (v ||| 0x8000000000000000) s
/-- `BNC_MAP_WRITE` (R194, R234): a write of `BNC_MAP`. -/
def execBncMapWrite (w : Who) (v : W64) (s : State) : Host.Outcome State Fault Refusal := .next (write64 w .bncMap v s)
/-- `BNC_ENG_CNT_CLEAR` (R227): a write of `BNC_ENG_CNT_CLEAR.CLEAR`. -/
def execBncEngCntClear (w : Who) (e : Nat) (v : W64) (s : State) : Host.Outcome State Fault Refusal := writeInst w e 64 (.beClear e) (v ||| 0x1) s
/-- `MEM_COMPAT_WRITE` (R240): a write of `MEM_CTRL`. -/
def execMemCompatWrite (w : Who) (v : W64) (s : State) : Host.Outcome State Fault Refusal := .next (write64 w .memCtrl v s)
/-- `MEM_LOG_CLEAR` (R239): a write of `MEM_LOG_STATUS.CLEAR`. -/
def execMemLogClear (w : Who) (v : W64) (s : State) : Host.Outcome State Fault Refusal := .next (write64 w .memLogStatus (v ||| 0x100) s)
/-- `MEM_CH_CNT_CLEAR` (R248): a write of `MEM_CH_CNT_CLEAR.CLEAR`. -/
def execMemChCntClear (w : Who) (c : Nat) (v : W64) (s : State) : Host.Outcome State Fault Refusal := writeInst w c 64 (.mcClear c) (v ||| 0x1) s
/-- `MEM_INJECT_ARM` (R248): a write of `MEM_INJECT with ARM set`. -/
def execMemInjectArm (w : Who) (v : W64) (s : State) : Host.Outcome State Fault Refusal := .next (write64 w .memInject (v ||| 0x8000000000000000) s)
/-- `CRS_RUN_WRITE` (R252, R256): a write of `CRS_CTRL`. -/
def execCrsRunWrite (w : Who) (v : W64) (s : State) : Host.Outcome State Fault Refusal := .next (write64 w .crsCtrl v s)
/-- `CRS_LEAD_WRITE` (R252, R256): a write of `CRS_CTRL`. -/
def execCrsLeadWrite (w : Who) (v : W64) (s : State) : Host.Outcome State Fault Refusal := .next (write64 w .crsCtrl v s)
/-- `CRS_PARENT_WRITE` (R254, R256): a write of `CRS_CTRL`. -/
def execCrsParentWrite (w : Who) (v : W64) (s : State) : Host.Outcome State Fault Refusal := .next (write64 w .crsCtrl v s)
/-- `ARM_PUSH` (R257): a write of `CRS_ARM_W3`. -/
def execArmPush (w : Who) (v : W64) (s : State) : Host.Outcome State Fault Refusal := .next (write64 w (.crsArm 3) v s)
/-- `ARM_CANCEL` (R260): a write of `CRS_ARM_STATUS.CANCEL`. -/
def execArmCancel (w : Who) (v : W64) (s : State) : Host.Outcome State Fault Refusal := .next (write64 w .crsArmStatus (v ||| 0x800000) s)
/-- `LEDGER_TAIL_WRITE` (R264, R265): a write of `CRS_LEDGER_PTR`. -/
def execLedgerTailWrite (w : Who) (v : W64) (s : State) : Host.Outcome State Fault Refusal := .next (write64 w .crsLedgerPtr v s)
/-- `LINK_ENABLE` (R280): a write of `LNK_CFG`. -/
def execLinkEnable (w : Who) (l : Nat) (v : W64) (s : State) : Host.Outcome State Fault Refusal := writeInst w l 64 (.lnkCfg l) v s
/-- `LNK_CNT_CLEAR` (R293): a write of `LNK_CNT_CLEAR.CLEAR`. -/
def execLnkCntClear (w : Who) (l : Nat) (v : W64) (s : State) : Host.Outcome State Fault Refusal := writeInst w l 64 (.lnkClear l) (v ||| 0x1) s
/-- `LNK_PAT_VALID_WRITE` (R288): a write of `LNK_PAT_VALID`. -/
def execLnkPatValidWrite (w : Who) (v : W64) (s : State) : Host.Outcome State Fault Refusal := .next (write64 w .lnkPatValid v s)
/-- `COL_GROUP_LOAD` (R296): a write of `COL_GROUP_LOAD.LOAD`. -/
def execColGroupLoad (w : Who) (v : W64) (s : State) : Host.Outcome State Fault Refusal := .next (write64 w .colGroupLoad (v ||| 0x4000000000000000) s)
/-- `COL_GROUP_UNLOAD` (R296): a write of `COL_GROUP_LOAD.UNLOAD`. -/
def execColGroupUnload (w : Who) (v : W64) (s : State) : Host.Outcome State Fault Refusal := .next (write64 w .colGroupLoad (v ||| 0x8000000000000000) s)
/-- `COL_SUBMIT` (R300): a write of `COL_SUBMIT`. -/
def execColSubmit (w : Who) (v : W64) (s : State) : Host.Outcome State Fault Refusal := .next (write64 w .colSubmit v s)
/-- `COL_BACKUP_SET` (R315): a write of `COL_BACKUP`. -/
def execColBackupSet (w : Who) (v : W64) (s : State) : Host.Outcome State Fault Refusal := .next (write64 w .colBackup v s)
/-- `COL_CNT_CLEAR` (R323): a write of `COL_CNT_CLEAR.CLEAR`. -/
def execColCntClear (w : Who) (v : W64) (s : State) : Host.Outcome State Fault Refusal := .next (write64 w .colClear (v ||| 0x1) s)
/-- `COL_EPOCH_WRITE` (R332): a write of `COL_EPOCH`. -/
def execColEpochWrite (w : Who) (p : Nat) (v : W64) (s : State) : Host.Outcome State Fault Refusal := writeInst w p 16 (.colEpoch p) v s
/-- `QUE_MODE_NOW` (R344): a write of `QUE_MODE.NOW`. -/
def execQueModeNow (w : Who) (v : W64) (s : State) : Host.Outcome State Fault Refusal := .next (write64 w .queMode (v ||| 0x100000000000000) s)
/-- `QUE_PART_RESET` (R366): a write of `QUE_PART_STATE.RESET`. -/
def execQuePartReset (w : Who) (p : Nat) (v : W64) (s : State) : Host.Outcome State Fault Refusal := writeInst w p 16 (.qpState p) (v ||| 0x8000000000000000) s
/-- `QUE_PART_CNT_CLEAR` (R368): a write of `QUE_PART_CNT_CLEAR.CLEAR`. -/
def execQuePartCntClear (w : Who) (p : Nat) (v : W64) (s : State) : Host.Outcome State Fault Refusal := writeInst w p 16 (.qpClear p) (v ||| 0x1) s
/-- `FLT_ACK` (R379): a write of `FLT_O_CTRL.ACK`. -/
def execFltAck (w : Who) (p : Nat) (v : W64) (s : State) : Host.Outcome State Fault Refusal := writeInst w p 16 (.foCtrl p) (v ||| 0x1) s
/-- `FLT_STOP` (R375): a write of `FLT_O_CTRL.STOP`. -/
def execFltStop (w : Who) (p : Nat) (v : W64) (s : State) : Host.Outcome State Fault Refusal := writeInst w p 16 (.foCtrl p) (v ||| 0x4) s
/-- `FLT_FROG` (R394): a write of `FLT_O_CTRL.FROG`. -/
def execFltFrog (w : Who) (p : Nat) (v : W64) (s : State) : Host.Outcome State Fault Refusal := writeInst w p 16 (.foCtrl p) (v ||| 0x8) s
/-- `REQUAL_START` (R392): a write of `FLT_REQUAL.START`. -/
def execRequalStart (w : Who) (v : W64) (s : State) : Host.Outcome State Fault Refusal := .next (write64 w .fltRequal (v ||| 0x1) s)
/-- `REQUAL_ABORT` (R392): a write of `FLT_REQUAL.ABORT`. -/
def execRequalAbort (w : Who) (v : W64) (s : State) : Host.Outcome State Fault Refusal := .next (write64 w .fltRequal (v ||| 0x2) s)
/-- `EVIDENCE_POST` (R396): a write of `FLT_EVIDENCE.POST`. -/
def execEvidencePost (w : Who) (v : W64) (s : State) : Host.Outcome State Fault Refusal := .next (write64 w .fltEvidence (v ||| 0x1) s)
/-- `HDM_COMMIT` (R413): a write of `HOST_HDM_CTRL.COMMIT`. -/
def execHdmCommit (w : Who) (p n : Nat) (v : W64) (s : State) : Host.Outcome State Fault Refusal :=
  if p < 2 then writeInst w n 4 (.hdmCtrl p n) (v ||| 0x8000000000000000) s else .refused .noSuchUnit
/-- `CTLX_LOCK_SET` (R428): a write of `CTLX_LOCK.SET`. -/
def execCtlxLockSet (w : Who) (v : W64) (s : State) : Host.Outcome State Fault Refusal := .next (write64 w .ctlxLock (v ||| 0x1) s)
/-- `PWR_CNT_CLEAR` (R465): a write of `PWR_CNT_CLEAR.CLEAR`. -/
def execPwrCntClear (w : Who) (v : W64) (s : State) : Host.Outcome State Fault Refusal := .next (write64 w .pwrCntClear (v ||| 0x1) s)
/-- `REGISTER_WRITE` (R18): a write of n bytes at an offset as the master gives it. -/
def execRegisterWrite (w : Who) (x n : Nat) (v : W64) (s : State) : Host.Outcome State Fault Refusal := .next (barWrite w x n v s)

end Sys2Proof.Machine
end

