-- ==== Sys2Proof/Machine/Dispatch.lean ====
section
/-!
DEFINITION. The dispatch: one arm per constructor of `Instr`, each one direct call of that command's meaning.
-/

namespace Sys2Proof.Machine

open Sys2Proof

/-- [DESIGN CHOICE: log 157; DESIGN CHOICE: log 158] -/
def exec (i : Instr) (s : State) : Host.Outcome State Fault Refusal :=
  match i with
  | .nop c m k w => Sys2Proof.Machine.execNop c m k w s
  | .wload c m w => Sys2Proof.Machine.execWload c m w s
  | .aload c m w => Sys2Proof.Machine.execAload c m w s
  | .caston c m w => Sys2Proof.Machine.execCaston c m w s
  | .mma c m w => Sys2Proof.Machine.execMma c m w s
  | .castoff c m w => Sys2Proof.Machine.execCastoff c m w s
  | .spoil c m w => Sys2Proof.Machine.execSpoil c m w s
  | .park c m w => Sys2Proof.Machine.execPark c m w s
  | .resume c m w => Sys2Proof.Machine.execResume c m w s
  | .skeinDrained c k => Sys2Proof.Machine.execSkeinDrained c k s
  | .parkComplete c k => Sys2Proof.Machine.execParkComplete c k s
  | .resumeComplete c k => Sys2Proof.Machine.execResumeComplete c k s
  | .vadd c m w => Sys2Proof.Machine.execVadd c m w s
  | .vsub c m w => Sys2Proof.Machine.execVsub c m w s
  | .vmul c m w => Sys2Proof.Machine.execVmul c m w s
  | .vfma c m w => Sys2Proof.Machine.execVfma c m w s
  | .vmin c m w => Sys2Proof.Machine.execVmin c m w s
  | .vmax c m w => Sys2Proof.Machine.execVmax c m w s
  | .vabs c m w => Sys2Proof.Machine.execVabs c m w s
  | .vneg c m w => Sys2Proof.Machine.execVneg c m w s
  | .vdiv c m w => Sys2Proof.Machine.execVdiv c m w s
  | .vsqrt c m w => Sys2Proof.Machine.execVsqrt c m w s
  | .vrsqrt c m w => Sys2Proof.Machine.execVrsqrt c m w s
  | .vexp c m w => Sys2Proof.Machine.execVexp c m w s
  | .vexp2 c m w => Sys2Proof.Machine.execVexp2 c m w s
  | .vlog2 c m w => Sys2Proof.Machine.execVlog2 c m w s
  | .vtanh c m w => Sys2Proof.Machine.execVtanh c m w s
  | .vsig c m w => Sys2Proof.Machine.execVsig c m w s
  | .vfn c m w => Sys2Proof.Machine.execVfn c m w s
  | .vcmp c m w => Sys2Proof.Machine.execVcmp c m w s
  | .vsel c m w => Sys2Proof.Machine.execVsel c m w s
  | .viadd c m w => Sys2Proof.Machine.execViadd c m w s
  | .visub c m w => Sys2Proof.Machine.execVisub c m w s
  | .vand c m w => Sys2Proof.Machine.execVand c m w s
  | .vor c m w => Sys2Proof.Machine.execVor c m w s
  | .vxor c m w => Sys2Proof.Machine.execVxor c m w s
  | .vshl c m w => Sys2Proof.Machine.execVshl c m w s
  | .vshr c m w => Sys2Proof.Machine.execVshr c m w s
  | .vsra c m w => Sys2Proof.Machine.execVsra c m w s
  | .vcvt c m w => Sys2Proof.Machine.execVcvt c m w s
  | .vbcast c m w => Sys2Proof.Machine.execVbcast c m w s
  | .vext c m w => Sys2Proof.Machine.execVext c m w s
  | .vperm c m w => Sys2Proof.Machine.execVperm c m w s
  | .vred c m w => Sys2Proof.Machine.execVred c m w s
  | .vamax c m w => Sys2Proof.Machine.execVamax c m w s
  | .vld c m w => Sys2Proof.Machine.execVld c m w s
  | .vst c m w => Sys2Proof.Machine.execVst c m w s
  | .vdec c m w => Sys2Proof.Machine.execVdec c m w s
  | .vcvtes c m w => Sys2Proof.Machine.execVcvtes c m w s
  | .tld c m w => Sys2Proof.Machine.execTld c m w s
  | .gld c m w => Sys2Proof.Machine.execGld c m w s
  | .gst c m w => Sys2Proof.Machine.execGst c m w s
  | .dma c m w => Sys2Proof.Machine.execDma c m w s
  | .dmat c m w => Sys2Proof.Machine.execDmat c m w s
  | .dmaCopy c q => Sys2Proof.Machine.execDmaCopy c q s
  | .dmaConvert c q => Sys2Proof.Machine.execDmaConvert c q s
  | .mxImport c q => Sys2Proof.Machine.execMxImport c q s
  | .mxExport c q => Sys2Proof.Machine.execMxExport c q s
  | .dmaZero c q => Sys2Proof.Machine.execDmaZero c q s
  | .dmatTransfer c q => Sys2Proof.Machine.execDmatTransfer c q s
  | .dmaComplete c q => Sys2Proof.Machine.execDmaComplete c q s
  | .send c m w => Sys2Proof.Machine.execSend c m w s
  | .recv c m w => Sys2Proof.Machine.execRecv c m w s
  | .chain c m w => Sys2Proof.Machine.execChain c m w s
  | .sadd c m w => Sys2Proof.Machine.execSadd c m w s
  | .ssub c m w => Sys2Proof.Machine.execSsub c m w s
  | .smul c m w => Sys2Proof.Machine.execSmul c m w s
  | .sand c m w => Sys2Proof.Machine.execSand c m w s
  | .sor c m w => Sys2Proof.Machine.execSor c m w s
  | .sxor c m w => Sys2Proof.Machine.execSxor c m w s
  | .sshl c m w => Sys2Proof.Machine.execSshl c m w s
  | .sshr c m w => Sys2Proof.Machine.execSshr c m w s
  | .ssra c m w => Sys2Proof.Machine.execSsra c m w s
  | .saddi c m w => Sys2Proof.Machine.execSaddi c m w s
  | .sli c m w => Sys2Proof.Machine.execSli c m w s
  | .slui c m w => Sys2Proof.Machine.execSlui c m w s
  | .sld c m w => Sys2Proof.Machine.execSld c m w s
  | .sst c m w => Sys2Proof.Machine.execSst c m w s
  | .br c m w => Sys2Proof.Machine.execBr c m w s
  | .brc c m w => Sys2Proof.Machine.execBrc c m w s
  | .coreEnd c m w => Sys2Proof.Machine.execCoreEnd c m w s
  | .wait c m w => Sys2Proof.Machine.execWait c m w s
  | .waitDeadline c => Sys2Proof.Machine.execWaitDeadline c s
  | .waitc c m w => Sys2Proof.Machine.execWaitc c m w s
  | .signal c m w => Sys2Proof.Machine.execSignal c m w s
  | .defer c m w => Sys2Proof.Machine.execDefer c m w s
  | .wend c m w => Sys2Proof.Machine.execWend c m w s
  | .wflush c m w => Sys2Proof.Machine.execWflush c m w s
  | .wmode c m w => Sys2Proof.Machine.execWmode c m w s
  | .srd c m w => Sys2Proof.Machine.execSrd c m w s
  | .vsclr c m w => Sys2Proof.Machine.execVsclr c m w s
  | .preemptReq w n v => Sys2Proof.Machine.execPreemptReq w n v s
  | .saveComplete c => Sys2Proof.Machine.execSaveComplete c s
  | .preemptRestore w n v => Sys2Proof.Machine.execPreemptRestore w n v s
  | .restoreComplete c => Sys2Proof.Machine.execRestoreComplete c s
  | .coreCntClear w n v => Sys2Proof.Machine.execCoreCntClear w n v s
  | .coreCntWclear w n v => Sys2Proof.Machine.execCoreCntWclear w n v s
  | .sramceClear w n v => Sys2Proof.Machine.execSramceClear w n v s
  | .launchEnter e own addr => Sys2Proof.Machine.execLaunchEnter e own addr s
  | .launchStart e => Sys2Proof.Machine.execLaunchStart e s
  | .benchNop e w => Sys2Proof.Machine.execBenchNop e w s
  | .lds e w => Sys2Proof.Machine.execLds e w s
  | .sts e w => Sys2Proof.Machine.execSts e w s
  | .fadd e w => Sys2Proof.Machine.execFadd e w s
  | .fsub e w => Sys2Proof.Machine.execFsub e w s
  | .fmul e w => Sys2Proof.Machine.execFmul e w s
  | .fma e w => Sys2Proof.Machine.execFma e w s
  | .fmm e w => Sys2Proof.Machine.execFmm e w s
  | .fdiv e w => Sys2Proof.Machine.execFdiv e w s
  | .fsq e w => Sys2Proof.Machine.execFsq e w s
  | .benchFun e w => Sys2Proof.Machine.execBenchFun e w s
  | .aadd e w => Sys2Proof.Machine.execAadd e w s
  | .cvt e w => Sys2Proof.Machine.execCvt e w s
  | .red e w => Sys2Proof.Machine.execRed e w s
  | .stes e w => Sys2Proof.Machine.execStes e w s
  | .hash e w => Sys2Proof.Machine.execHash e w s
  | .bcst e w => Sys2Proof.Machine.execBcst e w s
  | .ext e w => Sys2Proof.Machine.execExt e w s
  | .benchSli e w => Sys2Proof.Machine.execBenchSli e w s
  | .sop e w => Sys2Proof.Machine.execSop e w s
  | .loop e w => Sys2Proof.Machine.execLoop e w s
  | .brz e w => Sys2Proof.Machine.execBrz e w s
  | .out e w => Sys2Proof.Machine.execOut e w s
  | .dget e w => Sys2Proof.Machine.execDget e w s
  | .benchEnd e w => Sys2Proof.Machine.execBenchEnd e w s
  | .castWithScale e => Sys2Proof.Machine.execCastWithScale e s
  | .amaxHistory e => Sys2Proof.Machine.execAmaxHistory e s
  | .chainAdd e => Sys2Proof.Machine.execChainAdd e s
  | .digest e => Sys2Proof.Machine.execDigest e s
  | .noiseStatistics e => Sys2Proof.Machine.execNoiseStatistics e s
  | .adamw e => Sys2Proof.Machine.execAdamw e s
  | .lion e => Sys2Proof.Machine.execLion e s
  | .sgdWithMomentum e => Sys2Proof.Machine.execSgdWithMomentum e s
  | .factoredSecondMoment e => Sys2Proof.Machine.execFactoredSecondMoment e s
  | .snapshotCopy e => Sys2Proof.Machine.execSnapshotCopy e s
  | .snapshotComplete ok agreed => Sys2Proof.Machine.execSnapshotComplete ok agreed s
  | .snapshotRestore e img => Sys2Proof.Machine.execSnapshotRestore e img s
  | .pieceArrive => Sys2Proof.Machine.execPieceArrive s
  | .fanOut => Sys2Proof.Machine.execFanOut s
  | .bncMapWrite w v => Sys2Proof.Machine.execBncMapWrite w v s
  | .memInitComplete => Sys2Proof.Machine.execMemInitComplete s
  | .bncEngCntClear w e v => Sys2Proof.Machine.execBncEngCntClear w e v s
  | .gddr7Read who a from_ e behind fails => Sys2Proof.Machine.execGddr7Read who a from_ e behind fails s
  | .gddr7Write who sec d fails => Sys2Proof.Machine.execGddr7Write who sec d fails s
  | .partialWrite who a d e fails => Sys2Proof.Machine.execPartialWrite who a d e fails s
  | .channelRetrainDone c ok => Sys2Proof.Machine.execChannelRetrainDone c ok s
  | .patrolRead c e => Sys2Proof.Machine.execPatrolRead c e s
  | .bucketLeak => Sys2Proof.Machine.execBucketLeak s
  | .sramRead who x e idx => Sys2Proof.Machine.execSramRead who x e idx s
  | .cxlReadCompletion p w a bad data => Sys2Proof.Machine.execCxlReadCompletion p w a bad data s
  | .checkerSelfTest badCh badCore => Sys2Proof.Machine.execCheckerSelfTest badCh badCore s
  | .memCompatWrite w v => Sys2Proof.Machine.execMemCompatWrite w v s
  | .memLogClear w v => Sys2Proof.Machine.execMemLogClear w v s
  | .memChCntClear w c v => Sys2Proof.Machine.execMemChCntClear w c v s
  | .memInjectArm w v => Sys2Proof.Machine.execMemInjectArm w v s
  | .courseBoundary => Sys2Proof.Machine.execCourseBoundary s
  | .syncSend ls => Sys2Proof.Machine.execSyncSend ls s
  | .syncReceive l stamp tick => Sys2Proof.Machine.execSyncReceive l stamp tick s
  | .delayRequest => Sys2Proof.Machine.execDelayRequest s
  | .delayReply l t2 t3 t4 => Sys2Proof.Machine.execDelayReply l t2 t3 t4 s
  | .holdoverEnter => Sys2Proof.Machine.execHoldoverEnter s
  | .syncLost => Sys2Proof.Machine.execSyncLost s
  | .crsRunWrite w v => Sys2Proof.Machine.execCrsRunWrite w v s
  | .crsLeadWrite w v => Sys2Proof.Machine.execCrsLeadWrite w v s
  | .crsParentWrite w v => Sys2Proof.Machine.execCrsParentWrite w v s
  | .armPush w v => Sys2Proof.Machine.execArmPush w v s
  | .armCancel w v => Sys2Proof.Machine.execArmCancel w v s
  | .handover => Sys2Proof.Machine.execHandover s
  | .epochFence => Sys2Proof.Machine.execEpochFence s
  | .pattern => Sys2Proof.Machine.execPattern s
  | .step => Sys2Proof.Machine.execStep s
  | .history => Sys2Proof.Machine.execHistory s
  | .snapshot => Sys2Proof.Machine.execSnapshot s
  | .deadline => Sys2Proof.Machine.execDeadline s
  | .notBefore => Sys2Proof.Machine.execNotBefore s
  | .benchArm => Sys2Proof.Machine.execBenchArm s
  | .signalArm => Sys2Proof.Machine.execSignalArm s
  | .ledgerRecordWrite => Sys2Proof.Machine.execLedgerRecordWrite s
  | .ledgerTailWrite w v => Sys2Proof.Machine.execLedgerTailWrite w v s
  | .flitSend l => Sys2Proof.Machine.execFlitSend l s
  | .flitReceive l f => Sys2Proof.Machine.execFlitReceive l f s
  | .timeFlitReceive l f tick => Sys2Proof.Machine.execTimeFlitReceive l f tick s
  | .ackTimeout l => Sys2Proof.Machine.execAckTimeout l s
  | .retrainComplete l => Sys2Proof.Machine.execRetrainComplete l s
  | .laserOutOfLimits g f n => Sys2Proof.Machine.execLaserOutOfLimits g f n s
  | .linkEnable w l v => Sys2Proof.Machine.execLinkEnable w l v s
  | .calibrationDone l ok => Sys2Proof.Machine.execCalibrationDone l ok s
  | .trainingDone l ok => Sys2Proof.Machine.execTrainingDone l ok s
  | .exchangeDone l addr plink enc => Sys2Proof.Machine.execExchangeDone l addr plink enc s
  | .authenticationDone l peer secret transcript => Sys2Proof.Machine.execAuthenticationDone l peer secret transcript s
  | .rekey l peer secret transcript => Sys2Proof.Machine.execRekey l peer secret transcript s
  | .packetForward => Sys2Proof.Machine.execPacketForward s
  | .packetDeliver => Sys2Proof.Machine.execPacketDeliver s
  | .creditStall l v => Sys2Proof.Machine.execCreditStall l v s
  | .lnkCntClear w l v => Sys2Proof.Machine.execLnkCntClear w l v s
  | .lnkPatValidWrite w v => Sys2Proof.Machine.execLnkPatValidWrite w v s
  | .gather => Sys2Proof.Machine.execGather s
  | .broadcast => Sys2Proof.Machine.execBroadcast s
  | .allToAll => Sys2Proof.Machine.execAllToAll s
  | .pointToPoint => Sys2Proof.Machine.execPointToPoint s
  | .chainReduce => Sys2Proof.Machine.execChainReduce s
  | .chainReduceScatter => Sys2Proof.Machine.execChainReduceScatter s
  | .courseBarrier => Sys2Proof.Machine.execCourseBarrier s
  | .chainStep => Sys2Proof.Machine.execChainStep s
  | .updatePiece => Sys2Proof.Machine.execUpdatePiece s
  | .colData => Sys2Proof.Machine.execColData s
  | .chainSum => Sys2Proof.Machine.execChainSum s
  | .p2pData => Sys2Proof.Machine.execP2pData s
  | .snapData => Sys2Proof.Machine.execSnapData s
  | .colGrant => Sys2Proof.Machine.execColGrant s
  | .colArrive => Sys2Proof.Machine.execColArrive s
  | .colReject => Sys2Proof.Machine.execColReject s
  | .conversationDone => Sys2Proof.Machine.execConversationDone s
  | .barrierCourse => Sys2Proof.Machine.execBarrierCourse s
  | .requestDeadline => Sys2Proof.Machine.execRequestDeadline s
  | .colGroupLoad w v => Sys2Proof.Machine.execColGroupLoad w v s
  | .colGroupUnload w v => Sys2Proof.Machine.execColGroupUnload w v s
  | .colSubmit w v => Sys2Proof.Machine.execColSubmit w v s
  | .colBackupSet w v => Sys2Proof.Machine.execColBackupSet w v s
  | .colCntClear w v => Sys2Proof.Machine.execColCntClear w v s
  | .colEpochWrite w p v => Sys2Proof.Machine.execColEpochWrite w p v s
  | .doorbell f q off n v => Sys2Proof.Machine.execDoorbell f q off n v s
  | .dispatch p => Sys2Proof.Machine.execDispatch p s
  | .fence p => Sys2Proof.Machine.execFence p s
  | .reserve p => Sys2Proof.Machine.execReserve p s
  | .dispatchComplete q k => Sys2Proof.Machine.execDispatchComplete q k s
  | .commandExpire p => Sys2Proof.Machine.execCommandExpire p s
  | .drainStart => Sys2Proof.Machine.execDrainStart s
  | .ownerActive p => Sys2Proof.Machine.execOwnerActive p s
  | .queModeNow w v => Sys2Proof.Machine.execQueModeNow w v s
  | .quePartReset w p v => Sys2Proof.Machine.execQuePartReset w p v s
  | .quePartCntClear w p v => Sys2Proof.Machine.execQuePartCntClear w p v s
  | .fltAck w p v => Sys2Proof.Machine.execFltAck w p v s
  | .fltStop w p v => Sys2Proof.Machine.execFltStop w p v s
  | .stopNotice => Sys2Proof.Machine.execStopNotice s
  | .fltFrog w p v => Sys2Proof.Machine.execFltFrog w p v s
  | .requalStart w v => Sys2Proof.Machine.execRequalStart w v s
  | .requalAbort w v => Sys2Proof.Machine.execRequalAbort w v s
  | .requalVerdict badCh badCore => Sys2Proof.Machine.execRequalVerdict badCh badCore s
  | .evidencePost w v => Sys2Proof.Machine.execEvidencePost w v s
  | .healthDecay => Sys2Proof.Machine.execHealthDecay s
  | .swatchCheck => Sys2Proof.Machine.execSwatchCheck s
  | .inServiceTest n a mask row col r v => Sys2Proof.Machine.execInServiceTest n a mask row col r v s
  | .hostLinkTrained rate width flit light => Sys2Proof.Machine.execHostLinkTrained rate width flit light s
  | .hostLinkLoss active light => Sys2Proof.Machine.execHostLinkLoss active light s
  | .hostLinkWaitExpiry k => Sys2Proof.Machine.execHostLinkWaitExpiry k s
  | .bar2Access f off n wr => Sys2Proof.Machine.execBar2Access f off n wr s
  | .hostReadCompletion w a status data old => Sys2Proof.Machine.execHostReadCompletion w a status data old s
  | .hostReadTimeout w a => Sys2Proof.Machine.execHostReadTimeout w a s
  | .atsInvalidation f page n => Sys2Proof.Machine.execAtsInvalidation f page n s
  | .msixUnmask f v => Sys2Proof.Machine.execMsixUnmask f v s
  | .ideIntegrityFail k => Sys2Proof.Machine.execIdeIntegrityFail k s
  | .functionLevelReset f => Sys2Proof.Machine.execFunctionLevelReset f s
  | .d3hotExit f => Sys2Proof.Machine.execD3hotExit f s
  | .cxlRetrain p => Sys2Proof.Machine.execCxlRetrain p s
  | .cxlPortLoss p => Sys2Proof.Machine.execCxlPortLoss p s
  | .hdmCommit w p n v => Sys2Proof.Machine.execHdmCommit w p n v s
  | .query => Sys2Proof.Machine.execQuery s
  | .reglist => Sys2Proof.Machine.execReglist s
  | .startJob => Sys2Proof.Machine.execStartJob s
  | .fwUpdate fin => Sys2Proof.Machine.execFwUpdate fin s
  | .calWrite => Sys2Proof.Machine.execCalWrite s
  | .calRun => Sys2Proof.Machine.execCalRun s
  | .requal => Sys2Proof.Machine.execRequal s
  | .progLoad => Sys2Proof.Machine.execProgLoad s
  | .pldmFwUpdate img => Sys2Proof.Machine.execPldmFwUpdate img s
  | .mctpMessage ty b => Sys2Proof.Machine.execMctpMessage ty b s
  | .spdmRequest doe b sess ide => Sys2Proof.Machine.execSpdmRequest doe b sess ide s
  | .debugUnlockToken token => Sys2Proof.Machine.execDebugUnlockToken token s
  | .ctlxLockSet w v => Sys2Proof.Machine.execCtlxLockSet w v s
  | .ctlCacheError unit ue => Sys2Proof.Machine.execCtlCacheError unit ue s
  | .heartbeatTimeout => Sys2Proof.Machine.execHeartbeatTimeout s
  | .moduleReset inMv => Sys2Proof.Machine.execModuleReset inMv s
  | .rtuSelfTest ok => Sys2Proof.Machine.execRtuSelfTest ok s
  | .imageVerify harts => Sys2Proof.Machine.execImageVerify harts s
  | .pllStable => Sys2Proof.Machine.execPllStable s
  | .domainRampStep d => Sys2Proof.Machine.execDomainRampStep d s
  | .referenceLost => Sys2Proof.Machine.execReferenceLost s
  | .pllLockLoss => Sys2Proof.Machine.execPllLockLoss s
  | .powerManagerCourse inW railA => Sys2Proof.Machine.execPowerManagerCourse inW railA s
  | .fasterStep => Sys2Proof.Machine.execFasterStep s
  | .coreGate c => Sys2Proof.Machine.execCoreGate c s
  | .sensorSample k raw => Sys2Proof.Machine.execSensorSample k raw s
  | .supplyCheck inMv railMv => Sys2Proof.Machine.execSupplyCheck inMv railMv s
  | .inputUndervoltage inMv => Sys2Proof.Machine.execInputUndervoltage inMv s
  | .pwrCntClear w v => Sys2Proof.Machine.execPwrCntClear w v s
  | .registerWrite w x n v => Sys2Proof.Machine.execRegisterWrite w x n v s
  | .laserWithinLimits g f n => Sys2Proof.Machine.execLaserWithinLimits g f n s
  | .wavelengthDrift g => Sys2Proof.Machine.execWavelengthDrift g s
  | .cxlLinkUp p rate width target switch_ => Sys2Proof.Machine.execCxlLinkUp p rate width target switch_ s
  | .cxlMediaErrorLogged p => Sys2Proof.Machine.execCxlMediaErrorLogged p s
  | .pcieConfigWrite f c => Sys2Proof.Machine.execPcieConfigWrite f c s
  | .i3cAddressAssignment setdasa static_ dyn => Sys2Proof.Machine.execI3cAddressAssignment setdasa static_ dyn s

end Sys2Proof.Machine
end

