-- ==== Sys2Proof/WellFormed.lean ====
section
/-!
DEFINITION. Well-formed commands: every unit number, address and length lies in the range that the larger part gives it (R2, R5, R31,
R99, R195, R266, R336, R411, R466). A command of an EVZ7096-A that names a unit only the EVZ7100-A has is well formed; the machine refuses it.
-/

namespace Sys2Proof

/-- A master that exists on the larger part (R2, R467). -/
def Who.wf : Who → Bool
  | .ctl => true
  | .fn f => decide (f < 16)
  | .core n => decide (n < 128)
  | .dma n => decide (n < 512)
  | .bench e => decide (e < 64)

/-- The word of an SRAM read: an address, or a core and a position of 22 bits (R242). -/
def SramWord.wf : SramWord → Bool
  | .pad a => decide (a < 2 ^ 48)
  | .array n _ pos _ _ => decide (n < 128) && decide (pos < 2 ^ 22)

/-- A write of configuration space that the capability offers: BAR2 sizes of 1 GiB to 512 GiB, at most 15 VFs (R399, R403). -/
def Cfg.wf : Cfg → Bool
  | .bar2Size k => decide (k ≤ 9)
  | .vf _ n => decide (n < 16)
  | _ => true

/-- A command whose operands lie in range. [PRESUMED: log 12; DESIGN CHOICE: log 155] -/
def Instr.wf : Instr → Bool
  | .nop c _ k _ => decide (c < 128) && decide (k < 4)
  | .wload c _ _ => decide (c < 128)
  | .aload c _ _ => decide (c < 128)
  | .caston c _ _ => decide (c < 128)
  | .mma c _ _ => decide (c < 128)
  | .castoff c _ _ => decide (c < 128)
  | .spoil c _ _ => decide (c < 128)
  | .park c _ _ => decide (c < 128)
  | .resume c _ _ => decide (c < 128)
  | .skeinDrained c k => decide (c < 128) && decide (k < 16)
  | .parkComplete c k => decide (c < 128) && decide (k < 16)
  | .resumeComplete c k => decide (c < 128) && decide (k < 16)
  | .vadd c _ _ => decide (c < 128)
  | .vsub c _ _ => decide (c < 128)
  | .vmul c _ _ => decide (c < 128)
  | .vfma c _ _ => decide (c < 128)
  | .vmin c _ _ => decide (c < 128)
  | .vmax c _ _ => decide (c < 128)
  | .vabs c _ _ => decide (c < 128)
  | .vneg c _ _ => decide (c < 128)
  | .vdiv c _ _ => decide (c < 128)
  | .vsqrt c _ _ => decide (c < 128)
  | .vrsqrt c _ _ => decide (c < 128)
  | .vexp c _ _ => decide (c < 128)
  | .vexp2 c _ _ => decide (c < 128)
  | .vlog2 c _ _ => decide (c < 128)
  | .vtanh c _ _ => decide (c < 128)
  | .vsig c _ _ => decide (c < 128)
  | .vfn c _ _ => decide (c < 128)
  | .vcmp c _ _ => decide (c < 128)
  | .vsel c _ _ => decide (c < 128)
  | .viadd c _ _ => decide (c < 128)
  | .visub c _ _ => decide (c < 128)
  | .vand c _ _ => decide (c < 128)
  | .vor c _ _ => decide (c < 128)
  | .vxor c _ _ => decide (c < 128)
  | .vshl c _ _ => decide (c < 128)
  | .vshr c _ _ => decide (c < 128)
  | .vsra c _ _ => decide (c < 128)
  | .vcvt c _ _ => decide (c < 128)
  | .vbcast c _ _ => decide (c < 128)
  | .vext c _ _ => decide (c < 128)
  | .vperm c _ _ => decide (c < 128)
  | .vred c _ _ => decide (c < 128)
  | .vamax c _ _ => decide (c < 128)
  | .vld c _ _ => decide (c < 128)
  | .vst c _ _ => decide (c < 128)
  | .vdec c _ _ => decide (c < 128)
  | .vcvtes c _ _ => decide (c < 128)
  | .tld c _ _ => decide (c < 128)
  | .gld c _ _ => decide (c < 128)
  | .gst c _ _ => decide (c < 128)
  | .dma c _ _ => decide (c < 128)
  | .dmat c _ _ => decide (c < 128)
  | .dmaCopy c q => decide (c < 128) && decide (q < 4)
  | .dmaConvert c q => decide (c < 128) && decide (q < 4)
  | .mxImport c q => decide (c < 128) && decide (q < 4)
  | .mxExport c q => decide (c < 128) && decide (q < 4)
  | .dmaZero c q => decide (c < 128) && decide (q < 4)
  | .dmatTransfer c q => decide (c < 128) && decide (q < 4)
  | .dmaComplete c q => decide (c < 128) && decide (q < 4)
  | .send c _ _ => decide (c < 128)
  | .recv c _ _ => decide (c < 128)
  | .chain c _ _ => decide (c < 128)
  | .sadd c _ _ => decide (c < 128)
  | .ssub c _ _ => decide (c < 128)
  | .smul c _ _ => decide (c < 128)
  | .sand c _ _ => decide (c < 128)
  | .sor c _ _ => decide (c < 128)
  | .sxor c _ _ => decide (c < 128)
  | .sshl c _ _ => decide (c < 128)
  | .sshr c _ _ => decide (c < 128)
  | .ssra c _ _ => decide (c < 128)
  | .saddi c _ _ => decide (c < 128)
  | .sli c _ _ => decide (c < 128)
  | .slui c _ _ => decide (c < 128)
  | .sld c _ _ => decide (c < 128)
  | .sst c _ _ => decide (c < 128)
  | .br c _ _ => decide (c < 128)
  | .brc c _ _ => decide (c < 128)
  | .coreEnd c _ _ => decide (c < 128)
  | .wait c _ _ => decide (c < 128)
  | .waitDeadline c => decide (c < 128)
  | .waitc c _ _ => decide (c < 128)
  | .signal c _ _ => decide (c < 128)
  | .defer c _ _ => decide (c < 128)
  | .wend c _ _ => decide (c < 128)
  | .wflush c _ _ => decide (c < 128)
  | .wmode c _ _ => decide (c < 128)
  | .srd c _ _ => decide (c < 128)
  | .vsclr c _ _ => decide (c < 128)
  | .preemptReq w n _ => w.wf && decide (n < 128)
  | .saveComplete c => decide (c < 128)
  | .preemptRestore w n _ => w.wf && decide (n < 128)
  | .restoreComplete c => decide (c < 128)
  | .coreCntClear w n _ => w.wf && decide (n < 128)
  | .coreCntWclear w n _ => w.wf && decide (n < 128)
  | .sramceClear w n _ => w.wf && decide (n < 128)
  | .launchEnter e own addr => decide (e < 64) && own.all (fun p => decide (p < 16)) && decide (addr < 2 ^ 48)
  | .launchStart e => decide (e < 64)
  | .benchNop e _ => decide (e < 64)
  | .lds e _ => decide (e < 64)
  | .sts e _ => decide (e < 64)
  | .fadd e _ => decide (e < 64)
  | .fsub e _ => decide (e < 64)
  | .fmul e _ => decide (e < 64)
  | .fma e _ => decide (e < 64)
  | .fmm e _ => decide (e < 64)
  | .fdiv e _ => decide (e < 64)
  | .fsq e _ => decide (e < 64)
  | .benchFun e _ => decide (e < 64)
  | .aadd e _ => decide (e < 64)
  | .cvt e _ => decide (e < 64)
  | .red e _ => decide (e < 64)
  | .stes e _ => decide (e < 64)
  | .hash e _ => decide (e < 64)
  | .bcst e _ => decide (e < 64)
  | .ext e _ => decide (e < 64)
  | .benchSli e _ => decide (e < 64)
  | .sop e _ => decide (e < 64)
  | .loop e _ => decide (e < 64)
  | .brz e _ => decide (e < 64)
  | .out e _ => decide (e < 64)
  | .dget e _ => decide (e < 64)
  | .benchEnd e _ => decide (e < 64)
  | .castWithScale e => decide (e < 64)
  | .amaxHistory e => decide (e < 64)
  | .chainAdd e => decide (e < 64)
  | .digest e => decide (e < 64)
  | .noiseStatistics e => decide (e < 64)
  | .adamw e => decide (e < 64)
  | .lion e => decide (e < 64)
  | .sgdWithMomentum e => decide (e < 64)
  | .factoredSecondMoment e => decide (e < 64)
  | .snapshotCopy e => decide (e < 64)
  | .snapshotComplete _ _ => true
  | .snapshotRestore e _ => decide (e < 64)
  | .pieceArrive => true
  | .fanOut => true
  | .bncMapWrite w _ => w.wf
  | .memInitComplete => true
  | .bncEngCntClear w e _ => w.wf && decide (e < 64)
  | .gddr7Read who a from_ _ _ _ => who.wf && decide (a < 2 ^ 48) && decide (from_ < 2 ^ 40)
  | .gddr7Write who sec _ _ => who.wf && decide (sec < 2 ^ 40)
  | .partialWrite who a d _ _ => who.wf && decide (a < 2 ^ 48) && decide (a % 256 + d.length ≤ 256)
  | .channelRetrainDone c _ => decide (c < 64)
  | .patrolRead c _ => decide (c < 64)
  | .bucketLeak => true
  | .sramRead who x _ _ => who.wf && x.wf
  | .cxlReadCompletion p w a _ _ => decide (p < 2) && w.wf && decide (a < 2 ^ 48)
  | .checkerSelfTest badCh badCore => badCh.all (fun c => decide (c < 64)) && badCore.all (fun n => decide (n < 128))
  | .memCompatWrite w _ => w.wf
  | .memLogClear w _ => w.wf
  | .memChCntClear w c _ => w.wf && decide (c < 64)
  | .memInjectArm w _ => w.wf
  | .courseBoundary => true
  | .syncSend ls => ls.all (fun l => decide (l < 64))
  | .syncReceive l _ _ => decide (l < 64)
  | .delayRequest => true
  | .delayReply l _ _ _ => decide (l < 64)
  | .holdoverEnter => true
  | .syncLost => true
  | .crsRunWrite w _ => w.wf
  | .crsLeadWrite w _ => w.wf
  | .crsParentWrite w _ => w.wf
  | .armPush w _ => w.wf
  | .armCancel w _ => w.wf
  | .handover => true
  | .epochFence => true
  | .pattern => true
  | .step => true
  | .history => true
  | .snapshot => true
  | .deadline => true
  | .notBefore => true
  | .benchArm => true
  | .signalArm => true
  | .ledgerRecordWrite => true
  | .ledgerTailWrite w _ => w.wf
  | .flitSend l => decide (l < 64)
  | .flitReceive l _ => decide (l < 64)
  | .timeFlitReceive l _ _ => decide (l < 64)
  | .ackTimeout l => decide (l < 64)
  | .retrainComplete l => decide (l < 64)
  | .laserOutOfLimits g _ _ => decide (g < 8)
  | .linkEnable w l _ => w.wf && decide (l < 64)
  | .calibrationDone l _ => decide (l < 64)
  | .trainingDone l _ => decide (l < 64)
  | .exchangeDone l _ _ _ => decide (l < 64)
  | .authenticationDone l _ _ _ => decide (l < 64)
  | .rekey l _ _ _ => decide (l < 64)
  | .packetForward => true
  | .packetDeliver => true
  | .creditStall l v => decide (l < 64) && decide (v < 4)
  | .lnkCntClear w l _ => w.wf && decide (l < 64)
  | .lnkPatValidWrite w _ => w.wf
  | .gather => true
  | .broadcast => true
  | .allToAll => true
  | .pointToPoint => true
  | .chainReduce => true
  | .chainReduceScatter => true
  | .courseBarrier => true
  | .chainStep => true
  | .updatePiece => true
  | .colData => true
  | .chainSum => true
  | .p2pData => true
  | .snapData => true
  | .colGrant => true
  | .colArrive => true
  | .colReject => true
  | .conversationDone => true
  | .barrierCourse => true
  | .requestDeadline => true
  | .colGroupLoad w _ => w.wf
  | .colGroupUnload w _ => w.wf
  | .colSubmit w _ => w.wf
  | .colBackupSet w _ => w.wf
  | .colCntClear w _ => w.wf
  | .colEpochWrite w p _ => w.wf && decide (p < 16)
  | .doorbell f q _ n _ => decide (f < 16) && decide (q < 65536) && decide (n ≤ 8)
  | .dispatch p => decide (p < 16)
  | .fence p => decide (p < 16)
  | .reserve p => decide (p < 16)
  | .dispatchComplete q _ => decide (q < 65536)
  | .commandExpire p => decide (p < 16)
  | .drainStart => true
  | .ownerActive p => decide (p < 16)
  | .queModeNow w _ => w.wf
  | .quePartReset w p _ => w.wf && decide (p < 16)
  | .quePartCntClear w p _ => w.wf && decide (p < 16)
  | .fltAck w p _ => w.wf && decide (p < 16)
  | .fltStop w p _ => w.wf && decide (p < 16)
  | .stopNotice => true
  | .fltFrog w p _ => w.wf && decide (p < 16)
  | .requalStart w _ => w.wf
  | .requalAbort w _ => w.wf
  | .requalVerdict badCh badCore => badCh.all (fun c => decide (c < 64)) && badCore.all (fun n => decide (n < 128))
  | .evidencePost w _ => w.wf
  | .healthDecay => true
  | .swatchCheck => true
  | .inServiceTest n a _ _ _ _ _ => decide (n < 128) && decide (a < 4)
  | .hostLinkTrained rate width flit _ => decide (rate < 3) && (width == 8 || width == 16) && (flit == decide (rate ≠ 0))
  | .hostLinkLoss _ _ => true
  | .hostLinkWaitExpiry k => decide (k < 512)
  | .bar2Access f _ _ _ => decide (f < 16)
  | .hostReadCompletion w a _ _ _ => w.wf && decide (a < 2 ^ 48)
  | .hostReadTimeout w a => w.wf && decide (a < 2 ^ 48)
  | .atsInvalidation f _ _ => decide (f < 16)
  | .msixUnmask f v => decide (f < 16) && decide (v < 2048)
  | .ideIntegrityFail k => decide (k < 5)
  | .functionLevelReset f => decide (f < 16)
  | .d3hotExit f => decide (f < 16)
  | .cxlRetrain p => decide (p < 2)
  | .cxlPortLoss p => decide (p < 2)
  | .hdmCommit w p n _ => w.wf && decide (p < 2) && decide (n < 4)
  | .query => true
  | .reglist => true
  | .startJob => true
  | .fwUpdate _ => true
  | .calWrite => true
  | .calRun => true
  | .requal => true
  | .progLoad => true
  | .pldmFwUpdate _ => true
  | .mctpMessage ty _ => decide (ty < 128)
  | .spdmRequest _ _ _ _ => true
  | .debugUnlockToken _ => true
  | .ctlxLockSet w _ => w.wf
  | .ctlCacheError unit _ => decide (unit < 4096)
  | .heartbeatTimeout => true
  | .moduleReset _ => true
  | .rtuSelfTest _ => true
  | .imageVerify _ => true
  | .pllStable => true
  | .domainRampStep d => decide (d < 4)
  | .referenceLost => true
  | .pllLockLoss => true
  | .powerManagerCourse _ _ => true
  | .fasterStep => true
  | .coreGate c => decide (c < 128)
  | .sensorSample k _ => decide (k < 68)
  | .supplyCheck _ _ => true
  | .inputUndervoltage _ => true
  | .pwrCntClear w _ => w.wf
  | .registerWrite w _ n _ => w.wf && decide (n ≤ 8)
  | .laserWithinLimits g _ _ => decide (g < 8)
  | .wavelengthDrift g => decide (g < 8)
  | .cxlLinkUp p rate width _ _ => decide (p < 2) && decide (rate < 2) && decide (width < 32)
  | .cxlMediaErrorLogged p => decide (p < 2)
  | .pcieConfigWrite f c => decide (f < 16) && c.wf
  | .i3cAddressAssignment _ static_ dyn => decide (static_ < 128) && decide (dyn < 128)

end Sys2Proof
end

