-- ==== Sys2Proof/Safety.lean ====
section
/-!
DEFINITION. The terms that claims about the machine use: what every step keeps, and when a unit takes a command and runs it at once.
-/

namespace Sys2Proof.Machine

open Sys2Proof

/-- No stored word of the memory has an error. -/
def State.NoErr (s : State) : Prop := s.ecc = [] ∧ s.sp.err = []

/-- No channel initialises its sectors or retrains, no CXL port retrains and the host link is up, so no access waits (R234, R235, R402,
R415). -/
def State.Settled (s : State) : Prop :=
  (∀ c ∈ s.u.mem.ch, c.2.state ≠ 1 ∧ c.2.state ≠ 3) ∧ (∀ p ∈ s.u.host.cxl, p.2.st ≠ 3) ∧ s.u.host.st = 2

/-- No stored word is in error, no access waits for a channel, and no injection is armed (R232, R234, R235, R248). -/
structure State.Calm (s : State) : Prop where
  noErr : s.NoErr
  settled : s.Settled
  unarmed : bitOf (s.reg 0 0xC00018) 63 = false

/-! ### What every step keeps -/

/-- Memory, and what EDF keeps of it while sectors are initialised (R234), are in canonical form: addresses rising, no entry at the 0 that
an unlisted address reads as. -/
structure Canonical (s : State) : Prop where
  mem : SMap.wf 0 s.mem = true
  keep : SMap.wf 0 s.u.mem.keep = true

/-- What every command but a module reset keeps: the part, the queue of commands, canonical memory, and what only module reset undoes: the
locks (R428), a thermal trip (R461), a clock loss (R451) and open debug (R437). -/
structure Keeps (s t : State) : Prop where
  part : t.part = s.part
  pending : t.pending = s.pending
  canonical : Canonical s → Canonical t
  locked : s.locked = true → t.locked = true
  tripped : s.u.pow.tripped = true → t.u.pow.tripped = true
  loss : s.u.pow.loss ≠ 0 → t.u.pow.loss ≠ 0
  debug : s.u.ctl.debugOpen = true → t.u.ctl.debugOpen = true

/-- The commands that can be a module reset (R462, R472, R482). -/
def mayReset : Instr → Prop
  | .moduleReset _ | .supplyCheck _ _ | .inputUndervoltage _ => True
  | _ => False

/-! ### Cores -/

/-- No bundle waits at any core (R100). -/
def Quiet (s : State) : Prop := ∀ n, (s.core n).seq.q = []

/-- Core n runs and takes a bundle at once: it is not frozen or ending, nothing of a bundle has been given, no bundle waits, and its
clock is on (R97, R100, R457). -/
structure Ready (s : State) (n : Nat) : Prop where
  unit : n < s.nCores
  run : (s.core n).seq.run = .running
  frozen : (s.core n).seq.frozen = false
  ending : (s.core n).seq.ending = false
  openB : (s.core n).seq.openB = []
  stalled : (s.core n).seq.stalled = false
  unmet : (s.core n).seq.unmet = false
  stopped : s.stopped = false
  quiet : Quiet s
  awake : coreAwake s n = true

/-- A slot given alone is legal (R99) and keeps to its side of the W bank (R156, R157). -/
structure Legal (s : State) (n : Nat) (i : SlotI) : Prop where
  bits : slotIllegal i = false
  bank : bankConflict (s.core n).seq.wmode (s.core n).seq.infrag (slotRes i) = false
  frag : ((s.core n).seq.wmode && (s.core n).seq.infrag && fragForbidden i) = false

/-- The bundle after this one lies where bundles may (R98). -/
def NextOk (s : State) (n : Nat) : Prop := fetchOk s n ((s.core n).seq.baddr + 32) = true

/-- Core n as k, and its next bundle address a; nothing else changes. -/
def goesTo (s : State) (n : Nat) (k : Core) (a : Addr) : State := s.setCore n { k with seq := { k.seq with baddr := a } }

/-- Core n with registers r at the next bundle; nothing else changes. -/
def nextBundle (s : State) (n : Nat) (r : CoreRegs) : State :=
  goesTo s n { s.core n with r } ((s.core n).seq.baddr + 32)

/-- A write of memory changes nothing beside memory, what is remembered of writes, and core n; registers stay while no injection is armed
(R248). -/
structure OnlyMem (s t : State) (n : Nat) : Prop where
  regs : bitOf (s.reg 0 0xC00018) 63 = false → t.regs = s.regs
  cores : ∀ k, k ≠ n → t.core k = s.core k
  rest : t.part = s.part ∧ t.owners = s.owners ∧ t.images = s.images ∧ t.course = s.course ∧ t.bench = s.bench ∧ t.tiles = s.tiles ∧
    t.creqs = s.creqs ∧ t.u = s.u ∧ t.fresh = s.fresh ∧ t.pending = s.pending

/-- Registers r after a lane-wise V slot with operand bits w: the active lanes of its destination take f, its other lanes and every other
register stay, and the flags of the active lanes join the sticky ones (R122, R134). -/
structure LaneWise (r r' : CoreRegs) (w : BitVec 57) (f : Nat → LRes) : Prop where
  lanes : ∀ i < 64, lane (r'.vreg (fld w 52 47)) i =
    if bitOf w 56 = false ∨ bitOf (r.preg (fld w 55 53)) i = true then (f i).v % 2 ^ 32 else lane (r.vreg (fld w 52 47)) i
  others : ∀ k, k ≠ fld w 52 47 → r'.vreg k = r.vreg k
  nv : r'.vs.nv = true ↔ r.vs.nv = true ∨ ∃ i < 64, (bitOf w 56 = false ∨ bitOf (r.preg (fld w 55 53)) i = true) ∧ (f i).fl.nv = true
  dz : r'.vs.dz = true ↔ r.vs.dz = true ∨ ∃ i < 64, (bitOf w 56 = false ∨ bitOf (r.preg (fld w 55 53)) i = true) ∧ (f i).fl.dz = true
  of : r'.vs.of = true ↔ r.vs.of = true ∨ ∃ i < 64, (bitOf w 56 = false ∨ bitOf (r.preg (fld w 55 53)) i = true) ∧ (f i).fl.of = true
  uf : r'.vs.uf = true ↔ r.vs.uf = true ∨ ∃ i < 64, (bitOf w 56 = false ∨ bitOf (r.preg (fld w 55 53)) i = true) ∧ (f i).fl.uf = true
  rest : r'.s = r.s ∧ r'.p = r.p ∧ r'.t = r.t ∧ r'.g = r.g ∧ r'.sem = r.sem

/-! ### Bench engines -/

/-- Engine e of the part runs launch l, and the host port has not failed (R201, R205, R402). -/
structure Runs (s : State) (e : Nat) (l : Launch) : Prop where
  unit : e < s.nCh
  cur : (s.eng e).cur = some l
  run : (s.eng e).running = true
  port : linkGone s = false

/-- Engine e as x at instruction n, or where the loops that x is in take it from there; the instruction took a free number of cycles, and
nothing else changes (R205, R227). -/
def benchAt (s : State) (e : Nat) (x : Engine) (n : Nat) : State :=
  { s with fresh := s.fresh + 1 }.setEng e { x with
    pc := (loopNext x.loops n).2, loops := (loopNext x.loops n).1, cntBusy := satAdd 48 (s.eng e).cntBusy (Config.cycles s.fresh) }

/-- Engine e as x at the next instruction. -/
def benchNextAt (s : State) (e : Nat) (x : Engine) : State := benchAt s e x ((s.eng e).pc + 1)

/-- Engine e runs launch l of standard program `slot`, which asks for no result, nothing in memory holds it up, and
its slice's line is still as the launch read it (R205, R214, R328). -/
structure StdRuns (s : State) (e slot : Nat) (l : Launch) : Prop where
  unit : e < s.nCh
  cur : (s.eng e).cur = some l
  run : (s.eng e).running = true
  result : l.result = false
  slot : l.slot = slot
  line : ∀ x, l.line = some x → s.bytes x.1 128 = x.2
  calm : s.Calm

/-- The program of engine e took a free number of cycles (R227). -/
def stdBusy (s : State) (e : Nat) : State :=
  { s with fresh := s.fresh + 1 }.setEng e { s.eng e with cntBusy := satAdd 48 (s.eng e).cntBusy (Config.cycles s.fresh) }

/-- u with launch l of engine e at its end: the lines it moved from state s on are counted, the engine is idle, and the end of an EDF launch
raises source 6 (R205, R227, R422). -/
def stdEnded (s u : State) (e : Nat) (l : Launch) : State :=
  (u.setEng e { u.eng e with st := .idle, cur := none, cntLines := satAdd 48 (u.eng e).cntLines (lineSum (stdSpans s e l)) }).pendIf 6 l.edf

/-! ### Save areas -/

/-- A register table lists each number at most once, and only numbers below n. -/
def tableOk {α : Type} (n : Nat) (m : SMap α) : Prop := (m.map (fun e => e.1)).Nodup ∧ ∀ e ∈ m, e.1 < n

/-- A half keeps to an element store of n bytes: its K blocks of at most 32 columns or rows, and each block its 32 elements (R107). -/
structure HalfFits (n : Nat) (h : Half) : Prop where
  size : storeBytes h.fmt * (32 * h.blocks.length) ≤ n
  cols : ∀ l ∈ h.blocks, l.length ≤ 32
  els : ∀ l ∈ h.blocks, ∀ b ∈ l, b.el.length ≤ 32

/-- A core's registers, queues and buffers keep to their numbers, depths and sizes (R95, R107, R144, R149, R158). -/
structure CoreFits (k : Core) : Prop where
  s : tableOk 32 k.r.s
  v : tableOk 64 k.r.v
  p : tableOk 8 k.r.p
  t : tableOk 16 k.r.t
  g : tableOk 8 k.r.g
  sem : tableOk 64 k.r.sem
  semv : ∀ e ∈ k.r.sem, e.2 < 2 ^ 32
  wq : k.seq.wq.length ≤ 64
  dma : ∀ q, (k.dmaq q).xs.length ≤ 16
  pend : k.m.pend.length ≤ 16
  reqs : k.reqs.length ≤ 32
  reqv : ∀ r ∈ k.reqs, r < 64
  carry : tableOk 4 k.m.carry
  vals : ∀ e ∈ k.m.carry, ∀ l ∈ e.2.vals, l.length ≤ 31
  wh : ∀ h < 2, HalfFits 0x10000 (k.m.whalf h)
  fh : ∀ a < 4, ∀ h < 2, HalfFits 0x8000 (k.m.fhalf a h)

/-! ### Registers -/

/-- The instances that the register tables list (R466, R468). -/
def Reg.listed : Reg → Prop
  | .pwrSensor i => i < 68
  | .fltSuspect i => i < 32
  | .fltDfirst i | .crsArm i => i < 4
  | .foCtrl p | .foRingBase p | .foRingPtr p | .foHorizon p | .foCntFrog p | .qpState p | .qpClear p | .colEpoch p | .hfCtrl p | .hfVec p
  | .hfStatus p | .memLog p => p < 16
  | .foFirst p i | .foOvf p i | .qpCnt p i => p < 16 ∧ i < 4
  | .qpCfg p i => p < 16 ∧ i < 8
  | .lnkGroup g | .btStatus g => g < 8
  | .crsLink l | .lnkCfg l | .lnkStatus l | .lnkRetry l | .lnkFec l | .lnkClear l | .mcStatus l | .mcLevels l | .mcCe l | .mcRetry l | .mcCompat l
  | .mcClear l | .beState l | .beBusy l | .beLines l | .beClear l => l < 64
  | .lnkMask i | .lnkPolicy i => i < 16384
  | .bncSnapDest i | .cxlStatus i => i < 2
  | .hdmBase p n | .hdmCtrl p n => p < 2 ∧ n < 4
  | .coreMap n | .coreArrays n | .coreSkein n | .coreClear n | .coreStatus n | .coreBaddr n | .corePreempt n | .coreSaveBase n | .coreSaveBanks n
  | .coreWclear n | .coreSramce n | .coreStage n => n < 128
  | .coreBypass n i => n < 128 ∧ i < 2
  | .coreCnt n i => n < 128 ∧ i < 4
  | .coreWcnt n i => n < 128 ∧ i < 3
  | _ => True

/-- Registers whose RW fields only hold what is written: a write has no other effect. -/
def Reg.plain : Reg → Bool
  | .pwrLimit | .pwrCtrl | .pwrSlew | .pwrTherm | .fltHcfg | .fltSwatch | .crsLimits | .crsLedgerBase | .queQtable | .queHo | .lnkPatValid
  | .lnkLimits | .lnkMask _ | .lnkPolicy _ | .colCtrl | .colGroupBase | .colSnapWin | .memBucket | .memInject | .bncScale | .bncSlice
  | .bncProgValid | .bncSnapDest _ | .coreArrays _ | .coreBypass _ _ | .coreStage _ | .coreSaveBase _ | .coreSaveBanks _ | .hfCtrl _ | .hfVec _ => true
  | _ => false

/-- Bit i of a register lies in one of its RW fields (R18). -/
def Reg.rwBit (r : Reg) (i : Nat) : Bool := r.fields.any (fun f => f.acc == .rw && decide (f.lo ≤ i) && decide (i ≤ f.hi))

/-- A register's stored fields after a 64-bit write of v: RW fields as written, the others as they were (R18). -/
def rwPut (s : State) (r : Reg) (v : W64) : W64 := BitVec.ofNat 64 (flags ((List.range 64).map (fun i => if r.rwBit i then v.getLsbD i else (s.stored r).getLsbD i)))

end Sys2Proof.Machine
end

