-- ==== Sys2Proof/Certificates/Slice0/Obligations.lean ====
section
/-!
DEFINITION. The obligations: what is claimed of the machine, rule by rule.
-/


open Sys2Proof Sys2Proof.Machine

/-- On a core that is ready, a legal SADD, SSUB, SMUL, SAND, SOR, SXOR, SSHL, SSHR, SSRA, SADDI, SLI or SLUI alone in its bundle writes SD with the value of the table and goes to the next bundle; nothing else of the machine changes (05, table S-slot encodings (R150)). -/
def Obligations.ScalarArithmetic : Prop :=
  ∀ (s : State) (n : Nat) (w : BitVec 57), Ready s n → NextOk s n →
    let r := (s.core n).r
    let d := fld w 56 52
    let a := r.sreg (fld w 51 47)
    let b := r.sreg (fld w 46 42)
    let imm : W64 := BitVec.ofInt 64 (signed 32 (fld w 31 0))
    (Legal s n ⟨3, 0x01, w⟩ → exec (.sadd n false w) s = .next (nextBundle s n (r.setS d (a + b)))) ∧
    (Legal s n ⟨3, 0x02, w⟩ → exec (.ssub n false w) s = .next (nextBundle s n (r.setS d (a - b)))) ∧
    (Legal s n ⟨3, 0x03, w⟩ → exec (.smul n false w) s = .next (nextBundle s n (r.setS d (a * b)))) ∧
    (Legal s n ⟨3, 0x04, w⟩ → exec (.sand n false w) s = .next (nextBundle s n (r.setS d (a &&& b)))) ∧
    (Legal s n ⟨3, 0x05, w⟩ → exec (.sor n false w) s = .next (nextBundle s n (r.setS d (a ||| b)))) ∧
    (Legal s n ⟨3, 0x06, w⟩ → exec (.sxor n false w) s = .next (nextBundle s n (r.setS d (a ^^^ b)))) ∧
    (Legal s n ⟨3, 0x07, w⟩ → exec (.sshl n false w) s = .next (nextBundle s n (r.setS d (a <<< (b.toNat % 64))))) ∧
    (Legal s n ⟨3, 0x08, w⟩ → exec (.sshr n false w) s = .next (nextBundle s n (r.setS d (a >>> (b.toNat % 64))))) ∧
    (Legal s n ⟨3, 0x09, w⟩ → exec (.ssra n false w) s = .next (nextBundle s n (r.setS d (a.sshiftRight (b.toNat % 64))))) ∧
    (Legal s n ⟨3, 0x0A, w⟩ → exec (.saddi n false w) s = .next (nextBundle s n (r.setS d (a + imm)))) ∧
    (Legal s n ⟨3, 0x0B, w⟩ → exec (.sli n false w) s = .next (nextBundle s n (r.setS d imm))) ∧
    (Legal s n ⟨3, 0x0C, w⟩ → exec (.slui n false w) s = .next (nextBundle s n (r.setS d
      (BitVec.ofNat 64 (fld w 31 0 * 2 ^ 32 + (r.sreg d).toNat % 2 ^ 32)))))

/-- With the offset sa + 8 × index within the populated scratchpad and no error in a stored word, SLD writes SD with the 8 bytes there and nothing else, and SST stores sb there: those 8 bytes read as sb, every other byte of memory reads as before, and of the rest only the bundle address changes (05, table S-slot encodings (R150), 00, byte order (R13)). -/
def Obligations.ScalarLoadStore : Prop :=
  ∀ (s : State) (n : Nat) (w : BitVec 57), Ready s n → NextOk s n →
    let r := (s.core n).r
    let off := (r.sreg (fld w 51 47) + BitVec.ofNat 64 (8 * fld w 23 0)).toNat
    let a := spBase n + off
    off + 8 ≤ spSize → s.NoErr →
    (Legal s n ⟨3, 0x10, w⟩ → exec (.sld n false w) s = .next (nextBundle s n (r.setS (fld w 56 52) (BitVec.ofNat 64 (leNat (s.bytes a 8)))))) ∧
    (Legal s n ⟨3, 0x11, w⟩ → ∃ t, exec (.sst n false w) s = .next t ∧
      leNat (t.bytes a 8) = (r.sreg (fld w 46 42)).toNat ∧
      (∀ x, ¬ (a ≤ x ∧ x < a + 8) → t.byte x = s.byte x) ∧
      t.core n = { s.core n with seq := { (s.core n).seq with baddr := (s.core n).seq.baddr + 32 } } ∧ OnlyMem s t n)

/-- A legal BR goes to the branching bundle's address plus 32 times the signed offset, and a BRC does so exactly when its condition, EQ, NE, LT signed, GE signed, LT unsigned or GE unsigned by code 0 to 5, holds of sa and sb; where the address reached is one of R98, nothing else changes. A legal END outside W mode makes a core without transfers and requests idle, and one with work stops issuing; registers and memory stay (05, branches (R150), 05, END (R150), 13, the end of a dispatch (R357)). -/
def Obligations.BranchesAndEnd : Prop :=
  (
    ∀ (s : State) (n : Nat) (w : BitVec 57), Ready s n →
      let r := (s.core n).r
      let a := r.sreg (fld w 51 47)
      let b := r.sreg (fld w 46 42)
      let pc := (s.core n).seq.baddr
      let target : Addr := BitVec.ofInt 48 ((pc.toNat : Int) + 32 * signed 32 (fld w 31 0))
      let holds : Prop := match fld w 41 39 with
        | 0 => a = b
        | 1 => a ≠ b
        | 2 => a.toInt < b.toInt
        | 3 => b.toInt ≤ a.toInt
        | 4 => a.toNat < b.toNat
        | _ => b.toNat ≤ a.toNat
      (Legal s n ⟨3, 0x18, w⟩ → fetchOk s n target = true → exec (.br n false w) s = .next (goesTo s n (s.core n) target)) ∧
      (Legal s n ⟨3, 0x19, w⟩ → holds → fetchOk s n target = true → exec (.brc n false w) s = .next (goesTo s n (s.core n) target)) ∧
      (Legal s n ⟨3, 0x19, w⟩ → ¬ holds → NextOk s n → exec (.brc n false w) s = .next (nextBundle s n r))) ∧
  (
    ∀ (s : State) (n : Nat), Ready s n → Legal s n ⟨3, 0x1A, 0⟩ → (s.core n).seq.wmode = false →
      ∃ t, exec (.coreEnd n false 0) s = .next t ∧ t.mem = s.mem ∧ t.regs = s.regs ∧ (∀ c, c ≠ n → t.core c = s.core c) ∧
        (t.core n).r = (s.core n).r ∧ (t.core n).m = (s.core n).m ∧ (t.core n).dma = (s.core n).dma ∧
        ((∀ q < 4, ((s.core n).dmaq q).xs = []) ∧ (s.core n).reqs = [] → (t.core n).seq.run = .idle) ∧
        (¬ ((∀ q < 4, ((s.core n).dmaq q).xs = []) ∧ (s.core n).reqs = []) → (t.core n).seq.run = .running ∧ (t.core n).seq.ending = true))

/-- A legal SRD writes SD with the value its code selects: the course counter, the job's step number, VSTATUS, the core number or the presented width; a code from 5 is invalid. A legal VSCLR clears the flags of VSTATUS that its mask selects. A NOP in any slot only goes on. Nothing else changes (R155). -/
def Obligations.StatusReads : Prop :=
  ∀ (s : State) (n : Nat) (w : BitVec 57), Ready s n → NextOk s n →
    let r := (s.core n).r
    let bit := fun (b : Bool) (k : Nat) => if b then 2 ^ k else 0
    (Legal s n ⟨3, 0x30, w⟩ → exec (.srd n false w) s = .next (nextBundle s n (r.setS (fld w 56 52) (match fld w 3 0 with
      | 0 => s.course
      | 1 => (s.jobOf (s.ownerOfCore n)).step
      | 2 => BitVec.ofNat 64 (bit r.vs.nv 0 + bit r.vs.dz 1 + bit r.vs.of 2 + bit r.vs.uf 3)
      | 3 => BitVec.ofNat 64 n
      | _ => BitVec.ofNat 64 (s.width n))))) ∧
    (Legal s n ⟨3, 0x31, w⟩ → exec (.vsclr n false w) s = .next (nextBundle s n { r with vs :=
      { nv := r.vs.nv && !bitOf w 0, dz := r.vs.dz && !bitOf w 1, of := r.vs.of && !bitOf w 2, uf := r.vs.uf && !bitOf w 3 } })) ∧
    (5 ≤ fld w 3 0 → slotIllegal ⟨3, 0x30, w⟩ = true) ∧
    (∀ k < 4, exec (.nop n false k 0) s = .next (nextBundle s n r))

/-- A legal WAIT whose semaphore holds at least N subtracts N. A legal WAITC whose course is reached goes on, and counts in CORE_CNT_LATEC when the course had passed. A legal SIGNAL whose sum stays below 2^32 adds N to the semaphore of its own core, or with REM of the core of its owner that sc names. Nothing else changes. The model's choices in it, where the spec leaves a point open: a course has passed when it is below the counter, and a deadline counts for a WAIT that waits (log 33) (R151, R152, R154). -/
def Obligations.SemaphoresAndWaits : Prop :=
  ∀ (s : State) (n : Nat) (w : BitVec 57), Ready s n → NextOk s n →
    let k := s.core n
    let r := k.r
    let sem := fld w 56 51
    let cnt := fld w 50 43
    let course := (r.sreg (fld w 56 52)).toNat
    let c := if bitOf w 42 then (r.sreg (fld w 41 37)).toNat else n
    (Legal s n ⟨3, 0x20, w⟩ → cnt ≤ r.semv sem → exec (.wait n false w) s = .next (nextBundle s n (r.setSem sem (r.semv sem - cnt)))) ∧
    (Legal s n ⟨3, 0x21, w⟩ → course ≤ s.course.toNat → exec (.waitc n false w) s = .next (goesTo s n { k with seq := { k.seq with
      cntLatec := if course < s.course.toNat then satAdd 48 k.seq.cntLatec 1 else k.seq.cntLatec } } (k.seq.baddr + 32))) ∧
    (Legal s n ⟨3, 0x22, w⟩ → c < s.nCores → s.ownerOfCore c = s.ownerOfCore n → (s.core c).r.semv sem + cnt < 2 ^ 32 →
      let t := s.setCore c { s.core c with r := (s.core c).r.setSem sem ((s.core c).r.semv sem + cnt) }
      exec (.signal n false w) s = .next (goesTo t n (t.core n) (k.seq.baddr + 32)))

/-- Outside a fragment: a legal WMODE switches W mode to ON when it is in the other mode and, for 0, no fragment is queued; with W mode on and fewer than 64 entries queued a DEFER appends the entry of its address, argument and tag; a WFLUSH with an empty queue goes on. In a fragment, a WEND with slot 3 of every array FREE or DRAINING and no source of a queue 3 transfer to read ends it: the core is back at the address it came from, and the main program's waiting bundle stands first in the queue. The model's choices in it, where the spec leaves a point open: fragments run before their bundle issues (log 32) (R156, R157, R158, R159). -/
def Obligations.Deferral : Prop :=
  ∀ (s : State) (n : Nat) (w : BitVec 57), Ready s n → NextOk s n →
    let k := s.core n
    let q := k.seq
    let on := bitOf w 56
    (Legal s n ⟨3, 0x2B, w⟩ → q.infrag = false → q.wmode = !on → q.wq = [] →
      exec (.wmode n false w) s = .next (goesTo s n { k with seq := { q with wmode := on } } (q.baddr + 32))) ∧
    (Legal s n ⟨3, 0x28, w⟩ → q.infrag = false → q.wmode = true → q.wq.length < 64 →
      exec (.defer n false w) s = .next (goesTo s n { k with seq := { q with
        wq := q.wq ++ [⟨k.r.sreg (fld w 56 52), k.r.sreg (fld w 51 47), fld w 15 0⟩] } } (q.baddr + 32))) ∧
    (Legal s n ⟨3, 0x2A, w⟩ → q.infrag = false → q.wq = [] → exec (.wflush n false w) s = .next (nextBundle s n k.r)) ∧
    (Legal s n ⟨3, 0x29, w⟩ → q.infrag = true → fetchOk s n q.raddr = true →
      (∀ a < 4, (k.m.skein (4 * a + 3)).st = .free ∨ (k.m.skein (4 * a + 3)).st = .draining) → dmaReads (k.dmaq 3) = false →
      ∃ t, exec (.wend n false w) s = .next (settle t) ∧ t.mem = s.mem ∧ t.regs = s.regs ∧ (∀ c, c ≠ n → t.core c = s.core c) ∧
        (t.core n).r = k.r ∧ (t.core n).m = k.m ∧ (t.core n).seq.infrag = false ∧ (t.core n).seq.baddr = q.raddr ∧
        (t.core n).seq.q = q.main.toList ∧ (t.core n).seq.wq = q.wq)

/-- A legal VADD, VSUB, VMUL, VFMA, VMIN, VMAX, VABS or VNEG alone in its bundle gives every active lane of VD the rounded result on the lanes of its sources, in FP32 or, with MOD[23], on both BF16 elements; inactive lanes and all other registers stay, and flags only gather (04, table V-slot instructions (R125), 04, lanes and predication (R122), 04, arithmetic (R123, R134)). -/
def Obligations.VectorArithmetic : Prop :=
  ∀ (s : State) (n : Nat) (w : BitVec 57), Ready s n → NextOk s n →
    let r := (s.core n).r
    let ed := Config.tinyEdge
    let ops : List ((Nat → Bool → BitVec 57 → Instr) × Nat × (Nat → Nat → Nat → Nat → FRes)) := [
      (Instr.vadd, 0x01, fun fb a b _ => fAdd fb ed a b), (Instr.vsub, 0x02, fun fb a b _ => fSub fb ed a b),
      (Instr.vmul, 0x03, fun fb a b _ => fMul fb ed a b), (Instr.vfma, 0x04, fun fb a b c => fFma fb ed (bitOf w 22) (bitOf w 21) a b c),
      (Instr.vmin, 0x05, fun fb a b _ => fMinMax fb false a b), (Instr.vmax, 0x06, fun fb a b _ => fMinMax fb true a b),
      (Instr.vabs, 0x07, fun fb a _ _ => fAbs fb a), (Instr.vneg, 0x08, fun fb a _ _ => fNeg fb a)]
    ∀ p ∈ ops, Legal s n ⟨1, p.2.1, w⟩ →
      ∃ r', exec (p.1 n false w) s = .next (nextBundle s n r') ∧ LaneWise r r' w (fun i =>
        let a := lane (r.vreg (fld w 46 41)) i
        let b := lane (r.vreg (fld w 40 35)) i
        let c := lane (r.vreg (fld w 34 29)) i
        if bitOf w 23 then
          let lo := p.2.2 7 (a % 65536) (b % 65536) (c % 65536)
          let hi := p.2.2 7 (a / 65536) (b / 65536) (c / 65536)
          ⟨lo.bits + 65536 * hi.bits, lo.fl.or hi.fl⟩
        else ⟨(p.2.2 23 a b c).bits, (p.2.2 23 a b c).fl⟩)

/-- A legal VDIV, VSQRT, VRSQRT, VEXP, VEXP2, VLOG2, VTANH, VSIG, VFN or VCVT alone in its bundle gives every active lane of VD its function of the lanes of VA and VB; inactive lanes and all other registers stay, and flags only gather. The model's choices in it, where the spec leaves a point open: which functions are correctly rounded and how (log 9); a NaN g of VFN 0x11 and 0x21 (log 204); flags of functions of several steps (log 205) (04, vector functions (R124, R127), 04, conversions (R126), 04, table V-slot instructions (R125)). -/
def Obligations.VectorFunctions : Prop :=
  ∀ (s : State) (n : Nat) (w : BitVec 57), Ready s n → NextOk s n →
    let r := (s.core n).r
    let ed := Config.tinyEdge
    let one := fun (x : FRes) => (⟨x.bits, x.fl⟩ : LRes)
    let ops : List ((Nat → Bool → BitVec 57 → Instr) × Nat × (Nat → Nat → LRes)) := [
      (Instr.vdiv, 0x09, fun a b => one (fDiv 23 ed a b)), (Instr.vsqrt, 0x0A, fun a _ => one (fSqrt 23 ed a)),
      (Instr.vrsqrt, 0x0B, fun a _ => one (fRsqrt 23 ed a)), (Instr.vexp, 0x0C, fun a _ => one (fExp ed a)),
      (Instr.vexp2, 0x0D, fun a _ => one (fExp2 ed a)), (Instr.vlog2, 0x0E, fun a _ => one (fLog2 ed a)),
      (Instr.vtanh, 0x0F, fun a _ => one (fTanh ed a)), (Instr.vsig, 0x10, fun a _ => one (fSig ed a)),
      (Instr.vfn, 0x11, fun a b => ⟨(drainFn ed (fld w 7 0) a b).v, (drainFn ed (fld w 7 0) a b).fl⟩),
      (Instr.vcvt, 0x28, fun a b => match fld w 3 0 with
        | 0 => one (fCvt ed 23 7 a)
        | 1 => one (fCvt ed 7 23 (a % 65536))
        | 2 => one (fToInt32 a)
        | 3 => one (fOfInt32 a)
        | 4 => ⟨(fCvt ed 23 7 a).bits + 65536 * (fCvt ed 23 7 b).bits, (fCvt ed 23 7 a).fl.or (fCvt ed 23 7 b).fl⟩
        | _ => one (fCvt ed 7 23 (a / 65536)))]
    ∀ p ∈ ops, Legal s n ⟨1, p.2.1, w⟩ →
      ∃ r', exec (p.1 n false w) s = .next (nextBundle s n r') ∧
        LaneWise r r' w (fun i => p.2.2 (lane (r.vreg (fld w 46 41)) i) (lane (r.vreg (fld w 40 35)) i))

/-- A legal VIADD, VISUB, VAND, VOR, VXOR, VSHL, VSHR, VSRA, VBCAST or VPERM alone in its bundle gives every active lane of VD the 32-bit result of the table; inactive lanes, the flags and all other registers stay (04, table V-slot instructions (R125), 04, lanes and predication (R122)). -/
def Obligations.VectorInteger : Prop :=
  ∀ (s : State) (n : Nat) (w : BitVec 57), Ready s n → NextOk s n →
    let r := (s.core n).r
    let x := fun (i : Nat) => BitVec.ofNat 32 (lane (r.vreg (fld w 46 41)) i)
    let y := fun (i : Nat) => BitVec.ofNat 32 (lane (r.vreg (fld w 40 35)) i)
    let ops : List ((Nat → Bool → BitVec 57 → Instr) × Nat × (Nat → W32)) := [
      (Instr.viadd, 0x20, fun i => x i + y i), (Instr.visub, 0x21, fun i => x i - y i), (Instr.vand, 0x22, fun i => x i &&& y i),
      (Instr.vor, 0x23, fun i => x i ||| y i), (Instr.vxor, 0x24, fun i => x i ^^^ y i),
      (Instr.vshl, 0x25, fun i => x i <<< ((y i).toNat % 32)), (Instr.vshr, 0x26, fun i => x i >>> ((y i).toNat % 32)),
      (Instr.vsra, 0x27, fun i => (x i).sshiftRight ((y i).toNat % 32)),
      (Instr.vbcast, 0x29, fun _ => (r.sreg (fld w 28 24)).truncate 32),
      (Instr.vperm, 0x2B, fun i => x ((y i).toNat % 64))]
    ∀ p ∈ ops, Legal s n ⟨1, p.2.1, w⟩ →
      ∃ r', exec (p.1 n false w) s = .next (nextBundle s n r') ∧ LaneWise r r' w (fun i => ⟨(p.2.2 i).toNat, {}⟩)

/-- A legal VCMP gives each active bit of its destination predicate the IEEE comparison of the lanes, unordered pairs satisfying only NE and UN and +0 equal to −0, and keeps the others; condition code 7 is invalid. A legal VSEL gives each lane of VD that of VA where the predicate bit is 1 and that of VB where it is 0. A legal VEXT whose lane is active writes that lane, zero-extended, to its scalar. Nothing else changes. The model's choices in it, where the spec leaves a point open: the lane whose predicate bit VEXT asks (log 27) (04, vector operations (R125), 04, comparisons (R129)). -/
def Obligations.VectorSelectAndCompare : Prop :=
  ∀ (s : State) (n : Nat) (w : BitVec 57), Ready s n → NextOk s n →
    let r := (s.core n).r
    let a := r.vreg (fld w 46 41)
    let b := r.vreg (fld w 40 35)
    let active := fun (i : Nat) => bitOf w 56 = false ∨ bitOf (r.preg (fld w 55 53)) i = true
    let k := (r.sreg (fld w 28 24)).toNat % 64
    (Legal s n ⟨1, 0x18, w⟩ → ∃ v, exec (.vcmp n false w) s = .next (nextBundle s n (r.setP (fld w 49 47) v)) ∧
      ∀ i < 64, let x := flDecode 23 (lane a i)
        let y := flDecode 23 (lane b i)
        let un := flIsNan x = true ∨ flIsNan y = true
        (active i → (v.getLsbD i = true ↔ match fld w 22 20 with
          | 0 => ¬ un ∧ flCmp x y = .eq
          | 1 => un ∨ flCmp x y ≠ .eq
          | 2 => ¬ un ∧ flCmp x y = .lt
          | 3 => ¬ un ∧ flCmp x y ≠ .gt
          | 4 => ¬ un ∧ flCmp x y = .gt
          | 5 => ¬ un ∧ flCmp x y ≠ .lt
          | _ => un)) ∧
        (¬ active i → v.getLsbD i = (r.preg (fld w 49 47)).getLsbD i)) ∧
    (Legal s n ⟨1, 0x19, w⟩ → ∃ v, exec (.vsel n false w) s = .next (nextBundle s n (r.setV (fld w 52 47) v)) ∧
      ∀ i < 64, lane v i = if bitOf (r.preg (fld w 55 53)) i then lane a i else lane b i) ∧
    (Legal s n ⟨1, 0x2A, w⟩ → active k →
      exec (.vext n false w) s = .next (nextBundle s n (r.setS (fld w 51 47) (BitVec.ofNat 64 (lane a k))))) ∧
    (fld w 22 20 = 7 → slotIllegal ⟨1, 0x18, w⟩ = true) ∧ flCmp (flDecode 23 0) (flDecode 23 0x80000000) = .eq

/-- A legal VRED gives every active lane of VD the root of the pairwise tree over the 64 lanes in which inactive lanes enter as +0, −infinity or +infinity for the sum, maximum and minimum, and a legal VAMAX gives them the largest finite magnitude of the active lanes, +0 where there is none; inactive lanes and other registers stay (R128). -/
def Obligations.VectorReductions : Prop :=
  ∀ (s : State) (n : Nat) (w : BitVec 57), Ready s n → NextOk s n →
    let r := (s.core n).r
    let a := r.vreg (fld w 46 41)
    let active := fun (i : Nat) => bitOf w 56 = false ∨ bitOf (r.preg (fld w 55 53)) i = true
    let keeps := fun (r' : CoreRegs) (v : Nat) => (∀ i < 64, lane (r'.vreg (fld w 52 47)) i = if active i then v else lane (r.vreg (fld w 52 47)) i) ∧
      (∀ k, k ≠ fld w 52 47 → r'.vreg k = r.vreg k) ∧ r'.s = r.s ∧ r'.p = r.p ∧ r'.t = r.t ∧ r'.g = r.g ∧ r'.sem = r.sem
    let f : Nat → Nat → FRes := match fld w 1 0 with
      | 0 => fAdd 23 Config.tinyEdge
      | 1 => fMinMax 23 true
      | _ => fMinMax 23 false
    let idle := match fld w 1 0 with
      | 0 => 0
      | 1 => 0xFF800000
      | _ => 0x7F800000
    let finite := fun (i : Nat) => lane a i / 2 ^ 23 % 256 ≠ 255
    (Legal s n ⟨1, 0x2C, w⟩ → ∃ r', exec (.vred n false w) s = .next (nextBundle s n r') ∧
      ∃ tree : Nat → Nat → Nat, (∀ i < 64, tree 0 i = if active i then lane a i else idle) ∧
        (∀ k < 6, ∀ i < 2 ^ (5 - k), tree (k + 1) i = (f (tree k i) (tree k (i + 2 ^ (5 - k)))).bits) ∧ keeps r' (tree 6 0 % 2 ^ 32)) ∧
    (Legal s n ⟨1, 0x2D, w⟩ → ∃ r' m, exec (.vamax n false w) s = .next (nextBundle s n r') ∧ keeps r' m ∧ r'.vs = r.vs ∧
      (∀ i < 64, active i → finite i → lane a i % 2 ^ 31 ≤ m) ∧
      (m = 0 ∨ ∃ i < 64, active i ∧ finite i ∧ lane a i % 2 ^ 31 = m))

/-- With the offset a multiple of 64, its 256 bytes in the populated scratchpad and no error in a stored word, a legal VLD gives active lane i of VD the little-endian word at offset 4i, and a legal VST stores the active lanes there: each reads back, every other byte of memory reads as before, and of the rest only the bundle address changes. The model's choices in it, where the spec leaves a point open: the offset of VLD and VST does not wrap (log 206) (04, VLD and VST (R130), 04, lanes and predication (R122)). -/
def Obligations.VectorMemory : Prop :=
  ∀ (s : State) (n : Nat) (w : BitVec 57), Ready s n → NextOk s n →
    let r := (s.core n).r
    let off := (r.sreg (fld w 28 24)).toNat + 64 * fld w 23 0
    let a := spBase n + off
    let active := fun (i : Nat) => bitOf w 56 = false ∨ bitOf (r.preg (fld w 55 53)) i = true
    off % 64 = 0 → off + 256 ≤ spSize → s.NoErr →
    (Legal s n ⟨1, 0x30, w⟩ → ∃ r', exec (.vld n false w) s = .next (nextBundle s n r') ∧ LaneWise r r' w (fun i => ⟨leNat (s.bytes (a + 4 * i) 4), {}⟩)) ∧
    (Legal s n ⟨1, 0x31, w⟩ → ∃ t, exec (.vst n false w) s = .next t ∧
      (∀ i < 64, active i → leNat (t.bytes (a + 4 * i) 4) = lane (r.vreg (fld w 46 41)) i) ∧
      (∀ x, (∀ i < 64, active i → ¬ (a + 4 * i ≤ x ∧ x < a + 4 * i + 4)) → t.byte x = s.byte x) ∧
      t.core n = { s.core n with seq := { (s.core n).seq with baddr := (s.core n).seq.baddr + 32 } } ∧ OnlyMem s t n)

/-- With the checks of R133 passed and no error in a stored word, a legal VDEC gives active lane i of VD element sx + i of the tensor times 2^SHIFT, and times 2^T with MOD[19], as FP32; and a legal VCVTES whose blocks neither saturate nor hold a non-finite value writes the blocks of its 64 lanes and adds their counts to the tensor's scale entry, joins the flags of their conversion to the sticky ones, and only goes on. The model's choices in it, where the spec leaves a point open: the flags of VCVTES, and blocks outside the scratchpad (log 183); what a warm-up instance is (log 16); VCVTES and MX descriptors (log 26) (04, VDEC and VCVTES (R131, R132, R133), 02, conversion (R43, R44)). -/
def Obligations.VectorScaledFormats : Prop :=
  ∀ (s : State) (n : Nat) (w : BitVec 57), Ready s n → NextOk s n →
    let r := (s.core n).r
    let t := r.tdesc (fld w 23 20)
    let b := (r.sreg (fld w 28 24)).toNat / 32
    let v := r.vreg (fld w 46 41)
    let own := s.ownerOfCore n
    let half := fun (h : Nat) => (List.range 32).map (fun i => flDecode 23 (lane v (32 * h + i)))
    let bs := [(b, half 0), (b + 1, half 1)]
    let p := convBlocks s own t false (convT s own t (half 0 ++ half 1)) bs
    let u := scaleAdd p.1 own (0x1000 + n) (tdId t) p.2
    let tt := convT s own t (half 0 ++ half 1)
    let fl := fun (h : Nat) => esFlags (tdFmt t) tt (convertBlock (tdFmt t) tt (convModes s own t (b + h)) (half h)).1 (half h)
    s.NoErr →
    (Legal s n ⟨1, 0x34, w⟩ → vesCheck s n w false = none → ∃ r', exec (.vdec n false w) s = .next (nextBundle s n r') ∧
      LaneWise r r' w (fun i =>
        let x := flRound 23 Config.tinyEdge (blockVal (tdFmt t) (s.rdBlock t (b + i / 32)) (if bitOf w 19 then tdT t else 0) (i % 32))
        ⟨x.bits, x.fl⟩)) ∧
    (Legal s n ⟨1, 0x35, w⟩ → vesCheck s n w true = none → p.2.saturated = 0 → p.2.nonfinite = 0 →
      exec (.vcvtes n false w) s = .next (goesTo u n { s.core n with r := { r with vs := r.vs.or ((fl 0).or (fl 1)) } } ((s.core n).seq.baddr + 32)))

/-- With the arrays it selects enabled, a legal CASTON of FREE skeins that has not to wait makes each of them OPEN with partial and total +0, count 0 and total-valid clear, and a legal SPOIL that has not to wait makes the slot of each selected array DRAINING and pending, in ascending order, and counts it; every other slot, and all else, stays. The model's choices in it, where the spec leaves a point open: matrix effects at issue (log 18); CASTOFF to spoil and its generators (log 178) (04, CASTON and SPOIL (R111, R117), 03, table of skein states (R71)). -/
def Obligations.CastOnAndSpoil : Prop :=
  ∀ (s : State) (n : Nat) (w : BitVec 57), Ready s n → NextOk s n →
    let k := s.core n
    let sel := fun (a : Nat) => a < 4 ∧ w.getLsbD (53 + a) = true
    let as := (List.range 4).filter (fun a => w.getLsbD (53 + a))
    let sk := fld w 52 51
    (∀ a, sel a → s.arrayOn n a = true) →
    (Legal s n ⟨0, 0x03, w⟩ → mWaits s n ⟨0, 0x03, w⟩ = false → (∀ a, sel a → ∀ j < 4, w.getLsbD (49 + j) = true → (k.m.skein (4 * a + j)).st = .free) →
      ∃ m', exec (.caston n false w) s = .next (goesTo s n { k with m := m' } (k.seq.baddr + 32)) ∧ m' = { k.m with sk := m'.sk } ∧
        ∀ i, m'.skein i = if i < 16 ∧ w.getLsbD (53 + i / 4) = true ∧ w.getLsbD (49 + i % 4) = true
          then { st := .opened, part := [], total := [], cnt := 0, valid := false, scale := 0, blocks := 0 } else k.m.skein i) ∧
    (Legal s n ⟨0, 0x08, w⟩ → mWaits s n ⟨0, 0x08, w⟩ = false → (∀ a, sel a → (k.m.skein (4 * a + sk)).st ≠ .free) →
      ∃ m', exec (.spoil n false w) s = .next (goesTo s n { k with m := m' } (k.seq.baddr + 32)) ∧
        m' = { k.m with sk := m'.sk, dcbs := m'.dcbs, pend := k.m.pend ++ as.map (fun a => 4 * a + sk), cntDrain := satAdd 48 k.m.cntDrain as.length } ∧
        (∀ i, SMap.get 0 i m'.dcbs = if i % 4 = sk ∧ i / 4 ∈ as then 0 else SMap.get 0 i k.m.dcbs) ∧
        ∀ i, m'.skein i = if i < 16 ∧ i % 4 = sk ∧ w.getLsbD (53 + i / 4) = true then { k.m.skein i with st := .draining } else k.m.skein i)

/-- With the checks of its row passed and no error in a stored word, a legal WLOAD fills weight half H with N K blocks of W rows from the generator's row and K block, and a legal ALOAD fills feeder half H of the selected arrays, in ascending order, with N K blocks of 32 rows each; the generator advances by N blocks and that many rows, and nothing else changes (04, WLOAD and ALOAD (R108, R109), 05, generators (R141)). -/
def Obligations.OperandLoads : Prop :=
  ∀ (s : State) (n : Nat) (w : BitVec 57), Ready s n → NextOk s n →
    let k := s.core n
    let blocks := fun (t g : Line) (r0 rows cnt : Nat) => (List.range cnt).map (fun j => (List.range rows).map (fun i => s.opBlock t g (r0 + i) (gKb g + j)))
    s.NoErr →
    (Legal s n ⟨0, 0x01, w⟩ → wloadCheck s n w = none →
      let t := k.r.tdesc (fld w 55 52)
      let g := k.r.gen (fld w 51 49)
      let cnt := fld w 48 41
      ∃ h : Half, h.fmt = tdFmt t ∧ h.t = tdT t ∧ h.tid = tdId t ∧ h.blocks = blocks t g (gPos g) (s.width n) cnt ∧
        exec (.wload n false w) s = .next (goesTo s n { k with
          r := k.r.setG (fld w 51 49) (gAdvance g cnt (s.width n)), m := { k.m with wh := SMap.set (fld w 56 56) h k.m.wh } } (k.seq.baddr + 32))) ∧
    (Legal s n ⟨0, 0x02, w⟩ → aloadCheck s n w = none →
      let t := k.r.tdesc (fld w 51 48)
      let g := k.r.gen (fld w 47 45)
      let cnt := fld w 44 37
      let as := (List.range 4).filter (fun a => w.getLsbD (52 + a))
      ∃ fh, exec (.aload n false w) s = .next (goesTo s n { k with
          r := k.r.setG (fld w 47 45) (gAdvance g cnt (32 * as.length)), m := { k.m with fh } } (k.seq.baddr + 32)) ∧
        (∀ q a, as[q]? = some a → (({ k.m with fh } : CoreMat).fhalf a (fld w 56 56)).blocks = blocks t g (gPos g + 32 * q) 32 cnt) ∧
        (∀ i, (∀ a ∈ as, i ≠ 2 * a + fld w 56 56) → SMap.get {} i fh = SMap.get {} i k.m.fh))

/-- A legal MMA that has not to wait and passes its checks takes each selected skein, one that has merged nothing first taking the scale sum of its operands, through N steps: step i merges weight block WK0 + i and activation block AK0 + i into the granule partials unless one operand is all zero blocks, counts the block, and folds a granule of 128 into the total. The two block counters grow by N together. The first MMA of an owner in a step stamps its phase mark 1. Other skeins, and all else, stay. The model's choices in it, where the spec leaves a point open: the sum of scales anew after a RESUME with BLOCKS 0 (log 180); the counters by K-block step (log 24); matrix effects at issue (log 18) (04, MMA (R112), 03, skeins and granules (R70), 03, zero blocks (R67), 09, phase marks (R261)). -/
def Obligations.MatrixMultiply : Prop :=
  ∀ (s : State) (n : Nat) (w : BitVec 57), Ready s n → NextOk s n → Legal s n ⟨0, 0x04, w⟩ →
    mWaits s n ⟨0, 0x04, w⟩ = false → mmaCheck s n w = none →
    let k := s.core n
    let as := (List.range 4).filter (fun a => w.getLsbD (53 + a))
    let sk := fld w 52 51
    let wh := k.m.whalf (fld w 50 50)
    let ah := fun (a : Nat) => k.m.fhalf a (fld w 49 49)
    let cnt := fld w 32 25
    let W := s.width n
    let wb := fun (i : Nat) => nth [] wh.blocks (fld w 48 41 + i)
    let ab := fun (a i : Nat) => nth [] (ah a).blocks (fld w 40 33 + i)
    let skip := fun (i : Nat) => ((wb i).take W).all (fun b => b.z) || as.all (fun a => (ab a i).all (fun b => b.z))
    let skips := ((List.range cnt).filter skip).length
    ∃ m', exec (.mma n false w) s = .next (goesTo (s.mark (s.ownerOfCore n) 1) n { k with m := m' } (k.seq.baddr + 32)) ∧
      m' = { k.m with sk := m'.sk, cntMma := m'.cntMma, cntZskip := m'.cntZskip } ∧
      (k.m.cntMma + cnt < 2 ^ 48 → k.m.cntZskip + cnt < 2 ^ 48 → m'.cntMma = k.m.cntMma + (cnt - skips) ∧ m'.cntZskip = k.m.cntZskip + skips) ∧
      (∀ i, ¬ (i % 4 = sk ∧ i / 4 ∈ as) → m'.skein i = k.m.skein i) ∧
      ∀ a ∈ as, let x := k.m.skein (4 * a + sk)
        let y := (List.range cnt).foldl (fun x i => skStep wh.fmt (ah a).fmt W (skip i) (wb i) (ab a i) x)
          (if x.blocks = 0 then { x with scale := wh.t + (ah a).t } else x)
        m'.skein (4 * a + sk) = { y with reads := (m'.skein (4 * a + sk)).reads }

/-- With no error in a stored word and no injection armed, a legal CASTOFF that has not to wait and passes its checks leaves the slot of every selected array DRAINING and pending, in ascending order behind what was pending, and counts one cast-off an array. Route 3 writes nothing. On routes 1 and 2 each array's tile of stage 3 values goes to the engine with that array's number and argument (where TAP is absent or not ES). With roles that are not ES and no padding, whose spans lie apart, every live output of every array is written in its format at its place, that of stage 3 to OUT (route 0) and that of stage 2 to TAP, and no other byte changes; and the cast-off of one array, in any format, writes what placing its stage 2 tile through TAP and then its stage 3 tile through OUT writes. The model's choices in it, where the spec leaves a point open: matrix effects at issue (log 18); what a warm-up instance is (log 16); the carry check and padding (log 20); MX outputs are written in the ES layout (log 182) (04, CASTOFF (R115, R116), 03, the drain (R71, R80, R81, R86, R94), 03, placement (R488)). -/
def Obligations.CastOffDrains : Prop :=
  ∀ (s : State) (n : Nat) (w : BitVec 57), Ready s n → NextOk s n → Legal s n ⟨0, 0x05, w⟩ →
    mWaits s n ⟨0, 0x05, w⟩ = false → castoffCheck s n (s.core n).seq.wmode w = none → s.NoErr → bitOf (s.reg 0 0xC00018) 63 = false →
    let k := s.core n
    let as := (List.range 4).filter (fun a => w.getLsbD (53 + a))
    let sk := fld w 52 51
    let d := s.line (spBase n + (k.r.sreg (fld w 50 46)).toNat)
    let W := s.width n
    let T := fun (b : Nat) => k.r.tdesc (dcbT d b)
    let G := fun (b : Nat) => k.r.gen (dcbG d b)
    let c0 := (k.m.carryOf (as.headD 0)).cols
    let pre := fun (q i j : Nat) =>
      let x := k.m.skein (4 * nth 0 as q + sk)
      drainPre s n d x.scale j (tileAt (skFinal x) i j)
    let out := fun (q i j : Nat) => (drainFun d (if dcbDeriv d then savedAt s d (T 6) (G 6) q c0 i j else 0) (pre q i j)).1
    let tile := fun (v : Nat → Nat → Nat → AF40) (q : Nat) => (List.range 1024).map (fun x => if x % 32 < W then v q (x / 32) (x % 32) else 0)
    let row := fun (b q i j : Nat) => if dcbAxis d then gRow (G b) + 32 * q + i else gRow (G b) + j
    let place := fun (b q i j : Nat) => rowAddr (T b) (row b q i j) (if dcbAxis d then 32 * gKb (G b) + c0 + j else 32 * (gKb (G b) + q) + i)
    let word := fun (b : Nat) (v : AF40) => if tdFmt (T b) = 0xA then v.toNat else (fCvt false 31 (fmtFrac (tdFmt (T b))) v.toNat).bits
    let spans := (if dcbRoute d = 0 then roleSpans d (T 4) (G 4) W as.length c0 else []) ++
      (if dcbTap d then roleSpans d (T 5) (G 5) W as.length c0 else [])
    ∃ t, exec (.castoff n false w) s = .next t ∧
      (t.core n).m.pend = k.m.pend ++ as.map (fun a => 4 * a + sk) ∧ (t.core n).m.cntDrain = satAdd 48 k.m.cntDrain as.length ∧
      (∀ i, (t.core n).m.skein i = if i % 4 = sk ∧ i / 4 ∈ as then { k.m.skein i with st := .draining } else k.m.skein i) ∧
      (dcbRoute d = 3 → t.mem = s.mem ∧ t.tiles = s.tiles) ∧
      (dcbRoute d = 1 ∨ dcbRoute d = 2 → (dcbTap d = true → fmtIsEs (tdFmt (T 5)) = false) →
        t.tiles = s.tiles ++ (List.range as.length).map (fun q =>
          ⟨n, nth 0 as q, q, s.ownerOfCore n, dcbRoute d == 2, pieceArg d q, W, tile out q⟩)) ∧
      (dcbRoute d ≠ 3 → (dcbRoute d = 0 → fmtIsEs (tdFmt (T 4)) = false) → (dcbTap d = true → fmtIsEs (tdFmt (T 5)) = false) →
        (dcbAxis d = false ∨ dcbLast d = false ∨ (c0 + W) % 32 = 0) →
        spans.Pairwise (fun a b => a.1 + a.2 ≤ b.1 ∨ b.1 + b.2 ≤ a.1) →
        (∀ x, (∀ p ∈ spans, ¬ (p.1 ≤ x ∧ x < p.1 + p.2)) → t.byte x = s.byte x) ∧
        ∀ q < as.length, ∀ i < 32, ∀ j < W,
          (dcbRoute d = 0 → row 4 q i j < gRows (G 4) → t.rd (place 4 q i j) (elSize (tdFmt (T 4))) = word 4 (out q i j) % 256 ^ elSize (tdFmt (T 4))) ∧
          (dcbTap d = true → row 5 q i j < gRows (G 5) → t.rd (place 5 q i j) (elSize (tdFmt (T 5))) = word 5 (pre q i j) % 256 ^ elSize (tdFmt (T 5)))) ∧
      (dcbRoute d ≠ 3 → ∀ a, as = [a] → ∃ fl : FlagSet,
        let s1 := s.updRegs n (fun r => { r with vs := r.vs.or fl })
        let s2 := if dcbTap d then (placeTile s1 n d (T 5) (G 5) W 0 c0 (k.m.carryOf a).vals (tile pre 0)).1 else s1
        t.mem = (if dcbRoute d = 0 then (placeTile s2 n d (T 4) (G 4) W 0 c0 (k.m.carryOf a).vals (tile out 0)).1 else s2).mem)

/-- With no error in a stored word, a legal PARK that has not to wait and passes its checks leaves the slot PARKING. With mode SAVE the buffer holds the image of the skein, with mode ADD the target's count of contributions grows by 1; no byte outside the buffer changes. A legal RESUME puts the slot in RESUMING, from a save buffer with its partial and total, from an add target with the total alone; memory stays. The model's choices in it, where the spec leaves a point open: matrix effects at issue (log 18); SCALE before the first MMA (log 23); WIDTH of a PARK that adds (log 179) (03, save buffers and add targets (R73, R74, R75), 04, PARK and RESUME (R119)). -/
def Obligations.ParkAndResume : Prop :=
  ∀ (s : State) (n : Nat) (w : BitVec 57), Ready s n → NextOk s n →
    let k := s.core n
    let i := 4 * fld w 56 55 + fld w 54 53
    let a := spBase n + (k.r.sreg (fld w 51 47)).toNat
    let size := if bitOf w 52 then 5184 else 10304
    s.NoErr →
    (Legal s n ⟨0, 0x06, w⟩ → mWaits s n ⟨0, 0x06, w⟩ = false → parkCheck s n w = none → ∃ t, exec (.park n false w) s = .next t ∧
      (∀ x, ¬ (a ≤ x ∧ x < a + size) → t.byte x = s.byte x) ∧ OnlyMem s t n ∧ (t.core n).r = k.r ∧
      (∀ j, (t.core n).m.skein j = if j = i then { k.m.skein i with st := .parking } else k.m.skein j) ∧
      (bitOf w 52 = false → t.bytes a 10304 = saveBuf (k.m.skein i) (s.width n)) ∧
      (bitOf w 52 = true → s.rd (a + 8) 8 + 1 < 2 ^ 64 → t.rd (a + 8) 8 = s.rd (a + 8) 8 + 1)) ∧
    (Legal s n ⟨0, 0x07, w⟩ → mWaits s n ⟨0, 0x07, w⟩ = false → resumeCheck s n w = none →
      ∃ x : Skein, exec (.resume n false w) s = .next (goesTo s n { k with m := k.m.setSkein i x } (k.seq.baddr + 32)) ∧
        (s.rd a 1 = 1 → x.st = .resuming false ∧ x.part = s.rdTile (a + 64) (s.width n) ∧ x.total = s.rdTile (a + 5184) (s.width n) ∧
          x.cnt = s.rd (a + 4) 2 % 128 ∧ x.scale = signed 16 (s.rd (a + 2) 2) ∧ x.blocks = s.rd (a + 8) 8) ∧
        (s.rd a 1 = 2 → x.st = .resuming true ∧ x.valid = true ∧ x.scale = 0 ∧ x.part = [] ∧
          (bitOf (s.byte (a + 6)) 1 = false → x.total = s.rdTile (a + 64) (s.width n))))

/-- On a core of the part with no bundle waiting, a DRAINING slot whose piece, if it has one, has a staging slot becomes FREE and leaves the pending cast-offs with its control block; a PARKING slot becomes FREE; a RESUMING slot becomes SEALED or OPEN with its contents. Every other slot stays. The model's choices in it, where the spec leaves a point open: matrix effects at issue (log 18); when a matrix queue is full (log 19) (03, table of skein states (R71), 03, the drain (R86)). -/
def Obligations.SkeinTransients : Prop :=
  ∀ (s : State) (n i : Nat), n < s.nCores → Quiet s →
    let k := s.core n
    let freed := s.setCore n { k with m := { k.m.setSkein i {} with pend := k.m.pend.filter (fun j => j != i), dcbs := SMap.erase i k.m.dcbs } }
    ((k.m.skein i).st = .draining → pieceStaged s n i = true → exec (.skeinDrained n i) s = .next freed) ∧
    ((k.m.skein i).st = .parking → exec (.parkComplete n i) s = .next freed) ∧
    (∀ b, (k.m.skein i).st = .resuming b → exec (.resumeComplete n i) s =
      .next (s.setCore n { k with m := k.m.setSkein i { k.m.skein i with st := if b then .sealed else .opened } })) ∧
    (∀ j, (({ k.m.setSkein i {} with pend := k.m.pend.filter (fun j => j != i) } : CoreMat).skein j) = if j = i then {} else k.m.skein j)

/-- With its offset 64-byte aligned in the populated scratchpad, a legal TLD of a valid descriptor and a legal GLD of a valid generator take the line into their register, and a legal GST stores the generator. A legal DMA or DMAT whose queue holds fewer than 16 transfers and which passes its checks enters a transfer with its operands captured at the end of the queue. A legal SEND, RECV or CHAIN with fewer than 32 requests outstanding, an assigned operation and its block in the populated scratchpad hands the 64-byte block with its semaphore to the collective engine. Nothing else changes. The model's choices in it, where the spec leaves a point open: cores without an owner compare no epoch (log 34); format pairs of DMAT (log 208); EXT0 and strides of an MX tensor (log 211) (05, TLD, GLD and GST (R143), 05, DMA and DMAT (R144, R145, R147), 05, SEND, RECV and CHAIN (R149)). -/
def Obligations.DescriptorsAndTransfersEnter : Prop :=
  (
    ∀ (s : State) (n : Nat) (w : BitVec 57), Ready s n → NextOk s n →
      let r := (s.core n).r
      let off := (r.sreg (fld w 53 49)).toNat
      let offT := (r.sreg (fld w 52 48)).toNat
      s.NoErr →
      (Legal s n ⟨2, 0x01, w⟩ → offT % 64 = 0 → offT + 64 ≤ spSize → tdOk (s.line (spBase n + offT)) = true →
        exec (.tld n false w) s = .next (nextBundle s n (r.setT (fld w 56 53) (s.line (spBase n + offT))))) ∧
      (Legal s n ⟨2, 0x02, w⟩ → off % 64 = 0 → off + 64 ≤ spSize → genOk (s.line (spBase n + off)) = true →
        exec (.gld n false w) s = .next (nextBundle s n (r.setG (fld w 56 54) (s.line (spBase n + off))))) ∧
      (Legal s n ⟨2, 0x03, w⟩ → off % 64 = 0 → off + 64 ≤ spSize → ∃ t, exec (.gst n false w) s = .next t ∧
        t.line (spBase n + off) = r.gen (fld w 56 54) ∧ (∀ x, ¬ (spBase n + off ≤ x ∧ x < spBase n + off + 64) → t.byte x = s.byte x) ∧
        t.core n = { s.core n with seq := { (s.core n).seq with baddr := (s.core n).seq.baddr + 32 } } ∧ OnlyMem s t n)) ∧
  (
    ∀ (s : State) (n : Nat) (w : BitVec 57), Ready s n → NextOk s n →
      let k := s.core n
      let r := k.r
      let q := fld w 53 52
      let enter := fun (x : Xfer) => goesTo s n { k with dma := SMap.set q { k.dmaq q with xs := (k.dmaq q).xs ++ [x] } k.dma } (k.seq.baddr + 32)
      let off := (r.sreg (fld w 56 52)).toNat
      let ask := fun (kind : Nat) => ({ goesTo s n { k with reqs := k.reqs ++ [fld w 51 46] } (k.seq.baddr + 32) with
        creqs := s.creqs ++ [⟨n, kind, fld w 51 46, s.line (spBase n + off)⟩] } : State)
      ((k.dmaq q).xs.length < 16 →
        (Legal s n ⟨2, 0x04, w⟩ → dmaCheck s n w = none → exec (.dma n false w) s = .next (enter
          { kind := fld w 56 54, transpose := false, ts := r.tdesc (fld w 51 48), td := r.tdesc (fld w 47 44), so := r.sreg (fld w 43 39),
            dst := r.sreg (fld w 38 34), sn := r.sreg (fld w 33 29), sem := fld w 28 23 })) ∧
        (Legal s n ⟨2, 0x05, w⟩ → dmatCheck s n w = none → exec (.dmat n false w) s = .next (enter
          { kind := 5, transpose := true, ts := r.tdesc (fld w 51 48), td := r.tdesc (fld w 47 44), so := r.sreg (fld w 43 39),
            dst := r.sreg (fld w 38 34), sn := r.sreg (fld w 33 29), sem := fld w 28 23 }))) ∧
      (s.NoErr → k.reqs.length < 32 → off + 64 ≤ spSize →
        let op := (s.byte (spBase n + off)).toNat
        (Legal s n ⟨2, 0x06, w⟩ → op ∈ [1, 2, 4, 5, 8] → exec (.send n false w) s = .next (ask 0)) ∧
        (Legal s n ⟨2, 0x07, w⟩ → op ∈ [2, 5] → exec (.recv n false w) s = .next (ask 1)) ∧
        (Legal s n ⟨2, 0x08, w⟩ → op ∈ [6, 7] → exec (.chain n false w) s = .next (ask 2))))

/-- Where the head of a queue that is not frozen, of a core that is not being saved or restored, is a transfer of the row's kind that has not run, every span it has left is reachable by its owner and held by no port or channel, no stored word is in error and its scale entry matches, the row makes the transfer's writes as one write and marks it done; the transfers behind it stay, and bundles that wait for it go on. The model's choices in it, where the spec leaves a point open: one transfer, store or access is one write (log 40); a transfer moves in one step (log 38) (05, transfers (R144, R146, R148), 02, MX import and export (R60, R61)). -/
def Obligations.TransfersRun : Prop :=
  ∀ (s : State) (n q : Nat) (x : Xfer) (rest : List Xfer), n < s.nCores → q < 4 →
    let d := (s.core n).dmaq q
    let own := s.ownerOfCore n
    let us := xferLeft x
    let sp := xferSpans x
    d.xs = x :: rest → d.frozen = false → x.done = false → dmaMoves s n = true → badSpan s own sp = none →
    (∀ p ∈ sp.1 ++ sp.2, portHeld s p = false) → s.NoErr → (∀ t, xferScaled x = some t → scaleErr s own t = none) →
    let tt := xferT s own x
    let u := State.asOne sp.2 (xferRun own (0x2000 + 4 * n + q) x tt us) s
    let t := u.setDmaq n q { (u.core n).dmaq q with xs := { x with pos := x.pos + us.length, live := (xferScaled x).map (fun _ => tt), done := true } :: rest }
    (x.kind = 0 → exec (.dmaCopy n q) s = .next (settle t)) ∧ (x.kind = 1 → exec (.dmaConvert n q) s = .next (settle t)) ∧
    (x.kind = 2 → exec (.mxImport n q) s = .next (settle t)) ∧ (x.kind = 3 → exec (.mxExport n q) s = .next (settle t)) ∧
    (x.kind = 4 → exec (.dmaZero n q) s = .next (settle t)) ∧ (x.kind = 5 → exec (.dmatTransfer n q) s = .next (settle t))

/-- With no error in a stored word, for a destination that is not ES and whose elements lie apart, the whole run of a COPY gives each destination element the bits that its source element had, the run of a ZERO makes each 0, and the run of a DMAT gives the element in row i and column j of its rectangle the bits of row j and column i of the source's; every byte outside the destination spans reads as before. The model's choices in it, where the spec leaves a point open: the tensor scale in a transposed copy (log 37); what MX_EXPORT counts (log 17); the scale byte that ZERO writes (log 207) (05, COPY and ZERO (R144), 05, DMAT (R147)). -/
def Obligations.TransferContents : Prop :=
  ∀ (s : State) (own : Option Nat) (src : Nat) (tt : Int) (x : Xfer), s.NoErr → fmtIsEs (tdFmt x.td) = false → (x.kind ≠ 4 → tdFmt x.ts = tdFmt x.td) →
    x.pos = 0 → (xferSpans x).2.Pairwise (fun a b => a.1 + a.2 ≤ b.1 ∨ b.1 + b.2 ≤ a.1) → (x.transpose = true ↔ x.kind = 5) →
    let t := xferRun own src x tt (xferLeft x) s
    let sz := elSize (tdFmt x.td)
    (x.kind = 0 ∨ x.kind = 4 ∨ x.kind = 5 → ∀ a, (∀ p ∈ (xferSpans x).2, ¬ (p.1 ≤ a ∧ a < p.1 + p.2)) → t.byte a = s.byte a) ∧
    (x.kind = 0 → ∀ i < x.sn.toNat, t.bytes (elAddr x.td (x.dst.toNat + i)) sz = s.bytes (elAddr x.ts (x.so.toNat + i)) sz) ∧
    (x.kind = 4 → ∀ i < x.sn.toNat, t.bytes (elAddr x.td (x.dst.toNat + i)) sz = List.replicate sz 0) ∧
    (x.kind = 5 → ∀ i < rcCol x.sn, ∀ j < rcRow x.sn,
      t.bytes (elAddr x.td ((rcRow x.dst + i) * tdExt x.td 0 + rcCol x.dst + j)) sz =
        s.bytes (elAddr x.ts ((rcRow x.so + j) * tdExt x.ts 0 + rcCol x.so + i)) sz)

/-- On a core of the part that is not ending its program, saved or being restored, and with no bundle waiting anywhere, the completion of a transfer that has run adds 1 to its semaphore and takes it from the queue, and nothing else changes; where the count stands at 2^32 − 1 it leaves every semaphore as it was and freezes the queue (05, completion (R146)). -/
def Obligations.TransferCompletes : Prop :=
  ∀ (s : State) (n q : Nat) (x : Xfer) (rest : List Xfer), n < s.nCores → q < 4 → Quiet s →
    let k := s.core n
    (k.dmaq q).xs = x :: rest → (k.dmaq q).frozen = false → x.done = true → k.seq.ending = false → k.seq.run ≠ .saved → k.seq.run ≠ .restoring →
    (k.r.semv x.sem + 1 < 2 ^ 32 → exec (.dmaComplete n q) s = .next (s.setCore n { k with
      r := k.r.setSem x.sem (k.r.semv x.sem + 1), dma := SMap.set q { k.dmaq q with xs := rest } k.dma })) ∧
    (2 ^ 32 ≤ k.r.semv x.sem + 1 → ∃ t, exec (.dmaComplete n q) s = .next t ∧ (t.core n).r = k.r ∧ ((t.core n).dmaq q).frozen = true)

/-- On a core that runs and has no bundle waiting, a slot given with another to follow joins the bundle and nothing else changes. A slot given alone that is illegal by R99, in an M, V, X or S slot whose wait does not hold it, halts the core at its bundle: its registers, matrix state and bundle address stay. A number beyond the part's cores names no unit. The model's choices in it, where the spec leaves a point open: a unit that the part lacks is refused (log 10); how slots form a bundle (log 36) (04, bundles (R97, R99, R100), 04, rejection (R103), 05, rejection (R162)). -/
def Obligations.BundlesFormAndAreRejected : Prop :=
  ∀ (s : State) (n k op : Nat) (w : BitVec 57), Ready s n →
    issue n true k op w s = .next (s.setCore n { s.core n with seq := { (s.core n).seq with openB := [⟨k, op, w⟩] } }) ∧
    (k < 4 → slotIllegal ⟨k, op, w⟩ = true → ∃ t, issue n false k op w s = .next t ∧ (t.core n).seq.run = .halted ∧
      (t.core n).r = (s.core n).r ∧ (t.core n).m = (s.core n).m ∧ (t.core n).seq.baddr = (s.core n).seq.baddr) ∧
    (∀ m, s.nCores ≤ m → issue m false k op w s = .refused .noSuchUnit)

/-- A write of CORE_PREEMPT.REQ by the control complex to a core that is not being saved or restored, with its save area in GDDR7, quiesces it at its bundle boundary with DONE clear; where it has no transfer to stop, its registers, halves and carries, its other slots and all memory stay, and parks and resumes end. SAVE_COMPLETE saves a quiescing core where its area holds no declared master and no queue descriptor and no access to it waits. A write of RESTORE to an idle core whose area holds a save starts the restore, and with no error in a stored word and no access to the area held up RESTORE_COMPLETE ends it with the registers of the area, halted as its header says; that a core saved idle is idle again is the model's choice (log 43). A wait whose deadline has come halts its core, if its clock is on. A core idle for the gate delay asks to be gated. The model's choices in it, where the spec leaves a point open: one transfer, store or access is one write (log 40); what R166 leaves to the device in a save area (log 42); saves and restores that wait or are forbidden (log 192) (05, pre-emption (R165, R166, R167, R168), 05, waits with deadlines (R152), 17, core gating (R457)). -/
def Obligations.PreemptionSteps : Prop :=
  ∀ (s : State) (n : Nat), n < s.nCores →
    let k := s.core n
    let b := saveBase s n
    (k.seq.run ≠ .quiescing → k.seq.run ≠ .saved → k.seq.run ≠ .restoring → saveAreaOk s n = true → ∃ t, exec (.preemptReq .ctl n 0) s = .next t ∧
      (t.core n).seq.run = .quiescing ∧ (t.core n).seq.held = k.seq.run ∧ (t.core n).seq.done = false ∧ (t.core n).seq.q = [] ∧
      ((∀ q < 4, (k.dmaq q).xs = [] ∨ (k.dmaq q).frozen = true) → (t.core n).seq.baddr = k.seq.baddr ∧ (t.core n).r = k.r ∧ (t.core n).dma = k.dma ∧
        (t.core n).m.wh = k.m.wh ∧ (t.core n).m.fh = k.m.fh ∧ (t.core n).m.carry = k.m.carry ∧
        (∀ i, (k.m.skein i).st ≠ .parking → (∀ a, (k.m.skein i).st ≠ .resuming a) → (t.core n).m.skein i = k.m.skein i) ∧
        (∀ i, (k.m.skein i).st = .parking → (t.core n).m.skein i = {}) ∧
        (∀ i a, (k.m.skein i).st = .resuming a → (t.core n).m.skein i = { k.m.skein i with st := if a then .sealed else .opened }) ∧
        t.mem = s.mem ∧ (∀ c, c ≠ n → t.core c = s.core c))) ∧
    (k.seq.run = .quiescing → saveHits s b n = false → (∀ p ∈ saveSpans b (saveBanks s n), memBusy s p.1 p.2 = false) → ∃ t, exec (.saveComplete n) s = .next t ∧ (t.core n).seq.run = .saved ∧ (t.core n).seq.done = true ∧
      (t.core n).r = k.r ∧ (t.core n).m = k.m ∧ (t.core n).dma = k.dma ∧ (∀ c, c ≠ n → t.core c = s.core c) ∧
      t.mem = (saveCoreAt b n s).mem) ∧
    (restoreOk s n = true → exec (.preemptRestore .ctl n 0) s =
      .next (s.setCore n { k with seq := { k.seq with run := .restoring, done := false } })) ∧
    (k.seq.run = .restoring → s.NoErr → (∀ p ∈ restSpans s b, memBusy s p.1 p.2 = false) → ∃ t, exec (.restoreComplete n) s = .next t ∧
      (t.core n).seq.run = (if bitOf (s.byte (b + 7)) 2 then .halted else if bitOf (s.byte (b + 0x31FF)) 1 then .idle else .running) ∧
      (t.core n).seq.done = true ∧ (t.core n).tag = 0 ∧
      (t.core n).seq.infrag = bitOf (s.byte (b + 7)) 0 ∧ (t.core n).seq.wmode = bitOf (s.byte (b + 7)) 1 ∧
      (t.core n).seq.baddr.toNat = s.rd (b + 8) 6 ∧ (t.core n).seq.raddr.toNat = s.rd (b + 16) 6 ∧
      (∀ i < 32, ((t.core n).r.sreg i).toNat = s.rd (b + 0x100 + 8 * i) 8) ∧ (∀ i < 64, ((t.core n).r.vreg i).toNat = s.rd (b + 0x4000 + 256 * i) 256) ∧
      (∀ i < 8, ((t.core n).r.preg i).toNat = s.rd (b + 0x200 + 8 * i) 8) ∧ (∀ i < 64, (t.core n).r.semv i = s.rd (b + 0x300 + 4 * i) 4) ∧
      (∀ i < 16, ((t.core n).r.tdesc i).toNat = s.rd (b + 0x400 + 64 * i) 64) ∧ (∀ i < 8, ((t.core n).r.gen i).toNat = s.rd (b + 0x800 + 64 * i) 64)) ∧
    (∀ i, canIssue s n = true → k.seq.q = [i] → headNext s n i = .dead → ∃ t, exec (.waitDeadline n) s = .next t ∧
      (t.core n).seq.run = .halted ∧ (t.core n).seq.baddr = k.seq.baddr ∧ (t.core n).r = k.r ∧ (t.core n).m = k.m) ∧
    (s.u.pow.run = true → s.u.pow.awake.contains n = true → s.idleFor n (pwrGateDelay s) = true → s.u.pow.reqs.any (fun r => r.core == some n) = false →
      exec (.coreGate n) s = .next (s.updPow (fun p => { p with reqs := p.reqs ++ [{ at_ := p.n + 1, core := some n, wake := false }] })))

/-- With no error in a stored word and no injection armed, saving a core, whose registers, queues and buffers keep to their numbers, depths and sizes, to an area that lies in GDDR7, and restoring it from that area, gives back every scalar, vector and predicate register, descriptor, generator, semaphore and status flag, the bundle address, W mode and the fragment it was in, its outstanding requests, its queued transfers, and whether it had been halted; that a core saved idle is idle again (log 43) and that a transfer's entry is a drawn word by which this device knows it (log 42) are the model's choice. The model's choices in it, where the spec leaves a point open: what R166 leaves to the device in a save area (log 42); a core saved idle comes back idle (log 43) (05, save area (R166), 05, pre-emption (R165, R167)). -/
def Obligations.SavedCoresComeBack : Prop :=
  ∀ (s : State) (n b : Nat), n < s.nCores → b % 0x100000 = 0 → b + saveSize ≤ s.gddrTop → s.NoErr → bitOf (s.reg 0 0xC00018) 63 = false →
    CoreFits (s.core n) →
    let k := s.core n
    let x := ((restoreCoreAt b n (saveCoreAt b n s)).core n)
    (∀ i < 32, x.r.sreg i = k.r.sreg i) ∧ (∀ i < 64, x.r.vreg i = k.r.vreg i) ∧ (∀ i < 8, x.r.preg i = k.r.preg i) ∧
    (∀ i < 16, x.r.tdesc i = k.r.tdesc i) ∧ (∀ i < 8, x.r.gen i = k.r.gen i) ∧ (∀ i < 64, x.r.semv i = k.r.semv i) ∧ x.r.vs = k.r.vs ∧
    x.seq.baddr = k.seq.baddr ∧ x.seq.wmode = k.seq.wmode ∧ x.seq.infrag = k.seq.infrag ∧ (k.seq.infrag = true → x.seq.raddr = k.seq.raddr) ∧
    x.seq.run = (if k.seq.held = .halted then .halted else if k.seq.held = .idle then .idle else .running) ∧ x.reqs = k.reqs ∧
    (∀ q < 4, (x.dmaq q).xs = (k.dmaq q).xs)

/-- On an engine that runs a launch, a FADD, FSUB, FMUL, FMA, FMM, FDIV, FSQ, FUN, CVT to FP32, RED or BCST that R207 does not stop gives each of the 64 lanes of qD the result of the table and goes to the next instruction, its cycles free; other registers, memory, other engines and all else stay. The model's choices in it, where the spec leaves a point open: STES has field B 0 (log 51) (07, table of Bench instructions (R205), 07, instruction words (R204, R207), 07, lanes and AF40 pairs (R196)). -/
def Obligations.BenchLaneOperations : Prop :=
  ∀ (s : State) (e : Nat) (l : Launch) (w : BitVec 26), Runs s e l →
    let x := s.eng e
    let ed := Config.tinyEdge
    let m := bitsOf w 5 0
    let a := lane (x.qreg (bitsOf w 20 16))
    let b := lane (x.qreg (bitsOf w 15 11))
    let c := lane (x.qreg (bitsOf w 10 6))
    let all := fun (f : Nat → Nat) (i : Nat) => f (lane (x.qreg (bitsOf w 20 16)) i)
    let ops : List ((Nat → BitVec 26 → Instr) × Nat × (Nat → Nat)) := [
      (Instr.fadd, 0x03, fun i => (fAdd 23 ed (a i) (b i)).bits), (Instr.fsub, 0x04, fun i => (fSub 23 ed (a i) (b i)).bits),
      (Instr.fmul, 0x05, fun i => (fMul 23 ed (a i) (b i)).bits),
      (Instr.fma, 0x06, fun i => (fFma 23 ed (Nat.testBit m 1) (Nat.testBit m 0) (a i) (b i) (c i)).bits),
      (Instr.fmm, 0x07, fun i => (fMinMax 23 (Nat.testBit m 0) (a i) (b i)).bits), (Instr.fdiv, 0x08, fun i => (fDiv 23 ed (a i) (b i)).bits),
      (Instr.fsq, 0x09, all (fun p => if m = 1 then (fRsqrt 23 ed p).bits else (fSqrt 23 ed p).bits)),
      (Instr.benchFun, 0x0A, all (fun p => if m = 0 then (fAbs 23 p).bits else if m = 1 then (fNeg 23 p).bits else
        if flIsNan (flDecode 23 p) then canonNan 23 else if p % 2 ^ 31 = 0 then 0 else if Nat.testBit p 31 then 0xBF800000 else 0x3F800000)),
      (Instr.red, 0x0D, fun _ => if m = 3 then amaxOf (lanes.map a) else (vred (vredOp m).1 (lanes.map a)).v),
      (Instr.bcst, 0x10, fun _ => (x.kreg (bitsOf w 20 16)).toNat % 2 ^ 32)]
    (∀ p ∈ ops, benchIllegal s p.2.1 w x l = false →
      ∃ q', exec (p.1 e w) s = .next (benchNextAt s e { x with q := q' }) ∧
        (∀ i < 64, lane (SMap.get 0 (bitsOf w 25 21) q') i = p.2.2 i % 2 ^ 32) ∧ (∀ k, k ≠ bitsOf w 25 21 → SMap.get 0 k q' = x.qreg k)) ∧
    (benchIllegal s 0x0C w x l = false → m = 0 → ∃ q', exec (.cvt e w) s = .next (benchNextAt s e { x with q := q' }) ∧
      (∀ i < 64, lane (SMap.get 0 (bitsOf w 25 21) q') i = (afNarrow (x.afLane (bitsOf w 20 16) i)).toNat) ∧
      (∀ k, k ≠ bitsOf w 25 21 → SMap.get 0 k q' = x.qreg k)) ∧
    (benchIllegal s 0x0C w x l = false → m = 1 → ∃ q', exec (.cvt e w) s = .next (benchNextAt s e { x with q := q' }) ∧
      (∀ i < 64, ({ x with q := q' } : Engine).afLane (bitsOf w 25 21) i = afWiden (BitVec.ofNat 32 (a i))) ∧
      (∀ k, k ≠ bitsOf w 25 21 → k ≠ bitsOf w 25 21 + 1 → SMap.get 0 k q' = x.qreg k)) ∧
    (benchIllegal s 0x0B w x l = false → ∃ q', exec (.aadd e w) s = .next (benchNextAt s e { x with q := q' }) ∧
      (∀ i < 64, ({ x with q := q' } : Engine).afLane (bitsOf w 25 21) i = afAdd (x.afLane (bitsOf w 20 16) i) (x.afLane (bitsOf w 15 11) i)) ∧
      (∀ k, k ≠ bitsOf w 25 21 → k ≠ bitsOf w 25 21 + 1 → SMap.get 0 k q' = x.qreg k))

/-- On an engine that runs a launch, an instruction that R207 does not stop: NOP goes on; SLI, SOP, EXT and DGET write kD; OUT writes a doubleword of the result record; HASH adds up to 32 terms to the digest and moves its index and count; LOOP enters its body or passes it; BRZ branches when its scalar is 0. From the end of a loop body each goes to its start while runs of the body are left, and else on. A shift of SOP by 64 or more gives a free value. Nothing else changes. The model's choices in it, where the spec leaves a point open: BRZ counts from its own index, and how it leaves a LOOP (log 49); a SOP shift of 64 or more gives a free value (log 50) (07, table of Bench instructions (R205), 07, HASH (R218)). -/
def Obligations.BenchScalarOperations : Prop :=
  ∀ (s : State) (e : Nat) (l : Launch) (w : BitVec 26), Runs s e l →
    let x := s.eng e
    let d := bitsOf w 25 21
    let m := bitsOf w 5 0
    let ka := x.kreg (bitsOf w 20 16)
    let kb := x.kreg (bitsOf w 15 11)
    let kc := x.kreg (bitsOf w 10 6)
    let imm := bitsOf w 15 0
    let ok := fun (op : Nat) => benchIllegal s op w x l = false
    (w = 0 → ok 0 → exec (.benchNop e 0) s = .next (benchNextAt s e x)) ∧
    (w = 0 → ok 0 → ∀ b r, x.loops = b :: r → x.pc + 1 = b.last →
      (1 < b.left → ∃ u, exec (.benchNop e 0) s = .next u ∧ (u.eng e).pc = b.first ∧ (u.eng e).loops = { b with left := b.left - 1 } :: r) ∧
      (b.left ≤ 1 → r = [] → ∃ u, exec (.benchNop e 0) s = .next u ∧ (u.eng e).pc = x.pc + 1 ∧ (u.eng e).loops = [])) ∧
    (ok 0x12 → exec (.benchSli e w) s = .next (benchNextAt s e (x.setK d (BitVec.ofInt 64 (signed 21 (bitsOf w 20 0)))))) ∧
    (ok 0x11 → exec (.ext e w) s = .next (benchNextAt s e (x.setK d (BitVec.ofNat 64 (lane (x.qreg (bitsOf w 20 16)) (kb.toNat % 64)))))) ∧
    (ok 0x16 → exec (.out e w) s = .next (benchNextAt s e { x with res := putBytes x.res (8 * m) 8 ka.toNat })) ∧
    (ok 0x17 → exec (.dget e w) s = .next (benchNextAt s e { x.setK d x.dig with dig := if m = 1 then 0 else x.dig })) ∧
    (ok 0x13 → (m = 6 ∨ m = 7 → kb.toNat < 64) → exec (.sop e w) s = .next (benchNextAt { s with fresh := s.fresh + 1 } e (x.setK d
      (match m with
        | 0 => ka + kb
        | 1 => ka - kb
        | 2 => ka * kb
        | 3 => ka &&& kb
        | 4 => ka ||| kb
        | 5 => ka ^^^ kb
        | 6 => ka <<< kb.toNat
        | 7 => ka >>> kb.toNat
        | _ => if ka.toNat ≤ kb.toNat then ka else kb)))) ∧
    (ok 0x13 → ∃ v, exec (.sop e w) s = .next (benchNextAt { s with fresh := s.fresh + 1 } e (x.setK d v))) ∧
    (ok 0x0F → bitsOf w 15 11 ≠ bitsOf w 10 6 → ∃ x', exec (.hash e w) s = .next (benchNextAt s e x') ∧
      x'.kreg (bitsOf w 15 11) = kb + BitVec.ofNat 64 (min 32 kc.toNat) ∧ x'.kreg (bitsOf w 10 6) = kc - BitVec.ofNat 64 (min 32 kc.toNat) ∧
      x'.dig = x.dig + ((List.range (min 32 kc.toNat)).map (fun j => digestTerm m (kb.toNat + j)
        (BitVec.ofNat 64 (lane (x.qreg (bitsOf w 20 16)) (2 * j) + 2 ^ 32 * lane (x.qreg (bitsOf w 20 16)) (2 * j + 1))))).foldl (fun u v => u + v) 0 ∧
      x' = { x with dig := x'.dig, k := x'.k }) ∧
    (ok 0x14 → ka ≠ 0 → 0 < imm → exec (.loop e w) s = .next (benchNextAt s e { x with loops := ⟨x.pc + 1, x.pc + 1 + imm, ka.toNat⟩ :: x.loops })) ∧
    (ok 0x14 → ka = 0 ∨ imm = 0 → exec (.loop e w) s = .next (benchAt s e x (x.pc + 1 + imm))) ∧
    (ok 0x15 → ka = 0 → exec (.brz e w) s = .next (benchAt s e x ((x.pc : Int) + signed 16 imm).toNat)) ∧
    (ok 0x15 → ka ≠ 0 → exec (.brz e w) s = .next (benchNextAt s e x))

/-- On an engine that runs a launch, for an instruction that R207 does not stop, with no stored word in error, nothing that holds an access up and no injection armed: an LDS moves stream A on by one unit, two blocks of an ES stream, and for FP32 or BF16 gives lane i of qD element 64j + i, +0 from COUNT on; an STS of FP32 writes the lanes of qB below COUNT at its unit and no other byte; a STES whose scale entry serves converts the blocks of its 64 below COUNT and moves on by 64 blocks; END writes the result record, if asked, where the owner may write, the engine idles, and the end of an EDF launch raises source 6 (R422). Registers of the engine that are not named stay. The model's choices in it, where the spec leaves a point open: a stream operation of the wrong kind is 0x8531 (log 48); the order of stream elements (log 47); one transfer, store or access is one write (log 40); a launch reads its slice entry once (log 161); what waits for memory (log 64) (07, streams (R199, R200), 07, table of Bench instructions (R205), 07, STES (R206)). -/
def Obligations.BenchStreams : Prop :=
  ∀ (s : State) (e : Nat) (l : Launch) (w : BitVec 26), Runs s e l → s.Calm →
    let x := s.eng e
    let i := bitsOf w 20 16 % 8
    let t := l.strm i
    let j := x.posOf i
    let sz := elSize t.fmt
    (benchIllegal s 0x01 w x l = false → ∃ x', exec (.lds e w) s = .next (benchNextAt s e x') ∧
      x' = { x with q := x'.q, pos := x'.pos, cntLines := x'.cntLines } ∧ x'.posOf i = j + (if fmtIsEs t.fmt then 2 else 1) ∧
      (t.fmt = 8 ∨ t.fmt = 9 → (∀ k, k ≠ bitsOf w 25 21 → x'.qreg k = x.qreg k) ∧ ∀ k < 64, lane (x'.qreg (bitsOf w 25 21)) k =
        if t.count ≤ 64 * j + k then (if t.fmt = 8 then (fCvt Config.tinyEdge 7 23 0).bits else 0)
        else if t.fmt = 8 then (fCvt Config.tinyEdge 7 23 (s.rd (t.base + j * t.stride * 128 + 2 * k) 2)).bits
        else s.rd (t.base + j * t.stride * 256 + 4 * k) 4)) ∧
    (benchIllegal s 0x02 w x l = false → t.fmt = 9 → ∃ u, exec (.sts e w) s = .next u ∧
      (u.eng e).posOf i = j + 1 ∧ (u.eng e).pc = (loopNext x.loops (x.pc + 1)).2 ∧ (u.eng e).loops = (loopNext x.loops (x.pc + 1)).1 ∧ (u.eng e).q = x.q ∧ (u.eng e).k = x.k ∧ u.cores = s.cores ∧
      (∀ k < 64, 64 * j + k < t.count → u.rd (t.base + j * t.stride * 256 + 4 * k) 4 = lane (x.qreg (bitsOf w 15 11)) k) ∧
      (∀ a, ¬ (t.unit j ≤ a ∧ a < t.unit j + min 64 (t.count - 64 * j) * sz) → u.byte a = s.byte a)) ∧
    (benchIllegal s 0x0E w x l = false → entryBad s t.entry = false → ∃ u, exec (.stes e w) s = .next u ∧
      (u.eng e).posOf i = j + 64 ∧ (u.eng e).pc = (loopNext x.loops (x.pc + 1)).2 ∧ (u.eng e).loops = (loopNext x.loops (x.pc + 1)).1 ∧
      u.mem = (convWrite s l.own (0x3000 + e) (entryDesc s l.own t.fmt t.entry t.base) false
        (((List.range 64).filter (fun k => decide (32 * (j + k) < t.count))).map (fun k => (t.blk0 + (j + k) * t.stride,
          (List.range 32).map (fun n => flDecode 23 (if bitsOf w 5 0 = 1 then lane (x.qreg n) k else lane (x.qreg (k / 2)) (32 * (k % 2) + n))))))).mem) ∧
    (benchIllegal s 0x18 w x l = false → (l.result = true → engReach s e l.own l.resAddr 64 true = true) → ∃ u, exec (.benchEnd e w) s = .next u ∧
      u.eng e = { x with st := .idle, cur := none } ∧ (l.edf = true → u.u.ctl.pend.getLsbD 6 = true) ∧ (l.result = true → u.rd l.resAddr 64 = x.res.toNat) ∧
      (∀ a, ¬ (l.result = true ∧ l.resAddr ≤ a ∧ a < l.resAddr + 64) → u.byte a = s.byte a))

/-- With no stored word in error and a host port that has not failed, LAUNCH_ENTER reads the 512-byte block and, for no owner or one whose launches the engine does not drop, enters it in the foreground queue while that holds fewer than 16, or the background queue while that holds fewer than 64, or behind the launches that wait when its queue is full; nothing else changes. LAUNCH_START on an engine in service that runs nothing takes the first foreground launch, or else the first background launch; one that is no fold, that R201 accepts, whose slice stands at its owner's epoch and whose streams the owner may reach takes its slice's line as it stands and runs from instruction 0 with its arguments in k0 to k7 and its other registers cleared. With both queues empty nothing changes. The model's choices in it, where the spec leaves a point open: when a launch block is read (log 52); a launch reads its slice entry once (log 161) (07, launch queues (R202), 07, starting a launch (R201, R198)). -/
def Obligations.LaunchesQueueAndStart : Prop :=
  ∀ (s : State) (e : Nat), e < s.nCh → s.NoErr → linkGone s = false →
    let x := s.eng e
    (∀ (own : Option Nat) (addr : Nat), (∀ p, own = some p → p ∉ x.drop) →
      let l : Launch := { own, addr, blk := BitVec.ofNat 4096 (s.rd addr 512), edf := true }
      let goes := fun (y : Engine) => exec (.launchEnter e own addr) s = .next (s.setEng e y)
      (bitOf l.blk 8 = true → x.fg.length < 16 → x.fgw = [] → goes { x with fg := x.fg ++ [l] }) ∧
      (bitOf l.blk 8 = true → 16 ≤ x.fg.length ∨ x.fgw ≠ [] → goes { x with fgw := x.fgw ++ [l] }) ∧
      (bitOf l.blk 8 = false → x.bg.length < 64 → x.bgw = [] → goes { x with bg := x.bg ++ [l] }) ∧
      (bitOf l.blk 8 = false → 64 ≤ x.bg.length ∨ x.bgw ≠ [] → goes { x with bgw := x.bgw ++ [l] })) ∧
    (x.running = false → x.ok = true → ∀ (g : Launch) (r : List Launch), g.fold = none →
      let starts := fun (y : Engine) (st : EngSt) =>
        let u := s.setEng e y
        launchBad u g = false → launchStale u g = none → launchHit u e g = none →
        exec (.launchStart e) s = .next (s.setEng e { y with st, cur := some { g with line := (g.entry u).map (fun a => (a, u.bytes a 128)) }, pc := 0, q := [], dig := 0, pos := [], loops := [], res := 0, k := (List.range 8).map (fun i => (i, g.arg i)) })
      (x.fg = g :: r → starts ({ x with fg := r } : Engine).refill .runFg) ∧
      (x.fg = [] → x.bg = g :: r → starts ({ x with bg := r } : Engine).refill .runBg)) ∧
    (x.running = false → x.fg = [] → x.bg = [] → exec (.launchStart e) s = .next s)

/-- An engine that runs the launch of standard program 5, 6, 7 or 8 for a listed slice that is not frozen, with no result asked and nothing in memory that holds it up, updates every element of the slice in order, marks its optimizer ended and becomes idle. In a state where no stored word is in error and no injection is armed, one element of AdamW, Lion or SGD takes the FP32 values of R217 from the parameter block, as long as the block is what the step course found, the narrowed gradient times GSCALE, the state image and the master, where the three lie apart from each other. The model's choices in it, where the spec leaves a point open: a slice that is not listed (log 61); FP32 roundings of R217 (log 62) (07, optimizers (R217), 07, standard programs (R214)). -/
def Obligations.OptimizerPrograms : Prop :=
  ∀ (s : State) (e a : Nat) (l : Launch), l.entry s = some a → slId s a = l.slice → sliceFrozen s a = false →
    let all := List.range (slRows s a * slCols s a)
    let ends := fun (i : Instr) (u : State) => ∃ t, exec i s = .next t ∧ t.mem = u.mem ∧ (t.eng e).st = .idle ∧ (t.eng e).cur = none ∧
      (t.slice l.slice).opted = true
    (StdRuns s e 5 l → ends (.adamw e) (all.foldl (adamwEl a) (stdBusy s e))) ∧ (StdRuns s e 6 l → ends (.lion e) (all.foldl (lionEl a) (stdBusy s e))) ∧
    (StdRuns s e 7 l → ends (.sgdWithMomentum e) (all.foldl (sgdEl a) (stdBusy s e))) ∧
    (StdRuns s e 8 l → ends (.factoredSecondMoment e) (factRun a (stdBusy s e))) ∧
    (s.Calm → (∀ b, (s.slice (slId s a)).par = some b → b = s.line (slParams s a)) → ∀ k < slRows s a * slCols s a,
      let x := stAddr s a 0 k
      let y := stAddr s a 1 k
      let z := wAddr s a k
      let P := fun (i : Nat) => s.rd (slParams s a + 4 * i) 4
      let g := fm (afNarrow (BitVec.ofNat 40 (s.rd (slAcc s a + 5 * k) 5))).toNat (P 9)
      let m := s.rd x 4
      let new := fun (u : Nat) => fs (s.rd z 4) (fm (P 0) (fma (P 1) (s.rd z 4) u)) % 2 ^ 32
      (x + 4 ≤ y ∨ y + 4 ≤ x) → (x + 4 ≤ z ∨ z + 4 ≤ x) → (y + 4 ≤ z ∨ z + 4 ≤ y) →
      (let m' := fma (P 2) m (fm (P 3) g)
       let v' := fma (P 4) (s.rd y 4) (fm (P 5) (fm g g))
       let t := adamwEl a s k
       t.rd x 4 = m' % 2 ^ 32 ∧ t.rd y 4 = v' % 2 ^ 32 ∧ t.rd z 4 = new (fd (fm m' (P 7)) (fa (fsqrt (fm v' (P 8))) (P 6)))) ∧
      (let t := lionEl a s k
       t.rd x 4 = fma (P 4) m (fm (P 5) g) % 2 ^ 32 ∧ t.rd z 4 = new (fSign (fma (P 2) m (fm (P 3) g)))) ∧
      (let m' := fma (P 2) m g
       let t := sgdEl a s k
       t.rd x 4 = m' % 2 ^ 32 ∧ t.rd z 4 = new (if P 11 % 2 = 1 then fma (P 2) m' g else m')))

/-- An engine that runs the launch of standard program 0 for a listed slice, with its scale entry valid, no result asked and nothing in memory that holds it up, converts the masters into the working copy under the entry, and stamps the copy with the step. Standard program 1 runs every entry of its scope that its channel holds, unless an event of one stops the engine, marks the step, and lets the closed records go. An entry whose bank counted nothing, here and in its scale domain, keeps its T; one with non-zero values, and a watch that does not fire, moves its history on by the bank's AMAX, takes its new T from the newest window, for zeros alone the T before, which is 0 with no history, and clears the bank. The model's choices in it, where the spec leaves a point open: how the working copy gathers blocks (log 22); a slice that is not listed (log 61); which lines a standard program moves (log 165); history of a collective scale domain (log 174); an infinite amax in the history (log 177) (07, cast with scale (R215), 07, amax history (R213), 02, delayed scaling (R40)). -/
def Obligations.CastAndHistoryPrograms : Prop :=
  ∀ (s : State) (e a : Nat) (l : Launch), s.Calm →
    (StdRuns s e 0 l → l.entry s = some a → slId s a = l.slice → entryBad s (slWcEntry s a) = false →
      let bs := castBlocks s a
      ∃ t, exec (.castWithScale e) s = .next t ∧ (t.slice l.slice).cast = true ∧ (t.slice l.slice).stampStep = (s.jobOf l.own).step ∧
        t.mem = (padBlocks (wcDesc s l.own a) bs.length (convWrite (stdBusy s e) l.own (0x3000 + e) (wcDesc s l.own a) false bs)).mem) ∧
    (StdRuns s e 1 l →
      let u := (engEntries s e l.snap).foldl (histEntry e l.own (l.arg 0)) (stdBusy s e)
      (u.eng e).running = true →
      exec (.amaxHistory e) s = .next (readyRecords l.own (stdEnded s (u.markStep l.own (l.arg 0) 9) e l))) ∧
    ∀ (own : Option Nat) (n : W64), ∀ x < 65536,
      let b := scaleBase s + 512 * x
      let bank := n.toNat % 2
      let c := b + 64 + 48 * bank
      let t := histEntry e own n s x
      let head := (s.rd (b + 11) 1 + 1) % 64
      let cnt := min (s.rd (b + 10) 1 + 1) 64
      let newest := (List.range (min (s.jobOf own).window cnt)).map (fun i => if i = 0 then s.rd (c + 30) 4 else s.rd (b + 256 + 4 * ((head + 64 - i) % 64)) 4)
      (s.rd c 6 = 0 → s.rd (c + 24) 6 = 0 → s.bench.ran.contains (2 * x + bank) = false → (scopeOf s x = 0 ∨ s.rd (c + 30) 4 = 0) →
        t.byte (b + 9 - bank) = s.byte (b + 8 + bank) ∧ t.rd (b + 10) 2 = s.rd (b + 10) 2 ∧ t.rd (b + 256) 256 = s.rd (b + 256) 256) ∧
      (s.rd c 6 ≠ 0 → watchLow (s.rd c 6) (s.rd (c + 6) 6) (s.rd (b + 16) 4) = false →
        t.rd (b + 11) 1 = head ∧ t.rd (b + 10) 1 = cnt ∧ t.rd (b + 256 + 4 * head) 4 = s.rd (c + 30) 4 ∧ t.rd c 48 = 0 ∧
        t.rd (b + 9 - bank) 1 = unsign 8 (histT (s.rd (b + 4) 1) (s.jobOf own).margin newest (if s.rd (b + 10) 1 = 0 then 0 else signed 8 (s.byte (b + 8 + bank)).toNat)) ∧
        t.byte (scaleBase s + 0x2000000 + x) = t.byte (b + 9 - bank))

/-- On an engine that runs the launch of standard program 2, with no result asked and nothing in memory that holds it up, CHAIN_ADD hands the conversation the launch serves its chain value, the running sum with the piece added value by value, or at a first position the piece alone, with the side record of a group that carries one, and counts its lines. With program 3 for a listed slice not yet digested, while another slice is not, DIGEST adds the terms of the slice's masters and state to the digest sum and marks the slice. With program 4 for a listed slice, NOISE_STATISTICS adds the contributions of each position in micro-batch order to its sums L and Q and forgets them; other folds stay. The engine becomes idle; DIGEST and NOISE_STATISTICS change no byte of memory. The model's choices in it, where the spec leaves a point open: noise sums (log 55); the symbols of R220 (log 56); a slice that is not listed (log 61); the spine's additions and staging slots (log 93); which lines a standard program moves (log 165) (07, chain add (R216), 07, digest (R218, R219), 07, noise statistics (R220)). -/
def Obligations.ReductionPrograms : Prop :=
  ∀ (s : State) (e a : Nat) (l : Launch),
    (StdRuns s e 2 l → ∀ (c : Conv) (g : Group), findConv s l.conv = some c → s.group c.gid = some g →
      let loc := c.local_ s 0
      let sum := if c.first g then loc else combine c (SMap.get [] 0 c.runs) loc
      let base := if c.first g then List.replicate g.n 0 else c.side.getD (List.replicate g.n 0)
      let side := if g.side then (List.range g.n).map (fun r => if r = c.rank then sumsq loc else nth 0 base r) else []
      exec (.chainAdd e) s = .next (drive l.conv (updConv l.conv (fun x => { x with own_ := some sum, outSide := side }) (countLines e (chainLines s l.conv) (stdEnded s (stdBusy s e) e l))))) ∧
    (StdRuns s e 3 l → l.entry s = some a → slId s a = l.slice → (s.slice l.slice).digested = false →
      (∃ b ∈ sliceEntries s, slId s b ≠ l.slice ∧ (s.slice (slId s b)).digested = false) →
      ∃ t, exec (.digest e) s = .next t ∧ t.bench.digSum = s.bench.digSum + digestSum 1 (slImgOff s a / 8) (words64 (slicePart s a)) ∧
        (t.slice l.slice).digested = true ∧ t.mem = s.mem ∧ (t.eng e).st = .idle ∧ (t.eng e).cur = none) ∧
    (StdRuns s e 4 l → l.entry s = some a → slId s a = l.slice → ∃ t, exec (.noiseStatistics e) s = .next t ∧
      t.bench.folds = s.bench.folds.map (fun f => if f.slice = l.slice then
          let ins := (List.range (slMbs s a)).flatMap (fun mb => s.bench.noise.filter (fun n => n.slice == f.slice && n.rb == f.rb && n.col0 == f.col0 && n.mb == mb))
          { f with l := ins.foldl (fun x n => BitVec.ofNat 32 (fa x.toNat n.l.toNat)) f.l, q := ins.foldl (fun x n => BitVec.ofNat 32 (fa x.toNat n.q.toNat)) f.q }
        else f) ∧
      t.bench.noise = s.bench.noise.filter (fun n => n.slice != l.slice) ∧ t.mem = s.mem ∧ (t.eng e).st = .idle ∧ (t.eng e).cur = none)

/-- PIECE_ARRIVE takes the first waiting piece, for a listed slice with an engine of the part, good and no duplicate, and tells the sender of its acceptance. Where its micro-batch is the next of its position and an engine in service runs nothing and has no foreground launch, its fold runs at once, where R201 and R328 let it start: memory takes the piece and the held pieces that follow. Where the engine runs or has foreground launches, the fold enters the foreground queue. Where the piece comes ahead of the next, its row block fits a hold slot, fewer than 8 are held for its position and a slot is free, it goes into the lowest free hold slot. Folding gives each accumulator value of its position the piece's value, the first time, or the AF40 sum; no other byte changes. FAN_OUT takes the first slice whose fold is done and not fanned out: with no group where the device is no lead, or no targets, it launches the optimizer and the digest of the slice; with targets in a group that stands at its epoch, it sends the accumulator to each of them first. The model's choices in it, where the spec leaves a point open: header fields of collective packets (log 87); the layout of a piece in a packet (log 88); a release's flag, STG 0 and how a terminal accepts a piece (log 89); D1 of 0x8301 and 0x8303 (log 96); the header address of a piece is a free value (log 166) (06, folding pieces (R184, R185), 07, launch queues (R202), 07, starting a launch (R201, R208), 07, hold slots (R209), 11, fan-out (R313), 12, epochs (R328)). -/
def Obligations.PiecesFold : Prop :=
  ∀ (s : State) (a : Nat), s.Calm →
    (∀ (p : Piece) (r : List Piece), s.u.col.pieces = p :: r → sliceFind s p.slice = some a → p.slice ≠ noSlice → slEngine s a < s.nCh → pieceBad s a p = false →
      pieceDup s a p = false → slNoise s a = false →
      let e := slEngine s a
      let x := s.eng e
      let next := ((foldOf s p.slice p.rb p.col0).map (fun f => f.next)).getD 0
      let l : Launch := { own := p.own, blk := mkBlock 0 true p.slice, src := 0x6000, fold := some p }
      let taken := fun (t : State) => exec .pieceArrive s = .next (acceptPiece p (t.updCol (fun c => { c with pieces := r })))
      (p.mb = next → (∀ q, p.own = some q → q ∉ x.drop) → x.fgw = [] →
        (x.running = false → x.ok = true → x.fg = [] → launchStale s l = none → launchHit s e l = none →
          ∃ t, taken t ∧ t.mem = (foldHeld e a p.slice p.rb p.col0 4096 (foldStep a p.slice p.rb p.col0 p.cols p.vals s)).mem) ∧
        (x.running = true ∨ x.fg ≠ [] → x.fg.length < 16 → taken (s.setEng e { x with fg := x.fg ++ [l] }))) ∧
      (p.mb ≠ next → p.rb < 65536 → heldCount s a p.rb p.col0 < 8 → ∀ i, freeSlot s a = some i → taken (holdPiece a i p s))) ∧
    (∀ (rb col0 cols : Nat) (first : Bool) (vals : List AF40), 0 < cols → col0 + cols ≤ slCols s a →
      let at_ := fun (i : Nat) => slAcc s a + 5 * ((32 * rb + i / cols) * slCols s a + col0 + i % cols)
      (∀ i < 32 * cols, at_ i + 5 ≤ a ∨ a + 128 ≤ at_ i) →
      let t := accAdd a rb col0 cols first vals s
      (∀ i < 32 * cols, t.rd (at_ i) 5 = if first then (nth 0 vals i).toNat else (afAdd (BitVec.ofNat 40 (s.rd (at_ i) 5)) (nth 0 vals i)).toNat) ∧
      (∀ x, (∀ i < 32 * cols, ¬ (at_ i ≤ x ∧ x < at_ i + 5)) → t.byte x = s.byte x)) ∧
    ((sliceEntries s).find? (fanReady s) = some a →
      let own := sliceOwner s a
      let s1 := s.updSlice (slId s a) (fun x => { x with fanned := true })
      let go := fun (u : State) => launchSlice 0x6000 a own 3 false (launchSlice 0x6000 a own (slOpt s a) false u)
      (s.group (slGroup s a % 4096) = none → slLead s a = false → exec .fanOut s = .next (go s1)) ∧
      (∀ g, s.group (slGroup s a % 4096) = some g → g.fanout = [] → exec .fanOut s = .next (go s1)) ∧
      (∀ g, s.group (slGroup s a % 4096) = some g → g.fanout ≠ [] → colOn s = true → dormant s g = false →
        exec .fanOut s = .next (go (g.fanout.foldl (fun u w => fanSend g own a w u) s1))))

/-- For a snapshot under way in a slot of this device's memory, SNAPSHOT_COPY on an engine that runs its copy program and may write the slot writes its parts there and no other byte, takes itself from the copies still to make, adds their terms to the image digest and becomes idle. With none left, a SNAPSHOT_COMPLETE that holds writes the header at the slot's base, reports the completion, and the slot is the last agreed one where the devices agreed; one that does not hold fails the snapshot, and BNC_SNAP_STATUS says so. SNAPSHOT_RESTORE on an engine that runs its restore program, from an image that its checks accept, which the owner may read and whose scale entries it may write, lays the masters and state of the engine's slices, then the scale entries of its channel, as the image has them, or from an image without entries leaves every valid entry of its channel in warm-up with no history, and the engine becomes idle. The model's choices in it, where the spec leaves a point open: a frozen slice's digest launch (log 54); addresses and acknowledgement of snapshot data (log 57); the order of snapshot slots (log 58); what a restore takes and leaves (log 59) (07, snapshots (R222, R223, R224), 07, restore (R226)). -/
def Obligations.Snapshots : Prop :=
  ∀ (s : State) (e : Nat) (l : Launch) (n : Snap), s.Calm →
    let b := snapBase s n.slot
    let ps := snapParts s e n.late l.conv n.entries
    (StdRuns s e 9 l → s.bench.snap = some n → (e, l.conv) ∈ n.parts → n.slot = l.snap → snapRemote s n.slot = false →
      (∀ p ∈ ps, engReach s e l.own (b + 256 + p.1) p.2.length true = true) →
      ∃ t, exec (.snapshotCopy e) s = .next t ∧ t.mem = (ps.foldl (fun u p => u.putBytes (b + 256 + p.1) p.2) s).mem ∧
        t.bench.snap.map (fun m => m.parts) = some (n.parts.filter (fun x => x != (e, l.conv))) ∧
        t.bench.snap.map (fun m => m.sum) = some (n.sum + ps.foldl (fun v p => v + digestSum 3 (p.1 / 8) (words64 p.2)) (0 : W64)) ∧
        (t.eng e).st = .idle ∧ (t.eng e).cur = none) ∧
    (s.bench.snap = some n → n.parts = [] → n.partner = none → snapRemote s n.slot = false → ∀ agreed, ∃ t, exec (.snapshotComplete true agreed) s = .next t ∧
      t.bytes b (snapHeader s n).length = snapHeader s n ∧ t.u.outs = s.u.outs ++ [.snapReport n.own n.step] ∧ t.bench.snap = none ∧
      t.bench.lastValid = (s.bench.lastValid || agreed) ∧ t.bench.lastSlot = (if agreed then n.slot else s.bench.lastSlot)) ∧
    (s.bench.snap = some n → ∀ agreed, ∃ t, exec (.snapshotComplete false agreed) s = .next t ∧ t.bench.snap = none ∧ t.bench.snapFailed = true) ∧
    (StdRuns s e 10 l → ∀ img : List Byte,
      let k := (l.arg 0).toNat % 2
      let i0 := if snapRemote s k then img else s.bytes (snapBase s k) 256
      let i := if snapRemote s k then img.take (imageLen i0) else s.bytes (snapBase s k) (imageLen i0)
      (snapRemote s k = false → engReach s e l.own (snapBase s k) (imageLen i0) false = true) → imageOk s l.own i = true →
      (∀ p ∈ restEntries s e i, engReach s e l.own p.1 p.2.1 true = true) →
      let shard := i.drop (256 + 128 * imgF i 48 4)
      let s1 := ((sliceEntries s).filter (fun a => decide (slEngine s a = e))).foldl (fun t a =>
        let m := 4 * slRows s a * slCols s a
        (t.putBytes (slMaster s a) ((shard.drop (slImgOff s a)).take m)).putBytes (slState s a) ((shard.drop (slImgOff s a + m)).take (slStateBytes s a))) s
      let es := (List.range (imgF i 52 4)).map (fun j => (shard.drop (imgF i 56 8 + 512 * j)).take 512)
      (es ≠ [] → ∃ t, exec (.snapshotRestore e img) s = .next t ∧ (t.eng e).st = .idle ∧ (t.eng e).cur = none ∧
        t.mem = (es.foldl (fun t r => if (s.gddrMap (scaleBase s + 512 * imgF r 0 2)).1 = e then t.putBytes (scaleBase s + 512 * imgF r 0 2) r else t) s1).mem) ∧
      (es = [] → ∃ t, exec (.snapshotRestore e img) s = .next t ∧ (t.eng e).st = .idle ∧ (t.eng e).cur = none ∧
        (∀ x ∈ validEntries s, (s.gddrMap (scaleBase s + 512 * x)).1 = e → t.byte (scaleBase s + 512 * x + 10) = 0 ∧
          t.byte (scaleBase s + 512 * x + 5) = s.byte (scaleBase s + 512 * x + 5) ||| 2) ∧
        ∀ a, (∀ x ∈ validEntries s, a ≠ scaleBase s + 512 * x + 5 ∧ a ≠ scaleBase s + 512 * x + 10) → t.byte a = s1.byte a))

/-- For every register and instance that the tables list, its offset is a multiple of 8 and each of the 8 byte offsets from it finds that register and no other (18, register space (R466, R468, R470)). -/
def Obligations.RegisterMapIsExact : Prop :=
  ∀ (r : Reg), r.listed → r.off % 8 = 0 ∧ ∀ i < 8, regAt (r.off + i) = some r

/-- CORE_CNT_CLEAR, CORE_CNT_WCLEAR, SRAMCE_CLEAR, BNC_ENG_CNT_CLEAR, MEM_CH_CNT_CLEAR, LNK_CNT_CLEAR, QUE_PART_CNT_CLEAR, MEM_LOG_CLEAR, COL_CNT_CLEAR and PWR_CNT_CLEAR zero exactly their group. For a unit of the part and whatever else is written, a write by the control complex of CLEAR of the core, wait, scratchpad, Bench engine, channel, link, collective, partition or power counters sets the group's counters to 0, and of the corrected-error log empties it with its flag; nothing else changes. The model's choices in it, where the spec leaves a point open: which writes the register rows are (log 126) (03, counters (R94), 05, counters (R170), 08, counters (R248, R249), 07, engine counters (R227), 10, link counters (R293), 11, counters (R323), 13, counters (R368), 17, counters (R465)). -/
def Obligations.CountersClear : Prop :=
  ∀ (s : State) (v : W64),
    (∀ n < s.nCores,
      exec (.coreCntClear .ctl n v) s = .next (s.updMat n (fun x => { x with cntMma := 0, cntZskip := 0, cntDrain := 0, cntBank := 0 })) ∧
      exec (.coreCntWclear .ctl n v) s = .next (s.updSeq n (fun q => { q with cntFill := 0, cntStall := 0, cntLatec := 0 })) ∧
      exec (.sramceClear .ctl n v) s = .next (s.updMem (fun t => { t with sramCe := SMap.erase n t.sramCe }))) ∧
    (∀ e < s.nCh,
      exec (.bncEngCntClear .ctl e v) s = .next (s.updEng e (fun x => { x with cntBusy := 0, cntLines := 0 })) ∧
      exec (.memChCntClear .ctl e v) s = .next (updMemCh e (fun x => { x with ce := 0, retry := 0, compat := 0 }) s)) ∧
    (∀ l < s.nLinks, exec (.lnkCntClear .ctl l v) s = .next (s.updLink l (fun x => { x with retry := 0, fecCorr := 0, fecUnc := 0 }))) ∧
    (∀ p < s.nOwners, exec (.quePartCntClear .ctl p v) s = .next (s.updQue (fun t => { t with dper := SMap.set p (let d : Disper := SMap.get {} p t.dper; { d with cntDispatch := 0, cntFallback := 0, cntLate := 0, cntDefer := 0 }) t.dper }))) ∧
    exec (.memLogClear .ctl v) s = .next (s.updMem (fun t => { t with log := [], dropped := false })) ∧
    exec (.colCntClear .ctl v) s = .next (s.updCol (fun c => { c with dup := 0, dupLate := 0 })) ∧
    exec (.pwrCntClear .ctl v) s = .next (s.updPow (fun p => { p with overs := 0, defers := 0 }))

/-- For a listed register of a unit of the part whose fields only hold what is written, a write by the control complex that its Meaning column allows sets its RW fields as written and keeps the other bits, and nothing else changes. A 32-bit write sets the RW bits of its half. LNK_PAT_VALID and an armed MEM_INJECT are such writes. A write of an offset with no register raises 0x8201 and does nothing else. The model's choices in it, where the spec leaves a point open: which values MEM_INJECT takes (log 70); which writes the register rows are (log 126); values out of range are forbidden writes (log 128); a write of the value held is no change (log 132) (18, access codes and writes (R466, R467, R470, R471), 00, register writes (R17, R18, R19), 08, injection (R248), 10, patterns (R288)). -/
def Obligations.RegisterWrites : Prop :=
  ∀ (s : State) (r : Reg) (v : W64), r.listed → r.absent s = false → r.plain = true →
    (regForbids s false r (s.stored r) (rwPut s r v) v (2 ^ 64 - 1) = false →
      exec (.registerWrite .ctl r.off 8 v) s = .next (s.setReg r.off (rwPut s r v))) ∧
    (∀ h < 2, let x := rwPut s r (if h = 0 then BitVec.ofNat 64 ((s.stored r).toNat / 2 ^ 32 * 2 ^ 32 + v.toNat % 2 ^ 32)
        else BitVec.ofNat 64 (v.toNat % 2 ^ 32 * 2 ^ 32 + (s.stored r).toNat % 2 ^ 32))
      (∀ x w m, regForbids s false r (s.stored r) x w m = false) →
      exec (.registerWrite .ctl (r.off + 4 * h) 4 v) s = .next (s.setReg r.off x)) ∧
    ((∀ p < 16, (s.stored .lnkPatValid).getLsbD p = true → v.getLsbD p = false → patIdle s p = true) →
      exec (.lnkPatValidWrite .ctl v) s = .next (s.setReg 0x880010 (rwPut s .lnkPatValid v))) ∧
    (gddrHeld s = false → bitsOf v 55 48 ≤ 131 → 0 < bitsOf v 47 40 →
      exec (.memInjectArm .ctl v) s = .next (s.setReg 0xC00018 (rwPut s .memInject (v ||| 0x8000000000000000)))) ∧
    (∀ x, regAt x = none → ∃ t, exec (.registerWrite .ctl x 8 v) s = .next t ∧ t = s.raise 0x8201 0x9000 none
      (BitVec.ofNat 64 ((0xF000000000 + x) % 2 ^ 48)) 17)

/-- For a VF that answers and is not frozen, a 64-bit write that reaches a listed register outside its view is discarded: the function is frozen and the event 0x8201 is raised with the function as source, and nothing else happens. The same holds of the PF, once boot is complete, for every register that no rule lets it write. The model's choices in it, where the spec leaves a point open: commands of a VF that is left out (log 119); D0 of a VF's violation (log 123); writes before boot, and PF_ADMIN (log 134) (18, who may write (R467), 00, protection (R5), 14, freezing (R373)). -/
def Obligations.ForbiddenWritesAreViolations : Prop :=
  ∀ (s : State) (r : Reg) (v : W64), r.listed →
    (∀ f, 0 < f → f < s.nOwners → fnLive s f = true → s.u.host.frozen.contains f = false → r.inView f = false →
      regWrite (.fn f) r.off 8 v s = (s.updHost (fun h => { h with frozen := h.frozen ++ [f] })).raise 0x8201 (0x8000 + f) (whoOwner s (.fn f))
        (BitVec.ofNat 64 ((0xF000000000 + r.off) % 2 ^ 48)) 17) ∧
    (s.u.ctl.boot = 3 → s.u.host.frozen.contains 0 = false → writeRight (.fn 0) r = .none →
      exec (.registerWrite (.fn 0) r.off 8 v) s = .next ((s.updHost (fun h => { h with frozen := h.frozen ++ [0] })).raise 0x8201 0x8000 (whoOwner s (.fn 0))
        (BitVec.ofNat 64 ((0xF000000000 + r.off) % 2 ^ 48)) 17))

/-- With no owner holding GDDR7, a write of BNC_MAP that changes LOCAL or GRANULE to values in range keeps the program slots that lie in EDF's region and puts every channel in service back to initialisation; one of MEM_CTRL that changes COMPAT empties the log and the buckets, and with the same COMPAT takes its fields alone. A write of COL_EPOCH of an owner whose job does not run and that holds no arm sets CUR and, with bit 32, clears the fence's error flag. Other fields and state stay. The model's choices in it, where the spec leaves a point open: what EDF keeps over an initialisation (log 67); a suspended owner's ranges count as held (log 97); what a change of COMPAT clears (log 133) (07, BNC_MAP (R194), 08, initialisation (R234), 08, compatibility mode (R240), 12, COL_EPOCH (R332)). -/
def Obligations.MemoryMapAndModeWrites : Prop :=
  ∀ (s : State) (v : W64), gddrHeld s = false →
    (bitsOf v 8 7 ≠ 3 → bitsOf v 6 0 ≤ 92 → bitsOf v 8 0 ≠ bitsOf (s.stored .bncMap) 8 0 → ∃ t, exec (.bncMapWrite .ctl v) s = .next t ∧
      t.regs = SMap.set 0xE00000 (rwPut s .bncMap v) s.regs ∧ t.mem = s.mem ∧ t.cores = s.cores ∧ t.owners = s.owners ∧
      t.u.mem.ch = s.u.mem.ch.map (fun e => (e.1, if e.2.state = 0 then e.2 else { e.2 with state := 1 })) ∧
      t.u.mem.keep = (if s.edfBase ≤ progBase s then SMap.slice (progBase s) 0x80000 s.mem else [])) ∧
    (bitsOf v 0 0 ≠ bitsOf (s.stored .memCtrl) 0 0 → ∃ t, exec (.memCompatWrite .ctl v) s = .next t ∧
      t.regs = SMap.set 0xC00000 (rwPut s .memCtrl v) s.regs ∧ t.mem = s.mem ∧ t.u.mem.log = [] ∧
      t.u.mem.ch = s.u.mem.ch.map (fun e => (e.1, { e.2 with lvl := 0, bg := [0, 0, 0, 0], compat := 0 }))) ∧
    (bitsOf v 0 0 = bitsOf (s.stored .memCtrl) 0 0 → exec (.memCompatWrite .ctl v) s = .next (s.setReg 0xC00000 (rwPut s .memCtrl v))) ∧
    (∀ p < s.nOwners, s.jobRuns p = false → s.u.crs.arms.any (fun a => armOwner a == p) = false →
      ∃ t, exec (.colEpochWrite .ctl p v) s = .next t ∧ curEpoch t p = bitsOf v 15 0 ∧
        (bitOf v 32 = false → t = s.setReg (0xA00050 + 8 * p) (rwPut s (.colEpoch p) v)) ∧
        (bitOf v 32 = true → bitOf (t.reg 0 (0xA00050 + 8 * p)) 32 = false) ∧ t.mem = s.mem ∧ t.u = s.u ∧ t.cores = s.cores)

/-- CRS_RUN_WRITE, CRS_LEAD_WRITE, CRS_PARENT_WRITE, SYNC_SEND, SYNC_RECEIVE, DELAY_REQUEST, DELAY_REPLY, HOLDOVER_ENTER, SYNC_LOST and COURSE_BOUNDARY act as course time says. While STOPPED and with no arm, CRS_CTRL written by the control complex takes its fields; a write that leaves RUN does nothing else, RUN set with the clocks present starts, with LEAD, a lead LOCKED and, without it, a follower ACQUIRING, each raising source 7; after a clock loss the machine stays STOPPED (R451). A follower's first sync sets its count and tick from the stamp plus the link's delay; in ACQUIRING a sync within TOL counts towards 16, the 16th giving LOCKED. Syncs and delay requests queue on UP links; a delay reply sets the link's delay. 1,024 courses without a sync give HOLDOVER, more than HOLD of it LOST. A boundary adds one elapsed course, and one to the count of a lead with nothing due. The model's choices in it, where the spec leaves a point open: the first sync and the children of a send (log 71); delay and offset are halved downwards (log 72); the layout of EXCHANGE and TIME payloads (log 74); one command ends a course and an elapsed course (log 75) (09, course counter (R250, R251), 09, lead and followers (R252, R254), 09, lock states (R256), 00, elapsed courses (R487), 17, clock loss (R451)). -/
def Obligations.CourseTime : Prop :=
  ∀ (s : State) (v : W64),
    (s.u.crs.st = tsStopped → s.u.crs.arms = [] → bitsOf v 14 8 = 127 ∨ bitsOf v 14 8 ≤ 63 →
      let u := s.setReg 0x500008 (rwPut s .crsCtrl v)
      (bitOf v 0 = bitOf (s.stored .crsCtrl) 0 → exec (.crsLeadWrite .ctl v) s = .next u ∧ exec (.crsParentWrite .ctl v) s = .next u) ∧
      (bitOf v 0 = true → bitOf (s.stored .crsCtrl) 0 = false → s.u.pow.loss ≠ 0 →
        exec (.crsRunWrite .ctl v) s = .next (u.updCrs (fun c => { c with beyond := false }))) ∧
      (bitOf v 0 = true → bitOf (s.stored .crsCtrl) 0 = false → s.u.pow.loss = 0 → bitOf v 1 = true →
        exec (.crsRunWrite .ctl v) s = .next ((u.updCrs (fun c => { c with st := tsLocked, tick := 0, beyond := false })).pend 7)) ∧
      (bitOf v 0 = true → bitOf (s.stored .crsCtrl) 0 = false → s.u.pow.loss = 0 → bitOf v 1 = false →
        exec (.crsRunWrite .ctl v) s = .next ((u.updCrs (fun c => { c with st := tsAcquiring, tick := 0, synced := false, good := 0, beyond := false })).pend 7))) ∧
    (∀ (l stamp tick : Nat), l < s.nLinks → l = crsParent s → crsLead s = false → s.u.crs.st = tsAcquiring →
      let pt : Int := stamp + (crsLinkOf s l).delay
      let off := pt - (s.course.toNat * 9000 + tick % 9000 : Nat)
      (s.u.crs.synced = false → Quiet s → 0 ≤ pt → ∃ t, exec (.syncReceive l stamp tick) s = .next t ∧ t.course = BitVec.ofNat 64 (pt / 9000).toNat ∧
        t.u.crs.tick = (pt % 9000).toNat ∧ t.u.crs.synced = true ∧ t.u.crs.st = tsAcquiring ∧ t.mem = s.mem ∧ t.regs = s.regs) ∧
      (s.u.crs.synced = true → ∃ t, exec (.syncReceive l stamp tick) s = .next t ∧ t.course = s.course ∧ (crsLinkOf t l).offset = off ∧
        t.u.crs.good = (if off.natAbs ≤ crsTol s then s.u.crs.good + 1 else 0) ∧ t.u.crs.st = (if 16 ≤ t.u.crs.good then tsLocked else tsAcquiring))) ∧
    (s.u.crs.st = tsLocked ∨ s.u.crs.st = tsHoldover → ∀ ls : List Nat, ls.Nodup → ∃ t, exec (.syncSend ls) s = .next t ∧
      (∀ l, (s.link l).tx.time.length + (if l ∈ ls ∧ (s.link l).st = lkUp then 1 else 0) = (t.link l).tx.time.length) ∧ t.mem = s.mem) ∧
    (crsLead s = false → ∃ t, exec .delayRequest s = .next t ∧
      ∀ l < s.nLinks, (t.link l).tx.time = (s.link l).tx.time ++ (if (s.link l).st = lkUp then [(1, 0)] else [])) ∧
    (∀ (l t2 t3 t4 : Nat) (t1 : Int), l < s.nLinks → (crsLinkOf s l).t1 = some t1 → ∃ t, exec (.delayReply l t2 t3 t4) s = .next t ∧
      (crsLinkOf t l).delay = ((t4 - t1) - ((t3 : Int) - t2)) / 2 ∧ (crsLinkOf t l).t1 = none ∧
      (l = crsParent s → t.u.crs.steer = ((t2 - t1) - ((t4 : Int) - t3)) / 2 - crsAsym s l / 2)) ∧
    (s.u.crs.st = tsLocked → crsLead s = false → s.u.crs.lastSync + 1024 ≤ s.course.toNat → ∃ t, exec .holdoverEnter s = .next t ∧
      t.u.crs.st = tsHoldover ∧ t.u.crs.heldAt = s.course.toNat ∧ t.course = s.course) ∧
    (s.u.crs.st = tsHoldover → s.u.crs.heldAt + crsHold s < s.course.toNat → ∃ t, exec .syncLost s = .next t ∧ t.u.crs.st = tsLost ∧
      (s.u.crs.arms = [] → t = (s.updCrs (fun c => { c with st := tsLost })).pend 7)) ∧
    (∃ t, exec .courseBoundary s = .next t ∧ (s.u.crs.st = tsStopped → t.u.crs.elapsed = s.u.crs.elapsed + 1 ∧ t.course = s.course) ∧
      (counterRuns s = true → s.u.crs.st ≠ tsHoldover → crsLead s = true → s.u.crs.arms = [] → s.u.col.convs = [] → s.bench.snap = none → Quiet s →
        t.u.crs.elapsed = s.u.crs.elapsed + 1 ∧ t.course = s.course + 1 ∧ t.u.crs.tick = 0))

/-- A write of CRS_ARM_W3 by the control complex arms the entry of the four words if it passes the checks, a HANDOVER apart. CANCEL removes the arms of its owner, and where no HANDOVER is left armed ends the draining. Where the counter runs and the due entry of lowest kind and earliest push is of the row's kind and does not repeat, HANDOVER, EPOCH_FENCE, PATTERN, STEP, HISTORY, SNAPSHOT, DEADLINE, NOT_BEFORE, BENCH_ARM or SIGNAL_ARM takes it from the arms and has its kind's effect: a fence with nothing open makes TARGET the epoch and the one before PREV; a PATTERN that is valid becomes the active one; a STEP of a job with no step and no slice open gives it its number and opens its record; a HISTORY with no group scope launches program 1 on every engine that holds an entry; a SNAPSHOT with none under way and a slot in this device's memory begins one with its copies to make; a DEADLINE with nothing unfinished raises the group's mark, or for slices changes nothing; a NOT_BEFORE raises its group's mark; a BENCH enters its launch; a SIGNAL below 2^32 adds to its semaphore. Where the first closed record has had its history programs and the ring has room at its head, its bytes are written there and the head moves on; no other byte changes. A write of CRS_LEDGER_PTR with no record waiting sets the tail. The model's choices in it, where the spec leaves a point open: a frozen slice's digest launch (log 54); a row fires the next due entry if it is of its kind (log 76); the words of an EPOCH_FENCE event (log 78); when a record is a replay's (log 79); the events of a group deadline (log 95); a record that waits, and one for memory that is gone (log 189) (09, arms (R257, R258, R259), 09, firing (R260), 11, gates and deadlines (R305), 12, epoch fence (R329), 09, SIGNAL (R489), 07, snapshots (R224), 11, amax reductions (R320), 09, ledger (R262, R263, R264), 08, initialisation and retraining (R234, R235), 15, host link (R402)). -/
def Obligations.ArmedEventsAndLedger : Prop :=
  (
    ∀ (s : State) (v : W64),
      (let e := v ++ s.u.crs.w2 ++ s.u.crs.w1 ++ s.u.crs.w0
       byteField e 8 1 ≠ 1 → armBad s e (byteField e 0 8) 0 [] = false → s.Calm → exec (.armPush .ctl v) s = .next (s.updCrs (fun c => { c with
         arms := c.arms ++ [{ e, course := byteField e 0 8, seq := s.u.crs.armSeq }], armSeq := c.armSeq + 1 }))) ∧
      (s.u.crs.arms.any (fun a => armKind a == 1 && armOwner a != bitsOf v 19 16) = true →
        exec (.armCancel .ctl v) s = .next (s.updCrs (fun t => { t with arms := t.arms.filter (fun a => armOwner a != bitsOf v 19 16) }))) ∧
      (exec (.armCancel .ctl v) s = .next (undrain (s.updCrs (fun t => { t with arms := t.arms.filter (fun a => armOwner a != bitsOf v 19 16) })))) ∧
      (∀ (a : Arm) (k : Nat) (i : Instr), nextArm s = some a → counterRuns s = true → armKind a = k → armRepeat a.e = false →
        (k, i) ∈ [(1, Instr.handover), (2, .epochFence), (3, .pattern), (4, .step), (5, .history), (6, .snapshot), (7, .deadline), (8, .notBefore),
          (9, .benchArm), (10, .signalArm)] →
        let u := s.updCrs (fun c => { c with arms := c.arms.filter (fun b => b.seq != a.seq) })
        exec i s = .next (fireEffect a u)) ∧
      (∀ (a : Arm) (u : State), u.Calm → let p := armOwner a
        let t := byteField a.e 12 4
        let g := byteField a.e 16 8
        let v := fireEffect a u
        (armKind a = 2 → (fenceOpen p u).2 = false → curEpoch v p = t % 2 ^ 16 ∧ bitsOf (v.reg 0 (0xA00050 + 8 * p)) 31 16 = curEpoch u p ∧
          v.u.net.inbox = u.u.col.held ++ u.u.net.inbox) ∧
        (armKind a = 3 → patValid u t = true → v.regs = SMap.set 0x880008 (putBits (lnkPat u) 3 0 t) u.regs ∧ v.mem = u.mem) ∧
        (armKind a = 4 → (u.owner p).job.isSome = true → u.bench.snap = none → u.u.crs.lost = [] → SMap.find p u.u.crs.steps = none → sliceCount u = 0 →
          (v.owner p).job = (u.owner p).job.map (fun j => { j with step := BitVec.ofNat 64 g, ran := true }) ∧
          (SMap.find p v.u.crs.steps).map (fun r => (r.step, r.start)) = some (BitVec.ofNat 64 g, u.course.toNat)) ∧
        (armKind a = 5 → groupScopes u = [] → ∀ e < u.nCh, v.eng e = if engEntries u e 0 = [] then u.eng e else (u.eng e).enter
          { own := some p, blk := mkBlock 1 false noSlice ||| (BitVec.ofNat 4096 (u.jobOf (some p)).step.toNat <<< 128), src := 0x7000 }) ∧
        (armKind a = 6 → u.bench.snap = none → snapRemote u (nextSlot u.bench) = false → v.bench.snap.map (fun n => (n.slot, n.step, n.deadline, n.parts)) =
          some (nextSlot u.bench, (u.jobOf (some p)).step, g, snapEngines u (scopesOpen u (some p)) (validEntries u))) ∧
        (armKind a = 7 → (t = 0x80000000 → (∀ b ∈ slicesOf u (some p), sliceFrozen u b = false ∧ (u.slice (slId u b)).opted = true) → v = u) ∧
          (t ≠ 0x80000000 → ∀ gr, u.group t = some gr → unfinished u t gr g = [] → v = updGroup t (fun x => { x with late := some (max g (x.late.getD 0)) }) u)) ∧
        (armKind a = 8 → u.u.col.convs = [] → ∀ gr, u.group t = some gr → (v.group t).map (fun x => x.mark) = some (some (max g (gr.mark.getD 0)))) ∧
        (armKind a = 9 → t < u.nCh → v = u.updEng t (fun x => x.enter { own := some p, addr := g, blk := BitVec.ofNat 4096 (u.rd g 512), src := 0x7000 })) ∧
        (armKind a = 10 → Quiet u → ((u.core (t % 256)).r.semv (t / 256 % 64)) + g < 2 ^ 32 →
          v = u.updRegs (t % 256) (fun r => r.setSem (t / 256 % 64) (r.semv (t / 256 % 64) + g))))) ∧
  (
    ∀ (s : State) (v : W64),
      (s.Calm → ∀ (r : StepRec) (rest : List StepRec), s.u.crs.closed = r :: rest → r.ready = true →
        let b := recordBytes s r
        let at_ := ledgerBase s + 64 * s.u.crs.head
        memGone s at_ b.length = false → ledgerPlace s (b.length / 64) = some s.u.crs.head → ∃ t, exec .ledgerRecordWrite s = .next t ∧ t.bytes at_ b.length = b ∧
          (∀ x, ¬ (at_ ≤ x ∧ x < at_ + b.length) → t.byte x = s.byte x) ∧ t.u.crs.closed = rest ∧
          t.u.crs.head = (s.u.crs.head + b.length / 64) % (bitsOf (s.reg 0 0x500040) 63 48 * 16384) ∧
          SMap.get 0 r.own t.u.crs.written = max (SMap.get 0 r.own s.u.crs.written) r.step.toNat) ∧
      (∀ (r : StepRec) (rest : List StepRec), s.u.crs.closed = r :: rest → r.ready = true →
        let b := recordBytes s r
        let at_ := ledgerBase s + 64 * s.u.crs.head
        memGone s at_ b.length = false → memBusy s at_ b.length = true ∨ (s.u.host.st ≠ 2 ∧ 0x400000000000 ≤ at_ ∧ at_ < 0x800000000000) → ledgerPlace s (b.length / 64) = some s.u.crs.head →
        ∃ t, exec .ledgerRecordWrite s = .next t ∧ t.mem = s.mem ∧ t.u.host.hostw = s.u.host.hostw ++ [{ fn := some r.own, ws := [(at_, b)] }] ∧ t.u.crs.closed = rest) ∧
      (s.u.crs.closed = [] → exec (.ledgerTailWrite .ctl v) s = .next (s.setReg 0x500048 (rwPut s .crsLedgerPtr v))))

/-- On an UP link with no TIME message and nothing to resend, FLIT_SEND sends the next flit of the VC that the rotation picks, or with no VC ready a null flit; the flit takes one credit and the next SEQ and is kept for a resend. With a flit to resend it sends that flit again; in EXCHANGE it sends the exchange's payload in a null flit. FLIT_RECEIVE of a sequenced flit with a bad CRC asks for a resend once for its gap; a good one next in sequence is accepted, takes the credit counts, and with EOP puts its packet, not sealed on a link without encryption, at this hop. TIME_FLIT_RECEIVE of a TIME flit with a good CRC takes its acknowledgement and credits and acts as the sync, delay request or delay reply that its payload is, whose layout the spec leaves open (log 74). ACK_TIMEOUT sets the link to resend from the oldest flit, and RETRAIN_COMPLETE within the limit of retrains does so in UP, or in AUTHENTICATING where the link was in it. The model's choices in it, where the spec leaves a point open: the layout of EXCHANGE and TIME payloads (log 74); how a bad flit is judged (log 81); when retrainings count anew (log 83) (10, flits and retry (R269, R271, R272, R273), 10, credits (R274), 10, scheduling (R275), 10, sealing (R289), 10, exchange (R281)). -/
def Obligations.FlitsAreSentAndTaken : Prop :=
  ∀ (s : State) (l : Nat), l < s.nLinks →
    let x := s.link l
    let crcOk := fun (f : BitVec 2048) => leNat ((leBytes 256 f.toNat).drop 252) = (crc32 ((leBytes 256 f.toNat).take 252)).toNat
    let word := fun (f : BitVec 2048) => f.toNat % 2 ^ 32
    let others := fun (u : State) => (∀ k, k ≠ l → u.link k = s.link k) ∧ u.mem = s.mem ∧ u.regs = s.regs
    (x.st = lkUp → x.tx.time = [] → x.tx.resend = none → pickVc x = none →
      exec (.flitSend l) s = .next (emit l 0 0 false false false true (List.replicate 244 0) s)) ∧
    (x.st = 3 → exec (.flitSend l) s = .next (emit l 0 0 false false false true
      (leBytes 244 (Config.exchangePayload s.devAddr l (bitOf (lnkCfg s l) 62)).toNat) s)) ∧
    (∀ v rot t more pay rest, x.st = lkUp → x.tx.time = [] → x.tx.resend = none → pickVc x = some (v, rot) → txq x v = t :: more →
      x.enc = false ∨ t.rest.isSome = true ∨ nth 0 x.keys.txN x.keys.cur < 2 ^ 63 →
      (startHead x t).2.1 = pay :: rest → ∃ u, exec (.flitSend l) s = .next u ∧ (u.link l).tx.seq = (x.tx.seq + 1) % 4096 ∧
        (u.link l).tx.cred = setAt x.tx.cred v (nth 0 x.tx.cred v - 1) ∧ (u.link l).tx.rot = rot ∧
        (u.link l).tx.buf = x.tx.buf ++ [{ seq := x.tx.seq, vc := v, sop := t.rest.isNone, eop := rest.isEmpty, pay, tag := t.hop.pkt.tag, hdr := t.hop.pkt.hdr }] ∧
        (∃ told, (u.link l).outs = x.outs ++ [flitBytes x told x.tx.seq v t.rest.isNone rest.isEmpty false false pay]) ∧ others u) ∧
    (∀ r f, x.st = lkUp → x.tx.time = [] → x.tx.resend = some r → x.tx.buf[r]? = some f → ∃ u, exec (.flitSend l) s = .next u ∧
      ∃ told, (u.link l).outs = x.outs ++ [flitBytes x told f.seq f.vc f.sop f.eop false false f.pay]) ∧
    (∀ f : BitVec 2048, x.st = lkUp → ¬ crcOk f → f.getLsbD 29 = false → f.getLsbD 30 = false → x.rx.gap = false →
      ∃ u, exec (.flitReceive l f) s = .next u ∧ (u.link l).rx = { x.rx with gap := true } ∧ (u.link l).tx = { x.tx with nak := true } ∧ others u) ∧
    (∀ f : BitVec 2048, x.st = lkUp → crcOk f → f.getLsbD 29 = false → f.getLsbD 30 = false → word f % 4096 = x.rx.exp →
      let vc := word f / 2 ^ 27 % 4
      let pay := ((leBytes 256 f.toNat).drop 8).take 244
      (f.getLsbD 26 = false → ∃ u, exec (.flitReceive l f) s = .next u ∧ (u.link l).rx.exp = (x.rx.exp + 1) % 4096 ∧ (u.link l).rx.gap = false ∧
        (u.link l).retrains = 0 ∧ (u.link l).tx.last = ((leBytes 256 f.toNat).drop 4 |>.take 4).map (fun c => c.toNat) ∧ others u) ∧
      (f.getLsbD 26 = true → x.enc = false → f.getLsbD 25 = true ∨ SMap.get [] vc x.rx.part ≠ [] →
        let b := ((if f.getLsbD 25 then [] else SMap.get [] vc x.rx.part) ++ [pay]).flatten
        let h := BitVec.ofNat 192 (leNat (b.take 24))
        Nat.testBit (byteField h 7 1) 6 = false → ∃ u q, exec (.flitReceive l f) s = .next u ∧ (u.link l).rx.exp = (x.rx.exp + 1) % 4096 ∧ others u ∧
          u.u.net.hop = s.u.net.hop ++ [q] ∧ q.from_ = some l ∧ q.pkt.vc = vc ∧ q.pkt.hdr = putBytes h 7 1 (byteField h 7 1 % 64) ∧
          q.pkt.body = (b.drop 24).take (byteField h 14 2))) ∧
    (∀ (f : BitVec 2048) (tick : Nat), x.st = 4 ∨ x.st = lkUp → crcOk f → f.getLsbD 29 = true →
      let u := takeWord l (word f) (((leBytes 256 f.toNat).drop 4 |>.take 4).map (fun c => c.toNat)) s
      let pay := BitVec.ofNat 1952 (leNat (((leBytes 256 f.toNat).drop 8).take 244))
      exec (.timeFlitReceive l f tick) s = .next (if Config.timeKind pay = 0 then syncReceive l (Config.timeStamp pay) tick u
        else if Config.timeKind pay = 1 then u.updTx l (fun t => { t with time := t.time ++ [(2, (nowTicks s tick).toNat)] })
        else delayReply l (Config.timeT2 pay) (Config.timeStamp pay) (nowTicks s tick) u)) ∧
    exec (.ackTimeout l) s = .next (s.updLink l (fun x => { x with tx := { x.tx with resend := if x.tx.buf.isEmpty then none else some 0 } })) ∧
    (x.st = lkRetrain → x.retrains + 1 < bitsOf (lnkLimits s) 7 0 → ∃ u, exec (.retrainComplete l) s = .next u ∧ (u.link l).st = (if x.authing then 4 else lkUp) ∧
      (u.link l).retrains = x.retrains + 1 ∧ (u.link l).tx.resend = (if x.tx.buf.isEmpty then none else some 0) ∧
      (u.link l).tx.buf.map (fun f => f.seq) = x.tx.buf.map (fun f => f.seq) ∧ others u)

/-- LINK_ENABLE, CALIBRATION_DONE, TRAINING_DONE, EXCHANGE_DONE, AUTHENTICATION_DONE, REKEY, LASER_OUT_OF_LIMITS, LASER_WITHIN_LIMITS and WAVELENGTH_DRIFT move a link from state to state. A write of LNK_CFG by the control complex that enables a DARK link starts its calibration where it has light, the device an address and no clock is lost, and else only takes its fields. CALIBRATION_DONE takes a link from CALIBRATING to TRAINING, TRAINING_DONE to EXCHANGE, and EXCHANGE_DONE, with a partner that is the configured one, to UP, or with encryption asked to AUTHENTICATING, where this side sends its chain, a nonce and its public value; a step that fails is counted up to three times. AUTHENTICATION_DONE with a chain that is valid and a usable identity sets the keys of both indices from the secret and gives UP, and without takes the link to DOWN; REKEY on an encrypted UP link installs the idle index, or without a valid chain takes it to DOWN. A change of state raises source 8, a partner's exchange of RTU messages source 4. LASER_OUT_OF_LIMITS clears its light, and every link of the fibre is then DARK or DOWN; LASER_WITHIN_LIMITS sets it and touches no other group; WAVELENGTH_DRIFT sends the UP links of its group to RETRAINING. The model's choices in it, where the spec leaves a point open: the states of links without laser or ENABLE (log 82); when retrainings count anew (log 83); byte orders of the nonce and of HKDF (log 85); what authentication takes as operands (log 86); what a generation 7 part number is (log 172); the messages of authentication (log 194) (10, lasers (R268), 10, bring-up (R280, R281), 10, encryption (R289, R290), 16, certificates (R434), 16, link keys (R436), 10, loss of a link (R291), 17, clock loss (R451), 16, sources of the control complex (R422)). -/
def Obligations.LinksComeUpAndGoDown : Prop :=
  ∀ (s : State) (l : Nat), l < s.nLinks →
    let x := s.link l
    (∀ v, x.st = 0 → bitOf v 63 = true →
      let u := s.setReg (linkOff l 0) (rwPut s (.lnkCfg l) v)
      (bitOf (lnkAddr s) 63 = true → lightOk s l = true → s.u.pow.loss = 0 → exec (.linkEnable .ctl l v) s =
        .next (((u.updLink l (fun x => { x with st := 1, fails := 0 })).pend 8).updNet (fun n => { n with engine := SMap.set (l / 8) 1 n.engine }))) ∧
      (bitOf (lnkAddr s) 63 = false ∨ lightOk s l = false ∨ s.u.pow.loss ≠ 0 → exec (.linkEnable .ctl l v) s = .next u)) ∧
    (x.st = 1 → exec (.calibrationDone l true) s =
      .next (((s.updLink l (fun x => { x with st := 2, fails := 0 })).pend 8).updNet (fun n => { n with engine := SMap.set (l / 8) 2 n.engine }))) ∧
    (x.st = 2 → exec (.trainingDone l true) s = .next ((s.updLink l (fun x => { x with st := 3, fails := 0, tx := {}, rx := {} })).pend 8)) ∧
    (x.fails < 3 → (x.st = 1 → exec (.calibrationDone l false) s = .next (s.updLink l (fun x => { x with fails := x.fails + 1 }))) ∧
      (x.st = 2 → exec (.trainingDone l false) s = .next (s.updLink l (fun x => { x with fails := x.fails + 1 })))) ∧
    (∀ a p enc, x.st = 3 → a < 2 ^ 20 → p < 64 → a ≠ s.devAddr → (bitOf (lnkCfg s l) 61 = true → a = bitsOf (lnkCfg s l) 19 0 ∧ p = bitsOf (lnkCfg s l) 37 32) →
      let on := enc || bitOf (lnkCfg s l) 62
      let u := (s.updLink l (fun x => { x with peerAddr := a, peerLink := p, st := if on then 4 else lkUp, enc := false })).pend 8
      exec (.exchangeDone l a p enc) s = .next (if on then authHello l u else u)) ∧
    (∀ ok (c : Chain) secret tr,
      let valid := ok = true ∧ c.signed = true ∧ sha256 c.root = s.u.ctl.rtuRoot ∧ gen7 c.part = true ∧ s.u.ctl.idUsable = true
      let d := if s.devAddr < x.peerAddr then 0 else 1
      let k := linkKey secret tr
      (x.st = 4 → valid → exec (.authenticationDone l ⟨ok, c⟩ secret tr) s = .next (((s.pend 4).updLink l (fun x => { x with st := lkUp, enc := true, hello := [], peerHello := [], keys := {
        tx := [k d 0, k d 1], rx := [k (1 - d) 0, k (1 - d) 1], salt := BitVec.ofNat 32 (beNat (hkdf secret tr infoSalt 4)) } })).pend 8)) ∧
      (x.st = 4 → ¬ valid → ∃ u, exec (.authenticationDone l ⟨ok, c⟩ secret tr) s = .next u ∧ (u.link l).st = lkDown) ∧
      (x.st = lkUp → x.enc = true → x.keys.cur < 2 → x.keys.rxCur < 2 → valid → ∃ u, exec (.rekey l ⟨ok, c⟩ secret tr) s = .next u ∧ (u.link l).keys.cur = 1 - x.keys.cur ∧
        nth 0 (u.link l).keys.tx (1 - x.keys.cur) = k d (1 - x.keys.cur) ∧ nth 0 (u.link l).keys.tx x.keys.cur = nth 0 x.keys.tx x.keys.cur ∧
        nth 0 (u.link l).keys.rx (1 - x.keys.rxCur) = k (1 - d) (1 - x.keys.rxCur) ∧ (u.link l).keys.salt = x.keys.salt ∧
        u.u.ctl.pend.getLsbD 4 = true ∧ (∀ j, j ≠ l → u.link j = s.link j) ∧ u.mem = s.mem ∧ u.regs = s.regs) ∧
      (x.st = lkUp → x.enc = true → ¬ valid → ∃ u, exec (.rekey l ⟨ok, c⟩ secret tr) s = .next u ∧ (u.link l).st = lkDown)) ∧
    (∀ g < s.nGroups, ∀ f < 2, ∀ n < 4, let m := SMap.get 0 g s.u.net.light
      let b := 4 * f + n
      (∃ u, exec (.laserOutOfLimits g f n) s = .next u ∧ SMap.get 0 g u.u.net.light = (if Nat.testBit m b then m - 2 ^ b else m) ∧
        ∀ k < 4, (u.link (8 * g + 4 * f + k)).st = 0 ∨ (u.link (8 * g + 4 * f + k)).st = lkDown) ∧
      (∃ u, exec (.laserWithinLimits g f n) s = .next u ∧ SMap.get 0 g u.u.net.light = (if Nat.testBit m b then m else m + 2 ^ b) ∧
        u.mem = s.mem ∧ u.regs = s.regs ∧ (∀ j, j / 8 ≠ g → u.link j = s.link j)) ∧
      ∃ u, exec (.wavelengthDrift g) s = .next u ∧ ∀ k < 8, (u.link (8 * g + k)).st = (if (s.link (8 * g + k)).st = lkUp then lkRetrain else (s.link (8 * g + k)).st))

/-- PACKET_FORWARD takes the oldest packet here that is for another device and has not to wait for an older one of its flow. Within its limits of hops and age, with some open link in its effective mask, it joins the end of its VC's queue at the link that its policy chooses, one of them, with its count of hops; with no open link it is dropped with 0x8801. PACKET_DELIVER takes the oldest packet for this device; with a good CRC, and tag 0 or a tag that an owner holds while the device is not out, it is delivered, and the first message of an authentication is answered with a signature. Credits of an input buffer that a packet held are returned. CREDIT_STALL on a VC that has not waited STALL courses, has credit, has nothing queued or has been reported changes nothing; on one that has, with packets of one tag, it raises 0x8805 once. The model's choices in it, where the spec leaves a point open: the current link of a flow (log 84); the order of a flow at a hop (log 185); the messages of authentication (log 194) (10, delivery (R278, R279), 10, routing (R283, R284, R286), 10, stalls (R276), 16, authentication (R436)). -/
def Obligations.PacketsAreRouted : Prop :=
  ∀ (s : State),
    (∀ h u, takeHop (fun h => !isMine s h && !hopHeld s h) s = some (h, u) →
      let v := freeFlits h u
      let hops := h.pkt.hops + (if h.from_.isSome then 1 else 0)
      ∀ m pol, route s h.pkt.dst h.pkt.pat = some (.via m pol) → hops ≤ bitsOf (lnkLimits s) 37 32 →
      (s.course.toNat % 65536 + 65536 - h.pkt.born) % 65536 ≤ bitsOf (lnkPat s) 47 32 →
      let l := spread v pol h.pkt (openLinks s h m)
      (openLinks s h m ≠ [] → ∃ t, exec .packetForward s = .next t ∧ t.u.net.hop = u.u.net.hop ∧
        txq (t.link l) h.pkt.vc = txq (v.link l) h.pkt.vc ++ [{ hop := { h with pkt := { h.pkt with hdr := putBytes h.pkt.hdr 7 1 hops }, from_ := none, flits := 0 } }] ∧
        (∀ k, k ≠ l → t.link k = v.link k) ∧ t.mem = s.mem ∧ t.regs = s.regs ∧ l ∈ openLinks s h m) ∧
      (openLinks s h m = [] → exec .packetForward s = .next (pktEvent 0x8801 h v))) ∧
    (∀ h u, takeHop (isMine s) s = some (h, u) → e2eCrc h.pkt.hdr h.pkt.body = h.pkt.crc →
      h.pkt.tag = 0 ∨ ((s.ownerOfTag h.pkt.tag).isSome = true ∧ s.u.flt.out = false) →
      let v := (freeFlits h u).updNet (fun n => { n with inbox := n.inbox ++ [h.pkt] })
      exec .packetDeliver s = .next (if h.pkt.tag = 0 then authTake h.pkt v else v)) ∧
    (∀ l < s.nLinks, ∀ v, txq (s.link l) v = [] ∨ nth 0 (s.link l).tx.cred v ≠ 0 ∨
        (∀ c, SMap.find v (s.link l).tx.stall = some (c, false) → s.course.toNat < c + bitsOf (lnkLimits s) 63 48) →
      exec (.creditStall l v) s = .next s) ∧
    (∀ l < s.nLinks, ∀ v t c, txq (s.link l) v = [t] → nth 0 (s.link l).tx.cred v = 0 → SMap.find v (s.link l).tx.stall = some (c, false) →
      c + bitsOf (lnkLimits s) 63 48 ≤ s.course.toNat → exec (.creditStall l v) s = .next (lnkEvent 0x8805 l (s.ownerOfTag t.hop.pkt.tag) t.hop.pkt.hdr
        (s.updTx l (fun y => { y with stall := SMap.set v (c, true) y.stall }))))

/-- GATHER, BROADCAST, ALL_TO_ALL, POINT_TO_POINT, CHAIN_REDUCE, CHAIN_REDUCE_SCATTER, COURSE_BARRIER, CHAIN_STEP and UPDATE_PIECE take their sequence number and begin a conversation. With no stored word in error and fewer than 16,384 conversations open, each of the seven operations takes the oldest request of its issuer with that operation; one that passes the checks of R301, stands at its group's epoch, comes in order of positions and may reach its areas, none of which has to wait, takes the next sequence number of its position and begins its conversation. CHAIN_STEP or UPDATE_PIECE takes the oldest drained array of its core, with a staging slot free, and a good one does so with the drained values. A conversation that begins with no packet waiting for it is numbered and added: while its gate is closed it waits, GATED, and nothing is sent. The model's choices in it, where the spec leaves a point open: what waits for memory (log 64); when a request of EDF receives (log 90); which conversations a packet goes to (log 91) (11, requests (R300, R301), 11, conversations (R297, R304, R306), 11, positions (R309), 06, drained pieces (R182), 11, drained pieces (R310, R311), 12, epochs (R327), 08, accesses that wait (R234), 15, host memory (R402, R407)). -/
def Obligations.CollectiveRequestsBegin : Prop :=
  ∀ (s : State) (g : Group), openCount s < 16384 → s.NoErr →
    (∀ (op : Nat) (i : Instr) (r : CReq), (op, i) ∈ [(1, Instr.gather), (2, .broadcast), (4, .allToAll), (5, .pointToPoint), (6, .chainReduce),
        (7, .chainReduceScatter), (8, .courseBarrier)] → pickReq op s.creqs = some r → s.group (rqGroup r.line) = some g →
      let l := r.line
      let own := if r.core < 0x80 then s.ownerOfCore r.core else none
      let gown := groupOwner s g
      let recv := if r.kind = 3 then decide (rqDst l ≠ 0) else decide (r.kind = 1)
      let backup := memberAs s g (rqRank l) r.core == some true
      reqBad s r.kind r.core own l = false → rqEpoch l = grEpoch g.e → dormant s g = false → posInOrder g (rqRank l) (rqPos l) backup = true →
      (∀ p ∈ reqAreas g r, memBusy s p.1 p.2.1 = false ∧ areaOut s gown p = false) →
      let q := takeSeq (rqGroup l) (rqRank l) (rqPos l) backup g { s with creqs := s.creqs.erase r }
      q.1 = SMap.get 0 (65536 * rqRank l + rqPos l + (if backup then 2 ^ 32 else 0)) g.seqs ∧
      exec i s = .next (beginConv { id := 0, own := gown, gid := rqGroup l, seq := q.1, op, rank := rqRank l, pos := rqPos l, ep := r.core
                                    backup, hash := reqHash g l, epoch := rqEpoch l
                                    sem := if r.core < 0x80 then some r.sem else none, recv, blk := l, step := (s.jobOf gown).step } q.2)) ∧
    (∀ (chain : Bool) (t : Tile), s.tiles.find? (fun t => t.chain == chain && (s.tiles.find? (fun u => u.core == t.core)) == some t &&
        decide (SMap.get 0 t.core s.u.col.staged < stageSlots s t.core)) = some t → colOn s = true →
      let gid := byteField t.arg 0 2 % 4096
      let epoch := byteField t.arg 2 2
      s.group gid = some g → epoch = grEpoch g.e → dormant s g = false → ∀ r pos hash, tileShape s g t = some (r, pos, hash) → tileBad s g t r pos = false →
      let backup := memberAs s g r t.core == some true
      let q := takeSeq gid r pos backup g { s with tiles := s.tiles.erase t }
      let u := beginConv { id := 0, kind := 1, own := groupOwner s g, gid, seq := q.1, op := if chain then 9 else 0xA, rank := r, pos, ep := t.core
                           backup, hash, epoch, desc := tileDesc t, array := t.array, staged := true
                           vals := tilePiece t, outSide := if !chain && g.side then List.replicate g.n 0 else []
                           step := (s.jobOf t.own).step } q.2
      exec (if chain then .chainStep else .updatePiece) s = .next (if chain then u else u.mark t.own 4)) ∧
    (∀ c : Conv, s.group c.gid = some g → g.late = none → s.u.col.gone.contains (c.gid, c.seq) = false → c.pos = 0 → s.u.col.early = [] →
      let c1 : Conv := { c with id := s.u.col.nextId, st := .gated, runs := [] }
      let t := beginConv c s
      isGated s g c1 = true → t.u.col.convs = s.u.col.convs ++ [c1] ∧
        t.u.col.nextId = s.u.col.nextId + 1 ∧ t.u.net = s.u.net ∧ t.mem = s.mem ∧ t.cores = s.cores)

/-- COL_GROUP_LOAD, COL_GROUP_UNLOAD, COL_SUBMIT and COL_BACKUP_SET take effect; COL_DATA, CHAIN_SUM, P2P_DATA, COL_GRANT, COL_ARRIVE, COL_REJECT and SNAP_DATA reach their conversation; CONVERSATION_DONE, BARRIER_COURSE and REQUEST_DEADLINE end it. By writes of the control complex, in calm memory, a good group entry is loaded as new and an unused one unloaded with all that was kept of it, a submission waits as a request of endpoint 0xFE, and a backup is registered or removed. COL_DATA, CHAIN_SUM and P2P_DATA give their packet of a known group to the first conversation it can be for that has not had it; the bytes of a point-to-point transfer, an unstamped gather or an all-to-all go to their place. COL_GRANT raises what a stream may send, or where one resumes sets what it has sent; COL_ARRIVE counts an arrival that is not the last, or before its course marks the conversation released; COL_REJECT freezes the issuer of the position that it names, or where it names none every issuer, and abandons; SNAP_DATA within the window, clear of declared masters and the descriptors of queues, is written there and nowhere else. CONVERSATION_DONE completes the oldest whole result: a core's request adds to its semaphore, one of endpoint 0xFE to the count of completions with source 5; past its deadline it is abandoned with 0x8302. At its course BARRIER_COURSE completes a released barrier or abandons one that is not, and REQUEST_DEADLINE abandons a request past its deadline. With no conversation the three change nothing. The model's choices in it, where the spec leaves a point open: addresses and acknowledgement of snapshot data (log 57); header fields of collective packets (log 87); a release's flag, STG 0 and how a terminal accepts a piece (log 89); which conversations a packet goes to (log 91); the areas of an abandoned conversation (log 94); D1 of 0x8301 and 0x8303 (log 96); a write of the value held is no change (log 132); which row answers an unknown code (log 139) (11, groups (R296), 11, submission (R300), 11, packets (R303, R302, R298), 11, completion and deadlines (R304, R305, R319), 11, backups (R315), 11, partner snapshots (R321), 09, deadlines (R260), 16, sources of the control complex (R422)). -/
def Obligations.CollectivePacketsAndGroups : Prop :=
  ∀ (s : State) (v : W64) (g : Group), s.Calm →
    (let i := bitsOf v 11 0
     let u := s.setReg 0xA00010 (rwPut s .colGroupLoad v)
     (bitOf v 63 = false → groupBad s i (readGroup s i) = false →
       exec (.colGroupLoad .ctl v) s = .next (u.updCol (fun t => { forgetGroup i t with groups := SMap.set i (readGroup s i) t.groups }))) ∧
     (bitOf v 62 = false → s.group i = some g → groupOpen s i = false →
       exec (.colGroupUnload .ctl v) s = .next (u.updCol (fun t => { forgetGroup i t with groups := SMap.erase i t.groups }))) ∧
     (bitOf v 62 = false → s.group i = none → exec (.colGroupUnload .ctl v) s = .next u)) ∧
    (let a := bitsOf v 47 6 * 64
     a + 64 ≤ s.gddrTop → reqOpBad 3 (byteField (s.line a) 0 1) = false → exec (.colSubmit .ctl v) s =
       .next { s with creqs := s.creqs ++ [{ core := 0xFE, kind := 3, sem := 0, line := s.line a }] }) ∧
    (let i := bitsOf v 59 48
     let r := bitsOf v 47 32
     let h : Group := { g with backups := if bitOf v 63 then SMap.set r (bitsOf v 31 0) g.backups else SMap.erase r g.backups }
     s.group i = some g → r < g.n → exec (.colBackupSet .ctl v) s = .next (s.updCol (fun t => { t with groups := SMap.set i h t.groups }))) ∧
    (∀ (k : Nat) (i : Instr) (p : Pkt) (u : State), (k, i) ∈ [(1, Instr.colData), (2, .chainSum), (3, .p2pData)] → takeInbox k s = some (p, u) →
      takePkt p u = (some g, u) → p.cOp ≠ 3 → (k = 2 → p.cRole ≠ g.n - 1) → roleFrom g p = true →
      ∀ (c : Conv) (role st : Nat) (r : List (Conv × Nat × Nat)), targets u g p = (c, role, st) :: r → firstSeen u c.id p = none → c.hash = p.cHash →
        exec i s = .next (reap (takeData g c role st p (noteSeen c.id p u))) ∧
        (c.kind = 0 → c.op = 1 ∨ c.op = 4 ∨ c.op = 5 → p.cFlags = 0 → Nat.testBit (rqFlags c.blk) 0 = false → Quiet s → (∀ a n, memGone s a n = false) → (takeData g c role st p (noteSeen c.id p u)).mem =
          (s.putBytes (rqDst c.blk + (if c.op = 5 then 0 else p.cRole * c.size) + p.cOff) p.cData).mem)) ∧
    (∀ (p : Pkt) (c : Conv) (u : State), takePkt p u = (some g, u) → c.hash = p.cHash → roleFrom g p = true → firstSeen u c.id p = none →
      (takeInbox 5 s = some (p, u) → isAccept g p = false →
        u.u.col.convs.find? (fun c => c.gid == p.cGid && c.seq == p.cSeq && c.rank == p.cPos / 4 && c.lastPos g) = some c →
        let k := skey p.cRole (p.cPos % 4)
        exec .colGrant s = .next (reap (driveAll c.gid c.seq (updStream c.id k (fun x =>
          if x.resumed then { x with sent := c.packetsOf g p.cRole (p.cPos % 4) p.cOff, resumed := false } else { x with granted := max x.granted p.cOff })
          (noteSeen c.id p u))))) ∧
      (takeInbox 6 s = some (p, u) → Nat.testBit p.cFlags 0 = true → s.course.toNat < rqNb c.blk →
        u.u.col.convs.find? (fun c => c.gid == p.cGid && c.seq == p.cSeq && c.op == 8 && c.rank == p.cPos) = some c →
        exec .colArrive s = .next (updConv c.id (fun x => { x with released := true }) (noteSeen c.id p u))) ∧
      (takeInbox 6 s = some (p, u) → Nat.testBit p.cFlags 0 = false → p.cRole ∉ c.arrived → c.arrived.length + 1 ≠ g.n →
        u.u.col.convs.find? (fun c => c.gid == p.cGid && c.seq == p.cSeq && c.op == 8 && c.rank == g.n - 1) = some c →
        exec .colArrive s = .next (updConv c.id (fun x => { x with arrived := p.cRole :: c.arrived }) (noteSeen c.id p u)))) ∧
    (∀ (p : Pkt) (c : Conv) (u : State), takeInbox 7 s = some (p, u) → colOn u = true → p.cOp ≠ 0 →
      let cs := u.u.col.convs.filter (fun c => c.gid == p.cGid && c.seq == p.cSeq)
      let mine := cs.filter (fun c => decide (c.rank = p.cRole) && c.backup == Nat.testBit p.cFlags 1)
      cs.head? = some c → exec .colReject s =
        .next (abandonWith 0x8303 c c.epoch p.cEpoch ((if mine.isEmpty then cs else mine).foldl (fun s c => freezeIssuer c.ep s) u))) ∧
    (∀ (p : Pkt) (u : State), takeInbox 4 s = some (p, u) → colOn u = true → p.cData ≠ [] → bitsOf (u.reg 0 0xA00030) 63 56 ≠ 0 → p.src = bitsOf (u.reg 0 0xA00030) 55 36 →
      bitsOf (u.reg 0 0xA00030) 35 0 * 4096 ≤ p.cOff → p.cOff + p.cData.length ≤ bitsOf (u.reg 0 0xA00030) 35 0 * 4096 + bitsOf (u.reg 0 0xA00030) 63 56 * 0x40000000 →
      p.cOff + p.cData.length ≤ u.edfBase → hitsMaster u none p.cOff p.cData.length = false → hitsQueues u none p.cOff p.cData.length = false →
      ∃ t, exec .snapData s = .next t ∧ t.bytes p.cOff p.cData.length = p.cData ∧
        (∀ a, ¬ (p.cOff ≤ a ∧ a < p.cOff + p.cData.length) → t.byte a = s.byte a)) ∧
    (∀ c, s.u.col.convs.find? (fun c => match s.group c.gid with
        | some g => resultDone g c
        | none => false) = some c → s.group c.gid = some g → c.kind = 0 →
      (pastDl s c = true → exec .conversationDone s = .next (abandonWith 0x8302 c c.hash 0 s)) ∧
      (pastDl s c = false → 0x80 ≤ c.ep → Quiet s → ∃ t, exec .conversationDone s = .next t ∧ t.u.col.submitDone = (s.u.col.submitDone + 1) % 2 ^ 32 ∧
        t.u.ctl.pend.getLsbD 5 = true ∧ t.mem = s.mem ∧ t.regs = s.regs) ∧
      (pastDl s c = false → c.ep < 0x80 → Quiet s → (s.core c.ep).seq.ending = false → ∀ m < 64, c.sem = some m → (s.core c.ep).r.semv m + 1 < 2 ^ 32 →
        ∃ t, exec .conversationDone s = .next t ∧ (t.core c.ep).r.semv m = (s.core c.ep).r.semv m + 1 ∧ (t.core c.ep).reqs = (s.core c.ep).reqs.erase m ∧
          t.mem = s.mem ∧ t.regs = s.regs)) ∧
    (∀ c, s.u.col.convs = [c] → c.kind = 0 → c.st ≠ .done →
      (c.op = 8 → rqNb c.blk ≤ s.course.toNat → s.group c.gid = some g →
        exec .barrierCourse s = .next (if c.released then finishConv g c s else abandonWith 0x8302 c c.hash 0 s)) ∧
      (c.op ≠ 8 → rqDl c.blk ≠ 0 → rqDl c.blk ≤ s.course.toNat → exec .requestDeadline s = .next (abandonWith 0x8302 c c.hash 0 s))) ∧
    (s.u.col.convs = [] → exec .barrierCourse s = .next s ∧ exec .requestDeadline s = .next s ∧ exec .conversationDone s = .next s)

/-- With no stored word in error, an 8-byte doorbell of an idle queue that its function holds reads the descriptor and, within the depth, sets the tail; an invalid descriptor raises 0x8901 and puts the queue in error, as does a tail beyond the depth; a write of another place or width is discarded. An active owner's dispatcher takes the head whose turn it is: an invalid one raises 0x8902; a fence completes with status 0; a reservation with the result of its pool, which refuses with 3 more pages than are free; a DISPATCH whose deadline has passed under DROP_LATE with status 2; another DISPATCH without a batch, whose kernel can be placed, starts its cores with S0 to S5 set and leaves every other core. A dispatch without a batch whose cores are all idle completes with EST moved by an eighth, and COMMAND_EXPIRE completes the first expired head with status 2. An owner not active takes nothing. The model's choices in it, where the spec leaves a point open: where the rings of a queue may lie (log 102); the words of a doorbell's violation (log 103); WSET 0, and KERNEL and START of what never ran (log 104); pages come from the top of the free stack (log 105); a record that waits, and one for memory that is gone (log 189) (13, doorbells (R350, R351), 13, commands (R352, R353), 13, arbitration (R354, R358), 13, placement (R356, R357), 13, reservations (R361)). -/
def Obligations.QueuesAndDispatch : Prop :=
  ∀ (s : State) (p : Nat), p < s.nOwners → s.NoErr →
    let cfg := (s.owner p).cfg
    (∀ q : Nat, ∀ v : W64, fnLive s p = true → s.u.host.frozen.contains p = false → (s.owner p).exists = true → s.holds p q = true →
      let x := s.queue q
      let d := s.line (qtableBase s + 64 * q)
      x.tail = x.done → x.head = x.done → x.done < 2 ^ 62 → Nat.testBit (qdFlags d) 0 = true →
      (qdBad cfg d = true → exec (.doorbell p q 0 8 v) s =
        .next ((s.updQueue q (fun x => { x with err := true })).raise 0x8901 (0x8000 + p) (some p) (BitVec.ofNat 64 q) 0)) ∧
      (qdBad cfg d = false → x.tail ≤ v.toNat → v.toNat ≤ x.done + 2 ^ qdLog d →
        exec (.doorbell p q 0 8 v) s = .next (s.updQueue q (fun x => { x with desc := d, tail := v.toNat }))) ∧
      (qdBad cfg d = false → x.done + 2 ^ qdLog d < v.toNat → ∃ t, exec (.doorbell p q 0 8 v) s = .next t ∧ (t.queue q).err = true)) ∧
    (∀ q off n v, off ≠ 0 ∨ n ≠ 8 → exec (.doorbell p q off n v) s = .next s) ∧
    (∀ i ∈ [Instr.dispatch p, .fence p, .reserve p, .commandExpire p], (s.owner p).st ≠ .active → exec i s = .next s) ∧
    (∀ q x d, (s.owner p).st = .active → nextQueue p s [0, 1, 2, 3] = some (q, x, d) →
      let c := headCmd s x
      let s1 := updDisper p (fun _ => d) s
      (cmdBad s cfg c = true → ∀ i ∈ [Instr.dispatch p, .fence p, .reserve p], exec i s =
        .next (s1.raise 0x8902 0x0000 (some p) (BitVec.ofNat 64 q) (BitVec.ofNat 64 x.head))) ∧
      (cmdBad s cfg c = false →
        (cmdOp c = 2 → exec (.fence p) s = .next ((takeHead q s1).finish { q, i := x.head, own := p, cmd := c, kernel := 0 } 0)) ∧
        (cmdOp c = 3 → ∀ k, cfgPool cfg = some k → let r := reserve k (cmdKernel c) (cmdCount c) (takeHead q s1)
          exec (.reserve p) s = .next (r.2.finish { q, i := x.head, own := p, cmd := c, kernel := 0 } r.1)) ∧
        (cmdOp c = 1 → expired s x c = true →
          exec (.dispatch p) s = .next ((takeHead q s1).finish { q, i := x.head, own := p, cmd := c, kernel := cmdKernel c } 2)) ∧
        (cmdOp c = 1 → expired s x c = false → cmdBatch c = false → ∀ cs, placeKernel s cfg (kernelEntry s cfg (monitor s cfg c).1) = some cs →
          let m := monitor s cfg c
          let l := kernelEntry s cfg m.1
          (∀ n ∈ cs, fetchOk s n (BitVec.ofNat 48 (kEntry l)) = true) → ∃ t, exec (.dispatch p) s = .next t ∧
            (∀ n, n < s.nCores → n ∈ cs → (t.core n).seq.run = .running ∧ (t.core n).seq.baddr = BitVec.ofNat 48 (kEntry l) ∧
              (t.core n).r.sreg 0 = BitVec.ofNat 64 (byteField c 16 6) ∧ (t.core n).r.sreg 1 = BitVec.ofNat 64 q ∧
              (t.core n).r.sreg 2 = BitVec.ofNat 64 (byteField c 4 4) ∧
              (t.core n).r.sreg 5 = (if (s.core n).tag.toNat = kWset l then 1 else 0) ∧ (t.core n).tag = (s.core n).tag) ∧
            (∀ n, n ∉ cs → t.core n = s.core n) ∧
            (let order := (List.range s.nCores).filter (fun k => cs.contains k)
             ∀ i n, order[i]? = some n → (t.core n).r.sreg 3 = BitVec.ofNat 64 i ∧ (t.core n).r.sreg 4 = BitVec.ofNat 64 (nth 0 order 0))))) ∧
    (∀ q i (d : Disp), s.u.que.disp.find? (fun d => d.q == q && d.i == i) = some d → d.cores ≠ [] → d.left = [] → cmdBatch d.cmd = false →
      let ka := cfgKTable (s.owner d.own).cfg + 64 * d.kernel
      exec (.dispatchComplete q i) s = .next ((s.wr (ka + 16) 4 (newEst (s.rd (ka + 16) 4) (d.stop - d.start))).finish d (if d.fb then 1 else 0))) ∧
    (∀ e, (s.owner p).st = .active → (heads s p).find? (fun e => !cmdBad s cfg (headCmd s e.2) && expired s e.2 (headCmd s e.2)) = some e →
      exec (.commandExpire p) s = .next ((takeHead e.1 s).finish { q := e.1, i := e.2.head, own := p, cmd := headCmd s e.2, kernel := cmdKernel (headCmd s e.2) } 2)) ∧
    (∀ (k r : Nat) (n : Int), (0 < n → (poolFree s k : Int) - poolReserved s k < n → reserve k r n s = (3, s)) ∧ (n ≤ 0 → (reserve k r n s).1 = 0))

/-- With no owner, no arm and no requalification, a write of QUE_MODE.NOW by the control complex whose descriptor is good and resumes nothing puts each entering owner in CREATING with its image and epoch, in the mode of its kind. A due HANDOVER among partitions, whose images still fit, does the same and makes each leaving owner that does not enter absent. An owner in creation that resumes nothing becomes ACTIVE: with nothing dirty its pool is made ready and nothing else happens, and without a pool the clusters and units that another owner held are zero, the resident tags of those cores are 0, and every other byte and owner is as before. An owner not in creation stays as it is. An armed handover within its DRAIN courses puts leaving partitions in DRAINING, and one not yet within them leaves everything. A good RESET of a partition leaves it ACTIVE with its configuration, its window closed, its cores idle and not frozen with resident tag 0 and their registers as they were, and its queues empty. The model's choices in it, where the spec leaves a point open: a suspended owner's ranges count as held (log 97); entries that RESUME may name (log 98); when a HANDOVER fails (log 99); dirty units are cleared at OWNER_ACTIVE (log 106); when the epoch of an owner enters (log 107); the pool descriptor after the clearing (log 193); what a reset of an owner leaves (log 215) (13, handover (R342, R343, R344), 13, images (R338, R339), 13, reset (R366), 13, clearing (R347), 18, register resets (R472)). -/
def Obligations.OwnersChange : Prop :=
  ∀ (s : State) (v : W64),
    (let enters := fun (d : Line) (imgs : List Line) (t : State) => ∀ p ∈ ownersIn (hoEnter d), (t.owner p).st = .creating ∧ (t.owner p).cfg = imgs.getD p 0 ∧
        curEpoch t p = cfgEpoch (imgs.getD p 0)
     (s.ownerList = [] → s.u.crs.arms = [] → s.u.flt.out = false → s.u.flt.running = false → let h := readHandover s (bitsOf v 55 48)
       hoBad s h.1 h.2 = false → hoResume h.1 = false → ∃ t, exec (.queModeNow .ctl v) s = .next t ∧ enters h.1 h.2 t ∧ t.u.que.shared = decide (hoKind h.1 ≠ 2)) ∧
     (∀ a, nextArm s = some a → armKind a = 1 → counterRuns s = true → s.u.que.shared = true → hoKind a.desc = 3 → hoResume a.desc = false → s.u.flt.out = false →
       s.u.flt.running = false → handoverFits s a.desc a.imgs (hoPreempt a.desc) = true → armRepeat a.e = false → ∃ t, exec .handover s = .next t ∧ enters a.desc a.imgs t ∧
       (∀ p ∈ ownersIn (hoLeave a.desc), p ∉ ownersIn (hoEnter a.desc) → (t.owner p).exists = false) ∧ t.u.que.shared = true)) ∧
    (∀ p < s.nOwners, let o := s.owner p
      let fresh := s.u.que.susp = none ∨ s.u.que.resuming = false ∨ p ≠ 0
      (o.st = .creating → fresh → cfgClusters o.cfg &&& s.u.que.dirtyCl = 0 → s.u.que.dirty = [] → s.u.host.barw = [] →
        exec (.ownerActive p) s = .next (poolStart o (s.setOwner p { o with st := .active }))) ∧
      (o.st = .creating → fresh → cfgPool o.cfg = none → s.NoErr → bitOf (s.reg 0 0xC00018) 63 = false → s.u.host.barw = [] →
        ∃ t, exec (.ownerActive p) s = .next t ∧ (t.owner p).st = .active ∧ (t.owner p).cfg = o.cfg ∧ (∀ q, q ≠ p → t.owner q = s.owner q) ∧
          (∀ c < s.nCores, Nat.testBit (cfgClusters o.cfg) (c / 8) = true → Nat.testBit s.u.que.dirtyCl (c / 8) = true →
            (t.core c).tag = 0 ∧ (t.core c).seq.run = .idle ∧ ∀ x, spBase c ≤ x → x < spBase c + spSize → t.byte x = 0) ∧
          (∀ r ∈ cfgRanges o.cfg, ∀ d ∈ s.u.que.dirty, ∀ x, r.1 ≤ x → x < r.2 → d.1 ≤ x → x < d.2 → t.byte x = 0) ∧
          (∀ x, (∀ c < s.nCores, Nat.testBit (cfgClusters o.cfg) (c / 8) = true → Nat.testBit s.u.que.dirtyCl (c / 8) = true →
              ¬ (spBase c ≤ x ∧ x < spBase c + spSize)) →
            (∀ r ∈ cfgRanges o.cfg, ∀ d ∈ s.u.que.dirty, ¬ (r.1 ≤ x ∧ x < r.2 ∧ d.1 ≤ x ∧ x < d.2)) → t.byte x = s.byte x)) ∧
      (o.st ≠ .creating → s.u.host.barw = [] → exec (.ownerActive p) s = .next s)) ∧
    (∀ a : Arm, s.u.crs.arms = [a] → armKind a = 1 → ∃ t, exec .drainStart s = .next t ∧ t.mem = s.mem ∧ t.cores = s.cores ∧
      (s.course.toNat + hoDrain a.desc < a.course → t = s) ∧
      (a.course ≤ s.course.toNat + hoDrain a.desc → s.u.que.shared = true → ∀ p < 16,
        (t.owner p).st = (if Nat.testBit (hoLeave a.desc) p ∧ (s.owner p).st = .active then .draining else (s.owner p).st))) ∧
    (∀ p < s.nOwners, resetOk p s = true → ∃ t, exec (.quePartReset .ctl p v) s = .next t ∧ (t.owner p).st = .active ∧
      (t.owner p).cfg = (s.owner p).cfg ∧ (t.fltOwner p).handling = false ∧ (t.fltOwner p).first = 0 ∧
      (∀ c < s.nCores, s.ownerOfCore c = some p → (t.core c).seq.run = .idle ∧ (t.core c).seq.frozen = false ∧ (t.core c).tag = 0 ∧ (t.core c).r = (s.core c).r) ∧
      (∀ e ∈ t.u.que.qs, s.holds p e.1 = true → e.2.err = false ∧ e.2.tail = e.2.done ∧ e.2.head = e.2.done))

/-- FLT_ACK closes the window, FLT_STOP and STOP_NOTICE make an owner FAULTED, FLT_FROG makes it ACTIVE, REQUAL_START, REQUAL_ABORT and REQUAL_VERDICT run requalification. Written by the control complex, ACK of FLT_O_CTRL closes the handling window and STOP stops the owner; a stop notice stops the exclusive owner, is passed on where this device is the job lead, and stops no partition. An owner that stops is FAULTED with its running cores halted, their registers and addresses as they were, no arm and no conversation. A good FROG leaves owner 0 ACTIVE, its cores idle with S, V and P registers, tensors and generators as they were and scratchpads zero, its window closed and CNT_FROG one more. Requalification runs from START where nothing forbids it, ends with verdict 4 at ABORT, gives no verdict before its patterns have been tested, and after them, without a failing pattern more, decides from the condition matrix and from what was convicted meanwhile, and keeps the suspects that it does not clear. The model's choices in it, where the spec leaves a point open: when an exclusive owner's step closes (log 80); windows of owners that left (log 109); when convictions take effect (log 110); the phases of requalification and the failing lanes as operands (log 111); a frog clears only what R394 names (log 113) (14, windows (R379), 14, stopping and frogging (R375, R394), 13, FAULTED (R365), 14, requalification (R392, R393)). -/
def Obligations.OwnersStopAndFrog : Prop :=
  ∀ (s : State) (v : W64),
    (∀ p < s.nOwners, let u := s.setReg (0x410000 + 0x100 * p) (rwPut s (.foCtrl p) v)
      (bitOf v 2 = false → bitOf v 3 = false → exec (.fltAck .ctl p v) s = .next (u.updFltOwner p (fun f => { f with
        first := 0, ovf := 0, ovfCount := 0, handling := false, escalated := false }))) ∧
      (bitOf v 0 = false → bitOf v 3 = false → exec (.fltStop .ctl p v) s = .next (stopOwnerEv p u)) ∧
      ((s.owner p).exists = true → (s.owner p).st ≠ .faulted → let t := stopOwner p s
        (t.owner p).st = .faulted ∧ t.u.crs.arms = s.u.crs.arms.filter (fun a => armOwner a != p) ∧ (∀ c ∈ t.u.col.convs, c.own ≠ some p) ∧
        (∀ n < s.nCores, s.ownerOfCore n = some p → (s.core n).seq.run = .running → (t.core n).seq.run = .halted ∧ (t.core n).r = (s.core n).r ∧
          (t.core n).seq.baddr = (s.core n).seq.baddr) ∧
        (s.u.que.shared = false → (t.fltOwner p).frogReq = true))) ∧
    (s.u.que.shared = true → exec .stopNotice s = .next s) ∧
    (s.u.que.shared = false → exec .stopNotice s = .next (if (s.owner 0).job.any (fun j => decide (j.lead = s.devAddr))
      then (stopOwnerEv 0 s).out (.stopForward 0) else stopOwnerEv 0 s)) ∧
    (s.Calm → 0 < s.nOwners → frogOk s 0 = true → bitOf v 0 = false → bitOf v 2 = false → ∃ t, exec (.fltFrog .ctl 0 v) s = .next t ∧ (t.owner 0).st = .active ∧
      (t.fltOwner 0).handling = false ∧ (t.fltOwner 0).frogReq = false ∧ (t.fltOwner 0).cntFrog = satAdd 48 (s.fltOwner 0).cntFrog 1 ∧
      (∀ n < s.nCores, (t.core n).seq.run = .idle ∧ (t.core n).seq.frozen = false ∧ (t.core n).r = { (s.core n).r with sem := [] } ∧
        ∀ x < spSize, t.byte (spBase n + x) = 0)) ∧
    (requalOk s = true → bitOf v 1 = false → exec (.requalStart .ctl v) s = .next (s.updFlt (fun f => { f with running := true, verdict := 0, reqAt := s.elapsed, reqTested := false, reqBad := [], reqConv := false, reqLoad := [] }))) ∧
    (s.u.flt.running = true → bitOf v 0 = false → exec (.requalAbort .ctl v) s = .next (s.updFlt (fun f => { f with running := false, verdict := 4 }))) ∧
    (requalPhase s < 2 → ∀ a b, exec (.requalVerdict a b) s = .next s) ∧
    (2 ≤ requalPhase s → let ds := s.u.flt.suspects.map (fun e => (e, requalEntry s s.u.flt.reqBad e.2.unit))
      ∃ t, exec (.requalVerdict [] []) s = .next t ∧ t.u.flt.running = false ∧
        t.u.flt.verdict = (if ds.any (fun d => d.2 == some 2) then 3 else if ds.any (fun d => d.2 == some 1) ∨ s.u.flt.reqBad ≠ [] ∨ s.u.flt.reqConv = true then 2 else 1) ∧
        t.u.flt.suspects = (ds.filter (fun d => d.2 != some 0)).map (fun d => d.1))

/-- EVIDENCE_POST by the control complex raises 0x4420 with bits 63 to 8 as its first detail word; where none of that code was recorded before, no step record is lost, no stored word is in error, no access waits and the device ring has room in memory that is not gone, its 32 bytes stand in the ring's next place, source 1 is pending and the debt grows by 800 to at most 65,535. A Swatch check takes the oldest open tile: abandoned if a line it read was written since, passed if no output fails, else counted in its cell. A known-answer tile where a test is allowed counts in its cell, and a failing one adds its columns; where none is allowed nothing changes. At every multiple of 2^26 elapsed courses the debt falls by a 64th, once. The model's choices in it, where the spec leaves a point open: which writes Swatch sees (log 69); how suppression and OVF_COUNT go (log 108); the phases of requalification and the failing lanes as operands (log 111); the cell of a sample without a sensor (log 112); leak and decay once a period (log 114) (14, records and rings (R369, R372), 16, sources of the control complex (R422), 14, score and suspects (R389, R390, R391), 14, posted evidence (R396), 14, Swatch checks (R381, R382, R383), 14, known-answer tiles (R385)). -/
def Obligations.EventsAndEvidence : Prop :=
  ∀ (s : State) (v : W64),
    exec (.evidencePost .ctl v) s = .next (s.raise 0x4420 0 none (BitVec.ofNat 64 (bitsOf v 63 8)) 0) ∧
    (s.Calm → ∀ (a : Nat) (d : W64), memGone s a 32 = false → s.u.flt.supp.find? (fun e => e.code == 0x4420 && e.src == 0) = none → s.u.crs.lost = [] →
      ringSlot (s.reg 0 0x400020) (bitsOf (s.reg 0 0x400028) 23 0) s.u.flt.head = some a →
      let t := s.raise 0x4420 0 none d 0
      t.rd a 32 = (eventRecord 0x4420 0 none false false false 0 s.course d 0).toNat ∧ t.u.flt.debt = min 65535 (s.u.flt.debt + 800) ∧ t.u.ctl.pend.getLsbD 1 = true ∧
        t.cores = s.cores ∧ t.owners = s.owners) ∧
    (s.u.sw.live = [] → exec .swatchCheck s = .next s) ∧
    (∀ (x : Sample) (rest : List Sample), s.u.sw.live = x :: rest →
      let u := s.updSw (fun w => { w with live := rest })
      (swatchStale s x = true → exec .swatchCheck s = .next (u.updSw (fun w => { w with abandoned := w.abandoned + 1 }))) ∧
      (swatchStale s x = false → swatchFails x = [] → exec .swatchCheck s = .next u) ∧
      (swatchStale s x = false → swatchFails x ≠ [] → ∃ t, exec .swatchCheck s = .next t ∧ t.u.sw.live = rest ∧ t.u.sw.failed = s.u.sw.failed + 1 ∧
        (t.cell (4 * x.core + x.array) x.cell).swmis = satAdd 8 (s.cell (4 * x.core + x.array) x.cell).swmis 1)) ∧
    (∀ (n a : Nat) (mask : W32) (row col : Nat) (r w : W32), n < s.nCores → a < 4 →
      ((testAllowed s n a && s.arrayOn n a) = false → exec (.inServiceTest n a mask row col r w) s = .next s) ∧
      ((testAllowed s n a && s.arrayOn n a) = true → let k := (tileCell n a s).1
        ∃ t, exec (.inServiceTest n a mask row col r w) s = .next t ∧
          (t.cell (4 * n + a) k).checks = satAdd 16 (s.cell (4 * n + a) k).checks 1 ∧
          (t.cell (4 * n + a) k).stmis = (if mask = 0 then (s.cell (4 * n + a) k).stmis else satAdd 8 (s.cell (4 * n + a) k).stmis 1) ∧
          (t.cell (4 * n + a) k).stmask = (s.cell (4 * n + a) k).stmask ||| mask.toNat)) ∧
    (∃ t, exec .healthDecay s = .next t ∧ (t.u.flt.debt = if s.elapsed % 2 ^ 26 = 0 ∧ s.u.flt.decayAt ≠ some s.elapsed then
        s.u.flt.debt - (s.u.flt.debt + 63) / 64 else s.u.flt.debt) ∧ t.cores = s.cores ∧ t.mem = s.mem)

/-- HOST_LINK_TRAINED, HOST_LINK_LOSS, HOST_LINK_WAIT_EXPIRY, BAR2_ACCESS, HOST_READ_COMPLETION, HOST_READ_TIMEOUT and IDE_INTEGRITY_FAIL act as the host port's rules say. With a stable PLL and its clock, a link trained at x16 or x8, in Flit Mode at 64 or 128 GT/s or without it at 32, is up, and what waited for it is written, oldest first, or dropped where 65,536 courses have passed since the link went down; below 128 GT/s and x16 it also raises 0x4B01; at another width or mode, or without its clock, nothing happens. Where no access waits, what has waited and is not lost is written in its order. A loss of DL_Active raises 0x4B03, and an intact link stays; a change of state raises source 8. 65,536 courses after the link went down, the read at a DMA queue's head ends as a violation; earlier nothing ends. Where nothing in memory holds it up, a host access through BAR2 within its owner's reach writes its bytes and no other, or completes with the bytes read; while the owner is cleared a read waits; at an address that it does not have a read completes with an abort, and an access beyond the size of BAR2 does nothing. Successful data of a read in the window for no owner is what its addresses hold, and no other byte changes; another status, or a timeout with a size that is free, ends as a violation; a completion of an older time does nothing. A failed TLP makes a stream of IDE insecure once. The model's choices in it, where the spec leaves a point open: what a loss of the host link is (log 115); data of host and CXL reads as operands (log 116); one event for each IDE stream (log 120); the source of 0x4B01 and 0x4B03 (log 124); BAR2 without an owner (log 188); a record that waits, and one for memory that is gone (log 189) (15, host link (R401, R402), 15, BAR2 (R404, R405), 15, requests of the device (R407), 15, IDE (R409)). -/
def Obligations.HostPort : Prop :=
  ∀ (s : State),
    (∀ (rate width : Nat) (flit : Bool) (light : BitVec 2),
      let fits := (width = 16 ∨ width = 8) ∧ (rate = 0 ∧ flit = false ∨ (rate = 1 ∨ rate = 2) ∧ flit = true)
      let u := (flushHeld ((flushHeld s).updHost (fun h => { h with st := 2, rate, width, flit, light := light.toNat, downAt := none }))).pendIf 8 (decide (s.u.host.st ≠ 2))
      (fits → s.u.pow.pll = 2 → s.u.pow.loss = 0 →
        exec (.hostLinkTrained rate width flit light) s = .next (if rate = 2 ∧ width = 16 then u else u.raise 0x4B01 0 none 0 0)) ∧
      (¬ fits ∨ s.u.pow.pll ≠ 2 ∨ s.u.pow.loss ≠ 0 → exec (.hostLinkTrained rate width flit light) s = .next s)) ∧
    (s.Calm → (∀ h ∈ s.u.host.hostw, heldLost s h = false) →
      flushHeld s = s.u.host.hostw.foldl (fun t h => putHeld h t) (s.updHost (fun h => { h with hostw := [] }))) ∧
    (∀ light : BitVec 2, s.u.host.st = 2 → s.u.host.light = light.toNat →
      exec (.hostLinkLoss true light) s = .next s ∧
      exec (.hostLinkLoss false light) s = .next (((s.pend 8).updHost (fun h => { h with st := 0, width := 0, downAt := some s.course.toNat })).raise 0x4B03 0 none 0 0)) ∧
    (∀ k < 4 * s.nCores,
      (s.u.host.st = 2 → exec (.hostLinkWaitExpiry k) s = .next s) ∧
      (∀ t, s.u.host.st ≠ 2 → s.u.host.downAt = some t →
        (s.course.toNat < t + 65536 → exec (.hostLinkWaitExpiry k) s = .next s) ∧
        (t + 65536 ≤ s.course.toNat → (∀ q, headHost s k false = some q → q.2 ≠ 0 → exec (.hostLinkWaitExpiry k) s = .next (violate (.dma k) q.1 q.2 false s)) ∧
          (headHost s k false = none → headHost s k true = none → exec (.hostLinkWaitExpiry k) s = .next s)))) ∧
    (∀ (f off n a : Nat) (d : List Byte), f < s.nOwners → fnLive s f = true → s.u.host.frozen.contains f = false →
      (bar2Size s f < off + n → exec (.bar2Access f off n none) s = .next s) ∧
      (off + d.length ≤ bar2Size s f → bar2Addr s f off d.length = some a → bar2Reach s f a d.length true = true → (s.owner f).st ≠ .creating → s.Calm →
        ∃ t, exec (.bar2Access f off n (some d)) s = .next t ∧ t.bytes a d.length = d ∧ (∀ x, ¬ (a ≤ x ∧ x < a + d.length) → t.byte x = s.byte x) ∧ t.u = s.u) ∧
      (off + n ≤ bar2Size s f → bar2Addr s f off n = some a → bar2Reach s f a n false = true → (s.owner f).st ≠ .creating → s.Calm →
        exec (.bar2Access f off n none) s = .next (s.out (.completion f 0 (s.bytes a n)))) ∧
      (off + n ≤ bar2Size s f → bar2Addr s f off n = some a → bar2Reach s f a n false = true → (s.owner f).st = .creating →
        exec (.bar2Access f off n none) s = .next (s.updHost (fun h => { h with barw := h.barw ++ [{ f, off, n, wr := none }] }))) ∧
      (off + n ≤ bar2Size s f → bar2Addr s f off n = none → exec (.bar2Access f off n none) s = .next ((violate (.fn f) off n false s).out (.completion f 4 [])))) ∧
    (∀ (w : Who) (a status : Nat) (data : List Byte),
      exec (.hostReadCompletion w a status data true) s = .next s ∧
      (inHostWindow a data.length = true → data ≠ [] → status ∈ [1, 2] → exec (.hostReadCompletion w a status data false) s = .next (violate w a data.length false s)) ∧
      (inHostWindow a data.length = true → whoOwner s w = none → ∃ t, exec (.hostReadCompletion w a 0 data false) s = .next t ∧
        t.bytes a data.length = data ∧ (∀ x, ¬ (a ≤ x ∧ x < a + data.length) → t.byte x = s.byte x) ∧ t.cores = s.cores ∧ t.regs = s.regs) ∧
      (inHostWindow a 1 = true → ∃ k < 256, exec (.hostReadTimeout w a) s = .next (violate w a k false { s with fresh := s.fresh + 1 })) ∧
      (inHostWindow a 1 = false → exec (.hostReadTimeout w a) s = .next s)) ∧
    (∀ k < 5, exec (.ideIntegrityFail k) s = .next (if s.u.host.ideOn.contains k = true ∧ s.u.host.ideBad.contains k = false
      then (s.updHost (fun h => { h with ideBad := h.ideBad ++ [k] })).raise 0x4B03 0 none 0 0 else s))

/-- PCIE_CONFIG_WRITE, MSIX_UNMASK, ATS_INVALIDATION, FUNCTION_LEVEL_RESET, D3HOT_EXIT, CXL_LINK_UP, CXL_RETRAIN, CXL_PORT_LOSS, CXL_READ_COMPLETION, CXL_MEDIA_ERROR_LOGGED and HDM_COMMIT take their effect. Of a function that answers: a configuration write of PASID, ATS, D3hot, the BAR2 size, MSI-X or the VFs sets its field, and one of FLR is a function reset; unmasking a vector sends its pending message if MSI-X is enabled; an invalidation drops its pages and answers; a function reset of a VF that holds no partition to reset, also on leaving D3hot without No_Soft_Reset, returns its instance to reset, unfreezes it and abandons what waits for the host link, and of the PF in exclusive mode stops owner 0. A CXL link comes up while the clock runs, and what waited for it is written; it retrains with 0x4B02, and on its loss goes down and stops every owner with a range there. Good data fills a read of the tier and nothing else. A logged media error raises 0x4106. A good commit of a decoder by the control complex sets COMMITTED, and the range shows the bytes of the device from DPA on in place of those it showed before. The model's choices in it, where the spec leaves a point open: an unmasked vector without MSI-X Enable (log 118); commands of a VF that is left out (log 119); No_Soft_Reset is opaque (log 121); which requests a function reset abandons (log 197); the bytes behind a CXL range (log 198); who stops at the loss of a CXL port (log 200) (15, functions (R399, R403, R406, R408, R410), 15, CXL ports (R411, R413, R415, R417), 08, the CXL tier (R244)). -/
def Obligations.FunctionsAndCxl : Prop :=
  ∀ (s : State) (f p : Nat), f < s.nOwners → fnLive s f = true → p < 2 →
    let h := s.fnOf f
    (exec (.pcieConfigWrite f (.pasid true)) s = .next (s.updFn f (fun h => { h with pasid := true })) ∧
      exec (.pcieConfigWrite f (.ats true)) s = .next (s.updFn f (fun h => { h with ats := true })) ∧
      exec (.pcieConfigWrite f .d3hot) s = .next (s.updFn f (fun h => { h with d3hot := true })) ∧
      (∀ k ≤ 9, exec (.pcieConfigWrite f (.bar2Size k)) s = .next (s.updFn f (fun h => { h with bar2 := some k }))) ∧
      (∀ on, h.pba = [] → exec (.pcieConfigWrite f (.msixEnable on)) s = .next (s.updFn f (fun h => { h with msixEn := on }))) ∧
      exec (.pcieConfigWrite f .flr) s = exec (.functionLevelReset f) s ∧
      (∀ n < s.nOwners, f = 0 → s.u.host.vfEn = false → exec (.pcieConfigWrite f (.vf true n)) s = .next (s.updHost (fun h => { h with vfEn := true, numVf := n })))) ∧
    (∀ v < 2048, h.unmasked.contains v = false →
      let u := s.updFn f (fun h => { h with unmasked := h.unmasked ++ [v] })
      exec (.msixUnmask f v) s = .next (if h.pba.contains v = true ∧ h.msixEn = true
        then (u.updFn f (fun h => { h with pba := h.pba.filter (fun x => x != v) })).out (.msix f v) else u)) ∧
    (∀ page n, ∃ t, exec (.atsInvalidation f page n) s = .next t ∧ t.u.outs = s.u.outs ++ [.atsDone f] ∧
      (∀ e, e ∈ t.u.host.atc ↔ e ∈ s.u.host.atc ∧ ¬ (e.1 = f ∧ page ≤ e.2 ∧ e.2 < page + n))) ∧
    (f ≠ 0 → resetOk f s = false → ∃ t, exec (.functionLevelReset f) s = .next t ∧ t.fnOf f = {} ∧ (∀ d, t.reg d (0x2001000 + 0x40 * f) = d) ∧
      (∀ e ∈ t.u.host.atc, e.1 ≠ f) ∧ f ∉ t.u.host.frozen ∧ t.mem = s.mem ∧ t.owners = s.owners ∧ (s.u.host.st = 2 → t.cores = s.cores ∧ t.u.host.hostw = s.u.host.hostw) ∧
      (s.u.host.st ≠ 2 → t.u.host.hostw = s.u.host.hostw.filter (fun w => w.fn != some f || !w.ws.any (fun p => hitsHost p.1 p.2.length)) ∧
        ∀ n < s.nCores, (t.core n).r = (s.core n).r ∧ ∀ q < 4, ((t.core n).dmaq q).xs = if s.ownerOfCore n = some f ∧
          ((headHost s (4 * n + q) false).isSome = true ∨ (headHost s (4 * n + q) true).isSome = true) then ((s.core n).dmaq q).xs.drop 1 else ((s.core n).dmaq q).xs)) ∧
    (f = 0 → s.u.que.shared = false → (s.owner 0).exists = true → ∃ t, exec (.functionLevelReset f) s = .next t ∧ (t.owner 0).st = .faulted) ∧
    (h.d3hot = false → exec (.d3hotExit f) s = .next s) ∧
    (h.d3hot = true → exec (.d3hotExit f) s = if Config.noSoftReset f = true then .next (s.updFn f (fun h => { h with d3hot := false }))
      else exec (.functionLevelReset f) s) ∧
    (∀ (rate width : Nat) (target switch_ : Bool), rate < 2 → width < 32 →
      (s.u.pow.loss = 0 → exec (.cxlLinkUp p rate width target switch_) s =
        .next (flushHeld (updCxl p (fun _ => { st := 2, rate, width, target, switch := switch_ }) s))) ∧
      (s.u.pow.loss ≠ 0 → exec (.cxlLinkUp p rate width target switch_) s = .next s)) ∧
    ((s.cxlPort p).st = 2 → exec (.cxlRetrain p) s = .next ((updCxl p (fun x => { x with st := 3 }) s).raise 0x4B02 (0xB000 + p) none 0 0)) ∧
    ((s.cxlPort p).st = 2 ∨ (s.cxlPort p).st = 3 → ∃ t, exec (.cxlPortLoss p) s = .next t ∧ (t.cxlPort p).st = 0 ∧ (t.cxlPort p).target = false ∧
      (∀ q ∈ s.ownerList, cxlOwner s p q = true → (t.owner q).st = .faulted)) ∧
    exec (.cxlMediaErrorLogged p) s = .next (s.raise 0x4106 (0xB000 + p) none 0 0) ∧
    (∀ (w : Who) (a : Nat) (data : List Byte), within a data.length (cxlWindow p).1 (cxlWindow p).2 = true → s.cxlUp p = true →
      ∃ t, exec (.cxlReadCompletion p w a false data) s = .next t ∧ t.bytes a data.length = data ∧
        (∀ x, ¬ (a ≤ x ∧ x < a + data.length) → t.byte x = s.byte x) ∧ t.cores = s.cores ∧ t.u = s.u) ∧
    (∀ (n : Nat) (v : W64), n < 4 → let x := rwPut s (.hdmCtrl p n) (v ||| 0x8000000000000000)
      let y := putBits x 62 62 1
      let b := s.reg 0 (hdmOff p n)
      hdmLoose s p n = true → hdmCommitOk s p n x = true → exec (.hdmCommit .ctl p n v) s =
        .next ((tierIn p b y (tierOut p b (s.stored (.hdmCtrl p n)) s)).setReg (hdmOff p n + 8) y)) ∧
    (∀ (b c : W64) (k : Nat), bitOf c 62 = true → k < bitsOf c 34 20 * 0x10000000 → SMap.wf 0 s.mem = true → SMap.wf 0 (SMap.get [] p s.u.host.cxlDev) = true →
      (tierIn p b c s).byte (bitsOf b 47 28 * 0x10000000 + k) = SMap.get 0 (bitsOf c 61 40 * 0x10000000 + k) (SMap.get [] p s.u.host.cxlDev) ∧
      SMap.get 0 (bitsOf c 61 40 * 0x10000000 + k) (SMap.get [] p (tierOut p b c s).u.host.cxlDev) = s.byte (bitsOf b 47 28 * 0x10000000 + k))

/-- With boot complete and a request at the head that the PF may make, or that came over MCTP, whose bytes are within reach and which no update under way holds up: QUERY answers the versions; REGLIST of one entry writes it, or over MCTP reports status 0x8005 for one that is a violation; START_JOB gives an idle active owner its job, puts its tensors into warm-up, lets its slice table take effect, asks to wake its gated cores and answers the gauge word; FW_UPDATE begins to write an image that verifies, refuses one that does not with 0x8002 and 0x4D01, and a second update with 0x8004; CAL_WRITE of a valid set and CAL_RUN store a set, and CAL_WRITE is refused with 0x8003 where an owner exists or an arm is held, with 0x8002 for a bad set; REQUAL starts requalification; PROG_LOAD clears or fills a slot; an unknown code gives 0x8001. A response over the PF's path puts the status into its block. The model's choices in it, where the spec leaves a point open: the arguments of a service (log 136); refusals of START_JOB (log 137); how requests wait behind an FW_UPDATE (log 138); which row answers an unknown code (log 139); answers of FW_UPDATE and CAL_WRITE (log 140); what CAL_RUN measures (log 141); the layout of a program image (log 142); when the slice table takes effect (log 168); warm-up at START_JOB (log 169); who is woken (log 190); which cores START_JOB takes (log 213) (16, service requests (R423, R424, R425, R426), 16, updates (R430, R431), 16, calibration (R440), 14, requalification (R392), 02, gauge word (R57)). -/
def Obligations.ServiceRequests : Prop :=
  ∀ (s : State) (v : Svc) (rest : List Svc), s.u.ctl.svc = v :: rest → s.u.ctl.boot = 3 → (v.mctp = true ∨ bitOf (s.stored .svcCtrl) 63 = true) →
    svcWaits s v (svcBlock s v) = false →
    let b := svcBlock s v
    let code := byteField b 0 2
    let u := s.updCtl (fun t => { t with svc := rest })
    (code = 1 → exec .query s = .next (svcReply v 1 none [s.u.ctl.run.edfVer, s.u.ctl.run.ucodeVer, BitVec.ofNat 64 s.u.ctl.svn, s.regView .ctlxBoot, s.regView .rtuStatus] u)) ∧
    (code = 2 → svcArg b 1 = 1 →
      let off := s.rd (svcArg b 0) 8
      let w := BitVec.ofNat 64 (s.rd (svcArg b 0 + 8) 8)
      (writeBad u v.mctp .ctl off 8 w = false → exec .reglist s = .next (svcReply v 1 none [] (writeDo off 8 w u))) ∧
      (writeBad u v.mctp .ctl off 8 w = true → v.mctp = true → exec .reglist s = .next (svcReply v 0x8005 (some 0) [] u))) ∧
    (code = 3 → let p := svcArg b 0
      let policy : W32 := BitVec.ofNat 32 (svcArg b 3)
      let g := gaugeWord u policy
      policyBad policy = false → p < 16 → (s.owner p).st = .active → s.jobRuns p = false →
      (∀ c < 128, Nat.testBit (byteField b 24 16) c = true → coreOk s c = true ∧ c < s.nCores ∧ s.ownerOfCore c = some p) →
      let j : Job := { seed := BitVec.ofNat 64 (svcArg b 4), policy, gauge := g, id := BitVec.ofNat 64 (svcArg b 5), lead := byteField b 44 4 }
      exec .startJob s = .next (svcReply v 1 none [g] (((List.range 128).filter (fun c => Nat.testBit (byteField b 24 16) c)).foldl (fun t c => askWake c t)
        (tableTakesEffect p (warmStart p ((u.setOwner p { s.owner p with job := some j }).updCrs (fun c => { c with begun := SMap.erase p c.begun }))))))) ∧
    (code = 4 → (s.u.ctl.writing.isSome = true → exec (.fwUpdate false) s = .next (svcReply v 0x8004 none [] u)) ∧
      (∀ img, s.u.ctl.writing = none → fetchImage u (svcArg b 0) (svcArg b 1) = some img →
        exec (.fwUpdate false) s = .next (match imageFails u img with
          | none => (u.pend 4).updCtl (fun c => { c with writing := some img, flashImg := none, pldm := false, fwReq := some v })
          | some k => svcReply v 0x8002 none [] ((u.pend 4).raise 0x4D01 0xE000 none (BitVec.ofNat 64 k) 0)))) ∧
    (code = 5 → (calAllowed s = false → exec .calWrite s = .next (svcReply v 0x8003 none [] u)) ∧
      (∀ set, calAllowed s = true → svcArg b 1 ≤ 0x100000 → fetchImage u (svcArg b 0) (svcArg b 1) = some set → if calOk set = true
        then ∃ t, exec .calWrite s = .next t ∧ t.u.ctl.flashCal = set ∧ t.u.ctl.calWritten = true ∧ t.u.ctl.svc = rest
        else exec .calWrite s = .next (svcReply v 0x8002 none [] u))) ∧
    (code = 6 → calAllowed s = true → ∃ t, exec .calRun s = .next t ∧ t.u.ctl.calMade = true ∧ t.u.ctl.calWritten = true ∧ t.u.ctl.svc = rest) ∧
    (code = 7 → svcArg b 0 = 1 → requalOk s = true → exec .requal s = .next (svcReply v 1 none [] (requalStart u))) ∧
    (code = 8 → anyJob s = false → 16 ≤ svcArg b 0 → svcArg b 0 ≤ 31 →
      let k := svcArg b 0
      let valid := s.reg 0 0xE00020
      (svcArg b 2 = 0 → exec .progLoad s = .next (svcReply v 1 none [] (u.setReg 0xE00020 (putBits valid k k 0)))) ∧
      (∀ img, svcArg b 2 ≠ 0 → fetchImage u (svcArg b 1) (svcArg b 2) = some img → progOk img = true →
        exec .progLoad s = .next (svcReply v 1 none [] ((u.putBytes (progBase s + 16384 * k) img).setReg 0xE00020 (putBits valid k k 1))))) ∧
    (code = 0 ∨ 8 < code → ∀ i ∈ [Instr.query, .reglist, .startJob, .fwUpdate false, .calWrite, .calRun, .requal, .progLoad],
      exec i s = .next (svcReply v 0x8001 none [] u)) ∧
    (s.NoErr → ∀ status < 65536, v.mctp = false → (svcReply v status none [] s).rd (v.addr + 2) 2 = status)

/-- FW_UPDATE and PLDM_FW_UPDATE begin and end updates, MCTP_MESSAGE and SPDM_REQUEST are answered, DEBUG_UNLOCK_TOKEN opens debug, CTLX_LOCK_SET ends the boot, CTL_CACHE_ERROR and HEARTBEAT_TIMEOUT are raised. When its writing ends, an image of FW_UPDATE is in flash and an update is pending. After boot, a PLDM image that verifies is taken and begins to be written, another is not; during a write the answer is ALREADY_IN_UPDATE_MODE, and at its end that a reset is required. A vendor message with a service block joins the queue with sources 3 and 2, and a message of control, PLDM, SPDM or secured SPDM type is answered with bytes that depend on the measurements and certificates, and for PLDM monitoring on the sensors, and source 3; one of a type that the endpoint does not carry only raises source 3. An in-band interrupt goes before each answer once the target has an address. A session counts up to 4 while the identity is usable, and the request raises source 4. A token with the device's serial number and the RTU's nonce that verifies opens debug, ends the use of the identity, counts an unlock and makes a new nonce; any other is answered ERROR_INVALID_REQUEST and changes none of these. With the image verified, writing CTLX_LOCK.SET by the control complex sets the lock and, with memory initialised, completes the boot, and leaves the cores where the logical numbers are the physical ones. A cache error and a missing heartbeat after boot raise 0xCD01, a corrected cache error 0x4D02. The model's choices in it, where the spec leaves a point open: a core that is mapped to no logical number (log 127); how requests wait behind an FW_UPDATE (log 138); which row answers an unknown code (log 139); answers of FW_UPDATE and CAL_WRITE (log 140); what SPDM and token operands are (log 144); the control cores (log 146); PLDM readings (log 173); MCTP types and in-band interrupts (log 201) (16, updates (R430, R431, R432), 16, attestation (R434, R435, R437), 16, management (R441, R442), 16, sources of the control complex (R422), 16, boot (R427, R428), 16, control complex (R419)). -/
def Obligations.ManagementAndLock : Prop :=
  ∀ (s : State),
    let ibi := if s.u.ctl.i3c.isSome then [Out.ibi] else []
    (∀ img, s.u.ctl.writing = some img → s.u.ctl.pldm = false → ∃ t, exec (.fwUpdate true) s = .next t ∧ t.u.ctl.flashImg = some img ∧ t.u.ctl.writing = none ∧
      t.u.ctl.updPending = true ∧ t.u.ctl.svc = s.u.ctl.svc) ∧
    (∀ img, s.u.ctl.boot = 3 → s.u.ctl.writing = none → ∃ t, exec (.pldmFwUpdate (some img)) s = .next t ∧ (if imageFails s img = none
      then t.u.ctl.writing = some img ∧ t.u.ctl.flashImg = none ∧ t.u.ctl.pldm = true ∧ t.u.outs = s.u.outs ++ ibi ++ [.pldmFw .taken]
      else t.u.ctl.writing = none ∧ t.u.ctl.flashImg = s.u.ctl.flashImg)) ∧
    (∀ img w, s.u.ctl.boot = 3 → s.u.ctl.writing = some w → ∃ t, exec (.pldmFwUpdate (some img)) s = .next t ∧ t.u.ctl = (s.pend 3).u.ctl ∧
      t.u.outs = s.u.outs ++ ibi ++ [.pldmFw .alreadyInUpdateMode]) ∧
    (∀ w, s.u.ctl.writing = some w → s.u.ctl.pldm = true → s.u.ctl.fwReq = none → ∃ t, exec (.pldmFwUpdate none) s = .next t ∧ t.u.ctl.flashImg = some w ∧
      t.u.ctl.updPending = true ∧ t.u.outs = s.u.outs ++ ibi ++ [.pldmFw .resetRequired]) ∧
    (∀ b : List Byte, b.length = 66 → beNat (b.take 2) = Config.vendor.toNat → svcQueued s < 64 → exec (.mctpMessage 0x7E b) s =
      .next (((s.pend 3).updCtl (fun c => { c with svc := c.svc ++ [{ mctp := true, blk := BitVec.ofNat 512 (leNat (b.drop 2)) }] })).pend 2)) ∧
    (∀ (ty : Nat) (b : List Byte), ty ∈ [0, 1, 5, 6] → ∃ t, exec (.mctpMessage ty b) s = .next t ∧ t.u.ctl.pend.getLsbD 3 = true ∧ t.mem = s.mem ∧ t.cores = s.cores ∧
      t.u.outs = s.u.outs ++ ibi ++ [.mctp ty (Config.reply s.fresh b ((if s.u.ctl.idUsable then 1 else 0) :: (measurements s ++ s.u.ctl.certs))
        (if ty = 1 then (sensorsOf s).map (Sensor.reading s s.fresh) else []))]) ∧
    (∀ (ty : Nat) (b : List Byte), ty ∉ [0, 1, 5, 6, 0x7E] → exec (.mctpMessage ty b) s = .next (s.pend 3)) ∧
    (∀ (doe : Bool) (b : List Byte), ∃ t a, exec (.spdmRequest doe b (some true) none) s = .next t ∧
      t.u.ctl.sessions = (if s.u.ctl.idUsable then min 4 (s.u.ctl.sessions + 1) else s.u.ctl.sessions) ∧
      t.u.outs = s.u.outs ++ (if doe then [.doe a] else ibi ++ [.mctp 5 a]) ∧ t.u.ctl.pend.getLsbD 4 = true ∧ t.mem = s.mem ∧ t.cores = s.cores) ∧
    (∀ (k : Token), k.ok = true → k.serial = s.u.ctl.chain.serial → k.nonce = s.u.ctl.debugNonce → ∃ t, exec (.debugUnlockToken k) s = .next t ∧
      t.u.ctl.debugOpen = true ∧ t.u.ctl.debugScope = k.scope ∧ t.u.ctl.debugNonce = Config.debugNonce s.fresh ∧ t.u.ctl.idUsable = false ∧
      t.u.ctl.unlocks = s.u.ctl.unlocks + 1 ∧ t.mem = s.mem) ∧
    (∀ (k : Token), k.ok = false ∨ k.serial ≠ s.u.ctl.chain.serial ∨ k.nonce ≠ s.u.ctl.debugNonce → ∃ t, exec (.debugUnlockToken k) s = .next t ∧
      t.u.ctl = ((s.pend 3).pend 4).u.ctl ∧ t.u.outs = s.u.outs ++ ibi ++ [.invalidRequest] ∧ t.mem = s.mem) ∧
    (∀ v : W64, s.locked = false → s.u.ctl.boot = 2 → ∃ t, exec (.ctlxLockSet .ctl v) s = .next t ∧ t.locked = true ∧ t.u.ctl.boot = (if memReady s then 3 else 2) ∧ ((∀ n < s.nCores, physCore s n = n) → t.cores = s.cores)) ∧
    (∀ unit < 4096, exec (.ctlCacheError unit true) s = .next (s.raise 0xCD01 (0x9000 + unit) none 0 0) ∧
      exec (.ctlCacheError unit false) s = .next (s.raise 0x4D02 (0x9000 + unit) none 0 0)) ∧
    (s.u.ctl.boot = 3 → exec .heartbeatTimeout s = .next (s.raise 0xCD01 0x9000 none 0 0)) ∧
    (s.u.ctl.boot ≠ 3 → exec .heartbeatTimeout s = .next s)

/-- GDDR7_READ of a clean sector by a master in reach, on a channel in service, leaves memory, registers, cores and messages; on another channel it waits; a fifth CRC failure in a row makes the channel retrain, with four repeats counted. GDDR7_WRITE of a sector and PARTIAL_WRITE in a clean one store exactly their bytes. CHANNEL_RETRAIN_DONE puts a retraining channel in service, with memory as it was where all is clean and only good reads waited, or, failed, out of service. PATROL_READ of a clean sector counts nothing and moves to the next, but does nothing on a channel not in service, with patrol off or before the pass's period is over. BUCKET_LEAK lowers every channel bucket by one, not below 0, in an elapsed course that the period divides and in which it has not leaked. SRAM_READ of a clean word changes nothing; a data bit in error is corrected, stored back and counted. A word of a core array, read at its position, is checked with the same code: one bit in error is corrected and counted, and under an index one bit away it raises 0x8102 (bits 45 to 0 of D0 are free, log 191). CHECKER_SELF_TEST before initialisation takes the channels and cores named out of service and starts initialising the other channels. MEM_INIT_COMPLETE makes GDDR7 zero, leaves other memory, and puts the channels in initialisation in service; with none it does nothing; a boot that waited for it, locks set, is complete. CHANNEL_RETRAIN_DONE and MEM_INIT_COMPLETE: with no host access and no write of the device waiting, the latter also with none at a channel, and, where memory becomes zero, no EDF contents kept, no injection armed and no boot waiting. The model's choices in it, where the spec leaves a point open: what physics decides is the command's operand (log 63); what waits for memory (log 64); sources of memory events (log 65); bucket depths and periods (log 66); what EDF keeps over an initialisation (log 67); how long a scratchpad error stands (log 68); when a pass of patrol begins (log 170) (08, accesses (R231, R232, R233), 08, link errors (R235), 08, initialisation (R234), 08, patrol and leaks (R238, R241), 08, scratchpads (R243), 08, self-test (R245, R246), 08, injection (R248), 16, boot (R427)). -/
def Obligations.MemoryAccesses : Prop :=
  ∀ (s : State),
    (∀ (who : Who) (a : Nat) (d : List Byte) (v : BitVec 2048), let sec := a / 256
      let ch := (s.gddrMap (a / 64 * 64)).1
      let cs := (s.gddrMap (256 * sec)).1
      let ca := (s.gddrMap a).1
      (whoReach s who (a / 64 * 64) 64 false = true → a / 64 * 64 + 64 ≤ s.gddrTop → s.ecc = [] →
        ((s.memCh ch).state = 2 → ∃ t, exec (.gddr7Read who a sec 0 false 0) s = .next t ∧ t.mem = s.mem ∧ t.regs = s.regs ∧ t.cores = s.cores ∧ t.ecc = [] ∧
          t.u.outs = s.u.outs ∧ ((s.memCh ch).fwd = none → t.u = s.u)) ∧
        ((s.memCh ch).state ≠ 2 → ∃ t, exec (.gddr7Read who a sec 0 false 0) s = .next t ∧ t.mem = s.mem ∧
          (t.memCh ch).wait = (s.memCh ch).wait ++ [{ kind := 0, who, a := a / 64 * 64, from_ := sec }]) ∧
        (∀ n, 5 ≤ n → (s.memCh ch).state = 2 → ∃ t, exec (.gddr7Read who a sec 0 false n) s = .next t ∧ (t.memCh ch).state = 3 ∧
          (t.memCh ch).retry = satAdd 48 (s.memCh ch).retry 4)) ∧
      (whoReach s who (256 * sec) 256 true = true → 256 * sec + 256 ≤ s.gddrTop → (s.memCh cs).state = 2 →
        ∃ t, exec (.gddr7Write who sec v 0) s = .next t ∧ t.rd (256 * sec) 256 = v.toNat ∧
          (∀ x, ¬ (256 * sec ≤ x ∧ x < 256 * sec + 256) → t.byte x = s.byte x)) ∧
      (0 < d.length → a % 256 + d.length ≤ 256 → whoReach s who a d.length true = true → a + d.length ≤ s.gddrTop → (s.memCh ca).state = 2 →
        s.ecc = [] → ∃ t, exec (.partialWrite who a d 0 0) s = .next t ∧ t.bytes a d.length = d ∧
          (∀ x, ¬ (a ≤ x ∧ x < a + d.length) → t.byte x = s.byte x))) ∧
    (∀ c < s.nCh, (s.memCh c).state = 3 → s.u.host.barw = [] → s.u.host.hostw = [] →
      (s.NoErr → (∀ o ∈ (s.memCh c).wait, o.kind = 0 ∧ o.from_ = o.a / 256) → ∃ t, exec (.channelRetrainDone c true) s = .next t ∧ (t.memCh c).state = 2 ∧
        (t.memCh c).wait = [] ∧ t.mem = s.mem) ∧
      (∃ t, exec (.channelRetrainDone c false) s = .next t ∧ (t.memCh c).state = 0)) ∧
    (∀ c < s.nCh, s.NoErr →
      ((s.memCh c).state = 2 → memPatrol s ≠ 0 → patrolEarly s (s.memCh c) = false →
        ∃ t, exec (.patrolRead c 0) s = .next t ∧ t.mem = s.mem ∧ (t.memCh c).patrol = ((s.memCh c).patrol + 1) % 24379392 ∧ (t.memCh c).ce = (s.memCh c).ce) ∧
      ((s.memCh c).state ≠ 2 ∨ memPatrol s = 0 ∨ patrolEarly s (s.memCh c) = true → exec (.patrolRead c 0) s = .next s)) ∧
    (∃ t, exec .bucketLeak s = .next t ∧ (∀ c, (t.memCh c).lvl = if s.u.mem.leakAt ≠ some s.elapsed ∧ memCompat s = false ∧
      bitsOf s.u.mem.bucket 23 0 ≠ 0 ∧ s.elapsed % bitsOf s.u.mem.bucket 23 0 = 0 then (s.memCh c).lvl - 1 else (s.memCh c).lvl)) ∧
    (∀ (who : Who) (a c : Nat), a % 8 = 0 → whoReach s who a 8 false = true → spCore s a 8 = some c → a - spBase c < 0x2000000 → s.sp.err = [] →
      let idx := (a - spBase c) / 8
      exec (.sramRead who (.pad a) 0 idx) s = .next s ∧
      (∀ b < 64, s.sp.ce.contains (a / 8) = false → ∃ t, exec (.sramRead who (.pad a) (BitVec.ofNat 72 (2 ^ b)) idx) s = .next t ∧ (∀ x, t.byte x = s.byte x) ∧
        t.sp.err = [] ∧ SMap.get 0 c t.u.mem.sramCe = satAdd 48 (SMap.get 0 c s.u.mem.sramCe) 1)) ∧
    (∀ (who : Who) (k : SramArray) (word : W64) (again : Bool), ∀ n < s.nCores, ∀ pos < 2 ^ 22, let x := SramWord.array n k pos word again
      exec (.sramRead who x 0 pos) s = .next s ∧
      (∀ b < 64, again = false → ∃ t, exec (.sramRead who x (BitVec.ofNat 72 (2 ^ b)) pos) s = .next t ∧ t.mem = s.mem ∧ t.cores = s.cores ∧
        SMap.get 0 n t.u.mem.sramCe = satAdd 48 (SMap.get 0 n s.u.mem.sramCe) 1) ∧
      (∀ b < 22, exec (.sramRead who x 0 (pos ^^^ 2 ^ b)) s =
        .next ((s.draw.2).raise 0x8102 (0x1000 + n) (s.ownerOfCore n) (BitVec.ofNat 64 ((Config.word s.fresh).toNat % 2 ^ 46)) 0))) ∧
    (testsDue s = true → s.u.flt.running = false → ∀ bad badCore : List Nat, ∃ t, exec (.checkerSelfTest bad badCore) s = .next t ∧
      (∀ c < s.nCh, (t.memCh c).testOk = !bad.contains c ∧ (t.memCh c).state = if c ∈ bad then 0 else 1) ∧
      (∀ n < s.nCores, n ∈ badCore → n ∈ t.u.flt.coreOut)) ∧
    (s.u.host.barw = [] → s.u.host.hostw = [] →
      (s.u.mem.ch.any (fun e => decide (e.2.state = 1)) = true → (∀ c, (s.memCh c).wait = []) → s.u.ctl.boot = 2 → s.locked = true →
        ∃ t, exec .memInitComplete s = .next t ∧ t.u.ctl.boot = 3) ∧
      (s.u.mem.ch.any (fun e => decide (e.2.state = 1)) = true → s.u.mem.keep = [] → (∀ c, (s.memCh c).wait = []) →
        s.u.ctl.boot ≠ 2 ∨ s.locked = false → bitOf (s.reg 0 0xC00018) 63 = false →
        ∃ t, exec .memInitComplete s = .next t ∧ t.ecc = [] ∧
        (∀ x < s.gddrTop, t.byte x = 0) ∧ (∀ x, s.gddrTop ≤ x → t.byte x = s.byte x) ∧ (∀ c, (s.memCh c).state = 1 → (t.memCh c).state = 2)) ∧
      (s.u.mem.ch.any (fun e => decide (e.2.state = 1)) = false → s.u.ctl.boot ≠ 2 ∨ s.locked = false ∨ memReady s = false → exec .memInitComplete s = .next s))

/-- For every sector address below 2^40, every 256 data bytes: read back under that address with its check bytes, the sector is clean; with any one of the 132 stored symbols of one codeword changed by any amount it is corrected to what was written, with the position of that symbol; read under another address that shares at least one of its five bytes it is an address mismatch. Of a scratchpad word under its index, an error of any one data or check bit is corrected, and the word without an error is clean. Every pattern of both self-test tables gives its required outcome (the word and index of the SRAM patterns are the model's choice, log entry 171) (08, sector code (R228, R229, R230, R231), 08, SRAM code (R242, R243)). -/
def Obligations.SectorCodeCorrects : Prop :=
  (∀ (a : Nat) (d : List Byte), a < 2 ^ 40 → d.length = 256 →
    (sectorDecode a d (sectorCheck a d)).out = .clean ∧ (sectorDecode a d (sectorCheck a d)).data = d ∧
    (∀ w < 2, ∀ k < 128, ∀ e : Byte, e ≠ 0 → let r := sectorDecode a (d.set (2 * k + w) (nth 0 d (2 * k + w) ^^^ e)) (sectorCheck a d)
      r.out = .corrected ∧ r.data = d ∧ (if w = 0 then r.pos0 else r.pos1) = k) ∧
    (∀ j < 8, ∀ e : Byte, e ≠ 0 → let r := sectorDecode a d ((sectorCheck a d).set j (nth 0 (sectorCheck a d) j ^^^ e))
      r.out = .corrected ∧ r.data = d) ∧
    (∀ b < 2 ^ 40, b ≠ a → (∃ i < 5, b / 256 ^ i % 256 = a / 256 ^ i % 256) → (sectorDecode b d (sectorCheck a d)).out = .mismatch)) ∧
  (∀ w i : Nat, w < 2 ^ 64 → i < 2 ^ 22 → sramRead w (sramCheck w i) i = (.clean, w) ∧
    (∀ b < 64, sramRead (w ^^^ 2 ^ b) (sramCheck w i) i = (.corrected, w)) ∧ (∀ b < 8, sramRead w (sramCheck w i ^^^ 2 ^ b) i = (.corrected, w))) ∧
  sectorTestOk = true ∧ sramTestOk = true

/-- MODULE_RESET with the input in range resets registers, cores, owners, course time, host and fault state, and keeps memory, flash and the bytes of CXL devices; out of range it is held until SUPPLY_CHECK sees it in range. RTU_SELF_TEST before boot does nothing while the module is held; else it makes a nonce and signals source 4, and passed it enables the PLL and boot goes on, failed it ends the boot with 0xC501. IMAGE_VERIFY, with the PLL stable, of an image that R429 accepts starts EDF on the harts given, or with none ends the boot; another leads to recovery. PLL_STABLE sets CTL and the core rail, starts the ramp of the NOC and the host port. DOMAIN_RAMP_STEP moves a divider more than one from its goal one towards it; with no goal it changes nothing. REFERENCE_LOST, and PLL_LOCK_LOSS with the PLL stable, go to the internal oscillator, stop course time and halt every core. POWER_MANAGER_COURSE of a running manager counts the course and keeps its measures. FASTER_STEP, admitted and with the rail at its voltage, sets the point. CORE_GATE of a core awake and idle long enough, with no request of its own, asks to gate it. SENSOR_SAMPLE keeps the reading of a sensor of the part and, coming to its trip temperature from below, trips and halts every running core. SUPPLY_CHECK releases a held module after 20,000 courses at or above 40.0 V; else it takes its measures and counts courses out of range. INPUT_UNDERVOLTAGE below 38 V shuts down and clears GDDR7 and scratchpads. I3C_ADDRESS_ASSIGNMENT sets the address of the module it names, in ENTDAA after its provisional ID. The model's choices in it, where the spec leaves a point open: when the manager reads its registers (log 147); what LIMITED and THERMAL say (log 148); no wake delay (log 149); the order of clock and rail (log 150); excursions in excluded courses (log 152); what a module reset keeps (log 153); when host training begins (log 154); the edge of a trip (log 196) (16, boot (R427, R428, R429), 17, clocks (R445, R446, R449, R450, R451), 17, power (R453, R455, R456), 17, heat and supply (R458, R461, R462), 18, resets (R472), 19, resets (R480, R482), 16, I3C (R441)). -/
def Obligations.BootClocksAndPower : Prop :=
  ∀ (s : State),
    (∀ mv, inputOk mv = true → ∃ t, exec (.moduleReset mv) s = .next t ∧ t.regs = [] ∧ t.cores = [] ∧ t.owners = [] ∧ t.course = 0 ∧ t.u.host = { cxlDev := (tiersOut s).u.host.cxlDev } ∧
      t.u.flt = {} ∧ (∀ x, (∀ p < 2, ∀ n < 4, ∀ r, hdmRange s p n = some r → ¬ (r.1 ≤ x ∧ x < r.2)) → t.byte x = s.byte x) ∧ t.u.ctl.flashImg = s.u.ctl.flashImg ∧ t.u.ctl.boot = 0 ∧ t.pending = s.pending) ∧
    (∀ mv, inputOk mv = false → exec (.moduleReset mv) s = .next (s.updPow (fun p => { p with rst := true }))) ∧
    (s.u.ctl.boot = 0 → s.u.pow.pll = 0 →
      (s.u.pow.shut = true → ∀ ok, exec (.rtuSelfTest ok) s = .next s) ∧
      (s.u.pow.shut = false → let u := s.draw.2.pend 4
        exec (.rtuSelfTest true) s = .next ((u.updCtl (fun c => { c with svnMin := c.otpSvn, idUsable := true, debugNonce := Config.debugNonce s.fresh, boot := 1 })).updPow
          (fun p => { p with pll := 1 })) ∧
        exec (.rtuSelfTest false) s = .next ((u.updCtl (fun c => { c with svnMin := c.otpSvn, idUsable := false, debugNonce := Config.debugNonce s.fresh, boot := 4 })).raise
          0xC501 0xE000 none 0 0))) ∧
    (∀ harts : W32, s.u.pow.pll ≠ 2 → exec (.imageVerify harts) s = .next s) ∧
    (∀ (img : List Byte) (harts : W32), s.u.ctl.boot = 1 → s.u.pow.pll = 2 → s.u.ctl.flashImg = some img →
      if imageFails s img = none
      then ∃ t, exec (.imageVerify harts) s = .next t ∧ t.u.ctl.boot = (if harts = 0 then 4 else 2) ∧ t.u.ctl.imgOk = true ∧ t.u.ctl.svn = imgN img 6 2 ∧
        t.u.ctl.harts = harts.toNat ∧ t.mem = s.mem ∧ t.regs = s.regs
      else exec (.imageVerify harts) s = .next ((s.pend 4).updCtl (fun c => { c with recovery := true, boot := 5 }))) ∧
    (s.u.pow.pll = 1 → s.u.pow.src.length = 5 → s.u.pow.div.length = 5 → s.u.pow.goal.length = 5 → ∃ t, exec .pllStable s = .next t ∧ t.u.pow.pll = 2 ∧
      nth 0 t.u.pow.div 4 = 90 ∧ nth 0 t.u.pow.div 2 = 64 ∧ nth 0 t.u.pow.goal 2 = 6 ∧ nth false t.u.pow.src 2 = true ∧ t.u.host.st = 1 ∧ t.u.pow.rail = 680) ∧
    (∀ d < 4, let v := nth 0 s.u.pow.div d
      let g := nth 0 s.u.pow.goal d
      (g = 0 → exec (.domainRampStep d) s = .next s) ∧
      (0 < g → g + 1 < v → exec (.domainRampStep d) s = .next (setDom d (nth false s.u.pow.src d) (v - 1) g s)) ∧
      (0 < g → v + 1 < g → exec (.domainRampStep d) s = .next (setDom d (nth false s.u.pow.src d) (v + 1) g s))) ∧
    (s.u.pow.loss = 0 → ∃ t, exec .referenceLost s = .next t ∧ t.u.pow.loss = 1 ∧ t.u.pow.intOsc = true ∧ t.u.crs.st = tsStopped ∧
      (∀ n, (s.core n).seq.run = .running → (t.core n).seq.run = .halted)) ∧
    (s.u.pow.loss = 0 → s.u.pow.pll = 2 → ∃ t, exec .pllLockLoss s = .next t ∧ t.u.pow.loss = 2 ∧ t.u.pow.intOsc = true ∧ t.u.crs.st = tsStopped ∧
      (∀ n, (s.core n).seq.run = .running → (t.core n).seq.run = .halted)) ∧
    (s.u.pow.pll ≠ 2 → exec .pllLockLoss s = .next s) ∧
    (∀ inW railA, (s.u.pow.run = false → exec (.powerManagerCourse inW railA) s = .next s) ∧
      (s.u.pow.run = true → s.stopped = false → ∃ t, exec (.powerManagerCourse inW railA) s = .next t ∧ t.u.pow.n = s.u.pow.n + 1 ∧ t.u.pow.inW = inW ∧
        t.u.pow.railA = railA ∧ t.u.pow.hist = (inW :: s.u.pow.hist).take 65535)) ∧
    (s.u.pow.faster = none → exec .fasterStep s = .next s) ∧
    (∀ p, s.u.pow.faster = some p → s.u.pow.admitted = true → railSet s = true → s.stopped = false → s.u.pow.run = true → ∃ t, exec .fasterStep s = .next t ∧
      t.u.pow.point = p ∧ t.u.pow.faster = none ∧ t.u.pow.lastChange = s.u.pow.n + 1 ∧ t.mem = s.mem) ∧
    (∀ c < s.nCores, exec (.coreGate c) s = .next (if s.u.pow.run = true ∧ c ∈ s.u.pow.awake ∧ s.idleFor c (pwrGateDelay s) = true ∧
        (∀ r ∈ s.u.pow.reqs, r.core ≠ some c) then s.updPow (fun p => { p with reqs := p.reqs ++ [{ at_ := p.n + 1, core := some c, wake := false }] }) else s)) ∧
    (∀ (i : Nat) (raw : Int), i < 68 → (sensorOn s i = false → exec (.sensorSample i raw) s = .next s) ∧
      (sensorOn s i = true → s.u.ctl.cal = none → ∃ t, exec (.sensorSample i raw) s = .next t ∧ SMap.find i t.u.pow.sens = some raw ∧
        (∀ v, tripOf i = some v → v ≤ raw → (∀ x, SMap.find i s.u.pow.sens = some x → x < v) → t.u.pow.tripped = true ∧ (s.u.pow.tripped = false → ∀ n, (s.core n).seq.run = .running → (t.core n).seq.run = .halted)))) ∧
    (∀ a b, s.u.pow.shut = true → let n := if 40000 ≤ a then s.u.pow.okIn + 1 else 0
      exec (.supplyCheck a b) s = .next (s.updPow (fun p => { p with shut := decide (n < 20000), okIn := if n < 20000 then n else 0 }))) ∧
    (∀ a b, s.u.pow.shut = false → s.u.pow.rst = true → inputOk a = true → exec (.supplyCheck a b) s = exec (.moduleReset a) s) ∧
    (∀ a b, s.u.pow.shut = false → s.u.pow.rst = false → (s.u.pow.run = false → exec (.supplyCheck a b) s = .next s) ∧
      (s.u.pow.run = true → ∃ t, exec (.supplyCheck a b) s = .next t ∧ t.u.pow.inMv = a ∧ t.u.pow.railMv = b ∧
        t.u.pow.badIn = (if 40000 ≤ a ∧ a ≤ 60000 then 0 else s.u.pow.badIn + 1))) ∧
    (∀ mv, (38000 ≤ mv → exec (.inputUndervoltage mv) s = .next s) ∧ (mv < 38000 → ∃ t, exec (.inputUndervoltage mv) s = .next t ∧ t.u.pow.shut = true ∧
      t.regs = [] ∧ ∀ x < 0x100000000000, t.byte x = 0)) ∧
    (∀ a d, exec (.i3cAddressAssignment true 0x3A d) s = .next (s.updCtl (fun c => { c with i3c := some d })) ∧
      exec (.i3cAddressAssignment false a d) s = .next ((s.out (.entdaa (Config.provisionalId s.u.ctl.chain.serial))).updCtl (fun c => { c with i3c := some d })) ∧
      (a ≠ 0x3A → exec (.i3cAddressAssignment true a d) s = .next s))

/-- For every command and state, a step with the command at the front of the queue is exec of it on the state with the queue's rest. That an empty queue idles is the model's choice, log entry 1. No command ends in a fault, and a command ends in a refusal only as one of a unit that the part lacks. After reset no command waits, no owner exists, every core is idle, course time is at 0 and stopped, no message has been sent, and memory is canonical. The model's choices in it, where the spec leaves a point open: the part at reset (log 2); what unwritten memory reads as (log 3); registers without a reset value (log 4); implied state starts empty (log 5); a unit that the part lacks is refused (log 10); no command faults (log 160) (00, scope of the description (R1 to R5), 18, reset (R472)). -/
def Obligations.StepRunsFrontCommand : Prop :=
  (∀ (s : State) (c : Instr) (r : List Instr), step { s with pending := c :: r } = exec c { s with pending := r }) ∧
  (∀ s : State, s.pending = [] → step s = .next s) ∧
  (∀ (s : State) (c : Instr), (∃ t, exec c s = .next t) ∨ exec c s = .refused .noSuchUnit) ∧
  (State.reset.pending = [] ∧ State.reset.ownerList = [] ∧ State.reset.course = 0 ∧ State.reset.u.crs.st = tsStopped ∧ State.reset.u.outs = [] ∧
    (∀ n, (State.reset.core n).seq.run = .idle) ∧ (∀ r : Reg, State.reset.stored r = r.init) ∧ Canonical State.reset)

/-- Whatever the command at the front of the queue, a step that answers a next state leaves the part as it is and the queue at its rest, and canonical memory stays canonical. Unless the command is one that can be a module reset, set locks stay set, a thermal trip and a clock loss stay, and open debug stays open (16, locks (R428), 16, debug (R437), 17, clock loss (R451), 17, thermal trip (R461), 18, module reset (R472)). -/
def Obligations.StepKeeps : Prop :=
  ∀ s t : State, step s = .next t → t.part = s.part ∧ t.pending = s.pending.tail ∧ (Canonical s → Canonical t) ∧
    ((∀ c, s.pending.head? = some c → ¬ mayReset c) → (s.locked = true → t.locked = true) ∧ (s.u.pow.tripped = true → t.u.pow.tripped = true) ∧
      (s.u.pow.loss ≠ 0 → t.u.pow.loss ≠ 0) ∧ (s.u.ctl.debugOpen = true → t.u.ctl.debugOpen = true))
end

