-- ==== Sys2Proof/Laws/Table.lean ====
section
/-!
SUPPORT. Laws of the sparse tables: a read after a write, and that every operation keeps the canonical form.
-/

namespace Sys2Proof

variable {α : Type}

/-! ### Reads after writes -/

@[simp] theorem SMap.get_nil (d : α) (k : Nat) : SMap.get d k [] = d := rfl

@[simp] theorem SMap.get_set_same (d : α) (k : Nat) (v : α) (m : SMap α) : SMap.get d k (SMap.set k v m) = v := by
  induction m with
  | nil => simp [SMap.set, SMap.get]
  | cons e r ih =>
    obtain ⟨j, u⟩ := e
    by_cases h1 : k < j
    · simp [SMap.set, h1, SMap.get]
    · by_cases h2 : j = k
      · simp [SMap.set, h2, SMap.get]
      · simp [SMap.set, h1, h2, SMap.get, ih]

theorem SMap.get_set_other (d : α) {k i : Nat} (h : k ≠ i) (v : α) (m : SMap α) :
    SMap.get d i (SMap.set k v m) = SMap.get d i m := by
  induction m with
  | nil => simp [SMap.set, SMap.get, h]
  | cons e r ih =>
    obtain ⟨j, u⟩ := e
    by_cases h1 : k < j
    · simp [SMap.set, h1, SMap.get, h]
    · by_cases h2 : j = k
      · subst h2; simp [SMap.set, SMap.get, h]
      · simp only [SMap.set, h1, h2, if_false, SMap.get, ih]

@[simp] theorem SMap.set_set (k : Nat) (u v : α) (m : SMap α) : SMap.set k v (SMap.set k u m) = SMap.set k v m := by
  induction m with
  | nil => simp [SMap.set]
  | cons e r ih =>
    obtain ⟨j, x⟩ := e
    by_cases h1 : k < j
    · simp [SMap.set, h1]
    · by_cases h2 : j = k
      · subst h2; simp [SMap.set]
      · simp [SMap.set, h1, h2, ih]

theorem SMap.find_set_same (k : Nat) (v : α) (m : SMap α) : SMap.find k (SMap.set k v m) = some v := by
  induction m with
  | nil => simp [SMap.set, SMap.find]
  | cons e r ih =>
    obtain ⟨j, u⟩ := e
    by_cases h1 : k < j
    · simp [SMap.set, h1, SMap.find]
    · by_cases h2 : j = k
      · simp [SMap.set, h2, SMap.find]
      · simp [SMap.set, h1, h2, SMap.find, ih]

theorem SMap.get_filter (d : α) (p : Nat → Bool) (i : Nat) (m : SMap α) :
    SMap.get d i (m.filter (fun e => p e.1)) = if p i then SMap.get d i m else d := by
  induction m with
  | nil => simp [SMap.get]
  | cons e r ih =>
    obtain ⟨j, u⟩ := e
    by_cases h : p j
    · by_cases h2 : j = i
      · subst h2; simp [h, SMap.get]
      · simp [h, SMap.get, h2, ih]
    · by_cases h2 : j = i
      · subst h2; simp only [List.filter_cons, h, SMap.get, if_true]
        simpa [h] using ih
      · simp [h, SMap.get, h2, ih]

@[simp] theorem SMap.get_erase_same (d : α) (k : Nat) (m : SMap α) : SMap.get d k (SMap.erase k m) = d := by
  simp [SMap.erase, SMap.get_filter d (fun j => j != k)]

theorem SMap.get_erase_other (d : α) {k i : Nat} (h : k ≠ i) (m : SMap α) : SMap.get d i (SMap.erase k m) = SMap.get d i m := by
  simp [SMap.erase, SMap.get_filter d (fun j => j != k), Ne.symm h]

@[simp] theorem SMap.get_setD_same [DecidableEq α] (d : α) (k : Nat) (v : α) (m : SMap α) : SMap.get d k (SMap.setD d k v m) = v := by
  unfold SMap.setD; split <;> simp_all

theorem SMap.get_setD_other [DecidableEq α] (d : α) {k i : Nat} (h : k ≠ i) (v : α) (m : SMap α) :
    SMap.get d i (SMap.setD d k v m) = SMap.get d i m := by
  unfold SMap.setD; split
  · exact SMap.get_erase_other d h m
  · exact SMap.get_set_other d h v m

theorem SMap.get_clear (d : α) (lo n i : Nat) (m : SMap α) :
    SMap.get d i (SMap.clear lo n m) = if lo ≤ i ∧ i < lo + n then d else SMap.get d i m := by
  have := SMap.get_filter d (fun j => decide (j < lo) || decide (lo + n ≤ j)) i m
  rw [SMap.clear, this]
  by_cases h : lo ≤ i ∧ i < lo + n
  · simp [h, show ¬ i < lo from by omega, show ¬ lo + n ≤ i from by omega]
  · simp only [h, if_false]; rw [if_pos]; simp; omega

/-! ### The canonical form -/

variable [DecidableEq α]

theorem SMap.wf_iff (d : α) (m : SMap α) :
    SMap.wf d m = true ↔ m.Pairwise (fun a b => a.1 < b.1) ∧ ∀ e ∈ m, e.2 ≠ d := by
  induction m with
  | nil => simp [SMap.wf]
  | cons e r ih =>
    obtain ⟨k, v⟩ := e
    simp only [SMap.wf, Bool.and_eq_true, bne_iff_ne, List.all_eq_true, decide_eq_true_eq, ih, List.pairwise_cons, List.mem_cons,
      forall_eq_or_imp]
    tauto

theorem SMap.wf_filter (d : α) (p : Nat × α → Bool) {m : SMap α} (h : SMap.wf d m = true) : SMap.wf d (m.filter p) = true := by
  rw [SMap.wf_iff] at *
  exact ⟨h.1.filter p, fun e he => h.2 e (List.mem_of_mem_filter he)⟩

omit [DecidableEq α] in
theorem SMap.mem_set {k : Nat} {v : α} {m : SMap α} {e : Nat × α} (h : e ∈ SMap.set k v m) : e = (k, v) ∨ e ∈ m := by
  induction m with
  | nil => simpa [SMap.set] using h
  | cons x r ih =>
    obtain ⟨j, u⟩ := x
    simp only [SMap.set] at h
    split at h
    · simpa using h
    · split at h
      · rcases List.mem_cons.1 h with h | h
        · exact .inl h
        · exact .inr (List.mem_cons_of_mem _ h)
      · rcases List.mem_cons.1 h with h | h
        · exact .inr (h ▸ List.mem_cons_self)
        · rcases ih h with h | h
          · exact .inl h
          · exact .inr (List.mem_cons_of_mem _ h)

theorem SMap.wf_set (d : α) {k : Nat} {v : α} (hv : v ≠ d) {m : SMap α} (h : SMap.wf d m = true) : SMap.wf d (SMap.set k v m) = true := by
  rw [SMap.wf_iff] at h ⊢
  refine ⟨?_, fun e he => ?_⟩
  · induction m with
    | nil => simp [SMap.set]
    | cons x r ih =>
      obtain ⟨j, u⟩ := x
      have hr := h.1
      rw [List.pairwise_cons] at hr
      simp only [SMap.set]
      split
      · rename_i hk
        refine List.pairwise_cons.2 ⟨fun e he => ?_, h.1⟩
        rcases List.mem_cons.1 he with he | he
        · subst he; exact hk
        · exact lt_trans hk (hr.1 e he)
      · split
        · rename_i hj
          subst hj
          exact List.pairwise_cons.2 ⟨fun e he => hr.1 e he, hr.2⟩
        · refine List.pairwise_cons.2 ⟨fun e he => ?_, ih ⟨hr.2, fun e he => h.2 e (List.mem_cons_of_mem _ he)⟩⟩
          rcases SMap.mem_set he with he | he
          · subst he; simp only; omega
          · exact hr.1 e he
  · rcases SMap.mem_set he with he | he
    · subst he; exact hv
    · exact h.2 e he

theorem SMap.wf_erase (d : α) (k : Nat) {m : SMap α} (h : SMap.wf d m = true) : SMap.wf d (SMap.erase k m) = true :=
  SMap.wf_filter d _ h

theorem SMap.wf_setD (d : α) (k : Nat) (v : α) {m : SMap α} (h : SMap.wf d m = true) : SMap.wf d (SMap.setD d k v m) = true := by
  unfold SMap.setD; split
  · exact SMap.wf_erase d k h
  · rename_i hv; exact SMap.wf_set d hv h

theorem SMap.wf_clear (d : α) (lo n : Nat) {m : SMap α} (h : SMap.wf d m = true) : SMap.wf d (SMap.clear lo n m) = true :=
  SMap.wf_filter d _ h

theorem SMap.wf_onto (d : α) {m : SMap α} (h : SMap.wf d m = true) (l : SMap α) (hl : ∀ e ∈ l, e.2 ≠ d) :
    SMap.wf d (SMap.onto m l) = true := by
  induction l generalizing m with
  | nil => exact h
  | cons x r ih =>
    obtain ⟨k, v⟩ := x
    exact ih (SMap.wf_set d (hl (k, v) List.mem_cons_self) h) (fun e he => hl e (List.mem_cons_of_mem _ he))

end Sys2Proof
end

