-- ==== Sys2Proof/Laws/Memory.lean ====
section
/-!
SUPPORT. Laws of memory: a read after a write, that a write leaves every other byte alone, and that every memory operation keeps the
canonical form.
-/

namespace Sys2Proof.Machine

open Sys2Proof

/-- Memory is in its canonical form: addresses rising, and no entry at 0, which an unlisted address reads as. -/
abbrev Memory.wf (m : SMap Byte) : Bool := SMap.wf 0 m

/-! ### Bytes -/

@[simp] theorem State.byte_putByte_same (s : State) (a : Nat) (b : Byte) : (s.putByte a b).byte a = b := by
  simp [State.byte, State.putByte]

theorem State.byte_putByte_other (s : State) {a x : Nat} (h : a ≠ x) (b : Byte) : (s.putByte a b).byte x = s.byte x := by
  simp [State.byte, State.putByte, SMap.get_setD_other _ h]

theorem State.byte_putAll (s : State) (a : Nat) (l : List Byte) (x : Nat) :
    (s.putAll a l).byte x = if a ≤ x ∧ x < a + l.length then l.getD (x - a) 0 else s.byte x := by
  induction l generalizing s a with
  | nil => simp [State.putAll]
  | cons b r ih =>
    rw [State.putAll, ih, List.length_cons]
    by_cases h1 : a + 1 ≤ x ∧ x < a + 1 + r.length
    · rw [if_pos h1, if_pos (by omega), show x - a = (x - (a + 1)) + 1 by omega]; simp
    · rw [if_neg h1]
      by_cases h2 : a = x
      · subst h2; simp
      · rw [State.byte_putByte_other s h2, if_neg (by omega)]

@[simp] theorem State.inject_mem (s : State) (a n : Nat) : (s.inject a n).mem = s.mem := by
  simp only [State.inject]; split <;> rfl

/-- Where no stored word has an error a write puts its bytes and finds nothing (R232, R243). -/
theorem State.putRaw_noErr {s : State} (h : s.NoErr) (a : Nat) (l : List Byte) : s.putRaw a l = s.putAll a l := by
  simp [State.putRaw, h.1, h.2]

theorem State.byte_putBytes {s : State} (h : s.NoErr) (a : Nat) (l : List Byte) (x : Nat) :
    (s.putBytes a l).byte x = if a ≤ x ∧ x < a + l.length then l.getD (x - a) 0 else s.byte x := by
  rw [← State.byte_putAll, State.putBytes, State.putRaw_noErr h, State.byte, State.inject_mem, State.byte]

@[simp] theorem leBytes_length (n v : Nat) : (leBytes n v).length = n := by
  induction n generalizing v with
  | zero => rfl
  | succ n ih => simp [leBytes, ih]

/-- A write of n bytes leaves every byte outside them alone. -/
theorem State.byte_wr_other {s : State} (he : s.NoErr) (a n v : Nat) {x : Nat} (h : ¬ (a ≤ x ∧ x < a + n)) : (s.wr a n v).byte x = s.byte x := by
  rw [State.wr, State.byte_putBytes he, leBytes_length, if_neg h]

theorem leNat_leBytes (n v : Nat) : leNat (leBytes n v) = v % 256 ^ n := by
  induction n generalizing v with
  | zero => simp [leBytes, leNat, Nat.mod_one]
  | succ n ih =>
    rw [leBytes, leNat, ih, BitVec.toNat_ofNat, show (2 : Nat) ^ 8 = 256 from rfl, show 256 ^ (n + 1) = 256 * 256 ^ n from Nat.pow_succ', Nat.mod_mul]

/-- A read of what a write wrote. -/
theorem State.rd_wr_same {s : State} (he : s.NoErr) (a n v : Nat) : (s.wr a n v).rd a n = v % 256 ^ n := by
  have h : (s.wr a n v).bytes a n = leBytes n v := by
    apply List.ext_getElem
    · simp [State.bytes]
    · intro i h1 h2
      have hi : i < n := by simpa [State.bytes] using h1
      simp only [State.bytes, List.getElem_map, List.getElem_range, State.wr, State.byte_putBytes he, leBytes_length]
      rw [if_pos (by omega), Nat.add_sub_cancel_left, List.getD_eq_getElem _ _ (by simpa using hi)]
  rw [State.rd, h, leNat_leBytes]

/-- A read of bytes that a write does not reach. -/
theorem State.rd_wr_other {s : State} (he : s.NoErr) (a n v b k : Nat) (h : b + k ≤ a ∨ a + n ≤ b) : (s.wr a n v).rd b k = s.rd b k := by
  have : (s.wr a n v).bytes b k = s.bytes b k := by
    simp only [State.bytes]
    apply List.map_congr_left
    intro i hi
    rw [List.mem_range] at hi
    exact State.byte_wr_other he a n v (by omega)
  rw [State.rd, this, State.rd]

theorem State.byte_zero {s : State} (h : s.NoErr) (a n x : Nat) : (s.zero a n).byte x = if a ≤ x ∧ x < a + n then 0 else s.byte x := by
  simp [State.byte, State.zero, h.1, h.2, SMap.get_clear]

/-! ### A read in parts -/

theorem leNat_append (l r : List Byte) : leNat (l ++ r) = leNat l + 256 ^ l.length * leNat r := by
  induction l with
  | nil => simp [leNat]
  | cons b l ih => simp only [List.cons_append, leNat, ih, List.length_cons]; ring

theorem leNat_lt (l : List Byte) : leNat l < 256 ^ l.length := by
  induction l with
  | nil => simp [leNat]
  | cons b l ih =>
    have := b.isLt
    simp only [leNat, List.length_cons, Nat.pow_succ]
    omega

theorem State.bytes_add (s : State) (a m n : Nat) : s.bytes a (m + n) = s.bytes a m ++ s.bytes (a + m) n := by
  simp [State.bytes, List.range_add, Nat.add_assoc]

theorem State.rd_add (s : State) (a m n : Nat) : s.rd a (m + n) = s.rd a m + 256 ^ m * s.rd (a + m) n := by
  rw [State.rd, State.bytes_add, leNat_append, State.rd, State.rd, show (s.bytes a m).length = m by simp [State.bytes]]

theorem State.rd_lt (s : State) (a n : Nat) : s.rd a n < 256 ^ n := by
  have := leNat_lt (s.bytes a n)
  simpa [State.rd, State.bytes] using this

/-- A field of a wide read is the read of the field. -/
theorem State.rd_field (s : State) (a j m n : Nat) (h : j + m ≤ n) : s.rd a n / 256 ^ j % 256 ^ m = s.rd (a + j) m := by
  obtain ⟨k, rfl⟩ := Nat.exists_eq_add_of_le h
  rw [Nat.add_assoc, State.rd_add, Nat.add_mul_div_left _ _ (by positivity), Nat.div_eq_of_lt (State.rd_lt s a j), Nat.zero_add, State.rd_add,
    Nat.add_mul_mod_self_left, Nat.mod_eq_of_lt (State.rd_lt s _ m)]

/-- A field of a line is the read of the field. -/
theorem State.byteField_line (s : State) (a i n : Nat) (h : i + n ≤ 64) : byteField (s.line a) i n = s.rd (a + i) n := by
  have e : (256 : Nat) ^ 64 = 2 ^ 512 := by rw [show (256 : Nat) = 2 ^ 8 from rfl, ← Nat.pow_mul]
  have hm : s.rd a 64 < 2 ^ 512 := e ▸ State.rd_lt s a 64
  rw [← State.rd_field s a i n 64 h, byteField, State.line, BitVec.toNat_ofNat, Nat.mod_eq_of_lt hm, Nat.shiftRight_eq_div_pow, Nat.pow_mul, Nat.pow_mul]

/-! ### The canonical form -/

theorem State.putByte_wf (s : State) (a : Nat) (b : Byte) (h : Memory.wf s.mem) : Memory.wf (s.putByte a b).mem :=
  SMap.wf_setD 0 a b h

theorem State.putAll_wf (s : State) (a : Nat) (l : List Byte) (h : Memory.wf s.mem) : Memory.wf (s.putAll a l).mem := by
  induction l generalizing s a with
  | nil => exact h
  | cons b r ih => exact ih _ _ (State.putByte_wf s a b h)

theorem State.settleSector_wf (a n : Nat) (s : State) (sec : Nat) (h : Memory.wf s.mem) : Memory.wf (State.settleSector a n s sec).mem := by
  unfold State.settleSector
  split
  · exact h
  · dsimp only
    split
    · exact h
    · split
      · exact State.putAll_wf s _ _ h
      · dsimp only
        split
        · exact State.putAll_wf s _ _ h
        · exact h

theorem State.settleWord_wf (a n : Nat) (s : State) (w : Nat) (h : Memory.wf s.mem) : Memory.wf (State.settleWord a n s w).mem := by
  unfold State.settleWord
  split
  · exact h
  · dsimp only
    split
    · exact State.putAll_wf s _ _ h
    · split <;> exact h

theorem State.putKept_wf (s : State) (a : Nat) (l : List Byte) (h : Memory.wf s.mem) : Memory.wf (s.putKept a l).mem := by
  induction l generalizing s a with
  | nil => exact h
  | cons b r ih =>
    refine ih _ _ ?_
    split
    · exact h
    · exact State.putByte_wf s a b h

theorem State.foldl_wf {α : Type} {f : State → α → State} (hf : ∀ s x, Memory.wf s.mem → Memory.wf (f s x).mem) (l : List α) (s : State)
    (h : Memory.wf s.mem) : Memory.wf (l.foldl f s).mem := by
  induction l generalizing s with
  | nil => exact h
  | cons x l ih => exact ih _ (hf _ _ h)

theorem State.putRaw_wf (s : State) (a : Nat) (l : List Byte) (h : Memory.wf s.mem) : Memory.wf (s.putRaw a l).mem := by
  unfold State.putRaw
  split
  · exact State.putAll_wf s a l h
  · exact State.putKept_wf _ a l (State.foldl_wf (State.settleWord_wf a _) _ _ (State.foldl_wf (State.settleSector_wf a _) _ _ h))

theorem State.putBytes_wf (s : State) (a : Nat) (l : List Byte) (h : Memory.wf s.mem) : Memory.wf (s.putBytes a l).mem := by
  simpa [State.putBytes] using State.putRaw_wf s a l h

theorem State.wr_wf (s : State) (a n v : Nat) (h : Memory.wf s.mem) : Memory.wf (s.wr a n v).mem := State.putBytes_wf s a _ h

theorem State.zero_wf (s : State) (a n : Nat) (h : Memory.wf s.mem) : Memory.wf (s.zero a n).mem := by
  unfold State.zero
  split
  · exact SMap.wf_clear 0 a n h
  · exact State.putRaw_wf s a _ h

theorem State.copyMem_wf (s : State) (a b n : Nat) (h : Memory.wf s.mem) : Memory.wf (s.copyMem a b n).mem := by
  unfold State.copyMem
  split
  · refine SMap.wf_onto 0 (SMap.wf_clear 0 b n h) _ (fun e he => ?_)
    obtain ⟨x, hx, rfl⟩ := List.mem_map.1 he
    exact ((SMap.wf_iff 0 _).1 h).2 x (List.mem_of_mem_filter hx)
  · exact State.putRaw_wf s b _ h

/-- Reset memory lists nothing. -/
theorem State.reset_wf : Memory.wf State.reset.mem = true := rfl

end Sys2Proof.Machine
end

