-- ==== Sys2Proof/Laws/Bench.lean ====
section
/-!
SUPPORT. Laws of the standard programs: what a read of a parameter block gives when nothing has written the block since the step course.
-/

namespace Sys2Proof.Machine

open Sys2Proof

/-- A parameter block that nothing has written since the step course is read as it stands (R217). -/
theorem parm_eq (s : State) (a i : Nat) (hi : i < 16) (h : ∀ b, (s.slice (slId s a)).par = some b → b = s.line (slParams s a)) :
    parm s a i = s.rd (slParams s a + 4 * i) 4 := by
  have hl : parLine s a = s.line (slParams s a) := by
    unfold parLine
    split
    · rename_i b hb; rw [h b hb, ite_self]
    · rfl
  rw [parm, hl, State.byteField_line _ _ _ _ (by omega)]

end Sys2Proof.Machine
end

