-- ==== Sys2Proof/Laws/State.lean ====
section
/-!
SUPPORT. One law per field per update of the state, so that no proof unfolds a record update.
-/

namespace Sys2Proof.Machine

open Sys2Proof

variable (s : State)

/-! ### `State.setCore` -/

@[simp] theorem State.setCore_part (n : Nat) (c : Core) : (s.setCore n c).part = s.part := rfl
@[simp] theorem State.setCore_regs (n : Nat) (c : Core) : (s.setCore n c).regs = s.regs := rfl
@[simp] theorem State.setCore_mem (n : Nat) (c : Core) : (s.setCore n c).mem = s.mem := rfl
@[simp] theorem State.setCore_ecc (n : Nat) (c : Core) : (s.setCore n c).ecc = s.ecc := rfl
@[simp] theorem State.setCore_sp (n : Nat) (c : Core) : (s.setCore n c).sp = s.sp := rfl
@[simp] theorem State.setCore_cores (n : Nat) (c : Core) : (s.setCore n c).cores = SMap.set n c s.cores := rfl
@[simp] theorem State.setCore_owners (n : Nat) (c : Core) : (s.setCore n c).owners = s.owners := rfl
@[simp] theorem State.setCore_images (n : Nat) (c : Core) : (s.setCore n c).images = s.images := rfl
@[simp] theorem State.setCore_course (n : Nat) (c : Core) : (s.setCore n c).course = s.course := rfl
@[simp] theorem State.setCore_bench (n : Nat) (c : Core) : (s.setCore n c).bench = s.bench := rfl
@[simp] theorem State.setCore_tiles (n : Nat) (c : Core) : (s.setCore n c).tiles = s.tiles := rfl
@[simp] theorem State.setCore_creqs (n : Nat) (c : Core) : (s.setCore n c).creqs = s.creqs := rfl
@[simp] theorem State.setCore_u (n : Nat) (c : Core) : (s.setCore n c).u = s.u := rfl
@[simp] theorem State.setCore_fresh (n : Nat) (c : Core) : (s.setCore n c).fresh = s.fresh := rfl
@[simp] theorem State.setCore_pending (n : Nat) (c : Core) : (s.setCore n c).pending = s.pending := rfl

/-! ### `State.updCore` -/

@[simp] theorem State.updCore_part (n : Nat) (f : Core → Core) : (s.updCore n f).part = s.part := rfl
@[simp] theorem State.updCore_regs (n : Nat) (f : Core → Core) : (s.updCore n f).regs = s.regs := rfl
@[simp] theorem State.updCore_mem (n : Nat) (f : Core → Core) : (s.updCore n f).mem = s.mem := rfl
@[simp] theorem State.updCore_ecc (n : Nat) (f : Core → Core) : (s.updCore n f).ecc = s.ecc := rfl
@[simp] theorem State.updCore_sp (n : Nat) (f : Core → Core) : (s.updCore n f).sp = s.sp := rfl
@[simp] theorem State.updCore_cores (n : Nat) (f : Core → Core) : (s.updCore n f).cores = SMap.set n (f (s.core n)) s.cores := rfl
@[simp] theorem State.updCore_owners (n : Nat) (f : Core → Core) : (s.updCore n f).owners = s.owners := rfl
@[simp] theorem State.updCore_images (n : Nat) (f : Core → Core) : (s.updCore n f).images = s.images := rfl
@[simp] theorem State.updCore_course (n : Nat) (f : Core → Core) : (s.updCore n f).course = s.course := rfl
@[simp] theorem State.updCore_bench (n : Nat) (f : Core → Core) : (s.updCore n f).bench = s.bench := rfl
@[simp] theorem State.updCore_tiles (n : Nat) (f : Core → Core) : (s.updCore n f).tiles = s.tiles := rfl
@[simp] theorem State.updCore_creqs (n : Nat) (f : Core → Core) : (s.updCore n f).creqs = s.creqs := rfl
@[simp] theorem State.updCore_u (n : Nat) (f : Core → Core) : (s.updCore n f).u = s.u := rfl
@[simp] theorem State.updCore_fresh (n : Nat) (f : Core → Core) : (s.updCore n f).fresh = s.fresh := rfl
@[simp] theorem State.updCore_pending (n : Nat) (f : Core → Core) : (s.updCore n f).pending = s.pending := rfl

/-! ### `State.updRegs` -/

@[simp] theorem State.updRegs_part (n : Nat) (f : CoreRegs → CoreRegs) : (s.updRegs n f).part = s.part := rfl
@[simp] theorem State.updRegs_regs (n : Nat) (f : CoreRegs → CoreRegs) : (s.updRegs n f).regs = s.regs := rfl
@[simp] theorem State.updRegs_mem (n : Nat) (f : CoreRegs → CoreRegs) : (s.updRegs n f).mem = s.mem := rfl
@[simp] theorem State.updRegs_ecc (n : Nat) (f : CoreRegs → CoreRegs) : (s.updRegs n f).ecc = s.ecc := rfl
@[simp] theorem State.updRegs_sp (n : Nat) (f : CoreRegs → CoreRegs) : (s.updRegs n f).sp = s.sp := rfl
@[simp] theorem State.updRegs_cores (n : Nat) (f : CoreRegs → CoreRegs) : (s.updRegs n f).cores = SMap.set n { s.core n with r := f (s.core n).r } s.cores := rfl
@[simp] theorem State.updRegs_owners (n : Nat) (f : CoreRegs → CoreRegs) : (s.updRegs n f).owners = s.owners := rfl
@[simp] theorem State.updRegs_images (n : Nat) (f : CoreRegs → CoreRegs) : (s.updRegs n f).images = s.images := rfl
@[simp] theorem State.updRegs_course (n : Nat) (f : CoreRegs → CoreRegs) : (s.updRegs n f).course = s.course := rfl
@[simp] theorem State.updRegs_bench (n : Nat) (f : CoreRegs → CoreRegs) : (s.updRegs n f).bench = s.bench := rfl
@[simp] theorem State.updRegs_tiles (n : Nat) (f : CoreRegs → CoreRegs) : (s.updRegs n f).tiles = s.tiles := rfl
@[simp] theorem State.updRegs_creqs (n : Nat) (f : CoreRegs → CoreRegs) : (s.updRegs n f).creqs = s.creqs := rfl
@[simp] theorem State.updRegs_u (n : Nat) (f : CoreRegs → CoreRegs) : (s.updRegs n f).u = s.u := rfl
@[simp] theorem State.updRegs_fresh (n : Nat) (f : CoreRegs → CoreRegs) : (s.updRegs n f).fresh = s.fresh := rfl
@[simp] theorem State.updRegs_pending (n : Nat) (f : CoreRegs → CoreRegs) : (s.updRegs n f).pending = s.pending := rfl

/-! ### `State.updMat` -/

@[simp] theorem State.updMat_part (n : Nat) (f : CoreMat → CoreMat) : (s.updMat n f).part = s.part := rfl
@[simp] theorem State.updMat_regs (n : Nat) (f : CoreMat → CoreMat) : (s.updMat n f).regs = s.regs := rfl
@[simp] theorem State.updMat_mem (n : Nat) (f : CoreMat → CoreMat) : (s.updMat n f).mem = s.mem := rfl
@[simp] theorem State.updMat_ecc (n : Nat) (f : CoreMat → CoreMat) : (s.updMat n f).ecc = s.ecc := rfl
@[simp] theorem State.updMat_sp (n : Nat) (f : CoreMat → CoreMat) : (s.updMat n f).sp = s.sp := rfl
@[simp] theorem State.updMat_cores (n : Nat) (f : CoreMat → CoreMat) : (s.updMat n f).cores = SMap.set n { s.core n with m := f (s.core n).m } s.cores := rfl
@[simp] theorem State.updMat_owners (n : Nat) (f : CoreMat → CoreMat) : (s.updMat n f).owners = s.owners := rfl
@[simp] theorem State.updMat_images (n : Nat) (f : CoreMat → CoreMat) : (s.updMat n f).images = s.images := rfl
@[simp] theorem State.updMat_course (n : Nat) (f : CoreMat → CoreMat) : (s.updMat n f).course = s.course := rfl
@[simp] theorem State.updMat_bench (n : Nat) (f : CoreMat → CoreMat) : (s.updMat n f).bench = s.bench := rfl
@[simp] theorem State.updMat_tiles (n : Nat) (f : CoreMat → CoreMat) : (s.updMat n f).tiles = s.tiles := rfl
@[simp] theorem State.updMat_creqs (n : Nat) (f : CoreMat → CoreMat) : (s.updMat n f).creqs = s.creqs := rfl
@[simp] theorem State.updMat_u (n : Nat) (f : CoreMat → CoreMat) : (s.updMat n f).u = s.u := rfl
@[simp] theorem State.updMat_fresh (n : Nat) (f : CoreMat → CoreMat) : (s.updMat n f).fresh = s.fresh := rfl
@[simp] theorem State.updMat_pending (n : Nat) (f : CoreMat → CoreMat) : (s.updMat n f).pending = s.pending := rfl

/-! ### `State.updSeq` -/

@[simp] theorem State.updSeq_part (n : Nat) (f : CoreSeq → CoreSeq) : (s.updSeq n f).part = s.part := rfl
@[simp] theorem State.updSeq_regs (n : Nat) (f : CoreSeq → CoreSeq) : (s.updSeq n f).regs = s.regs := rfl
@[simp] theorem State.updSeq_mem (n : Nat) (f : CoreSeq → CoreSeq) : (s.updSeq n f).mem = s.mem := rfl
@[simp] theorem State.updSeq_ecc (n : Nat) (f : CoreSeq → CoreSeq) : (s.updSeq n f).ecc = s.ecc := rfl
@[simp] theorem State.updSeq_sp (n : Nat) (f : CoreSeq → CoreSeq) : (s.updSeq n f).sp = s.sp := rfl
@[simp] theorem State.updSeq_cores (n : Nat) (f : CoreSeq → CoreSeq) : (s.updSeq n f).cores = SMap.set n { s.core n with seq := f (s.core n).seq } s.cores := rfl
@[simp] theorem State.updSeq_owners (n : Nat) (f : CoreSeq → CoreSeq) : (s.updSeq n f).owners = s.owners := rfl
@[simp] theorem State.updSeq_images (n : Nat) (f : CoreSeq → CoreSeq) : (s.updSeq n f).images = s.images := rfl
@[simp] theorem State.updSeq_course (n : Nat) (f : CoreSeq → CoreSeq) : (s.updSeq n f).course = s.course := rfl
@[simp] theorem State.updSeq_bench (n : Nat) (f : CoreSeq → CoreSeq) : (s.updSeq n f).bench = s.bench := rfl
@[simp] theorem State.updSeq_tiles (n : Nat) (f : CoreSeq → CoreSeq) : (s.updSeq n f).tiles = s.tiles := rfl
@[simp] theorem State.updSeq_creqs (n : Nat) (f : CoreSeq → CoreSeq) : (s.updSeq n f).creqs = s.creqs := rfl
@[simp] theorem State.updSeq_u (n : Nat) (f : CoreSeq → CoreSeq) : (s.updSeq n f).u = s.u := rfl
@[simp] theorem State.updSeq_fresh (n : Nat) (f : CoreSeq → CoreSeq) : (s.updSeq n f).fresh = s.fresh := rfl
@[simp] theorem State.updSeq_pending (n : Nat) (f : CoreSeq → CoreSeq) : (s.updSeq n f).pending = s.pending := rfl

/-! ### `State.setDmaq` -/

@[simp] theorem State.setDmaq_part (n q : Nat) (d : DmaQ) : (s.setDmaq n q d).part = s.part := rfl
@[simp] theorem State.setDmaq_regs (n q : Nat) (d : DmaQ) : (s.setDmaq n q d).regs = s.regs := rfl
@[simp] theorem State.setDmaq_mem (n q : Nat) (d : DmaQ) : (s.setDmaq n q d).mem = s.mem := rfl
@[simp] theorem State.setDmaq_ecc (n q : Nat) (d : DmaQ) : (s.setDmaq n q d).ecc = s.ecc := rfl
@[simp] theorem State.setDmaq_sp (n q : Nat) (d : DmaQ) : (s.setDmaq n q d).sp = s.sp := rfl
@[simp] theorem State.setDmaq_cores (n q : Nat) (d : DmaQ) : (s.setDmaq n q d).cores = SMap.set n { s.core n with dma := SMap.set q d (s.core n).dma } s.cores := rfl
@[simp] theorem State.setDmaq_owners (n q : Nat) (d : DmaQ) : (s.setDmaq n q d).owners = s.owners := rfl
@[simp] theorem State.setDmaq_images (n q : Nat) (d : DmaQ) : (s.setDmaq n q d).images = s.images := rfl
@[simp] theorem State.setDmaq_course (n q : Nat) (d : DmaQ) : (s.setDmaq n q d).course = s.course := rfl
@[simp] theorem State.setDmaq_bench (n q : Nat) (d : DmaQ) : (s.setDmaq n q d).bench = s.bench := rfl
@[simp] theorem State.setDmaq_tiles (n q : Nat) (d : DmaQ) : (s.setDmaq n q d).tiles = s.tiles := rfl
@[simp] theorem State.setDmaq_creqs (n q : Nat) (d : DmaQ) : (s.setDmaq n q d).creqs = s.creqs := rfl
@[simp] theorem State.setDmaq_u (n q : Nat) (d : DmaQ) : (s.setDmaq n q d).u = s.u := rfl
@[simp] theorem State.setDmaq_fresh (n q : Nat) (d : DmaQ) : (s.setDmaq n q d).fresh = s.fresh := rfl
@[simp] theorem State.setDmaq_pending (n q : Nat) (d : DmaQ) : (s.setDmaq n q d).pending = s.pending := rfl

/-! ### `State.setReg` -/

@[simp] theorem State.setReg_part (o : Nat) (v : W64) : (s.setReg o v).part = s.part := rfl
@[simp] theorem State.setReg_regs (o : Nat) (v : W64) : (s.setReg o v).regs = SMap.set o v s.regs := rfl
@[simp] theorem State.setReg_mem (o : Nat) (v : W64) : (s.setReg o v).mem = s.mem := rfl
@[simp] theorem State.setReg_ecc (o : Nat) (v : W64) : (s.setReg o v).ecc = s.ecc := rfl
@[simp] theorem State.setReg_sp (o : Nat) (v : W64) : (s.setReg o v).sp = s.sp := rfl
@[simp] theorem State.setReg_cores (o : Nat) (v : W64) : (s.setReg o v).cores = s.cores := rfl
@[simp] theorem State.setReg_owners (o : Nat) (v : W64) : (s.setReg o v).owners = s.owners := rfl
@[simp] theorem State.setReg_images (o : Nat) (v : W64) : (s.setReg o v).images = s.images := rfl
@[simp] theorem State.setReg_course (o : Nat) (v : W64) : (s.setReg o v).course = s.course := rfl
@[simp] theorem State.setReg_bench (o : Nat) (v : W64) : (s.setReg o v).bench = s.bench := rfl
@[simp] theorem State.setReg_tiles (o : Nat) (v : W64) : (s.setReg o v).tiles = s.tiles := rfl
@[simp] theorem State.setReg_creqs (o : Nat) (v : W64) : (s.setReg o v).creqs = s.creqs := rfl
@[simp] theorem State.setReg_u (o : Nat) (v : W64) : (s.setReg o v).u = s.u := rfl
@[simp] theorem State.setReg_fresh (o : Nat) (v : W64) : (s.setReg o v).fresh = s.fresh := rfl
@[simp] theorem State.setReg_pending (o : Nat) (v : W64) : (s.setReg o v).pending = s.pending := rfl

/-! ### `State.setOwner` -/

@[simp] theorem State.setOwner_part (p : Nat) (o : Owner) : (s.setOwner p o).part = s.part := rfl
@[simp] theorem State.setOwner_regs (p : Nat) (o : Owner) : (s.setOwner p o).regs = s.regs := rfl
@[simp] theorem State.setOwner_mem (p : Nat) (o : Owner) : (s.setOwner p o).mem = s.mem := rfl
@[simp] theorem State.setOwner_ecc (p : Nat) (o : Owner) : (s.setOwner p o).ecc = s.ecc := rfl
@[simp] theorem State.setOwner_sp (p : Nat) (o : Owner) : (s.setOwner p o).sp = s.sp := rfl
@[simp] theorem State.setOwner_cores (p : Nat) (o : Owner) : (s.setOwner p o).cores = s.cores := rfl
@[simp] theorem State.setOwner_owners (p : Nat) (o : Owner) : (s.setOwner p o).owners = SMap.set p o s.owners := rfl
@[simp] theorem State.setOwner_images (p : Nat) (o : Owner) : (s.setOwner p o).images = s.images := rfl
@[simp] theorem State.setOwner_course (p : Nat) (o : Owner) : (s.setOwner p o).course = s.course := rfl
@[simp] theorem State.setOwner_bench (p : Nat) (o : Owner) : (s.setOwner p o).bench = s.bench := rfl
@[simp] theorem State.setOwner_tiles (p : Nat) (o : Owner) : (s.setOwner p o).tiles = s.tiles := rfl
@[simp] theorem State.setOwner_creqs (p : Nat) (o : Owner) : (s.setOwner p o).creqs = s.creqs := rfl
@[simp] theorem State.setOwner_u (p : Nat) (o : Owner) : (s.setOwner p o).u = s.u := rfl
@[simp] theorem State.setOwner_fresh (p : Nat) (o : Owner) : (s.setOwner p o).fresh = s.fresh := rfl
@[simp] theorem State.setOwner_pending (p : Nat) (o : Owner) : (s.setOwner p o).pending = s.pending := rfl

/-! ### `State.setEng` -/

@[simp] theorem State.setEng_part (e : Nat) (x : Engine) : (s.setEng e x).part = s.part := rfl
@[simp] theorem State.setEng_regs (e : Nat) (x : Engine) : (s.setEng e x).regs = s.regs := rfl
@[simp] theorem State.setEng_mem (e : Nat) (x : Engine) : (s.setEng e x).mem = s.mem := rfl
@[simp] theorem State.setEng_ecc (e : Nat) (x : Engine) : (s.setEng e x).ecc = s.ecc := rfl
@[simp] theorem State.setEng_sp (e : Nat) (x : Engine) : (s.setEng e x).sp = s.sp := rfl
@[simp] theorem State.setEng_cores (e : Nat) (x : Engine) : (s.setEng e x).cores = s.cores := rfl
@[simp] theorem State.setEng_owners (e : Nat) (x : Engine) : (s.setEng e x).owners = s.owners := rfl
@[simp] theorem State.setEng_images (e : Nat) (x : Engine) : (s.setEng e x).images = s.images := rfl
@[simp] theorem State.setEng_course (e : Nat) (x : Engine) : (s.setEng e x).course = s.course := rfl
@[simp] theorem State.setEng_bench (e : Nat) (x : Engine) : (s.setEng e x).bench = { s.bench with eng := SMap.set e x s.bench.eng } := rfl
@[simp] theorem State.setEng_tiles (e : Nat) (x : Engine) : (s.setEng e x).tiles = s.tiles := rfl
@[simp] theorem State.setEng_creqs (e : Nat) (x : Engine) : (s.setEng e x).creqs = s.creqs := rfl
@[simp] theorem State.setEng_u (e : Nat) (x : Engine) : (s.setEng e x).u = s.u := rfl
@[simp] theorem State.setEng_fresh (e : Nat) (x : Engine) : (s.setEng e x).fresh = s.fresh := rfl
@[simp] theorem State.setEng_pending (e : Nat) (x : Engine) : (s.setEng e x).pending = s.pending := rfl

/-! ### `State.putByte` -/

@[simp] theorem State.putByte_part (a : Nat) (b : Byte) : (s.putByte a b).part = s.part := rfl
@[simp] theorem State.putByte_regs (a : Nat) (b : Byte) : (s.putByte a b).regs = s.regs := rfl
@[simp] theorem State.putByte_mem (a : Nat) (b : Byte) : (s.putByte a b).mem = SMap.setD 0 a b s.mem := rfl
@[simp] theorem State.putByte_ecc (a : Nat) (b : Byte) : (s.putByte a b).ecc = SMap.erase (a / 256) s.ecc := rfl
@[simp] theorem State.putByte_sp (a : Nat) (b : Byte) : (s.putByte a b).sp = s.sp.note a 1 := rfl
@[simp] theorem State.putByte_cores (a : Nat) (b : Byte) : (s.putByte a b).cores = s.cores := rfl
@[simp] theorem State.putByte_owners (a : Nat) (b : Byte) : (s.putByte a b).owners = s.owners := rfl
@[simp] theorem State.putByte_images (a : Nat) (b : Byte) : (s.putByte a b).images = s.images := rfl
@[simp] theorem State.putByte_course (a : Nat) (b : Byte) : (s.putByte a b).course = s.course := rfl
@[simp] theorem State.putByte_bench (a : Nat) (b : Byte) : (s.putByte a b).bench = s.bench := rfl
@[simp] theorem State.putByte_tiles (a : Nat) (b : Byte) : (s.putByte a b).tiles = s.tiles := rfl
@[simp] theorem State.putByte_creqs (a : Nat) (b : Byte) : (s.putByte a b).creqs = s.creqs := rfl
@[simp] theorem State.putByte_u (a : Nat) (b : Byte) : (s.putByte a b).u = s.u := rfl
@[simp] theorem State.putByte_fresh (a : Nat) (b : Byte) : (s.putByte a b).fresh = s.fresh := rfl
@[simp] theorem State.putByte_pending (a : Nat) (b : Byte) : (s.putByte a b).pending = s.pending := rfl

/-! ### `State.pend` -/

@[simp] theorem State.pend_part (k : Nat) : (s.pend k).part = s.part := rfl
@[simp] theorem State.pend_regs (k : Nat) : (s.pend k).regs = s.regs := rfl
@[simp] theorem State.pend_mem (k : Nat) : (s.pend k).mem = s.mem := rfl
@[simp] theorem State.pend_ecc (k : Nat) : (s.pend k).ecc = s.ecc := rfl
@[simp] theorem State.pend_sp (k : Nat) : (s.pend k).sp = s.sp := rfl
@[simp] theorem State.pend_cores (k : Nat) : (s.pend k).cores = s.cores := rfl
@[simp] theorem State.pend_owners (k : Nat) : (s.pend k).owners = s.owners := rfl
@[simp] theorem State.pend_images (k : Nat) : (s.pend k).images = s.images := rfl
@[simp] theorem State.pend_course (k : Nat) : (s.pend k).course = s.course := rfl
@[simp] theorem State.pend_bench (k : Nat) : (s.pend k).bench = s.bench := rfl
@[simp] theorem State.pend_tiles (k : Nat) : (s.pend k).tiles = s.tiles := rfl
@[simp] theorem State.pend_creqs (k : Nat) : (s.pend k).creqs = s.creqs := rfl
@[simp] theorem State.pend_u (k : Nat) : (s.pend k).u = { s.u with ctl := { s.u.ctl with pend := s.u.ctl.pend ||| BitVec.ofNat 9 (2 ^ k) } } := rfl
@[simp] theorem State.pend_fresh (k : Nat) : (s.pend k).fresh = s.fresh := rfl
@[simp] theorem State.pend_pending (k : Nat) : (s.pend k).pending = s.pending := rfl

/-! ### `State.updU` -/

@[simp] theorem State.updU_part (f : Units → Units) : (s.updU f).part = s.part := rfl
@[simp] theorem State.updU_regs (f : Units → Units) : (s.updU f).regs = s.regs := rfl
@[simp] theorem State.updU_mem (f : Units → Units) : (s.updU f).mem = s.mem := rfl
@[simp] theorem State.updU_ecc (f : Units → Units) : (s.updU f).ecc = s.ecc := rfl
@[simp] theorem State.updU_sp (f : Units → Units) : (s.updU f).sp = s.sp := rfl
@[simp] theorem State.updU_cores (f : Units → Units) : (s.updU f).cores = s.cores := rfl
@[simp] theorem State.updU_owners (f : Units → Units) : (s.updU f).owners = s.owners := rfl
@[simp] theorem State.updU_images (f : Units → Units) : (s.updU f).images = s.images := rfl
@[simp] theorem State.updU_course (f : Units → Units) : (s.updU f).course = s.course := rfl
@[simp] theorem State.updU_bench (f : Units → Units) : (s.updU f).bench = s.bench := rfl
@[simp] theorem State.updU_tiles (f : Units → Units) : (s.updU f).tiles = s.tiles := rfl
@[simp] theorem State.updU_creqs (f : Units → Units) : (s.updU f).creqs = s.creqs := rfl
@[simp] theorem State.updU_u (f : Units → Units) : (s.updU f).u = f s.u := rfl
@[simp] theorem State.updU_fresh (f : Units → Units) : (s.updU f).fresh = s.fresh := rfl
@[simp] theorem State.updU_pending (f : Units → Units) : (s.updU f).pending = s.pending := rfl

/-! ### `State.out` -/

@[simp] theorem State.out_part (o : Out) : (s.out o).part = s.part := rfl
@[simp] theorem State.out_regs (o : Out) : (s.out o).regs = s.regs := rfl
@[simp] theorem State.out_mem (o : Out) : (s.out o).mem = s.mem := rfl
@[simp] theorem State.out_ecc (o : Out) : (s.out o).ecc = s.ecc := rfl
@[simp] theorem State.out_sp (o : Out) : (s.out o).sp = s.sp := rfl
@[simp] theorem State.out_cores (o : Out) : (s.out o).cores = s.cores := rfl
@[simp] theorem State.out_owners (o : Out) : (s.out o).owners = s.owners := rfl
@[simp] theorem State.out_images (o : Out) : (s.out o).images = s.images := rfl
@[simp] theorem State.out_course (o : Out) : (s.out o).course = s.course := rfl
@[simp] theorem State.out_bench (o : Out) : (s.out o).bench = s.bench := rfl
@[simp] theorem State.out_tiles (o : Out) : (s.out o).tiles = s.tiles := rfl
@[simp] theorem State.out_creqs (o : Out) : (s.out o).creqs = s.creqs := rfl
@[simp] theorem State.out_u (o : Out) : (s.out o).u = { s.u with outs := s.u.outs ++ [o] } := rfl
@[simp] theorem State.out_fresh (o : Out) : (s.out o).fresh = s.fresh := rfl
@[simp] theorem State.out_pending (o : Out) : (s.out o).pending = s.pending := rfl

/-! ### `State.updFlt` -/

@[simp] theorem State.updFlt_part (f : FltSt → FltSt) : (s.updFlt f).part = s.part := rfl
@[simp] theorem State.updFlt_regs (f : FltSt → FltSt) : (s.updFlt f).regs = s.regs := rfl
@[simp] theorem State.updFlt_mem (f : FltSt → FltSt) : (s.updFlt f).mem = s.mem := rfl
@[simp] theorem State.updFlt_ecc (f : FltSt → FltSt) : (s.updFlt f).ecc = s.ecc := rfl
@[simp] theorem State.updFlt_sp (f : FltSt → FltSt) : (s.updFlt f).sp = s.sp := rfl
@[simp] theorem State.updFlt_cores (f : FltSt → FltSt) : (s.updFlt f).cores = s.cores := rfl
@[simp] theorem State.updFlt_owners (f : FltSt → FltSt) : (s.updFlt f).owners = s.owners := rfl
@[simp] theorem State.updFlt_images (f : FltSt → FltSt) : (s.updFlt f).images = s.images := rfl
@[simp] theorem State.updFlt_course (f : FltSt → FltSt) : (s.updFlt f).course = s.course := rfl
@[simp] theorem State.updFlt_bench (f : FltSt → FltSt) : (s.updFlt f).bench = s.bench := rfl
@[simp] theorem State.updFlt_tiles (f : FltSt → FltSt) : (s.updFlt f).tiles = s.tiles := rfl
@[simp] theorem State.updFlt_creqs (f : FltSt → FltSt) : (s.updFlt f).creqs = s.creqs := rfl
@[simp] theorem State.updFlt_u (f : FltSt → FltSt) : (s.updFlt f).u = { s.u with flt := f s.u.flt } := rfl
@[simp] theorem State.updFlt_fresh (f : FltSt → FltSt) : (s.updFlt f).fresh = s.fresh := rfl
@[simp] theorem State.updFlt_pending (f : FltSt → FltSt) : (s.updFlt f).pending = s.pending := rfl

/-! ### `State.updSw` -/

@[simp] theorem State.updSw_part (f : SwatchSt → SwatchSt) : (s.updSw f).part = s.part := rfl
@[simp] theorem State.updSw_regs (f : SwatchSt → SwatchSt) : (s.updSw f).regs = s.regs := rfl
@[simp] theorem State.updSw_mem (f : SwatchSt → SwatchSt) : (s.updSw f).mem = s.mem := rfl
@[simp] theorem State.updSw_ecc (f : SwatchSt → SwatchSt) : (s.updSw f).ecc = s.ecc := rfl
@[simp] theorem State.updSw_sp (f : SwatchSt → SwatchSt) : (s.updSw f).sp = s.sp := rfl
@[simp] theorem State.updSw_cores (f : SwatchSt → SwatchSt) : (s.updSw f).cores = s.cores := rfl
@[simp] theorem State.updSw_owners (f : SwatchSt → SwatchSt) : (s.updSw f).owners = s.owners := rfl
@[simp] theorem State.updSw_images (f : SwatchSt → SwatchSt) : (s.updSw f).images = s.images := rfl
@[simp] theorem State.updSw_course (f : SwatchSt → SwatchSt) : (s.updSw f).course = s.course := rfl
@[simp] theorem State.updSw_bench (f : SwatchSt → SwatchSt) : (s.updSw f).bench = s.bench := rfl
@[simp] theorem State.updSw_tiles (f : SwatchSt → SwatchSt) : (s.updSw f).tiles = s.tiles := rfl
@[simp] theorem State.updSw_creqs (f : SwatchSt → SwatchSt) : (s.updSw f).creqs = s.creqs := rfl
@[simp] theorem State.updSw_u (f : SwatchSt → SwatchSt) : (s.updSw f).u = { s.u with sw := f s.u.sw } := rfl
@[simp] theorem State.updSw_fresh (f : SwatchSt → SwatchSt) : (s.updSw f).fresh = s.fresh := rfl
@[simp] theorem State.updSw_pending (f : SwatchSt → SwatchSt) : (s.updSw f).pending = s.pending := rfl

/-! ### `State.updCrs` -/

@[simp] theorem State.updCrs_part (f : CrsSt → CrsSt) : (s.updCrs f).part = s.part := rfl
@[simp] theorem State.updCrs_regs (f : CrsSt → CrsSt) : (s.updCrs f).regs = s.regs := rfl
@[simp] theorem State.updCrs_mem (f : CrsSt → CrsSt) : (s.updCrs f).mem = s.mem := rfl
@[simp] theorem State.updCrs_ecc (f : CrsSt → CrsSt) : (s.updCrs f).ecc = s.ecc := rfl
@[simp] theorem State.updCrs_sp (f : CrsSt → CrsSt) : (s.updCrs f).sp = s.sp := rfl
@[simp] theorem State.updCrs_cores (f : CrsSt → CrsSt) : (s.updCrs f).cores = s.cores := rfl
@[simp] theorem State.updCrs_owners (f : CrsSt → CrsSt) : (s.updCrs f).owners = s.owners := rfl
@[simp] theorem State.updCrs_images (f : CrsSt → CrsSt) : (s.updCrs f).images = s.images := rfl
@[simp] theorem State.updCrs_course (f : CrsSt → CrsSt) : (s.updCrs f).course = s.course := rfl
@[simp] theorem State.updCrs_bench (f : CrsSt → CrsSt) : (s.updCrs f).bench = s.bench := rfl
@[simp] theorem State.updCrs_tiles (f : CrsSt → CrsSt) : (s.updCrs f).tiles = s.tiles := rfl
@[simp] theorem State.updCrs_creqs (f : CrsSt → CrsSt) : (s.updCrs f).creqs = s.creqs := rfl
@[simp] theorem State.updCrs_u (f : CrsSt → CrsSt) : (s.updCrs f).u = { s.u with crs := f s.u.crs } := rfl
@[simp] theorem State.updCrs_fresh (f : CrsSt → CrsSt) : (s.updCrs f).fresh = s.fresh := rfl
@[simp] theorem State.updCrs_pending (f : CrsSt → CrsSt) : (s.updCrs f).pending = s.pending := rfl

/-! ### `State.updNet` -/

@[simp] theorem State.updNet_part (f : NetSt → NetSt) : (s.updNet f).part = s.part := rfl
@[simp] theorem State.updNet_regs (f : NetSt → NetSt) : (s.updNet f).regs = s.regs := rfl
@[simp] theorem State.updNet_mem (f : NetSt → NetSt) : (s.updNet f).mem = s.mem := rfl
@[simp] theorem State.updNet_ecc (f : NetSt → NetSt) : (s.updNet f).ecc = s.ecc := rfl
@[simp] theorem State.updNet_sp (f : NetSt → NetSt) : (s.updNet f).sp = s.sp := rfl
@[simp] theorem State.updNet_cores (f : NetSt → NetSt) : (s.updNet f).cores = s.cores := rfl
@[simp] theorem State.updNet_owners (f : NetSt → NetSt) : (s.updNet f).owners = s.owners := rfl
@[simp] theorem State.updNet_images (f : NetSt → NetSt) : (s.updNet f).images = s.images := rfl
@[simp] theorem State.updNet_course (f : NetSt → NetSt) : (s.updNet f).course = s.course := rfl
@[simp] theorem State.updNet_bench (f : NetSt → NetSt) : (s.updNet f).bench = s.bench := rfl
@[simp] theorem State.updNet_tiles (f : NetSt → NetSt) : (s.updNet f).tiles = s.tiles := rfl
@[simp] theorem State.updNet_creqs (f : NetSt → NetSt) : (s.updNet f).creqs = s.creqs := rfl
@[simp] theorem State.updNet_u (f : NetSt → NetSt) : (s.updNet f).u = { s.u with net := f s.u.net } := rfl
@[simp] theorem State.updNet_fresh (f : NetSt → NetSt) : (s.updNet f).fresh = s.fresh := rfl
@[simp] theorem State.updNet_pending (f : NetSt → NetSt) : (s.updNet f).pending = s.pending := rfl

/-! ### `State.updCol` -/

@[simp] theorem State.updCol_part (f : ColSt → ColSt) : (s.updCol f).part = s.part := rfl
@[simp] theorem State.updCol_regs (f : ColSt → ColSt) : (s.updCol f).regs = s.regs := rfl
@[simp] theorem State.updCol_mem (f : ColSt → ColSt) : (s.updCol f).mem = s.mem := rfl
@[simp] theorem State.updCol_ecc (f : ColSt → ColSt) : (s.updCol f).ecc = s.ecc := rfl
@[simp] theorem State.updCol_sp (f : ColSt → ColSt) : (s.updCol f).sp = s.sp := rfl
@[simp] theorem State.updCol_cores (f : ColSt → ColSt) : (s.updCol f).cores = s.cores := rfl
@[simp] theorem State.updCol_owners (f : ColSt → ColSt) : (s.updCol f).owners = s.owners := rfl
@[simp] theorem State.updCol_images (f : ColSt → ColSt) : (s.updCol f).images = s.images := rfl
@[simp] theorem State.updCol_course (f : ColSt → ColSt) : (s.updCol f).course = s.course := rfl
@[simp] theorem State.updCol_bench (f : ColSt → ColSt) : (s.updCol f).bench = s.bench := rfl
@[simp] theorem State.updCol_tiles (f : ColSt → ColSt) : (s.updCol f).tiles = s.tiles := rfl
@[simp] theorem State.updCol_creqs (f : ColSt → ColSt) : (s.updCol f).creqs = s.creqs := rfl
@[simp] theorem State.updCol_u (f : ColSt → ColSt) : (s.updCol f).u = { s.u with col := f s.u.col } := rfl
@[simp] theorem State.updCol_fresh (f : ColSt → ColSt) : (s.updCol f).fresh = s.fresh := rfl
@[simp] theorem State.updCol_pending (f : ColSt → ColSt) : (s.updCol f).pending = s.pending := rfl

/-! ### `State.updQue` -/

@[simp] theorem State.updQue_part (f : QueSt → QueSt) : (s.updQue f).part = s.part := rfl
@[simp] theorem State.updQue_regs (f : QueSt → QueSt) : (s.updQue f).regs = s.regs := rfl
@[simp] theorem State.updQue_mem (f : QueSt → QueSt) : (s.updQue f).mem = s.mem := rfl
@[simp] theorem State.updQue_ecc (f : QueSt → QueSt) : (s.updQue f).ecc = s.ecc := rfl
@[simp] theorem State.updQue_sp (f : QueSt → QueSt) : (s.updQue f).sp = s.sp := rfl
@[simp] theorem State.updQue_cores (f : QueSt → QueSt) : (s.updQue f).cores = s.cores := rfl
@[simp] theorem State.updQue_owners (f : QueSt → QueSt) : (s.updQue f).owners = s.owners := rfl
@[simp] theorem State.updQue_images (f : QueSt → QueSt) : (s.updQue f).images = s.images := rfl
@[simp] theorem State.updQue_course (f : QueSt → QueSt) : (s.updQue f).course = s.course := rfl
@[simp] theorem State.updQue_bench (f : QueSt → QueSt) : (s.updQue f).bench = s.bench := rfl
@[simp] theorem State.updQue_tiles (f : QueSt → QueSt) : (s.updQue f).tiles = s.tiles := rfl
@[simp] theorem State.updQue_creqs (f : QueSt → QueSt) : (s.updQue f).creqs = s.creqs := rfl
@[simp] theorem State.updQue_u (f : QueSt → QueSt) : (s.updQue f).u = { s.u with que := f s.u.que } := rfl
@[simp] theorem State.updQue_fresh (f : QueSt → QueSt) : (s.updQue f).fresh = s.fresh := rfl
@[simp] theorem State.updQue_pending (f : QueSt → QueSt) : (s.updQue f).pending = s.pending := rfl

/-! ### `State.updHost` -/

@[simp] theorem State.updHost_part (f : HostSt → HostSt) : (s.updHost f).part = s.part := rfl
@[simp] theorem State.updHost_regs (f : HostSt → HostSt) : (s.updHost f).regs = s.regs := rfl
@[simp] theorem State.updHost_mem (f : HostSt → HostSt) : (s.updHost f).mem = s.mem := rfl
@[simp] theorem State.updHost_ecc (f : HostSt → HostSt) : (s.updHost f).ecc = s.ecc := rfl
@[simp] theorem State.updHost_sp (f : HostSt → HostSt) : (s.updHost f).sp = s.sp := rfl
@[simp] theorem State.updHost_cores (f : HostSt → HostSt) : (s.updHost f).cores = s.cores := rfl
@[simp] theorem State.updHost_owners (f : HostSt → HostSt) : (s.updHost f).owners = s.owners := rfl
@[simp] theorem State.updHost_images (f : HostSt → HostSt) : (s.updHost f).images = s.images := rfl
@[simp] theorem State.updHost_course (f : HostSt → HostSt) : (s.updHost f).course = s.course := rfl
@[simp] theorem State.updHost_bench (f : HostSt → HostSt) : (s.updHost f).bench = s.bench := rfl
@[simp] theorem State.updHost_tiles (f : HostSt → HostSt) : (s.updHost f).tiles = s.tiles := rfl
@[simp] theorem State.updHost_creqs (f : HostSt → HostSt) : (s.updHost f).creqs = s.creqs := rfl
@[simp] theorem State.updHost_u (f : HostSt → HostSt) : (s.updHost f).u = { s.u with host := f s.u.host } := rfl
@[simp] theorem State.updHost_fresh (f : HostSt → HostSt) : (s.updHost f).fresh = s.fresh := rfl
@[simp] theorem State.updHost_pending (f : HostSt → HostSt) : (s.updHost f).pending = s.pending := rfl

/-! ### `State.updMem` -/

@[simp] theorem State.updMem_part (f : MemSt → MemSt) : (s.updMem f).part = s.part := rfl
@[simp] theorem State.updMem_regs (f : MemSt → MemSt) : (s.updMem f).regs = s.regs := rfl
@[simp] theorem State.updMem_mem (f : MemSt → MemSt) : (s.updMem f).mem = s.mem := rfl
@[simp] theorem State.updMem_ecc (f : MemSt → MemSt) : (s.updMem f).ecc = s.ecc := rfl
@[simp] theorem State.updMem_sp (f : MemSt → MemSt) : (s.updMem f).sp = s.sp := rfl
@[simp] theorem State.updMem_cores (f : MemSt → MemSt) : (s.updMem f).cores = s.cores := rfl
@[simp] theorem State.updMem_owners (f : MemSt → MemSt) : (s.updMem f).owners = s.owners := rfl
@[simp] theorem State.updMem_images (f : MemSt → MemSt) : (s.updMem f).images = s.images := rfl
@[simp] theorem State.updMem_course (f : MemSt → MemSt) : (s.updMem f).course = s.course := rfl
@[simp] theorem State.updMem_bench (f : MemSt → MemSt) : (s.updMem f).bench = s.bench := rfl
@[simp] theorem State.updMem_tiles (f : MemSt → MemSt) : (s.updMem f).tiles = s.tiles := rfl
@[simp] theorem State.updMem_creqs (f : MemSt → MemSt) : (s.updMem f).creqs = s.creqs := rfl
@[simp] theorem State.updMem_u (f : MemSt → MemSt) : (s.updMem f).u = { s.u with mem := f s.u.mem } := rfl
@[simp] theorem State.updMem_fresh (f : MemSt → MemSt) : (s.updMem f).fresh = s.fresh := rfl
@[simp] theorem State.updMem_pending (f : MemSt → MemSt) : (s.updMem f).pending = s.pending := rfl

/-! ### `State.updCtl` -/

@[simp] theorem State.updCtl_part (f : CtlSt → CtlSt) : (s.updCtl f).part = s.part := rfl
@[simp] theorem State.updCtl_regs (f : CtlSt → CtlSt) : (s.updCtl f).regs = s.regs := rfl
@[simp] theorem State.updCtl_mem (f : CtlSt → CtlSt) : (s.updCtl f).mem = s.mem := rfl
@[simp] theorem State.updCtl_ecc (f : CtlSt → CtlSt) : (s.updCtl f).ecc = s.ecc := rfl
@[simp] theorem State.updCtl_sp (f : CtlSt → CtlSt) : (s.updCtl f).sp = s.sp := rfl
@[simp] theorem State.updCtl_cores (f : CtlSt → CtlSt) : (s.updCtl f).cores = s.cores := rfl
@[simp] theorem State.updCtl_owners (f : CtlSt → CtlSt) : (s.updCtl f).owners = s.owners := rfl
@[simp] theorem State.updCtl_images (f : CtlSt → CtlSt) : (s.updCtl f).images = s.images := rfl
@[simp] theorem State.updCtl_course (f : CtlSt → CtlSt) : (s.updCtl f).course = s.course := rfl
@[simp] theorem State.updCtl_bench (f : CtlSt → CtlSt) : (s.updCtl f).bench = s.bench := rfl
@[simp] theorem State.updCtl_tiles (f : CtlSt → CtlSt) : (s.updCtl f).tiles = s.tiles := rfl
@[simp] theorem State.updCtl_creqs (f : CtlSt → CtlSt) : (s.updCtl f).creqs = s.creqs := rfl
@[simp] theorem State.updCtl_u (f : CtlSt → CtlSt) : (s.updCtl f).u = { s.u with ctl := f s.u.ctl } := rfl
@[simp] theorem State.updCtl_fresh (f : CtlSt → CtlSt) : (s.updCtl f).fresh = s.fresh := rfl
@[simp] theorem State.updCtl_pending (f : CtlSt → CtlSt) : (s.updCtl f).pending = s.pending := rfl

/-! ### `State.updPow` -/

@[simp] theorem State.updPow_part (f : PowSt → PowSt) : (s.updPow f).part = s.part := rfl
@[simp] theorem State.updPow_regs (f : PowSt → PowSt) : (s.updPow f).regs = s.regs := rfl
@[simp] theorem State.updPow_mem (f : PowSt → PowSt) : (s.updPow f).mem = s.mem := rfl
@[simp] theorem State.updPow_ecc (f : PowSt → PowSt) : (s.updPow f).ecc = s.ecc := rfl
@[simp] theorem State.updPow_sp (f : PowSt → PowSt) : (s.updPow f).sp = s.sp := rfl
@[simp] theorem State.updPow_cores (f : PowSt → PowSt) : (s.updPow f).cores = s.cores := rfl
@[simp] theorem State.updPow_owners (f : PowSt → PowSt) : (s.updPow f).owners = s.owners := rfl
@[simp] theorem State.updPow_images (f : PowSt → PowSt) : (s.updPow f).images = s.images := rfl
@[simp] theorem State.updPow_course (f : PowSt → PowSt) : (s.updPow f).course = s.course := rfl
@[simp] theorem State.updPow_bench (f : PowSt → PowSt) : (s.updPow f).bench = s.bench := rfl
@[simp] theorem State.updPow_tiles (f : PowSt → PowSt) : (s.updPow f).tiles = s.tiles := rfl
@[simp] theorem State.updPow_creqs (f : PowSt → PowSt) : (s.updPow f).creqs = s.creqs := rfl
@[simp] theorem State.updPow_u (f : PowSt → PowSt) : (s.updPow f).u = { s.u with pow := f s.u.pow } := rfl
@[simp] theorem State.updPow_fresh (f : PowSt → PowSt) : (s.updPow f).fresh = s.fresh := rfl
@[simp] theorem State.updPow_pending (f : PowSt → PowSt) : (s.updPow f).pending = s.pending := rfl

/-! ### `State.draw` -/

@[simp] theorem State.draw_part : s.draw.2.part = s.part := rfl
@[simp] theorem State.draw_regs : s.draw.2.regs = s.regs := rfl
@[simp] theorem State.draw_mem : s.draw.2.mem = s.mem := rfl
@[simp] theorem State.draw_ecc : s.draw.2.ecc = s.ecc := rfl
@[simp] theorem State.draw_sp : s.draw.2.sp = s.sp := rfl
@[simp] theorem State.draw_cores : s.draw.2.cores = s.cores := rfl
@[simp] theorem State.draw_owners : s.draw.2.owners = s.owners := rfl
@[simp] theorem State.draw_images : s.draw.2.images = s.images := rfl
@[simp] theorem State.draw_course : s.draw.2.course = s.course := rfl
@[simp] theorem State.draw_bench : s.draw.2.bench = s.bench := rfl
@[simp] theorem State.draw_tiles : s.draw.2.tiles = s.tiles := rfl
@[simp] theorem State.draw_creqs : s.draw.2.creqs = s.creqs := rfl
@[simp] theorem State.draw_u : s.draw.2.u = s.u := rfl
@[simp] theorem State.draw_fresh : s.draw.2.fresh = s.fresh + 1 := rfl
@[simp] theorem State.draw_pending : s.draw.2.pending = s.pending := rfl
@[simp] theorem State.draw_fst : s.draw.1 = s.fresh := rfl

/-! ### Register tables of a core -/

@[simp] theorem CoreRegs.setS_s (r : CoreRegs) (i : Nat) (x : W64) : (r.setS i x).s = SMap.set i x r.s := rfl
@[simp] theorem CoreRegs.setS_v (r : CoreRegs) (i : Nat) (x : W64) : (r.setS i x).v = r.v := rfl
@[simp] theorem CoreRegs.setS_p (r : CoreRegs) (i : Nat) (x : W64) : (r.setS i x).p = r.p := rfl
@[simp] theorem CoreRegs.setS_vs (r : CoreRegs) (i : Nat) (x : W64) : (r.setS i x).vs = r.vs := rfl
@[simp] theorem CoreRegs.setS_t (r : CoreRegs) (i : Nat) (x : W64) : (r.setS i x).t = r.t := rfl
@[simp] theorem CoreRegs.setS_g (r : CoreRegs) (i : Nat) (x : W64) : (r.setS i x).g = r.g := rfl
@[simp] theorem CoreRegs.setS_sem (r : CoreRegs) (i : Nat) (x : W64) : (r.setS i x).sem = r.sem := rfl
@[simp] theorem CoreRegs.setV_s (r : CoreRegs) (i : Nat) (x : BitVec 2048) : (r.setV i x).s = r.s := rfl
@[simp] theorem CoreRegs.setV_v (r : CoreRegs) (i : Nat) (x : BitVec 2048) : (r.setV i x).v = SMap.set i x r.v := rfl
@[simp] theorem CoreRegs.setV_p (r : CoreRegs) (i : Nat) (x : BitVec 2048) : (r.setV i x).p = r.p := rfl
@[simp] theorem CoreRegs.setV_vs (r : CoreRegs) (i : Nat) (x : BitVec 2048) : (r.setV i x).vs = r.vs := rfl
@[simp] theorem CoreRegs.setV_t (r : CoreRegs) (i : Nat) (x : BitVec 2048) : (r.setV i x).t = r.t := rfl
@[simp] theorem CoreRegs.setV_g (r : CoreRegs) (i : Nat) (x : BitVec 2048) : (r.setV i x).g = r.g := rfl
@[simp] theorem CoreRegs.setV_sem (r : CoreRegs) (i : Nat) (x : BitVec 2048) : (r.setV i x).sem = r.sem := rfl
@[simp] theorem CoreRegs.setP_s (r : CoreRegs) (i : Nat) (x : W64) : (r.setP i x).s = r.s := rfl
@[simp] theorem CoreRegs.setP_v (r : CoreRegs) (i : Nat) (x : W64) : (r.setP i x).v = r.v := rfl
@[simp] theorem CoreRegs.setP_p (r : CoreRegs) (i : Nat) (x : W64) : (r.setP i x).p = SMap.set i x r.p := rfl
@[simp] theorem CoreRegs.setP_vs (r : CoreRegs) (i : Nat) (x : W64) : (r.setP i x).vs = r.vs := rfl
@[simp] theorem CoreRegs.setP_t (r : CoreRegs) (i : Nat) (x : W64) : (r.setP i x).t = r.t := rfl
@[simp] theorem CoreRegs.setP_g (r : CoreRegs) (i : Nat) (x : W64) : (r.setP i x).g = r.g := rfl
@[simp] theorem CoreRegs.setP_sem (r : CoreRegs) (i : Nat) (x : W64) : (r.setP i x).sem = r.sem := rfl
@[simp] theorem CoreRegs.setT_s (r : CoreRegs) (i : Nat) (x : Line) : (r.setT i x).s = r.s := rfl
@[simp] theorem CoreRegs.setT_v (r : CoreRegs) (i : Nat) (x : Line) : (r.setT i x).v = r.v := rfl
@[simp] theorem CoreRegs.setT_p (r : CoreRegs) (i : Nat) (x : Line) : (r.setT i x).p = r.p := rfl
@[simp] theorem CoreRegs.setT_vs (r : CoreRegs) (i : Nat) (x : Line) : (r.setT i x).vs = r.vs := rfl
@[simp] theorem CoreRegs.setT_t (r : CoreRegs) (i : Nat) (x : Line) : (r.setT i x).t = SMap.set i x r.t := rfl
@[simp] theorem CoreRegs.setT_g (r : CoreRegs) (i : Nat) (x : Line) : (r.setT i x).g = r.g := rfl
@[simp] theorem CoreRegs.setT_sem (r : CoreRegs) (i : Nat) (x : Line) : (r.setT i x).sem = r.sem := rfl
@[simp] theorem CoreRegs.setG_s (r : CoreRegs) (i : Nat) (x : Line) : (r.setG i x).s = r.s := rfl
@[simp] theorem CoreRegs.setG_v (r : CoreRegs) (i : Nat) (x : Line) : (r.setG i x).v = r.v := rfl
@[simp] theorem CoreRegs.setG_p (r : CoreRegs) (i : Nat) (x : Line) : (r.setG i x).p = r.p := rfl
@[simp] theorem CoreRegs.setG_vs (r : CoreRegs) (i : Nat) (x : Line) : (r.setG i x).vs = r.vs := rfl
@[simp] theorem CoreRegs.setG_t (r : CoreRegs) (i : Nat) (x : Line) : (r.setG i x).t = r.t := rfl
@[simp] theorem CoreRegs.setG_g (r : CoreRegs) (i : Nat) (x : Line) : (r.setG i x).g = SMap.set i x r.g := rfl
@[simp] theorem CoreRegs.setG_sem (r : CoreRegs) (i : Nat) (x : Line) : (r.setG i x).sem = r.sem := rfl
@[simp] theorem CoreRegs.setSem_s (r : CoreRegs) (i : Nat) (x : Nat) : (r.setSem i x).s = r.s := rfl
@[simp] theorem CoreRegs.setSem_v (r : CoreRegs) (i : Nat) (x : Nat) : (r.setSem i x).v = r.v := rfl
@[simp] theorem CoreRegs.setSem_p (r : CoreRegs) (i : Nat) (x : Nat) : (r.setSem i x).p = r.p := rfl
@[simp] theorem CoreRegs.setSem_vs (r : CoreRegs) (i : Nat) (x : Nat) : (r.setSem i x).vs = r.vs := rfl
@[simp] theorem CoreRegs.setSem_t (r : CoreRegs) (i : Nat) (x : Nat) : (r.setSem i x).t = r.t := rfl
@[simp] theorem CoreRegs.setSem_g (r : CoreRegs) (i : Nat) (x : Nat) : (r.setSem i x).g = r.g := rfl
@[simp] theorem CoreRegs.setSem_sem (r : CoreRegs) (i : Nat) (x : Nat) : (r.setSem i x).sem = SMap.set i x r.sem := rfl

/-! ### Reads of what was written -/

@[simp] theorem State.core_setCore_same (n : Nat) (c : Core) : (s.setCore n c).core n = c := by simp [State.core]
theorem State.core_setCore_other {n k : Nat} (h : n ≠ k) (c : Core) : (s.setCore n c).core k = s.core k := by
  simp [State.core, SMap.get_set_other _ h]
@[simp] theorem State.setCore_setCore (n : Nat) (c d : Core) : (s.setCore n c).setCore n d = s.setCore n d := by
  simp [State.setCore]
theorem State.updCore_eq (n : Nat) (f : Core → Core) : s.updCore n f = s.setCore n (f (s.core n)) := rfl
theorem State.updRegs_eq (n : Nat) (f : CoreRegs → CoreRegs) : s.updRegs n f = s.setCore n { s.core n with r := f (s.core n).r } := rfl
theorem State.updMat_eq (n : Nat) (f : CoreMat → CoreMat) : s.updMat n f = s.setCore n { s.core n with m := f (s.core n).m } := rfl
theorem State.updSeq_eq (n : Nat) (f : CoreSeq → CoreSeq) : s.updSeq n f = s.setCore n { s.core n with seq := f (s.core n).seq } := rfl
theorem State.setDmaq_eq (n q : Nat) (d : DmaQ) : s.setDmaq n q d = s.setCore n { s.core n with dma := SMap.set q d (s.core n).dma } := rfl
@[simp] theorem CoreRegs.sreg_setS_same (r : CoreRegs) (i : Nat) (v : W64) : (r.setS i v).sreg i = v := by simp [CoreRegs.sreg, CoreRegs.setS]
@[simp] theorem CoreRegs.semv_setSem_same (r : CoreRegs) (i v : Nat) : (r.setSem i v).semv i = v := by simp [CoreRegs.semv, CoreRegs.setSem]
@[simp] theorem State.reg_setReg_same (d : W64) (o : Nat) (v : W64) : (s.setReg o v).reg d o = v := by simp [State.reg, State.setReg]
theorem State.reg_setReg_other (d : W64) {o i : Nat} (h : o ≠ i) (v : W64) : (s.setReg o v).reg d i = s.reg d i := by
  simp [State.reg, State.setReg, SMap.get_set_other _ h]
@[simp] theorem State.owner_setOwner_same (p : Nat) (o : Owner) : (s.setOwner p o).owner p = o := by simp [State.owner, State.setOwner]
theorem State.owner_setOwner_other {p k : Nat} (h : p ≠ k) (o : Owner) : (s.setOwner p o).owner k = s.owner k := by
  simp [State.owner, State.setOwner, SMap.get_set_other _ h]
@[simp] theorem State.eng_setEng_same (e : Nat) (x : Engine) : (s.setEng e x).eng e = x := by simp [State.eng, State.setEng]
theorem State.eng_setEng_other {e k : Nat} (h : e ≠ k) (x : Engine) : (s.setEng e x).eng k = s.eng k := by
  simp [State.eng, State.setEng, SMap.get_set_other _ h]

end Sys2Proof.Machine
end

