-- ==== Sys2Proof/Laws/Issue.lean ====
section
/-!
SUPPORT. What the sequencer does with a bundle of one slot: the law that every statement about a core instruction goes through.
-/

namespace Sys2Proof.Machine

open Sys2Proof

theorem canTurn_quiet {t : State} (h : Quiet t) (c : Nat) : canTurn t c = false := by
  simp [canTurn, h c]

/-- With no bundle waiting, no bundle takes its turn. -/
theorem settle_quiet {t : State} (h : Quiet t) : settle t = t := by
  unfold settle
  cases turnsLeft t with
  | zero => rfl
  | succ k =>
    have : (t.cores.map (fun e => e.1)).find? (fun c => canTurn t c) = none := by
      simp [canTurn_quiet h]
    simp [settleN, this]

theorem Quiet.setCore {s : State} (h : Quiet s) (n : Nat) {k : Core} (hk : k.seq.q = []) : Quiet (s.setCore n k) := by
  intro m
  by_cases hm : n = m
  · subst hm; simpa using hk
  · rw [State.core_setCore_other s hm]; exact h m

theorem Ready.canIssue {s : State} {n : Nat} (h : Ready s n) : canIssue s n = true := by
  simp [Machine.canIssue, h.frozen, h.ending, h.stopped, h.run, h.awake]

theorem slotIllegal_nop (k : Nat) : slotIllegal ⟨k, 0, 0#57⟩ = false := by
  have : slotBad k 0 0#57 = false := by
    unfold slotBad
    split <;> simp
  simp [slotIllegal, slotUsed, this]

theorem slotOf_self (i : SlotI) : slotOf [i] i.k = i := by simp [slotOf]

theorem slotOf_other {i : SlotI} {k : Nat} (h : i.k ≠ k) : slotOf [i] k = ⟨k, 0, 0#57⟩ := by simp [slotOf, h]

theorem mWaits_nop (s : State) (n : Nat) : mWaits s n ⟨0, 0, 0#57⟩ = false := by
  simp [mWaits, mSlots]

theorem xWaits_nop (s : State) (n : Nat) : xWaits s n ⟨2, 0, 0#57⟩ = false := by simp [xWaits]

theorem slotCheck_nop (s : State) (n : Nat) (b : List SlotI) (k : Nat) : slotCheck s n b ⟨k, 0, 0#57⟩ = none := by
  simp [slotCheck, slotIllegal_nop]

/-- A bundle of one slot breaks what its slot breaks. -/
theorem bundleRejs_solo {s : State} {n : Nat} {i : SlotI} (hk : i.k < 4) (h : slotCheck s n [i] i = none) : bundleRejs s n [i] = [] := by
  obtain ⟨k, op, w⟩ := i
  have hs : ∀ j, slotCheck s n [⟨k, op, w⟩] (slotOf [⟨k, op, w⟩] j) = none := by
    intro j
    by_cases hj : k = j
    · subst hj; rw [show slotOf [(⟨k, op, w⟩ : SlotI)] k = ⟨k, op, w⟩ from slotOf_self _]; exact h
    · rw [slotOf_other (i := ⟨k, op, w⟩) hj]; exact slotCheck_nop s n _ j
  simp [bundleRejs, slots4, List.range_succ, hs]

/-- THE LAW OF A BUNDLE OF ONE SLOT: given to a core that is ready, a slot that has not to wait and breaks no condition issues. -/
theorem give_solo {s : State} {n : Nat} {i : SlotI} (h : Ready s n) (hk : i.k < 4) (hn : headNext s n [i] = .go)
    (hc : slotCheck s n [i] i = none) : give n false i s = settle (issueBundle n [i] s) := by
  have hq := h.quiet n
  simp [give, h.canIssue, h.openB, hq, turn, hn, bundleRejs_solo hk hc, pickRej]

/-- A slot other than S makes its bundle wait only by its own unit. -/
theorem headNext_go {s : State} {n : Nat} {i : SlotI} (h3 : i.k ≠ 3) (hb : bundleStalls s n [i] = false) : headNext s n [i] = .go := by
  unfold headNext
  simp [slotOf_other h3, slotIllegal_nop, sWait, hb]

theorem mEff_nop (s0 s : State) (n : Nat) : mEff s0 n ⟨0, 0, 0#57⟩ s = s := by simp [mEff]
theorem vEff_nop (s0 s : State) (n : Nat) : vEff s0 n ⟨1, 0, 0#57⟩ s = s := by simp [vEff]
theorem xEff_nop (s0 s : State) (n : Nat) : xEff s0 n ⟨2, 0, 0#57⟩ s = s := by simp [xEff]
theorem sEff_nop (s0 s : State) (n : Nat) : sEff s0 n ⟨3, 0, 0#57⟩ s = s := by simp [sEff, sResult]
theorem nextAddr_nop (s : State) (n : Nat) : nextAddr s n ⟨3, 0, 0#57⟩ = (s.core n).seq.baddr + 32 := by simp [nextAddr]

/-- What a slot reads has no stored error: there is none, or it reads nothing. -/
def ReadsClean (s : State) (n : Nat) (i : SlotI) : Prop := s.NoErr ∨ slotReads s n i = []

theorem slotReads_nop (s : State) (n k : Nat) : slotReads s n ⟨k, 0, 0#57⟩ = [] := by
  unfold slotReads
  dsimp only
  split <;> simp

/-- A slot has its effect f on t where what it reads is clean, and f finds no error in what it writes. -/
theorem slotOr_clean {s : State} {n : Nat} {i : SlotI} (h : ReadsClean s n i) {f : State → State} {t : State} (hs : s.NoErr ∨ (f t).sp = t.sp) :
    slotOr s n i f t = f t := by
  unfold slotOr
  by_cases hn : s.NoErr
  · simp [hn.1, hn.2]
  · rw [h.resolve_left hn, List.findSome?_nil]
    simp [hs.resolve_left hn]

theorem slotOr_nop (s : State) (n k : Nat) {f : State → State} {t : State} (hf : f t = t) : slotOr s n ⟨k, 0, 0#57⟩ f t = t := by
  rw [slotOr_clean (.inr (slotReads_nop s n k)) (.inr (by rw [hf])), hf]

/-- A slot given alone brings the corrections of its own reads. -/
theorem bundleNote_solo {s : State} {n : Nat} {i : SlotI} (h : ReadsClean s n i) : bundleNote s n [i] = s := by
  unfold bundleNote
  rcases h with h | h
  · simp [h.1, h.2]
  · have hs : ∀ j, slotReads s n (slotOf [i] j) = [] := by
      intro j
      by_cases hj : i.k = j
      · rw [← hj, slotOf_self, h]
      · rw [slotOf_other hj]; exact slotReads_nop s n j
    have hl : (slots4 [i]).flatMap (slotReads s n) = [] := by simp [slots4, List.range_succ, hs]
    simp [hl]

/-- The effects of a bundle of one slot are that slot's. -/
theorem bundleEff_m {s : State} {n op : Nat} {w : BitVec 57} (h : ReadsClean s n ⟨0, op, w⟩) (hs : s.NoErr ∨ (mEff s n ⟨0, op, w⟩ s).sp = s.sp) :
    bundleEff s n [⟨0, op, w⟩] = mEff s n ⟨0, op, w⟩ s := by
  simp [bundleEff, slotOf, slotOr_clean h hs, slotOr_nop, vEff_nop, xEff_nop, sEff_nop]
theorem bundleEff_v {s : State} {n op : Nat} {w : BitVec 57} (h : ReadsClean s n ⟨1, op, w⟩) (hs : s.NoErr ∨ (vEff s n ⟨1, op, w⟩ s).sp = s.sp) :
    bundleEff s n [⟨1, op, w⟩] = vEff s n ⟨1, op, w⟩ s := by
  simp [bundleEff, slotOf, slotOr_clean h hs, slotOr_nop, mEff_nop, xEff_nop, sEff_nop]
theorem bundleEff_x {s : State} {n op : Nat} {w : BitVec 57} (h : ReadsClean s n ⟨2, op, w⟩) (hs : s.NoErr ∨ (xEff s n ⟨2, op, w⟩ s).sp = s.sp) :
    bundleEff s n [⟨2, op, w⟩] = xEff s n ⟨2, op, w⟩ s := by
  simp [bundleEff, slotOf, slotOr_clean h hs, slotOr_nop, mEff_nop, vEff_nop, sEff_nop]
theorem bundleEff_s {s : State} {n op : Nat} {w : BitVec 57} (h : ReadsClean s n ⟨3, op, w⟩) (hs : s.NoErr ∨ (sEff s n ⟨3, op, w⟩ s).sp = s.sp) :
    bundleEff s n [⟨3, op, w⟩] = sEff s n ⟨3, op, w⟩ s := by
  simp [bundleEff, slotOf, slotOr_clean h hs, slotOr_nop, mEff_nop, vEff_nop, xEff_nop]

/-- Where bundles may lie depends on the part alone (R98). -/
theorem fetchOk_part {s t : State} (h : t.part = s.part) (n : Nat) (a : Addr) : fetchOk t n a = fetchOk s n a := by
  unfold fetchOk State.edfBase State.gddrTop State.is96; rw [h]

/-- A bundle without an S slot, on a core that no effect halted, goes on to the next bundle. -/
theorem issueBundle_noS {s : State} {n : Nat} {i : SlotI} (h3 : i.k < 3) (hu : (s.core n).seq.unmet = false) (hc : ReadsClean s n i)
    {t : State} (ht : bundleEff s n [i] = t)
    (hr : (t.core n).seq.run = .running) (hp : t.part = s.part) (hf : fetchOk s n ((s.core n).seq.baddr + 32) = true) :
    issueBundle n [i] s = t.setCore n
      { t.core n with seq := { (t.core n).seq with run := .running, stalled := false, unmet := false, baddr := (s.core n).seq.baddr + 32 } } := by
  have hf' : fetchOk s n ((s.core n).seq.baddr + 32#48) = true := hf
  have hp' : ∀ c, (t.setCore n c).part = s.part := fun c => by simpa using hp
  simp only [issueBundle, slotOf_other (show i.k ≠ 3 by omega), nextAddr_nop, bundleNote_solo hc, ht, hu]
  simp [gotoAddr, State.updSeq_eq, hr, fetchOk_part (hp' _), hf']

/-- A bundle alone in its S slot, on a core that no effect halted, goes on to its next address; a `WEND` and an `END` do more. -/
theorem issueBundle_S {s : State} {n op : Nat} {w : BitVec 57} {t : State} (hc : ReadsClean s n ⟨3, op, w⟩) (ht : sEff s n ⟨3, op, w⟩ s = t)
    (hsp : s.NoErr ∨ t.sp = s.sp) (hu : (s.core n).seq.unmet = false) (h1 : op ≠ 0x29) (h2 : op ≠ 0x1A)
    (hr : (t.core n).seq.run = .running) (hp : t.part = s.part) (hf : fetchOk s n (nextAddr s n ⟨3, op, w⟩) = true) :
    issueBundle n [⟨3, op, w⟩] s = t.setCore n
      { t.core n with seq := { (t.core n).seq with run := .running, stalled := false, unmet := false, baddr := nextAddr s n ⟨3, op, w⟩ } } := by
  have hp' : ∀ c, (t.setCore n c).part = s.part := fun c => by simpa using hp
  have hs : slotOf [(⟨3, op, w⟩ : SlotI)] 3 = ⟨3, op, w⟩ := slotOf_self ⟨3, op, w⟩
  simp only [issueBundle, bundleNote_solo hc, bundleEff_s hc (by rwa [ht]), ht, hs, hu]
  simp [gotoAddr, State.updSeq_eq, hr, h1, h2, fetchOk_part (hp' _), hf]

/-- What a slot given alone is checked for beside R99 and R157 is its own unit's. -/
theorem slotCheck_legal {s : State} {n : Nat} {i : SlotI} (h : Legal s n i) (hw : i.k ≠ 3 ∨ i.op ≠ 0x2B)
    (hc : unitCheck s n (s.core n).seq.wmode i = none) : slotCheck s n [i] i = none := by
  have hwm : wmOf s n [i] = (s.core n).seq.wmode := by
    unfold wmOf
    rcases hw with hk | ho
    · simp [slotOf_other hk]
    · by_cases hk : i.k = 3
      · have : slotOf [i] 3 = i := by rw [← hk]; exact slotOf_self i
        simp [this, ho]
      · simp [slotOf_other hk]
  have hcl : (decide (i.k = 1) && writeClash s n [i]) = false := by
    by_cases hk : i.k = 1
    · have h3 : slotOf [i] 3 = ⟨3, 0, 0#57⟩ := slotOf_other (by omega)
      simp [writeClash, h3, sResult]
    · simp [hk]
  unfold slotCheck
  rw [h.bits, hcl, hwm]
  dsimp only
  rw [hc, h.bank, h.frag]
  simp

/-- A core that is ready gives a legal slot its effect: slots of M, V and X. -/
theorem give_legal {s : State} {n : Nat} {i : SlotI} (h : Ready s n) (hl : Legal s n i) (hf : NextOk s n) (h3 : i.k < 3)
    (hb : bundleStalls s n [i] = false) (hm : ReadsClean s n i)
    (hc : unitCheck s n (s.core n).seq.wmode i = none) {t : State} (ht : bundleEff s n [i] = t)
    (hr : (t.core n).seq.run = .running) (hp : t.part = s.part) :
    give n false i s = settle (t.setCore n
      { t.core n with seq := { (t.core n).seq with run := .running, stalled := false, unmet := false, baddr := (s.core n).seq.baddr + 32 } }) := by
  rw [give_solo h (by omega) (headNext_go (by omega) hb) (slotCheck_legal hl (.inl (by omega)) hc),
    issueBundle_noS h3 h.unmet hm ht hr hp hf]

/-- A core that is ready gives a legal S slot that need not wait its effect. -/
theorem give_S {s : State} {n op : Nat} {w : BitVec 57} (h : Ready s n) (hl : Legal s n ⟨3, op, w⟩) (hop : op ≠ 0x2B)
    (hw : sWait s n false ⟨3, op, w⟩ = .ready) (hc : unitCheck s n (s.core n).seq.wmode ⟨3, op, w⟩ = none) :
    give n false ⟨3, op, w⟩ s = settle (issueBundle n [⟨3, op, w⟩] s) := by
  refine give_solo h (by simp) ?_ (slotCheck_legal hl (.inr hop) hc)
  have hs : slotOf [(⟨3, op, w⟩ : SlotI)] 3 = ⟨3, op, w⟩ := slotOf_self ⟨3, op, w⟩
  have h0 : slotOf [(⟨3, op, w⟩ : SlotI)] 0 = ⟨0, 0, 0#57⟩ := slotOf_other (by simp)
  have h2 : slotOf [(⟨3, op, w⟩ : SlotI)] 2 = ⟨2, 0, 0#57⟩ := slotOf_other (by simp)
  simp [headNext, hs, hl.bits, h.stalled, hw, bundleStalls, h0, h2, mWaits_nop, xWaits_nop]

/-! ### Bundles of one slot, by what the slot changes -/

theorem Quiet.of_core {s t : State} (h : Quiet s) (hc : ∀ n, (t.core n).seq.q = (s.core n).seq.q) : Quiet t :=
  fun n => by rw [hc n]; exact h n

/-- An S slot with effect t that need not wait, `WEND`, `END` and `WMODE` apart. -/
theorem issue_S {s : State} {n op : Nat} {w : BitVec 57} {t : State} (h : Ready s n) (hl : Legal s n ⟨3, op, w⟩)
    (ho : op ≠ 0x29 ∧ op ≠ 0x1A ∧ op ≠ 0x2B) (hw : sWait s n false ⟨3, op, w⟩ = .ready) (hc : unitCheck s n (s.core n).seq.wmode ⟨3, op, w⟩ = none)
    (he : sEff s n ⟨3, op, w⟩ s = t) (hq : Quiet t) (hr : (t.core n).seq.run = .running) (hs : (t.core n).seq.stalled = false)
    (hu : (t.core n).seq.unmet = false) (hm : ReadsClean s n ⟨3, op, w⟩) (hsp : s.NoErr ∨ t.sp = s.sp)
    (hp : t.part = s.part) (hf : fetchOk s n (nextAddr s n ⟨3, op, w⟩) = true) :
    issue n false 3 op w s = .next (goesTo t n (t.core n) (nextAddr s n ⟨3, op, w⟩)) := by
  unfold issue onCore
  rw [if_pos h.unit, give_S h hl ho.2.2 hw hc, issueBundle_S hm he hsp h.unmet ho.1 ho.2.1 hr hp hf, settle_quiet]
  · simp [goesTo, hr, hs, hu]
  · exact Quiet.setCore hq n (hq n)

/-- An S slot that writes a scalar register, computed from the state before it. -/
theorem issue_setS {s : State} {n op : Nat} {w : BitVec 57} {d : Nat} {v : W64} (h : Ready s n) (hl : Legal s n ⟨3, op, w⟩) (hf : NextOk s n)
    (ho : op = 0x30 ∨ op ≤ 0x0C ∨ op = 0x10) (hr : sResult s n op w = some (d, v)) (hm : ReadsClean s n ⟨3, op, w⟩) (hc : unitCheck s n (s.core n).seq.wmode ⟨3, op, w⟩ = none) :
    issue n false 3 op w s = .next (nextBundle s n ((s.core n).r.setS d v)) := by
  have e : sEff s n ⟨3, op, w⟩ s = s.updRegs n (fun r => r.setS d v) := by simp [sEff, hr]
  have hn : nextAddr s n ⟨3, op, w⟩ = (s.core n).seq.baddr + 32 := by
    unfold nextAddr; simp only; rw [if_neg (by omega), if_neg (by simp; omega), if_neg (by omega)]
  have hw : sWait s n false ⟨3, op, w⟩ = .ready := by
    unfold sWait; simp only; split_ifs <;> first | omega | rfl
  have hb := issueBundle_S hm e (.inr (by simp [State.updRegs_eq])) h.unmet (by omega) (by omega) (by simp [State.updRegs_eq, h.run]) (by simp) (by rw [hn]; exact hf)
  unfold issue onCore
  rw [if_pos h.unit, give_S h hl (by omega) hw hc, hb, hn, settle_quiet]
  · simp [State.updRegs_eq, nextBundle, goesTo, h.run, h.stalled, h.unmet]
  · refine Quiet.setCore ?_ n ?_
    · exact Quiet.setCore h.quiet n (h.quiet n)
    · simp [State.updRegs_eq, h.quiet n]

/-- An M, V or X slot that has not to wait and changes the registers of its core alone. -/
theorem issue_regs {s : State} {n k op : Nat} {w : BitVec 57} {r : CoreRegs} (h : Ready s n) (hl : Legal s n ⟨k, op, w⟩) (hf : NextOk s n) (hk : k < 3)
    (hb : bundleStalls s n [⟨k, op, w⟩] = false) (hm : ReadsClean s n ⟨k, op, w⟩) (hc : unitCheck s n (s.core n).seq.wmode ⟨k, op, w⟩ = none)
    (he : bundleEff s n [⟨k, op, w⟩] = s.updRegs n (fun _ => r)) :
    issue n false k op w s = .next (nextBundle s n r) := by
  have hr : ((s.updRegs n (fun _ => r)).core n).seq.run = .running := by simp [State.updRegs_eq, h.run]
  unfold issue onCore
  rw [if_pos h.unit, give_legal h hl hf hk hb hm hc he hr (by simp), settle_quiet]
  · simp [State.updRegs_eq, nextBundle, goesTo, h.run, h.stalled, h.unmet]
  · refine Quiet.setCore ?_ n ?_
    · exact Quiet.setCore h.quiet n (h.quiet n)
    · simp [State.updRegs_eq, h.quiet n]

/-- A V slot waits for nothing. -/
theorem bundleStalls_v (s : State) (n op : Nat) (w : BitVec 57) : bundleStalls s n [⟨1, op, w⟩] = false := by
  simp [bundleStalls, slotOf, mWaits_nop, xWaits_nop]

/-- A V slot that touches no memory (R125). -/
theorem issue_v {s : State} {n op : Nat} {w : BitVec 57} (h : Ready s n) (hl : Legal s n ⟨1, op, w⟩) (hf : NextOk s n) (h0 : op ≠ 0)
    (hm : op ≠ 0x30 ∧ op ≠ 0x31 ∧ op ≠ 0x34 ∧ op ≠ 0x35) :
    issue n false 1 op w s = .next (nextBundle s n (vRegEff op w (s.core n).r (s.core n).r)) := by
  have hc : ReadsClean s n ⟨1, op, w⟩ := .inr (by simp [slotReads, hm])
  refine issue_regs h hl hf (by omega) (bundleStalls_v s n op w) hc ?_ ?_
  · simp [unitCheck, vCheck, hm]
  · rw [bundleEff_v hc (.inr (by simp [vEff, h0, hm, State.updRegs_eq]))]; simp [vEff, h0, hm, State.updRegs_eq]

end Sys2Proof.Machine
end

