-- ==== Sys2Proof/Laws/Keeps.lean ====
section
/-!
SUPPORT. What every shared operation keeps (`Keeps`): composition, the small updates, memory writes, and from them events, stops of owners
and protection violations. A command's own law follows by composing these.
-/

namespace Sys2Proof.Machine

open Sys2Proof

/-! ### Composition -/

theorem Keeps.refl (s : State) : Keeps s s := ⟨rfl, rfl, id, id, id, id, id⟩

theorem Keeps.trans {s t u : State} (h : Keeps s t) (k : Keeps t u) : Keeps s u :=
  ⟨k.part.trans h.part, k.pending.trans h.pending, k.canonical ∘ h.canonical, k.locked ∘ h.locked, k.tripped ∘ h.tripped, k.loss ∘ h.loss, k.debug ∘ h.debug⟩

theorem Keeps.foldl {α : Type} {f : State → α → State} (h : ∀ s a, Keeps s (f s a)) (l : List α) (s : State) : Keeps s (l.foldl f s) := by
  induction l generalizing s with
  | nil => exact .refl s
  | cons a r ih => exact (h s a).trans (ih (f s a))

theorem Keeps.ite {s t u : State} {b : Prop} [Decidable b] (h : Keeps s t) (k : Keeps s u) : Keeps s (if b then t else u) := by
  split <;> assumption

/-- An update that leaves memory, registers, power and the control complex alone keeps everything. -/
theorem Keeps.of {s t : State} (hp : t.part = s.part) (hq : t.pending = s.pending) (hm : t.mem = s.mem) (hk : t.u.mem.keep = s.u.mem.keep)
    (hr : t.regs = s.regs) (hw : t.u.pow = s.u.pow) (hc : t.u.ctl = s.u.ctl) : Keeps s t := by
  refine ⟨hp, hq, fun h => ⟨hm ▸ h.mem, hk ▸ h.keep⟩, ?_, fun h => hw ▸ h, fun h => hw ▸ h, fun h => hc ▸ h⟩
  intro h
  unfold State.locked State.reg at *
  rwa [hr]

/-! ### Small updates -/

theorem Keeps.setCore (s : State) (n : Nat) (c : Core) : Keeps s (s.setCore n c) := .of rfl rfl rfl rfl rfl rfl rfl
theorem Keeps.updCore (s : State) (n : Nat) (f : Core → Core) : Keeps s (s.updCore n f) := .setCore s n _
theorem Keeps.updRegs (s : State) (n : Nat) (f : CoreRegs → CoreRegs) : Keeps s (s.updRegs n f) := .setCore s n _
theorem Keeps.updMat (s : State) (n : Nat) (f : CoreMat → CoreMat) : Keeps s (s.updMat n f) := .setCore s n _
theorem Keeps.updSeq (s : State) (n : Nat) (f : CoreSeq → CoreSeq) : Keeps s (s.updSeq n f) := .setCore s n _
theorem Keeps.setDmaq (s : State) (n q : Nat) (d : DmaQ) : Keeps s (s.setDmaq n q d) := .setCore s n _
theorem Keeps.setOwner (s : State) (p : Nat) (o : Owner) : Keeps s (s.setOwner p o) := .of rfl rfl rfl rfl rfl rfl rfl
theorem Keeps.setEng (s : State) (e : Nat) (x : Engine) : Keeps s (s.setEng e x) := .of rfl rfl rfl rfl rfl rfl rfl
theorem Keeps.updEng (s : State) (e : Nat) (f : Engine → Engine) : Keeps s (s.updEng e f) := .setEng s e _
theorem Keeps.updFlt (s : State) (f : FltSt → FltSt) : Keeps s (s.updFlt f) := .of rfl rfl rfl rfl rfl rfl rfl
theorem Keeps.updFltOwner (s : State) (p : Nat) (f : FltOwner → FltOwner) : Keeps s (s.updFltOwner p f) := .updFlt s _
theorem Keeps.updCrs (s : State) (f : CrsSt → CrsSt) : Keeps s (s.updCrs f) := .of rfl rfl rfl rfl rfl rfl rfl
theorem Keeps.updNet (s : State) (f : NetSt → NetSt) : Keeps s (s.updNet f) := .of rfl rfl rfl rfl rfl rfl rfl
theorem Keeps.updCol (s : State) (f : ColSt → ColSt) : Keeps s (s.updCol f) := .of rfl rfl rfl rfl rfl rfl rfl
theorem Keeps.updQue (s : State) (f : QueSt → QueSt) : Keeps s (s.updQue f) := .of rfl rfl rfl rfl rfl rfl rfl
theorem Keeps.updHost (s : State) (f : HostSt → HostSt) : Keeps s (s.updHost f) := .of rfl rfl rfl rfl rfl rfl rfl
theorem Keeps.updSw (s : State) (f : SwatchSt → SwatchSt) : Keeps s (s.updSw f) := .of rfl rfl rfl rfl rfl rfl rfl
theorem Keeps.out (s : State) (o : Out) : Keeps s (s.out o) := .of rfl rfl rfl rfl rfl rfl rfl
theorem Keeps.pend (s : State) (k : Nat) : Keeps s (s.pend k) := ⟨rfl, rfl, fun h => ⟨h.mem, h.keep⟩, id, id, id, id⟩
theorem Keeps.pendIf (s : State) (k : Nat) (b : Bool) : Keeps s (s.pendIf k b) := .ite (.pend s k) (.refl s)
theorem Keeps.updCrsSt (s : State) (f : CrsSt → CrsSt) : Keeps s (s.updCrsSt f) := (Keeps.updCrs s f).trans (.pendIf _ 7 _)
theorem Keeps.draw (s : State) : Keeps s s.draw.2 := .of rfl rfl rfl rfl rfl rfl rfl
theorem Keeps.updFn (s : State) (f : Nat) (g : HFn → HFn) : Keeps s (s.updFn f g) := .updHost s _
theorem Keeps.updQueue (s : State) (q : Nat) (f : Queue → Queue) : Keeps s (s.updQueue q f) := .updQue s _

/-- A write of the memory side's state that leaves alone what EDF keeps. -/
theorem Keeps.updMem (s : State) (f : MemSt → MemSt) (h : (f s.u.mem).keep = s.u.mem.keep) : Keeps s (s.updMem f) := .of rfl rfl rfl h rfl rfl rfl

/-- A register other than CTLX_LOCK. -/
theorem Keeps.setReg (s : State) {off : Nat} (h : off ≠ 0x3000008) (v : W64) : Keeps s (s.setReg off v) := by
  refine ⟨rfl, rfl, fun c => ⟨c.mem, c.keep⟩, ?_, id, id, id⟩
  simp only [State.locked, State.reg, State.setReg]
  rw [SMap.get_set_other _ h]
  exact id

theorem Keeps.msix (s : State) (f v : Nat) : Keeps s (s.msix f v) := by
  unfold State.msix
  exact .ite (.refl s) (.ite (.ite (.out s _) (.refl s)) (.updFn s _ _))

/-! ### Memory -/

theorem Keeps.putAll (s : State) (a : Nat) (l : List Byte) : Keeps s (s.putAll a l) := by
  induction l generalizing s a with
  | nil => exact .refl s
  | cons b r ih =>
    refine Keeps.trans ?_ (ih (s.putByte a b) (a + 1))
    exact ⟨rfl, rfl, fun h => ⟨State.putByte_wf s a b h.mem, h.keep⟩, id, id, id, id⟩

theorem Keeps.putByte (s : State) (a : Nat) (b : Byte) : Keeps s (s.putByte a b) :=
  ⟨rfl, rfl, fun h => ⟨State.putByte_wf s a b h.mem, h.keep⟩, id, id, id, id⟩

theorem Keeps.settleSector (a n : Nat) (s : State) (sec : Nat) : Keeps s (State.settleSector a n s sec) := by
  have h := Keeps.putAll s (256 * sec) (s.sectorRead sec).data
  unfold State.settleSector
  dsimp only
  split
  · exact .of rfl rfl rfl rfl rfl rfl rfl
  · split
    · exact .refl s
    · split
      · exact h.trans (.of rfl rfl rfl rfl rfl rfl rfl)
      · split
        · exact h.trans (.of rfl rfl rfl rfl rfl rfl rfl)
        · exact .of rfl rfl rfl rfl rfl rfl rfl

theorem Keeps.settleWord (a n : Nat) (s : State) (w : Nat) : Keeps s (State.settleWord a n s w) := by
  unfold State.settleWord
  refine .ite (.of rfl rfl rfl rfl rfl rfl rfl) ?_
  dsimp only
  exact .ite ((Keeps.putAll s _ _).trans (.of rfl rfl rfl rfl rfl rfl rfl)) (.ite (.refl s) (.of rfl rfl rfl rfl rfl rfl rfl))

theorem Keeps.putKept (s : State) (a : Nat) (l : List Byte) : Keeps s (s.putKept a l) := by
  induction l generalizing s a with
  | nil => exact .refl s
  | cons b r ih => exact Keeps.trans (.ite (.refl s) (.putByte s a b)) (ih _ _)

theorem Keeps.putRaw (s : State) (a : Nat) (l : List Byte) : Keeps s (s.putRaw a l) := by
  unfold State.putRaw
  exact .ite (.putAll s a l) (((Keeps.foldl (Keeps.settleSector a _) _ s).trans (Keeps.foldl (Keeps.settleWord a _) _ _)).trans (.putKept _ a l))

theorem Keeps.inject (s : State) (a n : Nat) : Keeps s (s.inject a n) := by
  unfold State.inject
  refine .ite ?_ (.refl s)
  refine ⟨rfl, rfl, fun h => ⟨h.mem, h.keep⟩, ?_, id, id, id⟩
  simp only [State.locked, State.reg]
  rw [SMap.get_set_other _ (by decide)]
  exact id

theorem Keeps.putBytes (s : State) (a : Nat) (l : List Byte) : Keeps s (s.putBytes a l) := (Keeps.putRaw s a l).trans (.inject _ a _)

theorem Keeps.wr (s : State) (a n v : Nat) : Keeps s (s.wr a n v) := .putBytes s a _

theorem Keeps.zero (s : State) (a n : Nat) : Keeps s (s.zero a n) := by
  unfold State.zero
  exact .ite ⟨rfl, rfl, fun h => ⟨SMap.wf_clear 0 a n h.mem, h.keep⟩, id, id, id, id⟩ (.putRaw s a _)

theorem Keeps.copyMem (s : State) (a b n : Nat) : Keeps s (s.copyMem a b n) := by
  have hm := State.copyMem_wf s a b n
  unfold State.copyMem at hm ⊢
  split at hm
  · rename_i h
    rw [if_pos h]
    exact ⟨rfl, rfl, fun h => ⟨hm h.mem, h.keep⟩, id, id, id, id⟩
  · rename_i h
    rw [if_neg h]
    exact .putRaw s b _

/-! ### Stopping an owner -/

theorem Keeps.putHeld (h : Held) (s : State) : Keeps s (putHeld h s) := by
  have k := Keeps.foldl (fun s (w : Nat × List Byte) => Keeps.putBytes s w.1 w.2) h.ws s
  unfold Machine.putHeld
  cases h.msg with
  | none => exact k
  | some m => exact k.trans (.msix _ m.1 m.2)

/-- A write of the device's own keeps everything, whether it is made, waits or is lost. -/
theorem Keeps.putDev (h : Held) (s : State) : Keeps s (putDev h s) := by
  unfold Machine.putDev
  exact .ite (.refl s) (.ite (.updHost s _) (.putHeld h s))

/-- Where nothing holds memory up, no access waits. -/
theorem State.Calm.memBusy {s : State} (h : s.Calm) (a n : Nat) : memBusy s a n = false := by
  obtain ⟨hc, hx, hh⟩ := h.settled
  have h1 : s.u.mem.ch.any (fun e => (decide (e.2.state = 1) || decide (e.2.state = 3)) &&
      (List.range (sectorsOf a n)).any (fun i => decide ((s.gddrMap (256 * (a / 256 + i))).1 = e.1))) = false := by
    rw [List.any_eq_false]
    intro e he
    simp [hc e he]
  have h2 : cxlBusy s a n = false := by
    unfold cxlBusy
    rw [List.any_eq_false]
    intro e he
    simp [hx e he]
  simp [Machine.memBusy, h1, h2, hostBusy, hh]

/-- Then a write of the device's own that is not lost is made. -/
theorem putDev_calm {s : State} (h : s.Calm) {w : Held} (hl : heldLost s w = false) : putDev w s = putHeld w s := by
  have hb : w.ws.any (fun p => Machine.memBusy s p.1 p.2.length) = false := by
    rw [List.any_eq_false]
    intro p _
    simp [h.memBusy]
  simp [putDev, hl, hb]

/-- A completion record changes queue state and is a write of the device's own. -/
theorem Keeps.finish (s : State) (c : Disp) (status : Nat) : Keeps s (s.finish c status) :=
  ((Keeps.draw s).trans ((Keeps.updQueue _ c.q _).trans (.updQue _ _))).trans (.putDev _ _)

theorem Keeps.haltCoreAt (c : Nat) (s : State) : Keeps s (State.haltCoreAt c s) := .updSeq s c _

theorem Keeps.freezeCoreAt (c : Nat) (s : State) : Keeps s (State.freezeCoreAt c s) := (Keeps.haltCoreAt c s).trans (.updSeq _ c _)

theorem Keeps.dropLaunches (p : Nat) (s : State) : Keeps s (dropLaunches p s) := .of rfl rfl rfl rfl rfl rfl rfl

theorem Keeps.freezeMasters (p : Nat) (s : State) : Keeps s (freezeMasters p s) :=
  ((Keeps.foldl (fun s c => (Keeps.freezeCoreAt c s).trans (.updCore _ c _)) _ s).trans (.updHost _ _)).trans (.dropLaunches p _)

theorem Keeps.freeBytes (a n : Nat) (s : State) : Keeps s (freeBytes a n s) :=
  .foldl (fun s i => (Keeps.draw s).trans (.putByte s.draw.2 (a + i) _)) _ s

theorem Keeps.spoil (s0 : State) (cs : List Conv) (s : State) : Keeps s (spoil s0 cs s) := by
  unfold Machine.spoil
  exact .foldl (fun s c => .foldl (fun s r => .freeBytes r.1 r.2 s) (convArea s0 c) s) _ s

theorem Keeps.abandonOwner (p : Nat) (s : State) : Keeps s (abandonOwner p s) := by
  unfold Machine.abandonOwner
  refine Keeps.trans ?_ (.spoil s _ _)
  exact .of rfl rfl rfl rfl rfl rfl rfl

theorem Keeps.cancelArms (p : Nat) (s : State) : Keeps s (cancelArms p s) := by
  unfold Machine.cancelArms undrain
  exact .ite (.updCrs s _) (.of rfl rfl rfl rfl rfl rfl rfl)

theorem Keeps.closeStep (p flags : Nat) (ready : Bool) (s : State) : Keeps s (closeStep p flags ready s) := by
  unfold Machine.closeStep
  split
  · exact .refl s
  · exact .updCrs s _

theorem Keeps.orBypass (n a m : Nat) (s : State) : Keeps s (orBypass n a m s) := by
  refine Keeps.setReg s ?_ _
  unfold coreOff
  split <;> omega

theorem Keeps.applyConvictions (s : State) : Keeps s (applyConvictions s) := by
  unfold Machine.applyConvictions
  exact .ite (.refl s) ((Keeps.foldl (fun s e => Keeps.orBypass _ _ _ s) _ s).trans (.updFlt _ _))

/-- A stop makes the owner FAULTED and keeps everything. -/
theorem Keeps.stopOwner (p : Nat) (s : State) : Keeps s (stopOwner p s) := by
  unfold Machine.stopOwner
  refine .ite (.refl s) ?_
  have h1 : ∀ t : State, Keeps t (((t.setOwner p { s.owner p with st := .faulted }).coresOf p).foldl (fun s c => State.haltCoreAt c s)
      (t.setOwner p { s.owner p with st := .faulted })) := fun t =>
    (Keeps.setOwner t p _).trans (.foldl (fun s c => Keeps.haltCoreAt c s) _ _)
  have h2 : ∀ t : State, Keeps t (Machine.cancelArms p (Machine.dropLaunches p (Machine.abandonOwner p t))) := fun t =>
    ((Keeps.abandonOwner p t).trans (.dropLaunches p _)).trans (.cancelArms p _)
  have h3 : ∀ (l : List Disp) (t : State), Keeps t (Machine.applyConvictions (l.foldl (fun s d => s.finish d 0xFF) t)) := fun l t =>
    (Keeps.foldl (fun s d => Keeps.finish s d 0xFF) l t).trans (.applyConvictions _)
  have h4 := fun f l => ((h1 s).trans (h2 _)).trans ((Keeps.updCrs _ f).trans (h3 l _))
  exact .ite ((h4 _ _).trans (.closeStep p 0 true _)) (((h4 _ _).trans (.updFltOwner _ p _)).trans (.out _ _))

/-! ### Events -/

theorem Keeps.toDevRing (r : BitVec 256) (s : State) : Keeps s (toDevRing r s) := by
  unfold Machine.toDevRing
  split
  · exact ((Keeps.putDev _ s).trans (.updFlt _ _)).trans (.pend _ 1)
  · exact .updFlt s _

theorem Keeps.toOwnRing (p : Nat) (r : BitVec 256) (s : State) : Keeps s (toOwnRing p r s) := by
  unfold Machine.toOwnRing
  dsimp only
  split
  · exact (Keeps.putDev _ s).trans (.updFltOwner _ p _)
  · exact .updFltOwner s p _

theorem Keeps.toRings (own : Option Nat) (r : BitVec 256) (s : State) : Keeps s (toRings own r s) := by
  cases own with
  | none => exact .toDevRing r s
  | some p => exact (Keeps.toDevRing r s).trans (.toOwnRing p r _)

theorem Keeps.countEvent (cls : Nat) (own : Option Nat) (s : State) : Keeps s (countEvent cls own s) := by
  unfold Machine.countEvent
  exact .ite (.updCrs s _) (.refl s)

theorem Keeps.consequence (cls : Nat) (fatal8 : Bool) (own : Option Nat) (s : State) : Keeps s (consequence cls fatal8 own s) := by
  unfold Machine.consequence
  refine .ite (.ite (.updFlt s _) ((Keeps.foldl (fun s p => Keeps.stopOwner p s) _ s).trans (.updFlt _ _))) (.ite ?_ (.refl s))
  cases own with
  | none => exact .refl s
  | some p => exact .stopOwner p s

theorem Keeps.raise1 (s : State) (code src : Nat) (own : Option Nat) (d0 d1 : W64) : Keeps s (s.raise1 code src own d0 d1) := by
  unfold State.raise1
  dsimp only
  generalize Option.filter (fun p => decide (p < 16)) own = own
  refine Keeps.trans ?_ (.consequence _ _ own _)
  have h1 := fun f => (Keeps.countEvent (code / 4096) own s).trans (.updFlt _ f)
  have h2 : ∀ (o : Option (BitVec 256)) (t : State), Keeps t (match o with
      | some r => Machine.toRings own r t
      | none => t) := by
    intro o t
    cases o with
    | none => exact .refl t
    | some r => exact .toRings own r t
  cases own with
  | none => exact (h1 _).trans (h2 _ _)
  | some p =>
    dsimp only
    refine .ite ?_ (((h1 _).trans (h2 _ _)).trans (.updFltOwner _ p _))
    exact ((((h1 _).trans (h2 _ _)).trans (.updFltOwner _ p _)).trans (.toRings _ _ _)).trans (.freezeMasters p _)

theorem Keeps.flushLost (s : State) : Keeps s (flushLost s) :=
  (Keeps.updCrs s _).trans (.foldl (fun s p => Keeps.raise1 s 0x8703 0x7000 (some p) 0 0) _ _)

/-- Raising an event, with the records, the stop and the further event that it may bring, keeps everything. -/
theorem Keeps.raise (s : State) (code src : Nat) (own : Option Nat) (d0 d1 : W64) : Keeps s (s.raise code src own d0 d1) := by
  unfold State.raise
  have h := fun f => ((Keeps.raise1 s code src own d0 d1).trans (.flushLost _)).trans (.updFlt _ f)
  exact .ite ((h _).trans (.raise1 _ _ _ _ _ _)) (h _)

theorem Keeps.closeStepEv (p flags : Nat) (ready : Bool) (s : State) : Keeps s (closeStepEv p flags ready s) :=
  (Keeps.closeStep p flags ready s).trans (.flushLost _)

theorem Keeps.mark (s : State) (own : Option Nat) (k : Nat) : Keeps s (s.mark own k) := by
  unfold State.mark
  split
  · exact .refl s
  · split
    · exact .refl s
    · exact .ite (.refl s) (.updCrs s _)

/-! ### Protection violations -/

theorem Keeps.whoFreeze (s : State) (w : Who) : Keeps s (whoFreeze s w) := by
  cases w with
  | ctl => exact .refl s
  | fn f => exact Keeps.updHost s (fun h => { h with frozen := if h.frozen.contains f then h.frozen else h.frozen ++ [f] })
  | core n => exact .freezeCoreAt n s
  | dma k => exact .setDmaq s _ _ _
  | bench e => exact .ite (.updEng s e _) (.refl s)

theorem Keeps.violate (w : Who) (a n : Nat) (wr : Bool) (s : State) : Keeps s (violate w a n wr s) :=
  (Keeps.whoFreeze s w).trans (.raise _ _ _ _ _ _)

end Sys2Proof.Machine
end

