-- ==== Sys2Proof/Laws/Lanes.lean ====
section
/-!
SUPPORT. Laws of the vector lanes (R122): what a register made from lanes reads, and what a lane-wise write leaves.
-/

namespace Sys2Proof.Machine

open Sys2Proof

theorem foldr_lanes_lt (l : List Nat) : l.foldr (fun x acc => x % 2 ^ 32 + 2 ^ 32 * acc) 0 < 2 ^ (32 * l.length) := by
  induction l with
  | nil => simp
  | cons x r ih =>
    simp only [List.foldr_cons, List.length_cons]
    have h1 : x % 2 ^ 32 < 2 ^ 32 := Nat.mod_lt _ (by positivity)
    calc x % 2 ^ 32 + 2 ^ 32 * r.foldr (fun x acc => x % 2 ^ 32 + 2 ^ 32 * acc) 0
        < 2 ^ 32 * (r.foldr (fun x acc => x % 2 ^ 32 + 2 ^ 32 * acc) 0 + 1) := by omega
      _ ≤ 2 ^ 32 * 2 ^ (32 * r.length) := Nat.mul_le_mul_left _ ih
      _ = 2 ^ (32 * (r.length + 1)) := by rw [← Nat.pow_add]; ring_nf

theorem foldr_lanes_get (l : List Nat) (i : Nat) (h : i < l.length) :
    (l.foldr (fun x acc => x % 2 ^ 32 + 2 ^ 32 * acc) 0 >>> (32 * i)) % 2 ^ 32 = l[i] % 2 ^ 32 := by
  induction l generalizing i with
  | nil => simp at h
  | cons x r ih =>
    simp only [List.foldr_cons]
    generalize hA : r.foldr (fun x acc => x % 2 ^ 32 + 2 ^ 32 * acc) 0 = A at ih
    cases i with
    | zero => simp
    | succ i =>
      have := ih i (by simpa using h)
      rw [show 32 * (i + 1) = 32 + 32 * i by ring, Nat.shiftRight_add, Nat.shiftRight_eq_div_pow _ 32,
        show (x % 2 ^ 32 + 2 ^ 32 * A) / 2 ^ 32 = A by omega, this]
      simp

/-- Lane i of a register made from 64 lanes. -/
theorem lane_ofLanes (l : List Nat) (hl : l.length = 64) (i : Nat) (h : i < 64) : lane (ofLanes l) i = l.getD i 0 % 2 ^ 32 := by
  have hb := foldr_lanes_lt l
  rw [hl] at hb
  have hi : i < l.length := by omega
  rw [lane, ofLanes, BitVec.toNat_ofNat, Nat.mod_eq_of_lt hb, foldr_lanes_get l i hi, List.getD_eq_getElem _ _ hi]

theorem lane_lt (v : BitVec 2048) (i : Nat) : lane v i < 2 ^ 32 := Nat.mod_lt _ (by positivity)

@[simp] theorem vWrite_vreg_same (r0 : CoreRegs) (w : BitVec 57) (f : Nat → LRes) (r : CoreRegs) {i : Nat} (h : i < 64) :
    lane ((vWrite r0 w f r).vreg (fld w 52 47)) i = if vActive r0 w i then (f i).v % 2 ^ 32 else lane (r0.vreg (fld w 52 47)) i := by
  have hg : (vWrite r0 w f r).vreg (fld w 52 47) =
      ofLanes ((lanes.map (fun i => if vActive r0 w i then f i else ⟨lane (r0.vreg (fld w 52 47)) i, {}⟩)).map LRes.v) := by
    unfold vWrite CoreRegs.vreg; simp
  rw [hg, lane_ofLanes _ (by simp [lanes]) i h]
  have : i < ((lanes.map (fun i => if vActive r0 w i then f i else ⟨lane (r0.vreg (fld w 52 47)) i, {}⟩)).map LRes.v).length := by
    simpa [lanes] using h
  rw [List.getD_eq_getElem _ _ this]
  simp only [List.getElem_map, lanes, List.getElem_range]
  split
  · rfl
  · exact Nat.mod_eq_of_lt (lane_lt _ _)

theorem vWrite_vreg_other (r0 : CoreRegs) (w : BitVec 57) (f : Nat → LRes) (r : CoreRegs) {k : Nat} (h : fld w 52 47 ≠ k) :
    (vWrite r0 w f r).vreg k = r.vreg k := by
  simp [vWrite, CoreRegs.vreg, CoreRegs.setV, SMap.get_set_other _ h]

end Sys2Proof.Machine
end

