-- ==== Sys2Proof/Tests/Slice0.lean ====
section
/-!
SUPPORT. Small tests on hand-made states: terms that well-formedness refuses, numbers worked out in the spec's examples, and for every
statement that has hypotheses a state and operands that meet them together.
-/

namespace Sys2Proof.Tests

open Sys2Proof Sys2Proof.Machine

set_option Elab.async false

/-! ### Helpers -/

/-- Core 0 as k, everything else as reset leaves it. -/
def one (k : Core) : State := { cores := [(0, k)] }

def running : CoreSeq := { run := .running }

/-- Core 0 runs with registers r and matrix state m. -/
def go (r : CoreRegs) (m : CoreMat) : State := one { r, m, seq := running }

/-- Core 0 runs, everything at reset. -/
def s0 : State := go {} {}

def readyB (s : State) (n : Nat) : Bool :=
  decide (n < s.nCores) && (s.core n).seq.run == .running && !(s.core n).seq.frozen && !(s.core n).seq.ending && decide ((s.core n).seq.openB = []) &&
    !(s.core n).seq.stalled && !(s.core n).seq.unmet && !s.stopped && s.cores.all (fun e => e.2.seq.q.isEmpty) && coreAwake s n && fetchOk s n ((s.core n).seq.baddr + 32)

def legalB (s : State) (n : Nat) (i : SlotI) : Bool :=
  !slotIllegal i && !bankConflict (s.core n).seq.wmode (s.core n).seq.infrag (slotRes i) && !((s.core n).seq.wmode && (s.core n).seq.infrag && fragForbidden i)

theorem quiet_of {s : State} (h : s.cores.all (fun e => e.2.seq.q.isEmpty) = true) : Quiet s := by
  intro n
  unfold State.core
  revert h
  induction s.cores with
  | nil => intro _; rfl
  | cons e r ih =>
    intro h
    simp only [List.all_cons, Bool.and_eq_true] at h
    unfold SMap.get
    split
    · exact List.isEmpty_iff.mp h.1
    · exact ih h.2

theorem ready_of {s : State} {n : Nat} (h : readyB s n = true) : Ready s n ∧ NextOk s n := by
  simp only [readyB, Bool.and_eq_true, decide_eq_true_eq, beq_iff_eq, Bool.not_eq_true'] at h
  refine ⟨?_, h.2⟩
  constructor
  case quiet => exact quiet_of h.1.1.2
  all_goals tauto

theorem legal_of {s : State} {n : Nat} {i : SlotI} (h : legalB s n i = true) : Legal s n i := by
  simp only [legalB, Bool.and_eq_true, Bool.not_eq_true'] at h
  exact ⟨h.1.1, h.1.2, h.2⟩

theorem legals_of {s : State} {n : Nat} {l : List SlotI} (h : l.all (legalB s n) = true) : ∀ i ∈ l, Legal s n i :=
  fun i hi => legal_of (List.all_eq_true.mp h i hi)

/-- Slots of one kind with operand bits w. -/
def slots (k : Nat) (w : BitVec 57) (ops : List Nat) : List SlotI := ops.map (fun o => ⟨k, o, w⟩)

/-- A 64-byte line from (byte offset, value) pairs. -/
def ln (fs : List (Nat × Nat)) : Line := BitVec.ofNat 512 (fs.foldl (fun a f => a + f.2 * 256 ^ f.1) 0)

/-- An operand word from (bit, value) pairs. -/
def wd (fs : List (Nat × Nat)) : BitVec 57 := BitVec.ofNat 57 (fs.foldl (fun a f => a + f.2 * 2 ^ f.1) 0)

/-- The first scratchpad. -/
def sp0 : Nat := 0x010000000000

/-- A descriptor of extents e0 × e1, format f, at an address, rows r bytes apart. -/
def desc (f e0 e1 base r : Nat) : Line := ln [(0, f), (8, base), (16, e0), (20, e1), (24, 1), (28, 1), (32, r)]

/-- A linear generator over K blocks 0 to k, with n rows. -/
def gen (k n : Nat) : Line := ln [(8, n), (20, k)]

/-! ### Ill-formed commands: one for each check of `Instr.wf` -/

theorem test_refused_cores_1 : ∀ i ∈ ([.nop 128 false 0 0, .wload 128 false 0, .aload 128 false 0, .caston 128 false 0, .mma 128 false 0, .castoff 128 false 0,
    .spoil 128 false 0, .park 128 false 0, .resume 128 false 0, .skeinDrained 128 0, .parkComplete 128 0, .resumeComplete 128 0,
    .vadd 128 false 0, .vsub 128 false 0, .vmul 128 false 0, .vfma 128 false 0, .vmin 128 false 0, .vmax 128 false 0,
    .vabs 128 false 0, .vneg 128 false 0, .vdiv 128 false 0, .vsqrt 128 false 0, .vrsqrt 128 false 0, .vexp 128 false 0,
    .vexp2 128 false 0, .vlog2 128 false 0, .vtanh 128 false 0, .vsig 128 false 0, .vfn 128 false 0, .vcmp 128 false 0,
    .vsel 128 false 0, .viadd 128 false 0, .visub 128 false 0, .vand 128 false 0, .vor 128 false 0, .vxor 128 false 0,
    .vshl 128 false 0, .vshr 128 false 0, .vsra 128 false 0, .vcvt 128 false 0, .vbcast 128 false 0, .vext 128 false 0,
    .vperm 128 false 0, .vred 128 false 0, .vamax 128 false 0, .vld 128 false 0, .vst 128 false 0, .vdec 128 false 0] : List Instr), i.wf = false := by
  decide

theorem test_refused_cores_2 : ∀ i ∈ ([.vld 128 false 0, .vst 128 false 0, .vdec 128 false 0, .vcvtes 128 false 0, .tld 128 false 0, .gld 128 false 0,
    .gst 128 false 0, .dma 128 false 0, .dmat 128 false 0, .dmaCopy 128 0, .dmaConvert 128 0, .mxImport 128 0,
    .mxExport 128 0, .dmaZero 128 0, .dmatTransfer 128 0, .dmaComplete 128 0, .send 128 false 0, .recv 128 false 0,
    .chain 128 false 0, .sadd 128 false 0, .ssub 128 false 0, .smul 128 false 0, .sand 128 false 0, .sor 128 false 0,
    .sxor 128 false 0, .sshl 128 false 0, .sshr 128 false 0, .ssra 128 false 0, .saddi 128 false 0, .sli 128 false 0,
    .slui 128 false 0, .sld 128 false 0, .sst 128 false 0, .br 128 false 0, .brc 128 false 0, .coreEnd 128 false 0,
    .wait 128 false 0, .waitDeadline 128, .waitc 128 false 0, .signal 128 false 0, .defer 128 false 0, .wend 128 false 0,
    .wflush 128 false 0, .wmode 128 false 0, .srd 128 false 0, .vsclr 128 false 0, .preemptReq .ctl 128 0, .saveComplete 128] : List Instr), i.wf = false := by
  decide

theorem test_refused_cores_3 : ∀ i ∈ ([.vsclr 128 false 0, .preemptReq .ctl 128 0, .saveComplete 128, .preemptRestore .ctl 128 0, .restoreComplete 128, .coreCntClear .ctl 128 0,
    .coreCntWclear .ctl 128 0, .sramceClear .ctl 128 0, .inServiceTest 128 0 0 0 0 0 0, .mctpMessage 128 [], .coreGate 128, .i3cAddressAssignment false 128 0,
    .i3cAddressAssignment false 0 128] : List Instr), i.wf = false := by
  decide

theorem test_refused_queues_and_slots_of_four : ∀ i ∈ ([.nop 0 false 4 0, .dmaCopy 0 4, .dmaConvert 0 4, .mxImport 0 4, .mxExport 0 4, .dmaZero 0 4,
    .dmatTransfer 0 4, .dmaComplete 0 4, .creditStall 0 4, .inServiceTest 0 4 0 0 0 0 0, .hdmCommit .ctl 0 4 0, .domainRampStep 4] : List Instr), i.wf = false := by
  decide

theorem test_refused_owners_and_slots : ∀ i ∈ ([.skeinDrained 0 16, .parkComplete 0 16, .resumeComplete 0 16, .colEpochWrite .ctl 16 0, .doorbell 16 0 0 0 0, .dispatch 16,
    .fence 16, .reserve 16, .commandExpire 16, .ownerActive 16, .quePartReset .ctl 16 0, .quePartCntClear .ctl 16 0,
    .fltAck .ctl 16 0, .fltStop .ctl 16 0, .fltFrog .ctl 16 0, .bar2Access 16 0 0 none, .atsInvalidation 16 0 0, .msixUnmask 16 0,
    .functionLevelReset 16, .d3hotExit 16, .pcieConfigWrite 16 .flr] : List Instr), i.wf = false := by
  decide

theorem test_refused_masters_1 : ∀ i ∈ ([.preemptReq (.bench 64) 0 0, .preemptRestore (.bench 64) 0 0, .coreCntClear (.bench 64) 0 0, .coreCntWclear (.bench 64) 0 0, .sramceClear (.bench 64) 0 0, .bncMapWrite (.bench 64) 0,
    .bncEngCntClear (.bench 64) 0 0, .gddr7Read (.bench 64) 0 0 0 false 0, .gddr7Write (.bench 64) 0 0 0, .partialWrite (.bench 64) 0 [] 0 0, .sramRead (.bench 64) (.pad 0) 0 0, .cxlReadCompletion 0 (.bench 64) 0 false [],
    .memCompatWrite (.bench 64) 0, .memLogClear (.bench 64) 0, .memChCntClear (.bench 64) 0 0, .memInjectArm (.bench 64) 0, .crsRunWrite (.bench 64) 0, .crsLeadWrite (.bench 64) 0,
    .crsParentWrite (.bench 64) 0, .armPush (.bench 64) 0, .armCancel (.bench 64) 0, .ledgerTailWrite (.bench 64) 0, .linkEnable (.bench 64) 0 0, .lnkCntClear (.bench 64) 0 0,
    .lnkPatValidWrite (.bench 64) 0, .colGroupLoad (.bench 64) 0, .colGroupUnload (.bench 64) 0, .colSubmit (.bench 64) 0, .colBackupSet (.bench 64) 0, .colCntClear (.bench 64) 0,
    .colEpochWrite (.bench 64) 0 0, .queModeNow (.bench 64) 0, .quePartReset (.bench 64) 0 0, .quePartCntClear (.bench 64) 0 0, .fltAck (.bench 64) 0 0, .fltStop (.bench 64) 0 0,
    .fltFrog (.bench 64) 0 0, .requalStart (.bench 64) 0, .requalAbort (.bench 64) 0, .evidencePost (.bench 64) 0, .hostReadCompletion (.bench 64) 0 0 [] false, .hostReadTimeout (.bench 64) 0,
    .hdmCommit (.bench 64) 0 0 0, .ctlxLockSet (.bench 64) 0, .pwrCntClear (.bench 64) 0, .registerWrite (.bench 64) 0 0 0] : List Instr), i.wf = false := by
  decide

theorem test_refused_masters_2 : ∀ i ∈ ([.registerWrite (.bench 64) 0 0 0] : List Instr), i.wf = false := by
  decide

theorem test_refused_engines_links_channels_1 : ∀ i ∈ ([.launchEnter 64 none 0, .launchStart 64, .benchNop 64 0, .lds 64 0, .sts 64 0, .fadd 64 0,
    .fsub 64 0, .fmul 64 0, .fma 64 0, .fmm 64 0, .fdiv 64 0, .fsq 64 0,
    .benchFun 64 0, .aadd 64 0, .cvt 64 0, .red 64 0, .stes 64 0, .hash 64 0,
    .bcst 64 0, .ext 64 0, .benchSli 64 0, .sop 64 0, .loop 64 0, .brz 64 0,
    .out 64 0, .dget 64 0, .benchEnd 64 0, .castWithScale 64, .amaxHistory 64, .chainAdd 64,
    .digest 64, .noiseStatistics 64, .adamw 64, .lion 64, .sgdWithMomentum 64, .factoredSecondMoment 64,
    .snapshotCopy 64, .snapshotRestore 64 [], .bncEngCntClear .ctl 64 0, .channelRetrainDone 64 false, .patrolRead 64 0, .memChCntClear .ctl 64 0,
    .syncReceive 64 0 0, .delayReply 64 0 0 0, .flitSend 64, .flitReceive 64 0, .timeFlitReceive 64 0 0, .ackTimeout 64] : List Instr), i.wf = false := by
  decide

theorem test_refused_engines_links_channels_2 : ∀ i ∈ ([.flitReceive 64 0, .timeFlitReceive 64 0 0, .ackTimeout 64, .retrainComplete 64, .linkEnable .ctl 64 0, .calibrationDone 64 false,
    .trainingDone 64 false, .exchangeDone 64 0 0 false, .authenticationDone 64 default [] [], .rekey 64 default [] [], .creditStall 64 0, .lnkCntClear .ctl 64 0] : List Instr), i.wf = false := by
  decide

theorem test_refused_lists_and_lengths : ∀ i ∈ ([.launchEnter 0 (some 16) 0, .partialWrite .ctl 255 [1, 2] 0 0, .checkerSelfTest [64] [], .checkerSelfTest [] [128], .syncSend [64], .doorbell 0 0 0 9 0,
    .requalVerdict [64] [], .requalVerdict [] [128], .registerWrite .ctl 0 9 0, .pcieConfigWrite 0 (.bar2Size 10)] : List Instr), i.wf = false := by
  decide

theorem test_refused_ports : ∀ i ∈ ([.cxlReadCompletion 2 .ctl 0 false [], .cxlRetrain 2, .cxlPortLoss 2, .hdmCommit .ctl 2 0 0, .cxlLinkUp 2 0 0 false false, .cxlLinkUp 0 2 0 false false,
    .cxlMediaErrorLogged 2] : List Instr), i.wf = false := by
  decide

theorem test_refused_groups : ∀ i ∈ ([.laserOutOfLimits 8 0 0, .laserWithinLimits 8 0 0, .wavelengthDrift 8] : List Instr), i.wf = false := by
  decide

theorem test_refused_ranges : ∀ i ∈ ([.launchEnter 0 none (2 ^ 48), .gddr7Read .ctl (2 ^ 48) 0 0 false 0, .partialWrite .ctl (2 ^ 48) [] 0 0, .sramRead .ctl (.pad (2 ^ 48)) 0 0, .sramRead .ctl (.array 128 .feeders 0 0 false) 0 0, .sramRead .ctl (.array 0 .bundleCache (2 ^ 22) 0 false) 0 0, .cxlReadCompletion 0 .ctl (2 ^ 48) false [], .hostReadCompletion .ctl (2 ^ 48) 0 [] false,
    .hostReadTimeout .ctl (2 ^ 48), .gddr7Read .ctl 0 (2 ^ 40) 0 false 0, .gddr7Write .ctl (2 ^ 40) 0 0, .doorbell 0 65536 0 0 0, .dispatchComplete 65536 0, .hostLinkTrained 3 0 false 0,
    .hostLinkTrained 0 32 false 0, .cxlLinkUp 0 0 32 false false, .hostLinkWaitExpiry 512, .msixUnmask 0 2048, .ideIntegrityFail 5, .ctlCacheError 4096 false,
    .sensorSample 68 0] : List Instr), i.wf = false := by
  decide

theorem test_refused_function_counts : Instr.wf (.pcieConfigWrite 0 (.vf true 16)) = false ∧ (Who.fn 16).wf = false ∧ (Who.core 128).wf = false ∧ (Who.dma 512).wf = false := by
  decide

/-! ### Numbers that the spec works out -/

theorem test_accepted : ∀ i ∈ ([.nop 127 true 3 0, .dmaCopy 127 3, .launchEnter 63 (some 15) 0xFFFFFFFFFFC0, .doorbell 15 255 4 8 0, .sensorSample 67 0] : List Instr), i.wf = true := by
  decide

/-- Link 13's LNK_CFG, and the mask and policy of entry 41 of Pattern 2's level 1 (chapters 10 and 18). -/
theorem test_register_offsets : (Reg.lnkCfg 13).off = 0x811500 ∧ regAt 0x909290 = some (.lnkMask ((4 * 2 + 1) * 256 + 41)) ∧
    regAt 0x909298 = some (.lnkPolicy ((4 * 2 + 1) * 256 + 41)) := by
  decide +kernel

/-- Address 0x12345800 on either part (chapter 07). -/
theorem test_channel_of_address : ({} : State).gddrMap 0x12345800 = (11, 0x48D000) ∧
    ({ part := .evz7096 } : State).gddrMap 0x12345800 = (43, 0x611000) := by
  decide +kernel

/-- Byte 254 of the sector at address 0 is 1; it is later read as 3; the sector is read under sector address 1 (chapter 08). -/
def d254 (v : Byte) : List Byte := (List.replicate 256 0).set 254 v

theorem test_sector_check : sectorCheck 0 (d254 1) = [0x0F, 0x36, 0x78, 0x40, 0, 0, 0, 0] := by
  decide +kernel

theorem test_sector_corrected : let r := sectorDecode 0 (d254 3) [0x0F, 0x36, 0x78, 0x40, 0, 0, 0, 0]
    r.out = .corrected ∧ r.cw0 = .corrected ∧ r.cw1 = .clean ∧ r.data = d254 1 := by
  decide +kernel

theorem test_sector_mismatch : (sectorDecode 1 (d254 1) [0x0F, 0x36, 0x78, 0x40, 0, 0, 0, 0]).out = .mismatch := by
  decide +kernel

/-- The word with index 1 and value 1, and the same read under index 0 (chapter 08). -/
theorem test_sram_word : sramCheck 1 1 = 4 ∧ (sramRead 1 4 0).1 = .uncorrectable := by
  decide +kernel

/-- Four elements of a block converted to ES8M3 with T = −4 (chapter 02). -/
theorem test_block_conversion :
    let x := [flDecode 23 0x40A9999A, flDecode 23 0xBF35C28F, flDecode 23 0x3B16BB99, .fin false 1 (-18)] ++ List.replicate 28 (.fin false 1 0)
    let r := convertBlock 0 (-4) (List.replicate 32 .rne) x
    r.1.el.take 4 = [0x7B, 0xE3, 0x21, 0] ∧ blockByte r.1 = 0x7E ∧ r.2.flushed = 1 := by
  decide +kernel

/-- The last element of that block at the first r that keeps it (chapter 02). -/
theorem test_stochastic_element : esEncode 0 (.sr 57344) false 1 (-12) = 1 ∧ esEncode 0 (.sr 57343) false 1 (-12) = 0 := by
  decide +kernel

/-- One cell over two blocks (chapter 02). -/
theorem test_cell :
    let v := fun l => l.map (esDecode 0)
    let b0 := blockSum (-18) false (v [0x7E, 0x20, 0xFE]) (v [0x7E, 0x24, 0x7E])
    let b1 := blockSum (-18) false (v [0x34]) (v [0x01])
    b0.v = 6144 ∧ mergeBlk 0 b0 5 = 0x3F40000000 ∧ mergeBlk 0x3F40000000 b1 (-22) = 0x3F40000002 ∧ afNarrow 0x3F40000002 = 0x3F400000 := by
  decide +kernel

/-- A chain of three partials, in rank order and in another (chapter 02). -/
theorem test_chain_of_three : afAdd (afAdd 0x3F80000000 0x2F80000000) 0x2F80000000 = 0x3F80000000 ∧
    afAdd 0x3F80000000 (afAdd 0x2F80000000 0x2F80000000) = 0x3F80000001 := by
  decide +kernel

/-- 448 and 2^-10 in one block of ES8M3 with T = 0 (chapter 05). -/
theorem test_transposed_block : let r := convertBlock 0 0 (List.replicate 32 .rne) [.fin false 448 0, .fin false 1 (-10)]
    r.1.shift = 0 ∧ r.1.el.take 2 = [0x7E, 0] ∧ r.1.l = true ∧ r.2.flushed = 1 := by
  decide +kernel

/-- The flits of 4,096 payload bytes (chapter 10). -/
theorem test_flits : pktFlits 4096 false = 17 := by
  decide

/-- Two estimates after their dispatches (chapter 13). -/
theorem test_estimates : newEst 95 92 = 94 ∧ newEst 180 191 = 181 := by
  decide

/-- The health score with and without four courses' decay (chapter 14). -/
theorem test_health_score : score 1700 = 575 ∧ score 1594 = 602 ∧ score 1994 = 502 ∧ (Nat.repeat (fun d => d - cdiv d 64) 4 1700) = 1594 := by
  decide +kernel

/-- Partition 5's two ranges through BAR2 (chapter 15). -/
theorem test_bar2_offset : let s : State := { owners := [(5, { st := .active, cfg := ln [(16, 0x84EF0000000004B0), (24, 0x8587000000000578)] })] }
    bar2Addr s 5 0x112345678 4 = some 0x15F2345678 ∧ bar2Addr s 5 0x140000000 4 = none := by
  decide +kernel

/-! ### Cores -/

theorem witness_ScalarArithmetic : (Ready s0 0 ∧ NextOk s0 0) ∧ ∀ i ∈ slots 3 0 [1, 2, 3, 4, 5, 6, 7, 8, 9, 10, 11, 12], Legal s0 0 i :=
  ⟨ready_of (by decide +kernel), legals_of (by decide +kernel)⟩

/-- The last 8 bytes of a scratchpad. -/
theorem witness_ScalarLoadStore : let s := go { s := [(1, 0x17FFFF8)] } {}
    let w := wd [(47, 1)]
    (Ready s 0 ∧ NextOk s 0) ∧ ((s.core 0).r.sreg (fld w 51 47) + BitVec.ofNat 64 (8 * fld w 23 0)).toNat + 8 ≤ spSize ∧ s.ecc = [] ∧ s.sp.err = [] ∧
      ∀ i ∈ slots 3 w [0x10, 0x11], Legal s 0 i :=
  ⟨ready_of (by decide +kernel), by decide +kernel, rfl, rfl, legals_of (by decide +kernel)⟩

/-- A branch back to the bundle itself; EQ of two zeros holds, NE does not; END without work and with a request outstanding. -/
theorem witness_BranchesAndEnd : (Ready s0 0 ∧ NextOk s0 0) ∧ (∀ i ∈ slots 3 0 [0x18, 0x19, 0x1A], Legal s0 0 i) ∧ fetchOk s0 0 0 = true ∧
    ((s0.core 0).r.sreg 0 = (s0.core 0).r.sreg 0) ∧ Legal s0 0 ⟨3, 0x19, wd [(39, 1)]⟩ ∧ (s0.core 0).seq.wmode = false ∧
    (let s := one { seq := running, reqs := [0] }
     (Ready s 0 ∧ NextOk s 0) ∧ Legal s 0 ⟨3, 0x1A, 0⟩ ∧ (s.core 0).reqs ≠ []) :=
  ⟨ready_of (by decide +kernel), legals_of (by decide +kernel), by decide +kernel, rfl, legal_of (by decide +kernel), rfl, ready_of (by decide +kernel), legal_of (by decide +kernel), by decide +kernel⟩

theorem witness_StatusReads : (Ready s0 0 ∧ NextOk s0 0) ∧ (∀ i ∈ (List.range 5).map (fun c => (⟨3, 0x30, wd [(0, c)]⟩ : SlotI)), Legal s0 0 i) ∧
    Legal s0 0 ⟨3, 0x31, 15⟩ ∧ 5 ≤ fld (wd [(0, 5)]) 3 0 :=
  ⟨ready_of (by decide +kernel), legals_of (by decide +kernel), legal_of (by decide +kernel), by decide +kernel⟩

/-- WAIT for all that the semaphore holds; WAITC at its course; SIGNAL up to 2^32 − 1. -/
theorem witness_SemaphoresAndWaits : let s := go { sem := [(0, 1)] } {}
    let t := go { sem := [(0, 0xFFFFFFFE)] } {}
    let w := wd [(43, 1)]
    (Ready s 0 ∧ NextOk s 0) ∧ Legal s 0 ⟨3, 0x20, w⟩ ∧ fld w 50 43 ≤ (s.core 0).r.semv 0 ∧ Legal s 0 ⟨3, 0x21, 0⟩ ∧ 0 ≤ s.course.toNat ∧
      (Ready t 0 ∧ NextOk t 0) ∧ Legal t 0 ⟨3, 0x22, w⟩ ∧ (t.core 0).r.semv 0 + fld w 50 43 < 2 ^ 32 ∧ 0 < t.nCores :=
  ⟨ready_of (by decide +kernel), legal_of (by decide +kernel), by decide +kernel, legal_of (by decide +kernel), by decide +kernel, ready_of (by decide +kernel), legal_of (by decide +kernel), by decide +kernel, by decide +kernel⟩

/-- W mode entered and left, the 64th entry queued, and a fragment that ends. -/
theorem witness_Deferral : (Ready s0 0 ∧ NextOk s0 0) ∧ Legal s0 0 ⟨3, 0x2B, wd [(56, 1)]⟩ ∧ (s0.core 0).seq.wmode = false ∧ (s0.core 0).seq.wq = [] ∧
    (let s := one { seq := { running with wmode := true, wq := List.replicate 63 ⟨0, 0, 0⟩ } }
     (Ready s 0 ∧ NextOk s 0) ∧ Legal s 0 ⟨3, 0x28, 0⟩ ∧ (s.core 0).seq.infrag = false ∧ (s.core 0).seq.wq.length < 64) ∧
    (let s := one { seq := { running with wmode := true } }
     (Ready s 0 ∧ NextOk s 0) ∧ Legal s 0 ⟨3, 0x2B, 0⟩ ∧ Legal s 0 ⟨3, 0x2A, 0⟩ ∧ (s.core 0).seq.wq = [] ∧ (s.core 0).seq.wmode = true) ∧
    (let s := one { seq := { running with wmode := true, infrag := true, raddr := 64, main := some [] } }
     (Ready s 0 ∧ NextOk s 0) ∧ Legal s 0 ⟨3, 0x29, 0⟩ ∧ (s.core 0).seq.infrag = true ∧ fetchOk s 0 64 = true ∧ dmaReads ((s.core 0).dmaq 3) = false ∧
       ∀ a < 4, ((s.core 0).m.skein (4 * a + 3)).st = .free ∨ ((s.core 0).m.skein (4 * a + 3)).st = .draining) :=
  ⟨ready_of (by decide +kernel), legal_of (by decide +kernel), rfl, rfl, ⟨ready_of (by decide +kernel), legal_of (by decide +kernel), rfl, by decide +kernel⟩,
    ⟨ready_of (by decide +kernel), legal_of (by decide +kernel), legal_of (by decide +kernel), rfl, rfl⟩,
    ⟨ready_of (by decide +kernel), legal_of (by decide +kernel), rfl, by decide +kernel, by decide +kernel, by decide +kernel⟩⟩

theorem witness_VectorArithmetic : (Ready s0 0 ∧ NextOk s0 0) ∧ ∀ i ∈ slots 1 0 [1, 2, 3, 4, 5, 6, 7, 8], Legal s0 0 i :=
  ⟨ready_of (by decide +kernel), legals_of (by decide +kernel)⟩

theorem witness_VectorFunctions : (Ready s0 0 ∧ NextOk s0 0) ∧ (∀ i ∈ slots 1 0 [9, 10, 11, 12, 13, 14, 15, 16, 17], Legal s0 0 i) ∧
    ∀ i ∈ (List.range 6).map (fun c => (⟨1, 0x28, wd [(0, c)]⟩ : SlotI)), Legal s0 0 i :=
  ⟨ready_of (by decide +kernel), legals_of (by decide +kernel), legals_of (by decide +kernel)⟩

theorem witness_VectorInteger : (Ready s0 0 ∧ NextOk s0 0) ∧ ∀ i ∈ slots 1 0 [0x20, 0x21, 0x22, 0x23, 0x24, 0x25, 0x26, 0x27, 0x29, 0x2B], Legal s0 0 i :=
  ⟨ready_of (by decide +kernel), legals_of (by decide +kernel)⟩

theorem witness_VectorSelectAndCompare : (Ready s0 0 ∧ NextOk s0 0) ∧ (∀ i ∈ (List.range 7).map (fun c => (⟨1, 0x18, wd [(20, c)]⟩ : SlotI)), Legal s0 0 i) ∧
    Legal s0 0 ⟨1, 0x19, wd [(56, 1)]⟩ ∧ Legal s0 0 ⟨1, 0x2A, 0⟩ ∧ bitOf (0 : BitVec 57) 56 = false ∧ fld (wd [(20, 7)]) 22 20 = 7 :=
  ⟨ready_of (by decide +kernel), legals_of (by decide +kernel), legal_of (by decide +kernel), legal_of (by decide +kernel), by decide +kernel, by decide +kernel⟩

theorem witness_VectorReductions : (Ready s0 0 ∧ NextOk s0 0) ∧ ∀ i ∈ [(⟨1, 0x2C, 0⟩ : SlotI), ⟨1, 0x2C, 1⟩, ⟨1, 0x2C, 2⟩, ⟨1, 0x2D, 0⟩], Legal s0 0 i :=
  ⟨ready_of (by decide +kernel), legals_of (by decide +kernel)⟩

/-- The last 256 bytes of a scratchpad. -/
theorem witness_VectorMemory : let s := go { s := [(1, 0x17FFF00)] } {}
    let w := wd [(24, 1)]
    (Ready s 0 ∧ NextOk s 0) ∧ s.NoErr ∧ ((s.core 0).r.sreg (fld w 28 24)).toNat % 64 = 0 ∧ ((s.core 0).r.sreg (fld w 28 24)).toNat + 64 * fld w 23 0 + 256 ≤ spSize ∧
      ∀ i ∈ slots 1 w [0x30, 0x31], Legal s 0 i :=
  ⟨ready_of (by decide +kernel), ⟨rfl, rfl⟩, by decide +kernel, by decide +kernel, legals_of (by decide +kernel)⟩

/-- An ES tensor of 64 elements with a valid scale entry; its elements zero. -/
def sEs : State := { go { t := [(0, desc 0 64 1 sp0 0)] } {} with mem := [(5, 1)] }

theorem witness_VectorScaledFormats : (Ready sEs 0 ∧ NextOk sEs 0) ∧ sEs.NoErr ∧ (∀ i ∈ slots 1 0 [0x34, 0x35], Legal sEs 0 i) ∧ vesCheck sEs 0 0 false = none ∧
    vesCheck sEs 0 0 true = none ∧
    (let z := (List.range 32).map (fun _ => flDecode 23 0)
     let p := convBlocks sEs none (desc 0 64 1 sp0 0) false (convT sEs none (desc 0 64 1 sp0 0) (z ++ z)) [(0, z), (1, z)]
     p.2.saturated = 0 ∧ p.2.nonfinite = 0) :=
  ⟨ready_of (by decide +kernel), ⟨rfl, rfl⟩, legals_of (by decide +kernel), by decide +kernel, by decide +kernel, by decide +kernel⟩

/-- CASTON of slot 0 of array 0, and SPOIL of the slot when it is OPEN. -/
theorem witness_CastOnAndSpoil : let s := go {} { sk := [(0, { st := .opened })] }
    (Ready s0 0 ∧ NextOk s0 0) ∧ (∀ a < 4, (wd [(53, 1), (49, 1)]).getLsbD (53 + a) = true → s0.arrayOn 0 a = true) ∧ Legal s0 0 ⟨0, 0x03, wd [(53, 1), (49, 1)]⟩ ∧
      mWaits s0 0 ⟨0, 0x03, wd [(53, 1), (49, 1)]⟩ = false ∧ (∀ a < 4, ∀ j < 4, ((s0.core 0).m.skein (4 * a + j)).st = .free) ∧
      (Ready s 0 ∧ NextOk s 0) ∧ Legal s 0 ⟨0, 0x08, wd [(53, 1)]⟩ ∧ mWaits s 0 ⟨0, 0x08, wd [(53, 1)]⟩ = false ∧ ((s.core 0).m.skein 0).st ≠ .free :=
  ⟨ready_of (by decide +kernel), by decide +kernel, legal_of (by decide +kernel), by decide +kernel, by decide +kernel, ready_of (by decide +kernel), legal_of (by decide +kernel), by decide +kernel, by decide +kernel⟩

/-- One K block of a BF16 operand in a scratchpad without rows, and of an ES operand with one row. -/
theorem witness_OperandLoads : let s := go { t := [(0, desc 8 32 1 sp0 64)], g := [(0, gen 1 1)] } {}
    (Ready s 0 ∧ NextOk s 0) ∧ s.NoErr ∧ Legal s 0 ⟨0, 0x01, wd [(41, 1)]⟩ ∧ wloadCheck s 0 (wd [(41, 1)]) = none ∧
      Legal s 0 ⟨0, 0x02, wd [(52, 15), (37, 1)]⟩ ∧ aloadCheck s 0 (wd [(52, 15), (37, 1)]) = none :=
  ⟨ready_of (by decide +kernel), ⟨rfl, rfl⟩, legal_of (by decide +kernel), by decide +kernel, legal_of (by decide +kernel), by decide +kernel⟩

/-- One K block of zeros merged into an OPEN skein of array 0. -/
theorem witness_MatrixMultiply : let z : Half := { fmt := 8, blocks := [List.replicate 32 (zeroBlock 8)] }
    let s := go {} { sk := [(0, { st := .opened })], wh := [(0, z)], fh := [(0, z)] }
    let w := wd [(53, 1), (25, 1)]
    (Ready s 0 ∧ NextOk s 0) ∧ Legal s 0 ⟨0, 0x04, w⟩ ∧ mWaits s 0 ⟨0, 0x04, w⟩ = false ∧ mmaCheck s 0 w = none :=
  ⟨ready_of (by decide +kernel), legal_of (by decide +kernel), by decide +kernel, by decide +kernel⟩

/-- Core 0 with an OPEN skein of array 0, a staging slot, T0 an AF40 tensor of 32 rows, g0 with one row, and in its scratchpad a DCB of the route and tap. -/
def sCast (route tap : Nat) : State :=
  let d := ln [(0, route + 64 * tap), (2, 0xA), (3, 32), (28, if route = 1 then 32 else 0)]
  let s : State := { go { t := [(0, desc 0xA 32 32 (sp0 + 0x1000) 160)], g := [(0, gen 1 1)] } { sk := [(0, { st := .opened })] } with
    regs := [(coreOff 0 0x150, BitVec.ofNat 64 (2 ^ 32))] }
  s.wr sp0 64 d.toNat

/-- Cast-offs of one array: on route 3; on route 1, to update group 0, without the tap and with an AF40 tap; and on route 0 to an AF40 tensor. -/
theorem witness_CastOffDrains : let w := wd [(53, 1)]
    ∀ x ∈ [(3, 0), (1, 0), (1, 1), (0, 0)], let s := sCast x.1 x.2
      (Ready s 0 ∧ NextOk s 0) ∧ Legal s 0 ⟨0, 0x05, w⟩ ∧ (mWaits s 0 ⟨0, 0x05, w⟩ = false ∧ castoffCheck s 0 (s.core 0).seq.wmode w = none ∧ s.ecc = [] ∧ s.sp.err = [] ∧
        bitOf (s.reg 0 0xC00018) 63 = false ∧ dcbRoute (s.line sp0) = x.1 ∧ dcbTap (s.line sp0) = decide (x.2 = 1) ∧ dcbAxis (s.line sp0) = false ∧
        fmtIsEs (tdFmt ((s.core 0).r.tdesc (dcbT (s.line sp0) 4))) = false ∧
        fmtIsEs (tdFmt ((s.core 0).r.tdesc (dcbT (s.line sp0) 5))) = false ∧ 0 < gRows ((s.core 0).r.gen (dcbG (s.line sp0) 4)) ∧
        (roleSpans (s.line sp0) ((s.core 0).r.tdesc (dcbT (s.line sp0) 4)) ((s.core 0).r.gen (dcbG (s.line sp0) 4)) 32 1 0).Pairwise
          (fun p q => p.1 + p.2 ≤ q.1 ∨ q.1 + q.2 ≤ p.1)) := by
  intro w x h
  fin_cases h
  · exact ⟨ready_of (by decide +kernel), legal_of (by decide +kernel), by decide +kernel⟩
  · exact ⟨ready_of (by decide +kernel), legal_of (by decide +kernel), by decide +kernel⟩
  · exact ⟨ready_of (by decide +kernel), legal_of (by decide +kernel), by decide +kernel⟩
  · exact ⟨ready_of (by decide +kernel), legal_of (by decide +kernel), by decide +kernel⟩

/-- PARK with mode SAVE to the last buffer of a scratchpad, PARK with mode ADD to a target, and RESUME from both; the contribution count
is one below its largest value. -/
theorem witness_ParkAndResume : let s := go { s := [(1, 0x1800000 - 10304)] } { sk := [(0, { st := .opened })] }
    let w := wd [(47, 1)]
    let s2 : State := { go {} { sk := [(0, { st := .sealed })] } with mem := [(sp0, 2), (sp0 + 8, 0xFE)] ++ (List.range 7).map (fun i => (sp0 + 9 + i, 0xFF)) }
    let w2 := wd [(52, 1)]
    let r1 : State := { s0 with mem := [(sp0, 1), (sp0 + 1, 32)] }
    let r2 : State := { s0 with mem := [(sp0, 2)] }
    ((Ready s 0 ∧ NextOk s 0) ∧ Legal s 0 ⟨0, 0x06, w⟩ ∧ mWaits s 0 ⟨0, 0x06, w⟩ = false ∧ parkCheck s 0 w = none ∧ bitOf w 52 = false ∧ (∀ x ∈ [s, s2, r1, r2], x.ecc = [] ∧ x.sp.err = [])) ∧
    ((Ready s2 0 ∧ NextOk s2 0) ∧ Legal s2 0 ⟨0, 0x06, w2⟩ ∧ mWaits s2 0 ⟨0, 0x06, w2⟩ = false ∧ parkCheck s2 0 w2 = none ∧ bitOf w2 52 = true ∧
      s2.rd (spBase 0 + ((s2.core 0).r.sreg 0).toNat + 8) 8 + 1 < 2 ^ 64) ∧
    ((Ready r1 0 ∧ NextOk r1 0) ∧ Legal r1 0 ⟨0, 0x07, 0⟩ ∧ mWaits r1 0 ⟨0, 0x07, 0⟩ = false ∧ resumeCheck r1 0 0 = none ∧ r1.rd sp0 1 = 1) ∧
    ((Ready r2 0 ∧ NextOk r2 0) ∧ Legal r2 0 ⟨0, 0x07, 0⟩ ∧ mWaits r2 0 ⟨0, 0x07, 0⟩ = false ∧ resumeCheck r2 0 0 = none ∧ r2.rd sp0 1 = 2 ∧
      bitOf (r2.byte (sp0 + 6)) 1 = false) :=
  ⟨⟨ready_of (by decide +kernel), legal_of (by decide +kernel), by decide +kernel, by decide +kernel, by decide +kernel, by decide +kernel⟩,
    ⟨ready_of (by decide +kernel), legal_of (by decide +kernel), by decide +kernel, by decide +kernel, by decide +kernel, by decide +kernel⟩,
    ⟨ready_of (by decide +kernel), legal_of (by decide +kernel), by decide +kernel, by decide +kernel, by decide +kernel⟩,
    ⟨ready_of (by decide +kernel), legal_of (by decide +kernel), by decide +kernel, by decide +kernel, by decide +kernel, by decide +kernel⟩⟩

/-- The last slot in each transient state. -/
theorem witness_SkeinTransients : let s := fun (t : SkSt) => go {} { sk := [(15, { st := t })], pend := [15] }
    (∀ t ∈ [SkSt.draining, .parking, .resuming true, .resuming false], 0 < (s t).nCores ∧ Quiet (s t) ∧ ((s t).core 0 |>.m.skein 15).st = t) ∧
      pieceStaged (s .draining) 0 15 = true := by
  refine ⟨?_, by decide +kernel⟩
  intro t ht
  fin_cases ht <;> exact ⟨by decide +kernel, quiet_of (by decide +kernel), by decide +kernel⟩

/-- The last line of a scratchpad holds a descriptor and a generator at a time; a queue of 15; 31 requests outstanding. -/
theorem witness_DescriptorsAndTransfersEnter : let d := desc 9 8 4 sp0 32
    let s := (go { s := [(1, 0x17FFFC0)], t := [(0, d), (1, desc 9 4 8 (sp0 + 256) 16)] } {}).wr (sp0 + 0x17FFFC0) 64 d.toNat
    let g := (go { s := [(1, 0x17FFFC0)] } {}).wr (sp0 + 0x17FFFC0) 64 (gen 1 1).toNat
    let x : Xfer := { kind := 0, transpose := false, ts := 0, td := 0, so := 0, dst := 0, sn := 0, sem := 0 }
    let c : Core := {
      r := { s := [(3, 0x400000008)], t := [(0, d), (1, desc 9 4 8 (sp0 + 256) 16)] }
      seq := running, dma := [(0, { xs := List.replicate 15 x })], reqs := List.replicate 31 0 }
    let f := fun (op : Nat) => ({ one c with mem := [(sp0, BitVec.ofNat 8 op)] } : State)
    let q := wd [(29, 4), (44, 1)]
    ((Ready s 0 ∧ NextOk s 0) ∧ Legal s 0 ⟨2, 0x01, wd [(48, 1)]⟩ ∧ tdOk (s.line (spBase 0 + 0x17FFFC0)) = true ∧ (∀ x ∈ [s, g, f 1], x.ecc = [] ∧ x.sp.err = [])) ∧
    ((Ready g 0 ∧ NextOk g 0) ∧ Legal g 0 ⟨2, 0x02, wd [(49, 1)]⟩ ∧ genOk (g.line (spBase 0 + 0x17FFFC0)) = true ∧ Legal g 0 ⟨2, 0x03, wd [(49, 1)]⟩) ∧
    (∀ op ∈ [1, 2, 4, 5, 8, 6, 7], (Ready (f op) 0 ∧ NextOk (f op) 0) ∧ ((f op).core 0).reqs.length < 32 ∧ ((f op).byte (spBase 0)).toNat = op) ∧
    (let s := f 0
     ((s.core 0).dmaq 0).xs.length < 16 ∧ Legal s 0 ⟨2, 0x04, q⟩ ∧ dmaCheck s 0 q = none ∧ Legal s 0 ⟨2, 0x05, wd [(29, 3), (44, 1)]⟩ ∧
       dmatCheck s 0 (wd [(29, 3), (44, 1)]) = none ∧ ∀ o ∈ [6, 7, 8], Legal s 0 ⟨2, o, 0⟩) := by
  refine ⟨⟨ready_of (by decide +kernel), legal_of (by decide +kernel), by decide +kernel, by decide +kernel⟩,
    ⟨ready_of (by decide +kernel), legal_of (by decide +kernel), by decide +kernel, legal_of (by decide +kernel)⟩, ?_,
    by decide +kernel, legal_of (by decide +kernel), by decide +kernel, legal_of (by decide +kernel), by decide +kernel, ?_⟩
  · intro op h
    fin_cases h <;> exact ⟨ready_of (by decide +kernel), by decide +kernel, by decide +kernel⟩
  · intro o h
    fin_cases h <;> exact legal_of (by decide +kernel)

/-- Transfers of every kind at the head of the last queue. -/
def sX (x : Xfer) : State := { one { dma := [(3, { xs := [x, x] })] } with mem := [(5, 1)] }

def xf (k : Nat) : Xfer :=
  let e := desc 0 64 1 sp0 0
  let f := desc 9 64 1 (sp0 + 0x1000) 0
  let a := desc 9 8 4 sp0 32
  let b := desc 9 4 8 (sp0 + 0x1000) 16
  match k with
  | 1 => { kind := 1, transpose := false, ts := f, td := e, so := 0, dst := 0, sn := 64, sem := 0 }
  | 2 => { kind := 2, transpose := false, ts := desc 4 64 1 sp0 0, td := desc 0 64 1 (sp0 + 0x1000) 0, so := 0, dst := 0, sn := 64, sem := 0 }
  | 3 => { kind := 3, transpose := false, ts := e, td := desc 4 64 1 (sp0 + 0x1000) 0, so := 0, dst := 0, sn := 64, sem := 0 }
  | 5 => { kind := 5, transpose := true, ts := a, td := b, so := 0, dst := 0, sn := 0x400000008, sem := 0 }
  | k => { kind := k, transpose := false, ts := desc 9 64 1 sp0 0, td := f, so := 0, dst := 0, sn := 64, sem := 0 }

theorem witness_TransfersRun : ∀ k < 6, let s := sX (xf k)
    let own := s.ownerOfCore 0
    let sp := xferSpans (xf k)
    0 < s.nCores ∧ ((s.core 0).dmaq 3).xs = [xf k, xf k] ∧ ((s.core 0).dmaq 3).frozen = false ∧ (xf k).done = false ∧ badSpan s own sp = none ∧
      (∀ p ∈ sp.1 ++ sp.2, portHeld s p = false) ∧ s.ecc = [] ∧ s.sp.err = [] ∧ dmaMoves s 0 = true ∧ (xferScaled (xf k)).all (fun t => decide (scaleErr s own t = none)) = true ∧ (xf k).kind = k := by
  decide +kernel

theorem witness_TransferContents : ∀ k ∈ [0, 4, 5], let x := xf k
    fmtIsEs (tdFmt x.td) = false ∧ (x.kind ≠ 4 → tdFmt x.ts = tdFmt x.td) ∧
      (xferSpans x).2.Pairwise (fun a b => a.1 + a.2 ≤ b.1 ∨ b.1 + b.2 ≤ a.1) ∧ (x.transpose = true ↔ x.kind = 5) ∧ x.pos = 0 ∧ x.kind = k := by
  decide +kernel

/-- A semaphore at its largest value but one, and at its largest value. -/
theorem witness_TransferCompletes : let x : Xfer := { xf 0 with done := true }
    ∀ v ∈ [0xFFFFFFFE, 0xFFFFFFFF], let s := one { r := { sem := [(0, v)] }, dma := [(3, { xs := [x] })] }
    0 < s.nCores ∧ Quiet s ∧ ((s.core 0).dmaq 3).xs = [x] ∧ ((s.core 0).dmaq 3).frozen = false ∧ x.done = true ∧ (s.core 0).seq.ending = false ∧ (s.core 0).seq.run = .idle ∧
      ((s.core 0).r.semv x.sem + 1 < 2 ^ 32 ↔ v = 0xFFFFFFFE) := by
  intro x v h
  fin_cases h <;> exact ⟨by decide +kernel, quiet_of (by decide +kernel), by decide +kernel, by decide +kernel, by decide +kernel, by decide +kernel, by decide +kernel, by decide +kernel⟩

/-- An opcode that no slot has. -/
theorem witness_BundlesFormAndAreRejected : Ready s0 0 ∧ slotIllegal ⟨1, 0x7F, 0⟩ = true ∧ s0.nCores ≤ 128 :=
  ⟨(ready_of (by decide +kernel)).1, by decide +kernel, by decide +kernel⟩

/-- A core with its save area at the end of GDDR7. -/
def sSave (r : RunSt) : State := { one { seq := { run := r } } with
  regs := [(coreOff 0 0x118, BitVec.ofNat 64 0x100000)], mem := [(0x100000, 0x56), (0x100001, 0x41), (0x100002, 0x53), (0x100003, 0x5A), (0x100004, 1), (0x100006, 32)] }

theorem witness_PreemptionSteps : (∀ r ∈ [RunSt.running, .quiescing, .restoring], let s := sSave r
      0 < s.nCores ∧ s.ecc = [] ∧ s.sp.err = [] ∧ (s.core 0).seq.run = r ∧ saveAreaOk s 0 = true ∧ saveHits s (saveBase s 0) 0 = false ∧
        (∀ p ∈ saveSpans (saveBase s 0) (saveBanks s 0) ++ restSpans s (saveBase s 0), memBusy s p.1 p.2 = false)) ∧ restoreOk (sSave .idle) 0 = true ∧
    (let i : SlotI := ⟨3, 0x20, wd [(43, 1), (41, 1)]⟩
     let s := one { seq := { running with q := [[i]] } }
     canIssue s 0 = true ∧ (s.core 0).seq.q = [[i]] ∧ headNext s 0 [i] = .dead) ∧
    (let s : State := { s0 with cores := [], course := 16, u := { s0.u with pow := { s0.u.pow with run := true, awake := [0] } } }
     s.u.pow.awake.contains 0 = true ∧ s.idleFor 0 (pwrGateDelay s) = true ∧ s.u.pow.reqs.any (fun r => r.core == some 0) = false) := by
  decide +kernel

theorem witness_SavedCoresComeBack : let s := sSave .quiescing
    0 < s.nCores ∧ 0x700000 % 0x100000 = 0 ∧ 0x700000 + saveSize ≤ s.gddrTop ∧ s.NoErr ∧ bitOf (s.reg 0 0xC00018) 63 = false ∧ CoreFits (s.core 0) := by
  refine ⟨by decide +kernel, by decide, by decide +kernel, ⟨rfl, rfl⟩, by decide +kernel, ?_⟩
  constructor <;> simp [sSave, one, State.core, SMap.get, tableOk, Core.dmaq, CoreMat.whalf, CoreMat.fhalf]
  all_goals intros; exact ⟨by decide, by simp, by simp⟩

/-! ### Bench -/

def calmB (s : State) : Bool :=
  decide (s.ecc = []) && decide (s.sp.err = []) && (s.u.mem.ch.all (fun c => decide (c.2.state ≠ 1) && decide (c.2.state ≠ 3)) && s.u.host.cxl.all (fun p => decide (p.2.st ≠ 3)) && decide (s.u.host.st = 2)) && !bitOf (s.reg 0 0xC00018) 63

theorem calm_of {s : State} (h : calmB s = true) : s.Calm := by
  simp only [calmB, Bool.and_eq_true, decide_eq_true_eq, Bool.not_eq_true', List.all_eq_true] at h
  refine ⟨?_, ?_, h.2⟩
  · exact h.1.1
  · exact ⟨h.1.2.1.1, h.1.2.1.2, h.1.2.2⟩

def stdB (s : State) (e n : Nat) (l : Launch) : Bool :=
  decide (e < s.nCh) && decide ((s.eng e).cur = some l) && (s.eng e).running && !l.result && decide (l.slot = n) && l.line.all (fun x => decide (s.bytes x.1 128 = x.2)) && calmB s

theorem std_of {s : State} {e n : Nat} {l : Launch} (h : stdB s e n l = true) : StdRuns s e n l := by
  simp only [stdB, Bool.and_eq_true, decide_eq_true_eq, Bool.not_eq_true'] at h
  constructor
  case calm => exact calm_of h.2
  case line =>
    intro x hx
    simpa [hx] using h.1.2
  all_goals tauto

def runsB (s : State) (e : Nat) (l : Launch) : Bool :=
  decide (e < s.nCh) && decide ((s.eng e).cur = some l) && (s.eng e).running && !linkGone s

theorem runs_of {s : State} {e : Nat} {l : Launch} (h : runsB s e l = true) : Runs s e l := by
  simp only [runsB, Bool.and_eq_true, decide_eq_true_eq, Bool.not_eq_true'] at h
  exact ⟨h.1.1.1, h.1.1.2, h.1.2, h.2⟩

/-- A 512-byte launch block from (byte offset, value) pairs. -/
def blk (fs : List (Nat × Nat)) : BitVec 4096 := BitVec.ofNat 4096 (fs.foldl (fun a f => a + f.2 * 256 ^ f.1) 0)

/-- Slot n for slice 7, with a result at 0x9000, stream 0 to read 65 FP32 elements, stream 1 to write them, and stream 2 to write 64 ES elements with
scale entry 5. -/
def lnch (n : Nat) (res : Bool) : Launch :=
  { blk := blk [(0, n), (1, if res then 3 else 1), (4, 7), (8, 0x9000), (80, 0x1000), (86, 9), (88, 65), (112, 0x2000), (118, 9), (119, 1), (120, 65),
      (144, 0x3000), (151, 1), (152, 64), (164, 5)] }

/-- Engine 0 as x over memory with a program of 2 instructions in slot 12, scale entry 5 valid, and slice 7 of the table at 0x200000: one row of two
columns on engine 0, master 0x4000, state 0x5000, accumulator 0x6000, working copy 0x7000 of scale entry 5, parameters 0x8000. -/
def sB (x : Engine) : State :=
  { mem := [(2560, 5), (2565, 1), (16384 * 12 + 4, 2), (0x200000, 7), (0x200008, 1), (0x20000C, 2), (0x200011, 0x40), (0x200017, 0x50), (0x20001D, 0x60), (0x200029, 0x70),
      (0x200030, 5), (0x200034, 1), (0x200036, 1), (0x200039, 0x80)]
    regs := [(0xE00010, 0x1000000200000), (0xE00020, 0x1FFF)], bench := { eng := [(0, x)] }, u := { host := { st := 2 } } }

def onB (l : Launch) (k : List (Nat × W64)) (pc : Nat) : State := sB { st := .runFg, cur := some l, k, pc }

/-- Every lane operation, with the last of its M values. -/
theorem witness_BenchLaneOperations : let l := lnch 12 false
    let s := onB l [] 1
    Runs s 0 l ∧ ∀ p ∈ [(0x03, 0), (0x04, 0), (0x05, 0), (0x06, 3), (0x07, 1), (0x08, 0), (0x09, 1), (0x0A, 2), (0x0D, 3), (0x10, 0), (0x0B, 0), (0x0C, 0), (0x0C, 1)],
      benchIllegal s p.1 (BitVec.ofNat 26 p.2) (s.eng 0) l = false :=
  ⟨runs_of (by decide +kernel), by decide +kernel⟩

/-- The last instruction of a loop body with one run and with two runs left; shifts by 63 and by 64; HASH with 33 elements left; LOOP over one instruction, and passed; BRZ back to instruction 0, and passed. -/
theorem witness_BenchScalarOperations : let l := lnch 12 false
    let s := onB l [(1, 63), (2, 64), (3, 33), (4, 1)] 0
    let t := onB l [(4, 1)] 1
    let x := s.eng 0
    let ok := fun (op w : Nat) => benchIllegal s op (BitVec.ofNat 26 w) x l = false
    let v := fun (n : Nat) => s.setEng 0 { x with loops := [⟨0, 1, n⟩] }
    Runs s 0 l ∧ Runs t 0 l ∧ (Runs (v 1) 0 l ∧ Runs (v 2) 0 l) ∧ (∀ n < 3, benchIllegal (v n) 0 0 ((v n).eng 0) l = false ∧ ((v n).eng 0).pc + 1 = 1) ∧ ok 0 0 ∧ ok 0x12 (2 ^ 21 - 1) ∧ ok 0x11 (2 ^ 11) ∧ ok 0x16 7 ∧ ok 0x17 1 ∧ ok 0x13 (7 + 2 ^ 11) ∧ x.kreg 1 = 63 ∧
      ok 0x13 (7 + 2 ^ 12) ∧ x.kreg 2 = 64 ∧ ok 0x13 8 ∧ ok 0x0F (3 + 3 * 2 ^ 6) ∧ x.kreg 3 = 33 ∧ ok 0x14 (4 * 2 ^ 16 + 1) ∧ x.kreg 4 ≠ 0 ∧
      ok 0x14 65535 ∧ x.kreg 0 = 0 ∧ ok 0x15 (4 * 2 ^ 16 + 65535) ∧ benchIllegal t 0x15 65535 (t.eng 0) l = false :=
  ⟨runs_of (by decide +kernel), runs_of (by decide +kernel), ⟨runs_of (by decide +kernel), runs_of (by decide +kernel)⟩, by decide +kernel⟩

theorem witness_BenchStreams : let l := lnch 12 true
    let s := onB l [] 1
    let x := s.eng 0
    Runs s 0 l ∧ s.Calm ∧ benchIllegal s 0x01 0 x l = false ∧ (l.strm 0).fmt = 9 ∧ benchIllegal s 0x02 (BitVec.ofNat 26 (2 ^ 16)) x l = false ∧
      (l.strm 1).fmt = 9 ∧ benchIllegal s 0x0E (BitVec.ofNat 26 (2 ^ 17)) x l = false ∧ entryBad s (l.strm 2).entry = false ∧
      benchIllegal s 0x18 0 x l = false ∧ l.result = true ∧ engReach s 0 l.own l.resAddr 64 true = true :=
  ⟨runs_of (by decide +kernel), calm_of (by decide +kernel), by decide +kernel⟩

/-- The sixteenth foreground launch and the sixty-fourth background launch, and one behind each full queue; the first of each started; an engine with none. -/
theorem witness_LaunchesQueueAndStart : let s := { sB { fg := List.replicate 15 (lnch 12 false), bg := List.replicate 63 (lnch 12 false) } with mem := [(0x10001, 1)] }
    let t := sB { fg := List.replicate 16 (lnch 12 false), bg := List.replicate 64 (lnch 12 false) }
    0 < s.nCh ∧ s.NoErr ∧ linkGone s = false ∧ 0 ∉ (s.eng 0).drop ∧ (s.eng 0).fg.length < 16 ∧ (s.eng 0).fgw = [] ∧ (s.eng 0).bg.length < 64 ∧ (s.eng 0).bgw = [] ∧
      16 ≤ (t.eng 0).fg.length ∧ 64 ≤ (t.eng 0).bg.length ∧ bitOf (BitVec.ofNat 4096 (s.rd 0x10000 512)) 8 = true ∧ bitOf (BitVec.ofNat 4096 (s.rd 0x10200 512)) 8 = false ∧
      (let g := lnch 12 false
       ∀ u ∈ [sB { fg := [g] }, sB { bg := [g] }], (u.eng 0).running = false ∧ (u.eng 0).ok = true ∧ g.fold = none ∧
        (let v := u.setEng 0 {}
         launchBad v g = false ∧ launchStale v g = none ∧ launchHit v 0 g = none)) ∧
      ((sB { fg := [lnch 12 false] }).eng 0).fg = [lnch 12 false] ∧ ((sB { bg := [lnch 12 false] }).eng 0).fg = [] ∧
      ((sB { bg := [lnch 12 false] }).eng 0).bg = [lnch 12 false] ∧ (sB {}).eng 0 = {} := by
  refine ⟨by decide +kernel, ⟨rfl, rfl⟩, by decide +kernel⟩

/-- Every optimizer, the elements of a slice whose arrays lie apart. -/
theorem witness_OptimizerPrograms : ∀ n ∈ [5, 6, 7, 8], let l := { lnch n false with line := some (0x200000, (sB {}).bytes 0x200000 128) }
    let s := onB l [] 0
    let a := 0x200000
    StdRuns s 0 n l ∧ l.entry s = some a ∧ slId s a = l.slice ∧ sliceFrozen s a = false ∧
      1 < slRows s a * slCols s a ∧ stAddr s a 0 1 + 4 ≤ stAddr s a 1 1 ∧ wAddr s a 1 + 4 ≤ stAddr s a 0 1 ∧
      (s.slice (slId s a)).par = none := by
  intro n h
  fin_cases h <;> exact ⟨std_of (by decide +kernel), by decide +kernel⟩

theorem no_entries (s : State) (e k : Nat) (h : s.mem = []) : engEntries s e k = [] := by
  have : scaleIdx s k = [] := by
    unfold scaleIdx
    rw [List.filter_eq_nil_iff]
    intro x _
    simp [State.byte, h, bitOf]
  simp [engEntries, this]

/-- A cast, a history program with no entry, an entry that counted nothing, and one of 65,535 that counted one value. -/
theorem witness_CastAndHistoryPrograms : (let l := lnch 0 false
      let s := onB l [] 0
      StdRuns s 0 0 l ∧ l.entry s = some 0x200000 ∧ slId s 0x200000 = l.slice ∧ entryBad s (slWcEntry s 0x200000) = false) ∧
    (let l := lnch 1 false
     let s := { onB l [] 0 with mem := [] }
     StdRuns s 0 1 l ∧
        (let u := (engEntries s 0 l.snap).foldl (histEntry 0 l.own (l.arg 0)) (stdBusy s 0)
         (u.eng 0).running = true)) ∧
    (let s := onB (lnch 1 false) [] 0
     let b := scaleBase s + 512 * 5
     s.Calm ∧ s.rd (b + 64) 6 = 0 ∧ s.rd (b + 88) 6 = 0 ∧ s.bench.ran.contains 10 = false) ∧
    (let s : State := { mem := [(512 * 65535 + 112, 1), (512 * 65535 + 143, 0x40)], u := { host := { st := 2 } } }
     let c := scaleBase s + 512 * 65535 + 64 + 48
     s.Calm ∧ s.rd c 6 ≠ 0 ∧ watchLow (s.rd c 6) (s.rd (c + 6) 6) (s.rd (scaleBase s + 512 * 65535 + 16) 4) = false) := by
  refine ⟨⟨std_of (by decide +kernel), by decide +kernel⟩, ⟨std_of (by decide +kernel), ?_⟩, ⟨calm_of (by decide +kernel), by decide +kernel⟩,
    calm_of (by decide +kernel), by decide +kernel⟩
  dsimp only
  rw [no_entries _ _ _ rfl]
  decide +kernel

/-- A chain add at a first position and at a later one; a digest with another slice to come; noise statistics. -/
theorem witness_ReductionPrograms : (∀ n ∈ [2, 3, 4], let l := lnch n false
      let s := onB l [] 0
      StdRuns s 0 n l ∧ l.entry s = some 0x200000 ∧ slId s 0x200000 = l.slice) ∧
    (let s := { onB (lnch 3 false) [] 0 with regs := [(0xE00010, 0x2000000200000)] }
     StdRuns s 0 3 (lnch 3 false) ∧ (lnch 3 false).entry s = some 0x200000 ∧ slId s 0x200000 = 7 ∧ (s.slice 7).digested = false ∧ 0x200080 ∈ sliceEntries s ∧ slId s 0x200080 ≠ 7 ∧
       (s.slice (slId s 0x200080)).digested = false) ∧
    (let g : Group := { members := [0, 1] }
     let c : Conv := { id := 0, own := none, gid := 3, seq := 0, op := 6, rank := 1, pos := 1, ep := 0, hash := 0, epoch := 0 }
     let s := { onB (lnch 2 false) [] 0 with u := { col := { groups := [(3, g)], convs := [c] }, host := { st := 2 } } }
     StdRuns s 0 2 (lnch 2 false) ∧ findConv s (lnch 2 false).conv = some c ∧ s.group c.gid = some g) := by
  refine ⟨?_, ⟨std_of (by decide +kernel), by decide +kernel⟩, std_of (by decide +kernel), by decide +kernel⟩
  intro n h
  fin_cases h <;> exact ⟨std_of (by decide +kernel), by decide +kernel⟩

/-- The last micro-batch of a position of a slice of 32 rows, folded at once and behind a launch; a piece that is not next; values in rows apart from the
table; a slice ready to fan out to no member, and to one. -/
theorem witness_PiecesFold : let m := [(0x200000, 7), (0x200008, 32), (0x20000C, 32), (0x20001D, 0x60), (0x200032, 3), (0x200034, 1), (0x200036, 2), (0x20003E, 1)]
    let p : Piece := { desc := BitVec.ofNat 128 (7 * 2 ^ 32 + 32 * 2 ^ 96 + 2 ^ 104), vals := [] }
    let q : Piece := { desc := BitVec.ofNat 128 (7 * 2 ^ 32 + 32 * 2 ^ 96 + 2 ^ 104 + 2 ^ 112), vals := [] }
    let s : State := { mem := m, regs := [(0xE00010, 0x1000000200000), (0xA00000, 1)], u := { col := { pieces := [p, q] }, host := { st := 2 } } }
    let l : Launch := { own := p.own, blk := mkBlock 0 true p.slice, src := 0x6000, fold := some p }
    let b : State := { s with bench := { eng := [(0, { fg := List.replicate 15 (lnch 12 false) })] } }
    let f : State := { s with bench := { slices := [(7, { folded := true })] } }
    let g : State := { f with u := { f.u with col := { groups := [(3, { fanout := [1] })] } } }
    s.Calm ∧ b.Calm ∧ (s.u.col.pieces = [p, q] ∧ sliceFind s p.slice = some 0x200000 ∧ p.slice ≠ noSlice ∧ slEngine s 0x200000 < s.nCh ∧ pieceBad s 0x200000 p = false ∧
      pieceDup s 0x200000 p = false ∧ pieceBad s 0x200000 q = false ∧ pieceDup s 0x200000 q = false ∧ slNoise s 0x200000 = false ∧
      ((foldOf s p.slice p.rb p.col0).map (fun f => f.next)).getD 0 = p.mb ∧ q.mb ≠ p.mb ∧ q.rb < 65536 ∧ heldCount s 0x200000 q.rb q.col0 < 8 ∧
      (freeSlot s 0x200000).isSome = true ∧
      (s.eng 0).fgw = [] ∧ (s.eng 0).running = false ∧ (s.eng 0).ok = true ∧ (s.eng 0).fg = [] ∧ launchStale s l = none ∧ launchHit s 0 l = none ∧
      pieceDup b 0x200000 p = false ∧ (b.eng 0).fg ≠ [] ∧ (b.eng 0).fg.length < 16) ∧
    (0 + 32 ≤ slCols s 0x200000 ∧ ∀ i < 1024, slAcc s 0x200000 + 5 * ((32 * 0 + i / 32) * slCols s 0x200000 + 0 + i % 32) + 5 ≤ 0x200000) ∧
    ((sliceEntries f).find? (fanReady f) = some 0x200000 ∧ f.group (slGroup f 0x200000 % 4096) = none ∧ slLead f 0x200000 = false) ∧
    ((sliceEntries g).find? (fanReady g) = some 0x200000 ∧ (g.group (slGroup g 0x200000 % 4096)).isSome = true ∧ colOn g = true ∧
      (g.group (slGroup g 0x200000 % 4096)).all (fun x => !dormant g x) = true) := by
  refine ⟨calm_of (by decide +kernel), calm_of (by decide +kernel), by decide +kernel⟩

/-- Engine 0 restores, from slot 0 at 0x10000, an image with the given entries. -/
def sRest (m : List (Nat × Byte)) (sum : W64) (es : List Nat) : State :=
  let h : State := { regs := [(0xE00030, 16)], u := { host := { st := 2 } } }
  ({ h with mem := m }.putBytes 0x10000 (snapHeader h { slot := 0, own := none, step := 1, sum, entries := es })).setEng 0 { st := .runBg, cur := some (lnch 10 false) }

/-- The image in slot 0. -/
def image0 (s : State) : List Byte := s.bytes (snapBase s 0) (imageLen (s.bytes (snapBase s 0) 256))

/-- An image of entry 5 alone, all of it zero. -/
def rest1 : State := sRest [] (digestSum 3 0 (words64 (List.replicate 512 0))) [5]

/-- An image without entries, beside a valid entry 3. -/
def rest0 : State := sRest [(1541, 1)] 0 []

/-- A restore from an image of one entry. -/
theorem witness_Snapshots_restore_one : StdRuns rest1 0 10 (lnch 10 false) ∧ snapRemote rest1 0 = false ∧
    engReach rest1 0 none (snapBase rest1 0) (imageLen (rest1.bytes (snapBase rest1 0) 256)) false = true ∧ imageOk rest1 none (image0 rest1) = true ∧
    imgF (image0 rest1) 52 4 = 1 ∧ ∀ p ∈ restEntries rest1 0 (image0 rest1), engReach rest1 0 none p.1 p.2.1 true = true := by
  have h : (restEntries rest1 0 (image0 rest1)).all (fun p => engReach rest1 0 none p.1 p.2.1 true) = true := by decide +kernel
  exact ⟨std_of (by decide +kernel), by decide +kernel, by decide +kernel, by decide +kernel, by decide +kernel, List.all_eq_true.mp h⟩

/-- A restore from an image of none. -/
theorem witness_Snapshots_restore_none : StdRuns rest0 0 10 (lnch 10 false) ∧ snapRemote rest0 0 = false ∧
    engReach rest0 0 none (snapBase rest0 0) (imageLen (rest0.bytes (snapBase rest0 0) 256)) false = true ∧ imageOk rest0 none (image0 rest0) = true ∧
    imgF (image0 rest0) 52 4 = 0 ∧ ∀ p ∈ restEntries rest0 0 (image0 rest0), engReach rest0 0 none p.1 p.2.1 true = true := by
  refine ⟨std_of (by decide +kernel), by decide +kernel, by decide +kernel, by decide +kernel, by decide +kernel, fun p hp => ?_⟩
  have hd : declared rest0 = [] := by decide +kernel
  have hq : rest0.ownerList.all (fun p => decide ((rest0.queuesOf p).2 = 0)) = true := by decide +kernel
  have hb : imgF (image0 rest0) 52 4 = 0 ∧ scaleBase rest0 = 0 ∧ 0x2100000 ≤ rest0.edfBase := by decide +kernel
  simp only [List.all_eq_true, decide_eq_true_eq] at hq
  simp only [restEntries, hb.1, ↓reduceIte, List.mem_map, List.mem_filter, validEntries, List.mem_range, hb.2.1] at hp
  obtain ⟨x, ⟨⟨hx, -⟩, -⟩, rfl⟩ := hp
  have hg : gddrOk rest0 (512 * x) 16 = true := by simp [gddrOk, within]; omega
  simp +contextual [engReach, State.ownerReach, hitsMaster, hitsQueues, overlap, hd, hq, wrSpan, hg]

/-- Entry 3 is valid and on channel 0. -/
theorem witness_Snapshots_entry : bitOf (rest0.byte (scaleBase rest0 + 512 * 3 + 5)) 0 = true ∧ (rest0.gddrMap (scaleBase rest0 + 512 * 3)).1 = 0 := by
  decide +kernel

/-- A copy, and a completion. -/
theorem witness_Snapshots : let l := lnch 9 false
    let n : Snap := { slot := 0, own := none, step := 1, parts := [(0, 0)], entries := [5] }
    let s := { onB l [] 0 with bench := { eng := [(0, { st := .runBg, cur := some l })], snap := some n } }
    (StdRuns s 0 9 l ∧ s.bench.snap = some n ∧ (0, l.conv) ∈ n.parts ∧ n.slot = l.snap ∧
      snapRemote s n.slot = false ∧ ∀ p ∈ snapParts s 0 n.late l.conv n.entries, engReach s 0 l.own (snapBase s n.slot + 256 + p.1) p.2.length true = true) ∧
    (let c := { s with bench := { snap := some { n with parts := [] } } }
     c.Calm ∧ c.bench.snap = some { n with parts := [] } ∧ snapRemote c n.slot = false) :=
  ⟨⟨std_of (by decide +kernel), by decide +kernel⟩, calm_of (by decide +kernel), by decide +kernel⟩

/-! ### Registers -/

/-- A write of the last instance of a register, of each half, of the table of valid Patterns, of an armed injection, and of an offset with no register. -/
theorem witness_RegisterWrites : let s : State := {}
    let r := Reg.coreSaveBase 127
    r.listed ∧ r.absent s = false ∧ r.plain = true ∧ (∀ v, regForbids s false r (s.stored r) (rwPut s r v) v (2 ^ 64 - 1) = false) ∧
      (∀ x w m, regForbids s false r (s.stored r) x w m = false) ∧ gddrHeld s = false ∧ bitsOf (BitVec.ofNat 64 (131 * 2 ^ 48 + 2 ^ 40)) 55 48 ≤ 131 ∧
      0 < bitsOf (BitVec.ofNat 64 (131 * 2 ^ 48 + 2 ^ 40)) 47 40 ∧ regAt 0x50 = none ∧
      (let t : State := { regs := [(0x880010, 3)] }
       ∀ p < 16, (t.stored .lnkPatValid).getLsbD p = true → (1 : W64).getLsbD p = false → patIdle t p = true) :=
  ⟨by simp [Reg.listed], by decide +kernel, by decide +kernel, fun _ => rfl, fun _ _ _ => rfl, by decide +kernel, by decide +kernel, by decide +kernel, by decide +kernel, by decide +kernel⟩

theorem witness_CountersClear : let s : State := {}
    127 < s.nCores ∧ 63 < s.nCh ∧ 63 < s.nLinks ∧ 15 < s.nOwners := by
  decide +kernel

theorem witness_RegisterMapIsExact : (Reg.coreStage 127).listed ∧ (Reg.hdmCtrl 1 3).listed ∧ (Reg.lnkPolicy 16383).listed := by simp [Reg.listed]

/-- The last VF and a core's register; the PF after boot and a register of the boot group. -/
theorem witness_ForbiddenWritesAreViolations : let s : State := { u := { host := { vfEn := true, numVf := 15 }, ctl := { boot := 3 } } }
    (0 < 15 ∧ 15 < s.nOwners ∧ fnLive s 15 = true ∧ s.u.host.frozen.contains 15 = false ∧ (Reg.coreSaveBase 0).listed ∧ (Reg.coreSaveBase 0).inView 15 = false) ∧
    (s.u.ctl.boot = 3 ∧ s.u.host.frozen.contains 0 = false ∧ writeRight (.fn 0) (.coreSaveBase 0) = .none) :=
  ⟨⟨by decide, by decide +kernel, by decide +kernel, by decide +kernel, by simp [Reg.listed], by decide +kernel⟩, by decide +kernel⟩

/-- LOCAL 92 with another granule, the compatibility mode, and an epoch of the last owner with the error flag to clear. -/
theorem witness_MemoryMapAndModeWrites : let s : State := {}
    gddrHeld s = false ∧ bitsOf (0x5C : W64) 8 7 ≠ 3 ∧ bitsOf (0x5C : W64) 6 0 ≤ 92 ∧ bitsOf (0x5C : W64) 8 0 ≠ bitsOf (s.stored .bncMap) 8 0 ∧
      bitsOf (1 : W64) 0 0 ≠ bitsOf (s.stored .memCtrl) 0 0 ∧ bitsOf (0 : W64) 0 0 = bitsOf (s.stored .memCtrl) 0 0 ∧
      (15 < s.nOwners ∧ s.jobRuns 15 = false ∧ s.u.crs.arms.any (fun a => armOwner a == 15) = false ∧ bitOf (0x10000FFFF : W64) 32 = true ∧
        bitOf (0xFFFF : W64) 32 = false) := by
  decide +kernel

/-! ### Course time -/

/-- A follower with parent link 63, in a lock state. -/
def sF (st good last : Nat) (synced : Bool) : State :=
  { regs := [(0x500008, 0x3F01)], course := 2000, u := { crs := { st, synced, good, lastSync := last, links := [(63, { t1 := some 5 })] } } }

/-- RUN of a lead and of a follower, the parent left alone; a first sync; a sixteenth sync at the tolerance and one beyond it; the limits of HOLDOVER; and a boundary
of a stopped counter and of a lead. -/
theorem witness_CourseTime : let s : State := {}
    (s.u.crs.st = tsStopped ∧ s.u.crs.arms = [] ∧ bitsOf (0x7F03 : W64) 14 8 = 127 ∧ bitsOf (0x3F01 : W64) 14 8 ≤ 63 ∧
      bitOf (0x7F03 : W64) 0 = true ∧ bitOf (s.stored .crsCtrl) 0 = false ∧ bitOf (0x7F03 : W64) 1 = true ∧ bitOf (0x3F01 : W64) 1 = false ∧ bitOf (0 : W64) 0 = false ∧ s.u.pow.loss = 0 ∧
      (({ u := { pow := { loss := 1 } } } : State).u.pow.loss ≠ 0)) ∧
    (let f := sF tsAcquiring 0 0 false
     63 < f.nLinks ∧ 63 = crsParent f ∧ crsLead f = false ∧ f.u.crs.st = tsAcquiring ∧ f.u.crs.synced = false ∧ Quiet f ∧
       (0 : Int) ≤ (0 : Nat) + (crsLinkOf f 63).delay) ∧
    (let f := sF tsAcquiring 15 0 true
     63 < f.nLinks ∧ 63 = crsParent f ∧ crsLead f = false ∧ f.u.crs.st = tsAcquiring ∧ f.u.crs.synced = true ∧ f.u.crs.good = 15 ∧
       (((2000 * 9000 + crsTol f : Nat) : Int) + (crsLinkOf f 63).delay - (f.course.toNat * 9000 : Nat)).natAbs = crsTol f ∧ (crsLinkOf f 63).t1 = some 5) ∧
    (let f := sF tsLocked 16 976 true
     f.u.crs.st = tsLocked ∧ [0, 63].Nodup ∧ crsLead f = false ∧ f.u.crs.lastSync + 1024 ≤ f.course.toNat) ∧
    (let f : State := { sF tsHoldover 16 0 true with course := 1001 }
     f.u.crs.st = tsHoldover ∧ f.u.crs.heldAt + crsHold f < f.course.toNat ∧ f.u.crs.arms = []) ∧
    (let l : State := { regs := [(0x500008, 0x7F03)], u := { crs := { st := tsLocked } } }
     counterRuns l = true ∧ l.u.crs.st ≠ tsHoldover ∧ crsLead l = true ∧ l.u.crs.arms = [] ∧ l.u.col.convs = [] ∧ l.bench.snap = none ∧ Quiet l) := by
  refine ⟨by decide +kernel, ⟨by decide +kernel, by decide +kernel, by decide +kernel, by decide +kernel, by decide +kernel, quiet_of (by decide +kernel), by decide +kernel⟩,
    by decide +kernel, by decide +kernel, by decide +kernel,
    ⟨by decide +kernel, by decide +kernel, by decide +kernel, by decide +kernel, by decide +kernel, by decide +kernel, quiet_of (by decide +kernel)⟩⟩

/-- An arm entry of a kind, for owner 0, with a target and an argument. -/
def arm (k t g : Nat) : Arm := { e := BitVec.ofNat 256 (k * 2 ^ 64 + t * 2 ^ 96 + g * 2 ^ 128), course := 0, seq := 4 }

/-- A locked lead with an arm due. -/
def sA (k t g : Nat) : State := { u := { crs := { st := tsLocked, arms := [arm k t g] }, host := { st := 2 } } }

theorem no_valid (s : State) (h : s.mem = []) : validEntries s = [] := by
  unfold validEntries
  rw [List.filter_eq_nil_iff]
  intro x _
  simp [State.byte, h, bitOf]

/-- A record without tensor entries is 4 lines long. -/
theorem record_length (s : State) (r : StepRec) (hm : s.mem = []) (hn : r.noise = none) (hs : r.swatch.length = 3) : (recordBytes s r).length = 256 := by
  have hl : ∀ (l : List Nat) (f : Nat → Nat), (l.flatMap (fun v => leBytes 4 (f v))).length = 4 * l.length := by
    intro l f
    induction l with
    | nil => rfl
    | cons a l ih => simp only [List.flatMap_cons, List.length_append, leBytes_length, ih, List.length_cons]; omega
  unfold recordBytes recordEntries
  rw [no_valid s hm, hn]
  simp only [List.length_append, leBytes_length, List.map_nil, List.flatMap_nil, Option.getD_none, List.length_nil]
  have h2 : (List.flatMap (fun v => leBytes 4 v) [0, 0, 0, 0, 0]).length = 20 := by simp [leBytes_length]
  have h1 := hl (List.range 16) (fun i => SMap.get 0xFFFFFFFF i r.marks)
  have h3 := hl r.swatch (fun n => min n (2 ^ 32 - 1))
  rw [List.length_range] at h1
  rw [hs] at h3
  omega

/-- A record of a first step that is ready to be written. -/
def rec0 : StepRec := { own := 0, step := 1, start := 0, ready := true }

/-- The record waits for a ledger of 16,384 lines at address b, with memory and host port as given. -/
def sLedg (b : Nat) (m : MemSt) (h : HostSt) : State :=
  { regs := [(0x500040, BitVec.ofNat 64 (2 ^ 48 + b))], u := { crs := { closed := [rec0] }, mem := m, host := h } }

/-- A record for a calm GDDR7, for one with every channel retraining, and for the host window with the link down. -/
theorem record_fits : ∀ x ∈ [(0, ({} : MemSt), ({ st := 2 } : HostSt)), (0, { ch := (List.range 64).map (fun c => (c, { state := 3 })) }, { st := 2 }), (0x400000000000, {}, {})],
    let s := sLedg x.1 x.2.1 x.2.2
    s.u.crs.closed = [rec0] ∧ rec0.ready = true ∧ (recordBytes s rec0).length = 256 ∧ ledgerPlace s (256 / 64) = some s.u.crs.head ∧
      memGone s (ledgerBase s + 64 * s.u.crs.head) 256 = false ∧
      (s.Calm ∨ memBusy s (ledgerBase s + 64 * s.u.crs.head) 256 = true ∨ (s.u.host.st ≠ 2 ∧ 0x400000000000 ≤ ledgerBase s + 64 * s.u.crs.head ∧
        ledgerBase s + 64 * s.u.crs.head < 0x800000000000)) := by
  intro x h
  fin_cases h
  · exact ⟨rfl, rfl, record_length _ _ rfl rfl rfl, by decide +kernel, by decide +kernel, Or.inl (calm_of (by decide +kernel))⟩
  · exact ⟨rfl, rfl, record_length _ _ rfl rfl rfl, by decide +kernel, by decide +kernel, Or.inr (Or.inl (by decide +kernel))⟩
  · exact ⟨rfl, rfl, record_length _ _ rfl rfl rfl, by decide +kernel, by decide +kernel, Or.inr (Or.inr (by decide +kernel))⟩

/-- An entry at the least course that is allowed; each kind due; effects at the largest target. -/
theorem witness_ArmedEventsAndLedger :
    (let s : State := { u := { crs := { st := tsLocked, w0 := 4, w1 := 8 + 4095 * 2 ^ 32 }, host := { st := 2 } } }
     let e := (0 : W64) ++ s.u.crs.w2 ++ s.u.crs.w1 ++ s.u.crs.w0
     byteField e 8 1 ≠ 1 ∧ byteField e 0 8 = s.course.toNat + crsLeadMin s ∧ armBad s e (byteField e 0 8) 0 [] = false ∧ s.Calm) ∧
    ((sA 1 0 0).u.crs.arms.any (fun a => armKind a == 1 && armOwner a != bitsOf (0x10000 : W64) 19 16) = true) ∧
    (∀ k < 11, 0 < k → nextArm (sA k 0 0) = some (arm k 0 0) ∧ counterRuns (sA k 0 0) = true ∧ armKind (arm k 0 0) = k ∧ armRepeat (arm k 0 0).e = false) ∧
    ((fenceOpen 0 (sA 2 0xFFFE 0)).2 = false ∧ byteField (arm 9 63 0).e 12 4 < (sA 9 63 0).nCh ∧
      (((sA 10 (127 + 256 * 63) 1).core 127).r.semv 63) + 1 < 2 ^ 32 ∧ Quiet (sA 10 (127 + 256 * 63) 1) ∧
      (let g : State := { u := { col := { groups := [(4095, {})] } } }
       g.u.col.convs = [] ∧ g.group 4095 = some {}) ∧
      (let o : State := { owners := [(0, { st := .active, job := some {} })] }
       (o.owner 0).job.isSome = true ∧ o.bench.snap = none ∧ o.u.crs.lost = [] ∧ SMap.find 0 o.u.crs.steps = none ∧ sliceCount o = 0)) ∧
    (sA 1 0 0).Calm ∧ patValid { regs := [(0x880010, 0x8000)] } 15 = true ∧ ({} : State).bench.snap = none ∧ snapRemote {} (nextSlot {}) = false := by
  refine ⟨⟨by decide +kernel, by decide +kernel, by decide +kernel, calm_of (s := { u := { crs := { st := tsLocked, w0 := 4, w1 := 8 + 4095 * 2 ^ 32 }, host := { st := 2 } } }) (by decide +kernel)⟩, by decide +kernel, by decide +kernel, ⟨by decide +kernel, by decide +kernel, by decide +kernel, quiet_of (by decide +kernel), by decide +kernel, by decide +kernel⟩,
    calm_of (by decide +kernel), by decide +kernel⟩

/-! ### Links -/

/-- Link 63 as x, light and an address in place. -/
def sN (x : Link) : State :=
  { regs := [(0x880000, 0x8000000800000000)], u := { net := { links := [(63, x)], light := [(7, 0xFF)] }, ctl := { idUsable := true } } }

/-- A packet of VC 2 from this device to device dst, with n bytes of data and a job tag. -/
def pk (dst tag n : Nat) : Pkt := mkPkt (sN {}) 2 2 tag 0 dst (List.replicate n 7)

/-- The 248 bytes between link word and CRC. -/
def z248 : List Byte := List.replicate 248 0

/-- A flit with a link word, zeros, and what stands in place of the CRC. -/
def flitOf (w : Nat) (crc : List Byte) : BitVec (8 * 256) := BitVec.ofNat (8 * 256) (leNat (leBytes 4 w ++ z248 ++ crc))

def crcOf (w : Nat) : Nat := (crc32 (leBytes 4 w ++ z248)).toNat

theorem leBytes_leNat (l : List Byte) : leBytes l.length (leNat l) = l := by
  induction l with
  | nil => rfl
  | cons b r ih =>
    simp only [List.length_cons, leBytes, leNat]
    have hb : b.toNat < 256 := b.isLt
    rw [show (b.toNat + 256 * leNat r) / 256 = leNat r by omega, ih]
    congr 1
    apply BitVec.eq_of_toNat_eq
    rw [BitVec.toNat_ofNat, show (2 : Nat) ^ 8 = 256 from rfl]
    omega

theorem leNat_lt (l : List Byte) : leNat l < 256 ^ l.length := by
  have h := leNat_leBytes l.length (leNat l)
  rw [leBytes_leNat] at h
  rw [h]
  exact Nat.mod_lt _ (Nat.pow_pos (by decide))

theorem flit_len (w : Nat) (crc : List Byte) (h : crc.length = 4) : (leBytes 4 w ++ z248 ++ crc).length = 256 := by
  rw [List.length_append, List.length_append, leBytes_length, show z248.length = 248 from List.length_replicate, h]

theorem ofNat_leNat (l : List Byte) (n : Nat) (h : l.length = n) : (BitVec.ofNat (8 * n) (leNat l)).toNat = leNat l := by
  have hn := leNat_lt l
  rw [h] at hn
  rw [BitVec.toNat_ofNat, Nat.pow_mul, show (2 : Nat) ^ 8 = 256 from rfl, Nat.mod_eq_of_lt hn]

theorem flitOf_bytes (w : Nat) (crc : List Byte) (h : crc.length = 4) : leBytes 256 (flitOf w crc).toNat = leBytes 4 w ++ z248 ++ crc := by
  have hl := flit_len w crc h
  unfold flitOf
  rw [ofNat_leNat _ 256 hl]
  have := leBytes_leNat (leBytes 4 w ++ z248 ++ crc)
  rwa [hl] at this

theorem flitOf_crc (w : Nat) (crc : List Byte) (h : crc.length = 4) :
    leNat ((leBytes 256 (flitOf w crc).toNat).drop 252) = leNat crc ∧ (crc32 ((leBytes 256 (flitOf w crc).toNat).take 252)).toNat = crcOf w := by
  rw [flitOf_bytes w crc h]
  have hl : (leBytes 4 w ++ z248).length = 252 := by
    rw [List.length_append, leBytes_length, show z248.length = 248 from List.length_replicate]
  unfold crcOf
  generalize leBytes 4 w ++ z248 = l at hl
  rw [← hl, List.drop_left, List.take_left]
  exact ⟨rfl, rfl⟩

/-- The link word of a flit is its first four bytes. -/
theorem flitOf_word (w : Nat) (crc : List Byte) (h : crc.length = 4) : (flitOf w crc).toNat % 2 ^ 32 = w % 2 ^ 32 := by
  have hb := flitOf_bytes w crc h
  have ht : leBytes 4 (flitOf w crc).toNat = leBytes 4 w := by
    have h4 : ∀ v, (leBytes 256 v).take 4 = leBytes 4 v := fun _ => rfl
    rw [← h4, hb, List.append_assoc]
    have := List.take_left (l₁ := leBytes 4 w) (l₂ := z248 ++ crc)
    rwa [leBytes_length] at this
  have h1 := leNat_leBytes 4 (flitOf w crc).toNat
  have h2 := leNat_leBytes 4 w
  rw [ht] at h1
  rw [show (2 : Nat) ^ 32 = 256 ^ 4 from rfl, ← h1, h2]

theorem flitOf_bit (w : Nat) (crc : List Byte) (h : crc.length = 4) (i : Nat) (hi : i < 32) : (flitOf w crc).getLsbD i = Nat.testBit w i := by
  have hw := congrArg (fun n => Nat.testBit n i) (flitOf_word w crc h)
  simp only [Nat.testBit_mod_two_pow, hi, decide_true, Bool.true_and] at hw
  rw [← hw]
  rfl

/-- A null flit; the first flit of a packet of two on the last credit; a flit with a bad CRC, the next flit and a TIME flit; a retrain below the limit. -/
theorem witness_FlitsAreSentAndTaken : let x : Link := { st := lkUp, tx := { cred := [0, 0, 1, 0], q := [(2, [{ hop := { pkt := pk 1 0 244 } }])] } }
    let crcOk := fun (f : BitVec (8 * 256)) => leNat ((leBytes 256 f.toNat).drop 252) = (crc32 ((leBytes 256 f.toNat).take 252)).toNat
    63 < (sN {}).nLinks ∧ (((sN { st := lkUp }).link 63).st = lkUp ∧ ((sN { st := lkUp }).link 63).tx.time = [] ∧ ((sN { st := lkUp }).link 63).tx.resend = none ∧
      pickVc ((sN { st := lkUp }).link 63) = none) ∧
    ((sN x).link 63 = x ∧ pickVc x = some (2, x.tx.rot) ∧ txq x 2 = [{ hop := { pkt := pk 1 0 244 } }] ∧ x.enc = false ∧
      (startHead x { hop := { pkt := pk 1 0 244 } }).2.1.length = 2) ∧
    (let f := flitOf 0 (leBytes 4 (crcOf 0 + 1))
     ¬ crcOk f ∧ f.getLsbD 29 = false ∧ f.getLsbD 30 = false ∧ x.rx.gap = false) ∧
    (let f := flitOf (2 ^ 25 + 2 ^ 28) (leBytes 4 (crcOf (2 ^ 25 + 2 ^ 28)))
     crcOk f ∧ f.getLsbD 29 = false ∧ f.getLsbD 30 = false ∧ f.toNat % 2 ^ 32 % 4096 = x.rx.exp ∧ f.getLsbD 26 = false) ∧
    (let f := flitOf (2 ^ 25 + 2 ^ 26 + 2 ^ 28) (leBytes 4 (crcOf (2 ^ 25 + 2 ^ 26 + 2 ^ 28)))
     crcOk f ∧ f.getLsbD 26 = true ∧ x.enc = false ∧ f.getLsbD 25 = true) ∧
    (let f := flitOf (2 ^ 29) (leBytes 4 (crcOf (2 ^ 29)))
     crcOk f ∧ f.getLsbD 29 = true) ∧
    (let f : RFlit := { seq := 9, vc := 2, sop := true, eop := true, pay := [], tag := 0 }
     let y : Link := { st := lkUp, tx := { resend := some 0, buf := [f] } }
     ((sN y).link 63).st = lkUp ∧ y.tx.time = [] ∧ y.tx.resend = some 0 ∧ y.tx.buf[0]? = some f) ∧
    (let r : Link := { st := lkRetrain, retrains := 1 }
     ((sN r).link 63).st = lkRetrain ∧ ((sN r).link 63).retrains + 1 < bitsOf (lnkLimits (sN r)) 7 0) := by
  have ok : ∀ w, leNat ((leBytes 256 (flitOf w (leBytes 4 (crcOf w))).toNat).drop 252) =
      (crc32 ((leBytes 256 (flitOf w (leBytes 4 (crcOf w))).toNat).take 252)).toNat := by
    intro w
    obtain ⟨h1, h2⟩ := flitOf_crc w _ (leBytes_length 4 (crcOf w))
    rw [h1, h2, leNat_leBytes]
    exact Nat.mod_eq_of_lt (crc32 _).isLt
  have b := fun w c h i hi => flitOf_bit w c h i hi
  refine ⟨by decide +kernel, by decide +kernel, ⟨rfl, by decide +kernel, rfl, rfl, ?_⟩, ⟨?_, ?_, ?_, rfl⟩, ⟨ok _, ?_, ?_, ?_, ?_⟩, ⟨ok _, ?_, rfl, ?_⟩, ⟨ok _, ?_⟩, by decide +kernel, by decide +kernel⟩
  · decide +kernel
  · intro h
    obtain ⟨h1, h2⟩ := flitOf_crc 0 _ (leBytes_length 4 (crcOf 0 + 1))
    rw [h1, h2, leNat_leBytes] at h
    have : crcOf 0 < 2 ^ 32 := (crc32 _).isLt
    omega
  all_goals first | (rw [b _ _ (leBytes_length _ _) _ (by decide)]; decide) | (rw [flitOf_word _ _ (leBytes_length _ _)]; decide)

/-- A link in every state of its bring-up; a valid chain; a fibre of the last group with a wavelength in and out of limits. -/
theorem witness_LinksComeUpAndGoDown : (∀ st < 6, ((sN { st, enc := true }).link 63).st = st ∧ ((sN { st }).link 63).fails < 3 ∧ (sN { st }).u.ctl.idUsable = true ∧
      ((sN { st }).link 63).keys.cur < 2 ∧ ((sN { st }).link 63).keys.rxCur < 2) ∧ 63 < (sN {}).nLinks ∧
    (bitOf (0x8000000000000000 : W64) 63 = true ∧ bitOf (lnkAddr (sN {})) 63 = true ∧ lightOk (sN {}) 63 = true ∧ (sN {}).u.pow.loss = 0 ∧ bitOf (lnkAddr ({} : State)) 63 = false) ∧
    (0xFFFFF < 2 ^ 20 ∧ 0xFFFFF ≠ (sN { st := 3 }).devAddr ∧ bitOf (lnkCfg (sN { st := 3 }) 63) 61 = false) ∧
    (7 < (sN {}).nGroups ∧ Nat.testBit (SMap.get 0 7 (sN {}).u.net.light) 7 = true ∧ (∀ k < 4, ((sN {}).link (8 * 7 + 4 * 1 + k)).st = 0) ∧
      Nat.testBit (SMap.get 0 7 ({} : State).u.net.light) 7 = false) ∧
    (let c : Chain := { root := [], key := [], part := [0x45, 0x56, 0x5A, 0x37], serial := 0, signed := true }
     let s : State := { u := { ctl := { rtuRoot := sha256 [], idUsable := true } } }
     sha256 c.root = s.u.ctl.rtuRoot ∧ c.signed = true ∧ gen7 c.part = true ∧ s.u.ctl.idUsable = true) := by
  refine ⟨by decide +kernel, by decide +kernel, by decide +kernel, by decide +kernel, by decide +kernel, by
    intro c s
    exact ⟨congrArg sha256 rfl, rfl, by decide +kernel, rfl⟩⟩

/-- A packet in transit over link 63 at its limits; one delivered here without a tag and one with an owner's; credits and stalls. -/
theorem witness_PacketsAreRouted : let up : Link := { st := lkUp }
    let e := 0x900000 + 16
    let n : State := { sN up with regs := [(0x880000, 0x8000000800000000), (e, 0x8000000000000000)] }
    let h : Hop := { pkt := { pk 1 0 0 with hdr := putBytes (pk 1 0 0).hdr 7 1 15 }, from_ := some 63, flits := 2 }
    let s : State := { n with u := { n.u with net := { n.u.net with hop := [h] } }, course := 32 }
    let d : Hop := { pkt := pk 0 9 0, local_ := true }
    let c : Line := ln [(2, 9)]
    let m : State := { n with u := { n.u with net := { n.u.net with hop := [d] } }, owners := [(15, { st := .active, cfg := c })] }
    ((takeHop (fun h => !isMine s h && !hopHeld s h) s).map (fun p => p.1) = some h ∧ route s h.pkt.dst h.pkt.pat = some (.via 0x8000000000000000 0) ∧
      h.pkt.hops + 1 ≤ bitsOf (lnkLimits s) 37 32 ∧ (s.course.toNat % 65536 + 65536 - h.pkt.born) % 65536 ≤ bitsOf (lnkPat s) 47 32 ∧
      openLinks s h 0x8000000000000000 = [63]) ∧
    ((takeHop (isMine m) m).map (fun p => p.1) = some d ∧ e2eCrc d.pkt.hdr d.pkt.body = d.pkt.crc ∧ cfgTag c = 9 ∧ d.pkt.tag = 9 ∧
      (m.ownerOfTag 9).isSome = true ∧ m.u.flt.out = false) ∧
    (let z : Hop := { pkt := pk 0 0 0, local_ := true }
     let m : State := { n with u := { n.u with net := { n.u.net with hop := [z] } } }
     (takeHop (isMine m) m).map (fun p => p.1) = some z ∧ e2eCrc z.pkt.hdr z.pkt.body = z.pkt.crc ∧ z.pkt.tag = 0) ∧
    (txq (n.link 63) 3 = [] ∧
      (let x : Link := { st := lkUp, tx := { cred := [0, 0, 0, 0], q := [(2, [{ hop := d }])], stall := [(2, (0, false))] } }
       let w : State := { sN x with course := 65535 }
       txq (w.link 63) 2 = [{ hop := d }] ∧ nth 0 (w.link 63).tx.cred 2 = 0 ∧ SMap.find 2 (w.link 63).tx.stall = some (0, false) ∧
         0 + bitsOf (lnkLimits w) 63 48 ≤ w.course.toNat ∧ (sN x).course.toNat < 0 + bitsOf (lnkLimits (sN x)) 63 48)) := by
  decide +kernel

/-! ### Collectives -/

/-- Group 4095 of core 0 here and core 0 of device 1. -/
def gr2 : Group := { e := ln [(0, 1), (4, 2), (16, 0xFFFFFFFF)], members := [0, 1] }

/-- The host link and both CXL ports are up. -/
def hostUp : HostSt := { st := 2, cxl := [(0, { st := 2, target := true }), (1, { st := 2, target := true })] }

def sG (c : ColSt) : State :=
  { regs := [(0xA00000, 1), (coreOff 0 0x150, 0x100000000)], u := { col := { c with groups := [(4095, gr2)] }, host := hostUp } }

theorem memGone_up {s : State} (h : s.u.host = hostUp) (a n : Nat) : memGone s a n = false := by
  have h0 : s.cxlUp 0 = true ∧ s.cxlUp 1 = true := by unfold State.cxlUp; rw [h]; decide
  have hl : linkGone s = false := by unfold linkGone; rw [h]; rfl
  unfold memGone
  split <;> simp [h0, hl]


/-- The same with core 0 owner 0's. -/
def sR : State := { sG {} with owners := [(0, { st := .active, cfg := ln [(0, 0xFFFF), (16, 0x8001000000000000)] })] }

/-- A request of core 0 for an operation. -/
def rq (op : Nat) : CReq :=
  { core := 0, kind := if op = 6 ∨ op = 7 then 2 else 0, sem := 0
    line := ln [(0, op), (2, 4095), (8, if op = 6 ∨ op = 7 then 9 else 0), (10, if op = 6 ∨ op = 7 then 1 else 0), (16, 0x1000), (22, if op = 5 then 0 else 0x500000), (32, 64), (40, if op = 8 then 9 else 0)] }

def tl (chain : Bool) : Tile := { core := 0, array := 0, q := 0, own := some 0, chain, arg := 4095, width := 32, vals := [] }

/-- Each operation's request; a chain step and an update piece; a conversation whose gate is closed. -/
theorem witness_CollectiveRequestsBegin : openCount (sG {}) < 16384 ∧ (sG {}).NoErr ∧
    (∀ op ∈ [1, 2, 4, 5, 6, 7, 8], let s := { sR with creqs := [rq op] }
      pickReq op s.creqs = some (rq op) ∧ s.group (rqGroup (rq op).line) = some gr2 ∧ reqBad s (rq op).kind 0 (s.ownerOfCore 0) (rq op).line = false ∧
        rqEpoch (rq op).line = grEpoch gr2.e ∧ dormant s gr2 = false ∧ posInOrder gr2 (rqRank (rq op).line) (rqPos (rq op).line) (memberAs s gr2 (rqRank (rq op).line) 0 == some true) = true ∧
        ∀ p ∈ reqAreas gr2 (rq op), memBusy s p.1 p.2.1 = false ∧ areaOut s (groupOwner s gr2) p = false) ∧
    (∀ b ∈ [true, false], let s := { sR with tiles := [tl b] }
      (s.tiles.find? (fun t => t.chain == b && (s.tiles.find? (fun u => u.core == t.core)) == some t &&
        decide (SMap.get 0 t.core s.u.col.staged < stageSlots s t.core)) = some (tl b) ∧ colOn s = true) ∧ s.group (byteField (tl b).arg 0 2 % 4096) = some gr2 ∧
        byteField (tl b).arg 2 2 = grEpoch gr2.e ∧ dormant s gr2 = false ∧
        ((tileShape s gr2 (tl b)).map (fun x => (x.1, x.2.1, tileBad s gr2 (tl b) x.1 x.2.1))) = some (0, 0, false)) ∧
    (let c : Conv := { id := 0, own := none, gid := 4095, seq := 0, op := 1, rank := 0, ep := 0, hash := 0, epoch := 0, blk := ln [(40, 5)] }
     (sG {}).group c.gid = some gr2 ∧ gr2.late = none ∧ (sG {}).u.col.gone.contains (c.gid, c.seq) = false ∧ c.pos = 0 ∧ (sG {}).u.col.early = [] ∧
       isGated (sG {}) gr2 { c with id := (sG {}).u.col.nextId, st := .gated, runs := [] } = true) := by
  refine ⟨by decide +kernel, ⟨rfl, rfl⟩, ?_⟩
  decide +kernel

/-- A packet of a type for group 4095 from here. -/
def cpk (ty op flags off : Nat) (data : List Byte) : Pkt := mkPkt (sG {}) (colVc ty) ty 0 4095 0 (colHdr op flags 4095 0 0 0 7 off 0 0 0 0 ++ data)

def cv2 (op : Nat) : Conv := { id := 0, own := none, gid := 4095, seq := 0, op, rank := 0, ep := 0, hash := 7, epoch := 0 }

/-- The packet is in the inbox, and a group takes it. -/
def takesB (p : Pkt) (s : State) : Bool :=
  colOn s && decide (s.group p.cGid = some gr2) && !s.u.col.gone.contains (p.cGid, p.cSeq) && decide (p.cEpoch = grEpoch gr2.e) && !dormant s gr2

theorem takes_of {p : Pkt} {s : State} (h : takesB p s = true) : takePkt p s = (some gr2, s) := by
  simp only [takesB, Bool.and_eq_true, decide_eq_true_eq, Bool.not_eq_true'] at h
  unfold takePkt
  simp_all

def inOk (p : Pkt) (ty : Nat) (s : State) : Bool :=
  match takeInbox ty { s with u := { s.u with net := { s.u.net with inbox := [p] } } } with
  | some e => decide (e.1 = p) && takesB p e.2
  | none => false

theorem in_of {p : Pkt} {ty : Nat} {s : State} (h : inOk p ty s = true) :
    ∃ u, takeInbox ty { s with u := { s.u with net := { s.u.net with inbox := [p] } } } = some (p, u) ∧ takePkt p u = (some gr2, u) := by
  unfold inOk at h
  split at h
  · next e he =>
    simp only [Bool.and_eq_true, decide_eq_true_eq] at h
    exact ⟨e.2, by rw [he, ← h.1], takes_of h.2⟩
  · cases h

/-- A group with a list of one member; one unloaded, open or not; a submission at the end of GDDR7; a backup of the last rank; packets of every type, a snapshot's at
the end of its window; a whole result, late, of a submission and of a core; a barrier and a request at their courses; and none. -/
theorem witness_CollectivePacketsAndGroups :
    (sG {}).Calm ∧ (∀ a n, memGone (sG {}) a n = false) ∧
    (let s : State := { mem := [(64 * 4095, 1), (64 * 4095 + 4, 1), (64 * 4095 + 16, 0xFF), (64 * 4095 + 17, 0xFF), (64 * 4095 + 18, 0xFF), (64 * 4095 + 19, 0xFF), (64 * 4095 + 26, 0x90)] }
     bitOf (4095 : W64) 63 = false ∧ groupBad s 4095 (readGroup s 4095) = false) ∧
    (bitOf (4095 : W64) 62 = false ∧ (sG {}).group 4095 = some gr2 ∧ groupOpen (sG {}) 4095 = false ∧ ({} : State).group 4095 = none) ∧
    (let s : State := { mem := [(0x5CFFFFFFC0, 1)] }
     let a := bitsOf (0x5CFFFFFFC0 : W64) 47 6 * 64
     a + 64 ≤ s.gddrTop ∧ reqOpBad 3 (byteField (s.line a) 0 1) = false) ∧
    ((sG {}).group (bitsOf (0x8FFF000100000002 : W64) 59 48) = some gr2 ∧ bitsOf (0x8FFF000100000002 : W64) 47 32 < gr2.n) ∧
    (∀ k ∈ [1, 2, 3], let op := if k = 2 then 6 else if k = 3 then 5 else 1
      let p := cpk k op 0 0 []
      let c : Conv := { cv2 op with rank := 1, recv := true }
      let s := sG { convs := [c] }
      inOk p k s = true ∧ p.cOp ≠ 3 ∧ (k = 2 → p.cRole ≠ gr2.n - 1) ∧ roleFrom gr2 p = true ∧ targets s gr2 p = [(c, 0, 0)] ∧ firstSeen s c.id p = none ∧ c.hash = p.cHash ∧
        c.kind = 0 ∧ p.cFlags = 0 ∧ Nat.testBit (rqFlags c.blk) 0 = false) ∧
    (let p := cpk 5 1 1 4 []
     let s := sG { convs := [cv2 1] }
     inOk p 5 s = true ∧ (cv2 1).hash = p.cHash ∧ roleFrom gr2 p = true ∧ firstSeen s 0 p = none ∧ isAccept gr2 p = false ∧
       s.u.col.convs.find? (fun c => c.gid == p.cGid && c.seq == p.cSeq && c.rank == p.cPos / 4 && c.lastPos gr2) = some (cv2 1)) ∧
    (∀ k < 2, let p := cpk 6 8 k 4 []
      let c : Conv := { cv2 8 with rank := 1 - k, blk := ln [(40, 9)] }
      let s := sG { convs := [c] }
      inOk p 6 s = true ∧ c.hash = p.cHash ∧ roleFrom gr2 p = true ∧ firstSeen s 0 p = none ∧ Nat.testBit p.cFlags 0 = decide (k = 1) ∧ s.course.toNat < rqNb c.blk ∧
        p.cRole ∉ c.arrived ∧ c.arrived.length + 1 ≠ gr2.n ∧
        (k = 0 → s.u.col.convs.find? (fun c => c.gid == p.cGid && c.seq == p.cSeq && c.op == 8 && c.rank == gr2.n - 1) = some c) ∧
        (k = 1 → s.u.col.convs.find? (fun c => c.gid == p.cGid && c.seq == p.cSeq && c.op == 8 && c.rank == p.cPos) = some c)) ∧
    (let p := cpk 7 1 0 0 []
     let s := sG { convs := [cv2 1] }
     inOk p 7 s = true ∧ colOn s = true ∧ p.cOp ≠ 0 ∧ (s.u.col.convs.filter (fun c => c.gid == p.cGid && c.seq == p.cSeq)).head? = some (cv2 1)) ∧
    (let p := cpk 4 0 0 0x3FFFFFFF [9]
     let s := { sG {} with regs := [(0xA00000, 1), (0xA00030, 0x0100000000000000)] }
     (takeInbox 4 { s with u := { s.u with net := { s.u.net with inbox := [p] } } }).isSome = true ∧ colOn s = true ∧ p.cData ≠ [] ∧ bitsOf (s.reg 0 0xA00030) 63 56 ≠ 0 ∧
       p.src = bitsOf (s.reg 0 0xA00030) 55 36 ∧ bitsOf (s.reg 0 0xA00030) 35 0 * 4096 ≤ p.cOff ∧
       p.cOff + p.cData.length ≤ bitsOf (s.reg 0 0xA00030) 35 0 * 4096 + bitsOf (s.reg 0 0xA00030) 63 56 * 0x40000000 ∧ p.cOff + p.cData.length ≤ s.edfBase ∧
       hitsMaster s none p.cOff p.cData.length = false ∧ hitsQueues s none p.cOff p.cData.length = false) ∧
    (let g : Group := { gr2 with e := ln [(0, 1), (4, 1), (16, 0xFFFFFFFF)], members := [0] }
     ∀ x ∈ [(0, 0x80, 5), (0, 0, 5), (1, 0, 0)], let c : Conv := { cv2 1 with st := .moving, ep := x.2.1, sem := some 63, blk := ln [(48, x.1)] }
      let s : State := { u := { col := { groups := [(4095, g)], convs := [c] } }, course := 5 }
      s.u.col.convs.find? (fun c => match s.group c.gid with
        | some g => resultDone g c
        | none => false) = some c ∧ s.group c.gid = some g ∧ c.kind = 0 ∧ pastDl s c = decide (x.1 = 1) ∧ (s.core c.ep).seq.ending = false ∧
        (s.core c.ep).r.semv 63 + 1 < 2 ^ 32) ∧
    ((cv2 8).kind = 0 ∧ (cv2 8).st ≠ .done ∧ rqNb (cv2 8).blk ≤ (sG {}).course.toNat ∧ (sG {}).group (cv2 8).gid = some gr2 ∧
      (let c : Conv := { cv2 1 with blk := ln [(48, 1)] }
       let s : State := { sG { convs := [c] } with course := 1 }
       s.u.col.convs = [c] ∧ c.op ≠ 8 ∧ rqDl c.blk ≠ 0 ∧ rqDl c.blk ≤ s.course.toNat)) ∧
    (sG {}).u.col.convs = [] ∧ Quiet (sG {}) := by
  refine ⟨calm_of (by decide +kernel), memGone_up rfl, ?_⟩
  repeat (refine ⟨by decide +kernel, ?_⟩)
  exact quiet_of rfl

/-! ### Owners and queues -/

/-- An image: every cluster, tag 1, queues 0 to 15, the first 128 MiB, kernels at 0x40000, a pool at 0x50000. -/
def img : Line := ln [(0, 0xFFFF), (2, 1), (8, 16), (16, 0x8001000000000000), (48, 0x40000), (54, 1), (56, 0x50001)]

/-- A valid queue descriptor with DROP_LATE: 16 commands at 0x10000, records at 0x20000. -/
def qd : Line := ln [(0, 3), (2, 1), (3, 4), (8, 0x10000), (16, 0x20000)]

/-- Owner 15 with queue 15, a command at its head, and a kernel of one core. -/
def sQ (st : OwnSt) (c : Line) : State :=
  let s : State := { owners := [(15, { st, cfg := img })], course := 9, u := { que := { shared := true, qs := [(15, { desc := qd, tail := 1 })] }, host := { vfEn := true, numVf := 15 } } }
  (s.wr 0x10000 64 c.toNat).wr 0x40000 64 (ln [(6, 1), (7, 32), (12, 0xFFFF)]).toNat

/-- A doorbell to the full depth, one beyond, and one on a bad descriptor; a head of each kind; a dispatch whose last core is idle; an expired command; a pool with
nothing free. -/
theorem witness_QueuesAndDispatch :
    (let s := (sQ .active 0).wr (64 * 14) 64 qd.toNat
     let b := (sQ .active 0).wr (64 * 14) 64 1
     15 < s.nOwners ∧ fnLive s 15 = true ∧ s.u.host.frozen.contains 15 = false ∧ (s.owner 15).exists = true ∧ s.holds 15 14 = true ∧ (s.ecc = [] ∧ s.sp.err = []) ∧ s.queue 14 = {} ∧
       Nat.testBit (qdFlags (s.line (qtableBase s + 64 * 14))) 0 = true ∧ qdBad img (s.line (qtableBase s + 64 * 14)) = false ∧
       16 ≤ 2 ^ qdLog (s.line (qtableBase s + 64 * 14)) ∧ 2 ^ qdLog (s.line (qtableBase s + 64 * 14)) < 17 ∧
       Nat.testBit (qdFlags (b.line (qtableBase b + 64 * 14))) 0 = true ∧ qdBad img (b.line (qtableBase b + 64 * 14)) = true) ∧
    ((sQ .draining 0).owner 15).st ≠ .active ∧
    (∀ i < 5, let c := ([ln [(0, 2)], ln [(0, 3), (32, 1)], ln [(0, 1), (8, 9)], ln [(0, 1), (8, 10)], 0] : List Line).getD i 0
      let s := sQ .active c
      (s.owner 15).st = .active ∧ (nextQueue 15 s [0, 1, 2, 3]).map (fun e => (e.1, headCmd s e.2.1)) = some (15, c) ∧ cmdBad s img c = decide (c = 0)) ∧
    (cfgPool img = some 0x50000 ∧ expired (sQ .active (ln [(0, 1), (8, 9)])) { desc := qd, tail := 1 } (ln [(0, 1), (8, 9)]) = true ∧
      (let c := ln [(0, 1), (8, 10)]
       let s := sQ .active c
       expired s { desc := qd, tail := 1 } c = false ∧ cmdBatch c = false ∧ placeKernel s img (kernelEntry s img (monitor s img c).1) = some [0] ∧
         fetchOk s 0 (BitVec.ofNat 48 (kEntry (kernelEntry s img (monitor s img c).1))) = true)) ∧
    (let d : Disp := { q := 15, i := 3, own := 15, cmd := ln [(0, 1)], kernel := 0, cores := [0] }
     let s : State := { u := { que := { disp := [d] } } }
     s.u.que.disp.find? (fun d => d.q == 15 && d.i == 3) = some d ∧ d.cores ≠ [] ∧ d.left = [] ∧ cmdBatch d.cmd = false) ∧
    (let s := sQ .active (ln [(0, 1), (8, 9)])
     ((heads s 15).find? (fun e => !cmdBad s img (headCmd s e.2) && expired s e.2 (headCmd s e.2))).map (fun e => e.1) = some 15) ∧
    (0 < (1 : Int) ∧ (poolFree ({} : State) 0x50000 : Int) - poolReserved ({} : State) 0x50000 < 1) := by
  decide +kernel

/-- A handover to exclusive mode that is good; one among partitions that is due; an owner in creation, one with a cluster and a range to clear, and none; an armed handover at the start of its drain and before; a partition reset. -/
theorem witness_OwnersChange :
    (let d := ln [(0, 2), (4, 1), (16, 0x3000)]
     let s := (({} : State).wr 0 64 d.toNat).wr 0x3000 64 (ln [(0, 0xFFFF), (2, 1), (8, 1)]).toNat
     s.ownerList = [] ∧ s.u.crs.arms = [] ∧ s.u.flt.out = false ∧ s.u.flt.running = false ∧ hoResume d = false ∧ hoBad s (readHandover s (bitsOf (0 : W64) 55 48)).1 (readHandover s (bitsOf (0 : W64) 55 48)).2 = false) ∧
    (let d := ln [(0, 3), (2, 0x8000), (4, 2), (6, 10)]
     let a : Arm := { e := BitVec.ofNat 256 (2 ^ 64), course := 9, seq := 0, desc := d, imgs := [0, ln [(0, 0xFFFF), (2, 2), (8, 16), (12, 16), (16, 0x8001000000000000), (48, 0x40000), (54, 1)]] }
     let s := sQ .active 0
     let t : State := { s with u := { s.u with crs := { st := tsLocked, arms := [a] } } }
     nextArm t = some a ∧ armKind a = 1 ∧ counterRuns t = true ∧ t.u.que.shared = true ∧ hoKind d = 3 ∧ hoResume d = false ∧ t.u.flt.out = false ∧ t.u.flt.running = false ∧
       handoverFits t d a.imgs (hoPreempt d) = true ∧ armRepeat a.e = false ∧ ownersIn (hoEnter d) = [1] ∧ ownersIn (hoLeave d) = [15]) ∧
    (let s := sQ .creating 0
     15 < s.nOwners ∧ (s.owner 15).st = .creating ∧ s.u.que.susp = none ∧ cfgClusters img &&& s.u.que.dirtyCl = 0 ∧ s.u.que.dirty = [] ∧ s.u.host.barw = [] ∧
       (s.owner 0).st ≠ .creating) ∧
    (let s : State := { owners := [(15, { st := .creating, cfg := ln [(0, 0x8000), (2, 1), (8, 16), (16, 0x8001000000000000)] })]
                        u := { que := { shared := true, dirtyCl := 0x8000, dirty := [(0x1000, 0x2000)] } } }
     15 < s.nOwners ∧ (s.owner 15).st = .creating ∧ s.u.que.susp = none ∧ cfgPool (s.owner 15).cfg = none ∧ s.ecc = [] ∧ s.sp.err = [] ∧
       bitOf (s.reg 0 0xC00018) 63 = false ∧ s.u.host.barw = [] ∧ Nat.testBit (cfgClusters (s.owner 15).cfg) (127 / 8) = true ∧
       Nat.testBit s.u.que.dirtyCl (127 / 8) = true ∧ cfgRanges (s.owner 15).cfg = [(0, 0x8000000)]) ∧
    (let a : Arm := { e := BitVec.ofNat 256 (2 ^ 64), course := 19, seq := 0, desc := ln [(2, 0x8000), (6, 10)] }
     let s := sQ .active 0
     let t : State := { s with u := { s.u with crs := { arms := [a] } } }
     t.u.crs.arms = [a] ∧ armKind a = 1 ∧ a.course ≤ t.course.toNat + hoDrain a.desc ∧ t.u.que.shared = true ∧
       ({ t with course := 8 } : State).course.toNat + hoDrain a.desc < a.course) ∧
    (let s : State := { owners := [(15, { st := .faulted, cfg := ln [(0, 1), (2, 1), (8, 16)] })], u := { que := { shared := true } } }
     15 < s.nOwners ∧ resetOk 15 s = true) := by
  decide +kernel

/-- Owner 0 in exclusive mode with core 0 running. -/
def sO (st : OwnSt) (m : FltSt) : State :=
  { one { seq := running } with owners := [(0, { st, cfg := ln [(0, 0xFFFF), (2, 1), (8, 1)] })], u := { flt := m, host := { st := 2 } } }

theorem witness_OwnersStopAndFrog :
    (0 < (sO .active {}).nOwners ∧ bitOf (1 : W64) 2 = false ∧ bitOf (1 : W64) 3 = false ∧ bitOf (4 : W64) 0 = false ∧ bitOf (4 : W64) 3 = false ∧
      ((sO .active {}).owner 0).exists = true ∧ ((sO .active {}).owner 0).st ≠ .faulted ∧ 0 < (sO .active {}).nCores ∧ (sO .active {}).ownerOfCore 0 = some 0 ∧
      ((sO .active {}).core 0).seq.run = .running ∧ (sO .active {}).u.que.shared = false) ∧
    (calmB (sO .faulted {}) = true ∧ frogOk (sO .faulted {}) 0 = true ∧ bitOf (8 : W64) 0 = false ∧ bitOf (8 : W64) 2 = false) ∧
    (requalOk {} = true ∧ bitOf (1 : W64) 1 = false ∧ bitOf (2 : W64) 0 = false) ∧
    (requalPhase (sO .active {}) < 2 ∧ (sO .active { running := true }).u.flt.running = true ∧
      2 ≤ requalPhase (sO .active { running := true, reqTested := true, suspects := [(31, ⟨5, 1, 1⟩)] })) ∧
    ((sO .active {}).owner 0).job.any (fun j => decide (j.lead = (sO .active {}).devAddr)) = false := by
  decide +kernel

/-- Nothing of the code recorded and room in the ring; a check of a tile whose line was written, of one that passes, and of one that fails; a tile that may be tested and
one that may not. -/
theorem witness_EventsAndEvidence :
    (let s : State := { regs := [(0x400020, 0x1000000000000)], u := { host := { st := 2 } } }
     calmB s = true ∧ memGone s 0 32 = false ∧ s.u.flt.supp.find? (fun e => e.code == 0x4420 && e.src == 0) = none ∧ s.u.crs.lost = [] ∧
       ringSlot (s.reg 0 0x400020) (bitsOf (s.reg 0 0x400028) 23 0) s.u.flt.head = some 0 ∧ s.u.sw.live = []) ∧
    (let x := fun (v : AF40) (r : SMap Nat) => ({ core := 127, array := 3, cell := 767, own := none, width := 1, fmtW := 8, fmtA := 8, trace := [], vals := [v], reads := r } : Sample)
     let s := fun (t : Sample) => ({ sp := { wlog := [(0x400000000, 0x400000000, 5)], time := 6 }, u := { sw := { live := [t] } } } : State)
     (∀ t ∈ [x 0 [(0x400000000, 5)], x 0 [], x 0x3F80000000 []], (s t).u.sw.live = [t]) ∧ swatchStale (s (x 0 [(0x400000000, 5)])) (x 0 [(0x400000000, 5)]) = true ∧
       swatchStale (s (x 0 [])) (x 0 []) = false ∧ swatchFails (x 0 []) = [] ∧ swatchStale (s (x 0x3F80000000 [])) (x 0x3F80000000 []) = false ∧
       swatchFails (x 0x3F80000000 []) ≠ []) ∧
    (let s : State := { u := { flt := { running := true, reqTested := true }, crs := { elapsed := 30000000 } } }
     127 < s.nCores ∧ testAllowed s 127 3 = true ∧ s.arrayOn 127 3 = true ∧ testAllowed ({} : State) 127 3 = false) := by
  decide +kernel

/-! ### Host port, functions, CXL -/

/-- Function 1 of owner 1, which holds 128 MiB of GDDR7 and the second CXL port's first 2 GiB; a transfer from host memory at the head of the first DMA queue. -/
def sH (st : OwnSt) (h : HostSt) : State :=
  let x : Xfer := { kind := 0, transpose := false, ts := desc 9 8 1 0x400000000000 0, td := desc 9 8 1 sp0 0, so := 0, dst := 0, sn := 8, sem := 0 }
  { one { dma := [(0, { xs := [x] })] } with
    owners := [(1, { st, cfg := ln [(0, 1), (2, 1), (16, 0x8001000000000000), (32, 0x9001000000001000)] })], course := 65536
    u := { host := { h with vfEn := true, numVf := 1 } } }

/-- A link up with its light, and down for 65,536 courses, and for one less; a function's access within its range, while it is created, and beyond it; the last byte of the window. -/
theorem witness_HostPort :
    (let s : State := { u := { pow := { pll := 2 } } }
     (16 = 16 ∨ 16 = 8) ∧ (2 = 1 ∨ 2 = 2) ∧ s.u.pow.pll = 2 ∧ s.u.pow.loss = 0 ∧ ({} : State).u.pow.pll ≠ 2 ∧ ¬ (4 = 16 ∨ 4 = 8)) ∧
    (let s := sH .active { st := 2, hostw := [{ fn := some 1, ws := [(0x400000000000, [7])] }] }
     calmB s = true ∧ ∀ h ∈ s.u.host.hostw, heldLost s h = false) ∧
    (let s := sH .active { st := 2, light := 3 }
     s.u.host.st = 2 ∧ s.u.host.light = (3 : BitVec 2).toNat) ∧
    (let s := sH .active { st := 0, downAt := some 0 }
     0 < 4 * s.nCores ∧ 511 < 4 * s.nCores ∧ s.u.host.st ≠ 2 ∧ s.u.host.downAt = some 0 ∧ 0 + 65536 ≤ s.course.toNat ∧ headHost s 0 false = some (0x400000000000, 4) ∧
       headHost s 511 false = none ∧ headHost s 511 true = none ∧ (sH .active { st := 0, downAt := some 1 }).u.host.downAt = some 1 ∧ s.course.toNat < 1 + 65536) ∧
    (let s := sH .active { st := 2 }
     let c := sH .creating {}
     1 < s.nOwners ∧ fnLive s 1 = true ∧ s.u.host.frozen.contains 1 = false ∧ bar2Addr s 1 0x7FFFFF8 8 = some 0x7FFFFF8 ∧ bar2Reach s 1 0x7FFFFF8 8 true = true ∧
       bar2Reach s 1 0x7FFFFF8 8 false = true ∧ (s.owner 1).st ≠ .creating ∧ calmB s = true ∧ (c.owner 1).st = .creating ∧ fnLive c 1 = true ∧
       bar2Addr c 1 0 8 = some 0 ∧ bar2Reach c 1 0 8 false = true ∧ bar2Addr s 1 0x7FFFFF9 8 = none ∧ 0x7FFFFF9 + 8 ≤ bar2Size s 1 ∧ bar2Size s 1 < 0x1000000000 + 1) ∧
    (inHostWindow 0x7FFFFFFFFFFF 1 = true ∧ inHostWindow 0x800000000000 1 = false ∧ whoOwner {} .ctl = none ∧ 2 ∈ [1, 2]) ∧ 4 < 5 := by
  decide +kernel

/-- A live function with a pending vector; a VF and the PF in each mode; ports up and retraining; the tier's last line; a free decoder and a good control word. -/
theorem witness_FunctionsAndCxl :
    (let s := sH .active { fns := [(1, { pba := [2047] })] }
     1 < s.nOwners ∧ 0 < s.nOwners ∧ fnLive s 1 = true ∧ fnLive s 0 = true ∧ (s.fnOf 0).pba = [] ∧ (s.fnOf 1).unmasked.contains 2047 = false ∧ 2047 < 2048 ∧
       (s.fnOf 1).d3hot = false ∧ resetOk 1 s = false ∧ (({} : State).u.host.vfEn = false ∧ fnLive {} 0 = true)) ∧
    (sH .active { fns := [(1, { d3hot := true })] }).fnOf 1 = { d3hot := true } ∧ (sH .active { st := 2 }).u.host.st = 2 ∧ (sH .active {}).u.host.st ≠ 2 ∧
    (sH .active {}).u.pow.loss = 0 ∧ ({ u := { pow := { loss := 2 } } } : State).u.pow.loss ≠ 0 ∧
    (let c : W64 := putBits (putBits 0 62 62 1) 34 20 1
     bitOf c 62 = true ∧ 0xFFFFFFF < bitsOf c 34 20 * 0x10000000 ∧ SMap.wf 0 ({} : State).mem = true ∧ SMap.wf 0 (SMap.get [] 1 ({} : State).u.host.cxlDev) = true) ∧
    ((sO .active {}).u.que.shared = false ∧ ((sO .active {}).owner 0).exists = true ∧ fnLive (sO .active {}) 0 = true) ∧
    (let s := sH .active { cxl := [(0, { st := 2, target := true }), (1, { st := 3, target := true })] }
     (s.cxlPort 0).st = 2 ∧ (s.cxlPort 1).st = 3 ∧ 1 ∈ s.ownerList ∧ cxlOwner s 1 1 = true ∧ within 0x17FFFFFFFFC0 64 (cxlWindow 1).1 (cxlWindow 1).2 = true ∧ s.cxlUp 1 = true) ∧
    (let s : State := { regs := [(0x2002130, 0x100000000000)], u := { host := { cxl := [(0, { st := 2, target := true })] } } }
     3 < 4 ∧ hdmLoose s 0 3 = true ∧ hdmCommitOk s 0 3 (rwPut s (.hdmCtrl 0 3) (0x100000 ||| 0x8000000000000000)) = true) := by
  decide +kernel

/-! ### The control complex -/

/-- Boot complete with a request of code c and these argument words at the head, over MCTP. -/
def sV (c : Nat) (args : List Nat) : State :=
  let b := ln ((0, c) :: args.zipIdx.map (fun e => (16 + 8 * e.2, e.1)))
  { regs := [(0xE00018, 0x80000)], u := { ctl := { boot := 3, svc := [{ mctp := true, blk := b }] } } }

/-- A program image of one instruction word. -/
def prog1 : List Byte := leBytes 4 0x5A425047 ++ leBytes 2 1 ++ List.replicate 58 0 ++ leBytes 4 0

/-- A request of every code that may be run, and the refusals: a good and a bad register write; a job on core 0 of owner 0; an update while one is being written; a set of the
longest length; a program cleared, and one loaded. -/
theorem witness_ServiceRequests :
    (let s := sV 1 []
     s.u.ctl.svc = [{ mctp := true, blk := ln [(0, 1)] }] ∧ s.u.ctl.boot = 3 ∧ svcWaits s { mctp := true, blk := ln [(0, 1)] } (ln [(0, 1)]) = false ∧ byteField (ln [(0, 1)]) 0 2 = 1) ∧
    (let s := (sV 2 [0x1000, 1]).wr 0x1000 16 (0x200000 + 0x10960 * 2 ^ 64)
     let t := (sV 2 [0x1000, 1]).wr 0x1000 16 (0x200001 + 5 * 2 ^ 64)
     s.rd 0x1000 8 = 0x200000 ∧ writeBad (s.updCtl (fun c => { c with svc := [] })) true .ctl 0x200000 8 0x10960 = false ∧
       writeBad (t.updCtl (fun c => { c with svc := [] })) true .ctl (t.rd 0x1000 8) 8 5 = true) ∧
    (let b := ln [(0, 3), (24, 1), (48, 9)]
     let s : State := { sO .active {} with u := { ctl := { boot := 3, svc := [{ mctp := true, blk := b }] } } }
     byteField b 0 2 = 3 ∧ svcWaits s { mctp := true, blk := b } b = false ∧ policyBad (BitVec.ofNat 32 (svcArg b 3)) = false ∧ (s.owner 0).st = .active ∧ s.jobRuns 0 = false ∧
       (∀ c < 128, Nat.testBit (byteField b 24 16) c = true → coreOk s c = true ∧ c < s.nCores ∧ s.ownerOfCore c = some 0)) ∧
    (let s := (sV 4 [0x1000, 64]).updCtl (fun c => { c with writing := some [] })
     s.u.ctl.writing.isSome = true ∧ s.u.ctl.svc.all (fun v => !svcWaits s v (svcBlock s v)) = true ∧ (sV 4 [0x1000, 64]).u.ctl.writing = none ∧ fetchImage (sV 4 []) 0x1000 64 = some (List.replicate 64 0)) ∧
    (calAllowed (sO .active {}) = false ∧ calAllowed (sV 5 []) = true ∧ fetchImage (sV 5 []) 0x1000 4 = some [0, 0, 0, 0] ∧ 4 ≤ 0x100000) ∧
    (requalOk (sV 7 [1]) = true ∧ anyJob (sV 8 [31, 0, 0]) = false) ∧
    (let s := (sV 8 [31, 0x1000, 68]).putBytes 0x1000 prog1
     fetchImage s 0x1000 68 = some prog1 ∧ progOk prog1 = true ∧ s.u.ctl.svc.all (fun v => !svcWaits s v (svcBlock s v)) = true) ∧
    (let v : Svc := { mctp := false, addr := 0x2000 }
     v.mctp = false ∧ 65535 < 65536 ∧ bitOf (({} : State).stored .svcCtrl) 63 = true) := by
  decide +kernel

theorem beNat_beBytes_two (n : Nat) (h : n < 65536) : beNat (beBytes 2 n) = n := by
  simp [beNat, beBytes, leNat, leBytes]
  omega

/-- An update at its end; boot complete with nothing being written; a vendor message of 66 bytes; image verified and the lock open; no boot. -/
theorem witness_ManagementAndLock :
    (let s := (sV 4 []).updCtl (fun c => { c with writing := some [5] })
     s.u.ctl.writing = some [5] ∧ s.u.ctl.pldm = false ∧ s.u.ctl.boot = 3 ∧ (sV 4 []).u.ctl.writing = none ∧ svcQueued s < 64) ∧
    (∃ b : List Byte, b.length = 66 ∧ beNat (b.take 2) = Config.vendor.toNat) ∧ 3 ∉ [0, 1, 5, 6, 0x7E] ∧
    (let s : State := { u := { ctl := { boot := 3, writing := some [5], pldm := true } } }
     s.u.ctl.writing = some [5] ∧ s.u.ctl.pldm = true ∧ s.u.ctl.fwReq = none) ∧
    (let k : Token := { ok := true, serial := ({} : State).u.ctl.chain.serial, nonce := ({} : State).u.ctl.debugNonce, scope := 1 }
     k.ok = true ∧ k.serial = ({} : State).u.ctl.chain.serial ∧ k.nonce = ({} : State).u.ctl.debugNonce ∧ { k with ok := false }.ok = false) ∧
    (let s : State := { u := { ctl := { boot := 2 } } }
     s.locked = false ∧ s.u.ctl.boot = 2 ∧ s.u.ctl.boot ≠ 3) ∧ 4095 < 4096 := by
  refine ⟨by decide +kernel, ⟨beBytes 2 Config.vendor.toNat ++ List.replicate 64 0, rfl, ?_⟩, by decide, by decide +kernel, ⟨rfl, rfl, rfl, rfl⟩, by decide +kernel, by decide⟩
  have h : (beBytes 2 Config.vendor.toNat ++ List.replicate 64 0).take 2 = beBytes 2 Config.vendor.toNat := rfl
  rw [h, beNat_beBytes_two _ Config.vendor.isLt]

/-! ### Memory and power -/

/-- Every channel of a state in one state. -/
def chans (m : MemCh) : SMap MemCh := (List.range 64).map (fun c => (c, m))

/-- The last sector before EDF's region, by the control complex, in service, waiting, retraining and in initialisation; a clean patrol; the last word of the last
scratchpad, and one of its data bits. -/
theorem witness_MemoryAccesses :
    (let s : State := { u := { mem := { ch := chans { state := 2 } } } }
     let a := 0x5CFFFFFFC0
     whoReach s .ctl (a / 64 * 64) 64 false = true ∧ a / 64 * 64 + 64 ≤ s.gddrTop ∧ s.ecc = [] ∧ s.sp.err = [] ∧
       (s.memCh (s.gddrMap (a / 64 * 64)).1).state = 2 ∧ (s.memCh (s.gddrMap (256 * 0x5CFFFFFF)).1).state = 2 ∧
       (({} : State).memCh (s.gddrMap (a / 64 * 64)).1).state ≠ 2 ∧ whoReach s .ctl (256 * 0x5CFFFFFF) 256 true = true ∧ 256 * 0x5CFFFFFF + 256 ≤ s.gddrTop ∧
       0x5CFFFFFFFF % 256 + 1 ≤ 256 ∧ whoReach s .ctl 0x5CFFFFFFFF 1 true = true ∧ 0x5CFFFFFFFF + 1 ≤ s.gddrTop ∧ (s.memCh (s.gddrMap 0x5CFFFFFFFF).1).state = 2 ∧
       63 < s.nCh ∧ (s.memCh 63).state = 2 ∧ memPatrol s ≠ 0 ∧ patrolEarly s (s.memCh 63) = false) ∧
    (({} : State).memCh 63).state ≠ 2 ∧
    (let o : MemOp := { kind := 0, who := .ctl, a := 0x5CFFFFFFC0, from_ := 0x5CFFFFFF }
     let s : State := { u := { mem := { ch := chans { state := 3, wait := [o] } } } }
     (s.memCh 63).state = 3 ∧ (s.memCh 63).wait = [o] ∧ o.kind = 0 ∧ o.from_ = o.a / 256 ∧ s.u.host.barw = [] ∧ s.u.host.hostw = []) ∧
    (let s : State := {}
     let a := spBase 127 + 0x17FFFF8
     a % 8 = 0 ∧ whoReach s .ctl a 8 false = true ∧ spCore s a 8 = some 127 ∧ a - spBase 127 < 0x2000000 ∧ s.sp.err = [] ∧ s.sp.ce.contains (a / 8) = false) ∧
    (testsDue {} = true ∧ ({} : State).u.flt.running = false) ∧
    (let s : State := { u := { mem := { ch := [(63, { state := 1 })] } } }
     s.u.mem.ch.any (fun e => decide (e.2.state = 1)) = true ∧ s.u.mem.keep = [] ∧ (s.memCh 63).wait = [] ∧ s.u.ctl.boot ≠ 2 ∧ bitOf (s.reg 0 0xC00018) 63 = false ∧
       ({} : State).u.mem.ch.any (fun e => decide (e.2.state = 1)) = false) ∧
    (let s : State := { regs := [(0x3000008, 1)], u := { mem := { ch := [(63, { state := 1 })] }, ctl := { boot := 2 } } }
     s.u.mem.ch.any (fun e => decide (e.2.state = 1)) = true ∧ s.u.ctl.boot = 2 ∧ s.locked = true) ∧
    (127 < ({} : State).nCores ∧ 2 ^ 22 - 1 < 2 ^ 22 ∧ 63 < 64 ∧ 21 < 22) := by
  decide +kernel

/-- The last sector's address, beside one that shares no byte with it and one that shares four; the last word of a scratchpad. -/
theorem witness_SectorCodeCorrects : 2 ^ 40 - 1 < 2 ^ 40 ∧ (List.replicate 256 (0xFF : Byte)).length = 256 ∧ 1 < 2 ∧ 127 < 128 ∧ 7 < 8 ∧ (1 : Byte) ≠ 0 ∧
    (2 ^ 40 - 2 ≠ 2 ^ 40 - 1 ∧ ∃ i < 5, (2 ^ 40 - 2) / 256 ^ i % 256 = (2 ^ 40 - 1) / 256 ^ i % 256) ∧ (∀ i < 5, 0 / 256 ^ i % 256 ≠ (2 ^ 40 - 1) / 256 ^ i % 256) ∧
    2 ^ 64 - 1 < 2 ^ 64 ∧ 2 ^ 22 - 1 < 2 ^ 22 ∧ 63 < 64 := by
  decide +kernel

/-- Inputs at the ends of the range; boot states; a ramp at its end, on its way down and up; a clock loss; a manager that runs; an admitted faster step at its voltage; a
sensor that the part has, one that it has not, and a temperature at the trip. -/
theorem witness_BootClocksAndPower :
    (inputOk 40000 = true ∧ inputOk 60000 = true ∧ inputOk 39999 = false ∧ inputOk 60001 = false) ∧
    ((({} : State).u.ctl.boot = 0 ∧ ({} : State).u.pow.pll = 0 ∧ ({} : State).u.pow.loss = 0 ∧ ({} : State).u.pow.run = false ∧ ({} : State).u.pow.faster = none ∧
      ({} : State).u.pow.rst = false) ∧
     (let s : State := { u := { ctl := { boot := 1, flashImg := some [] } } }
      s.u.ctl.boot = 1 ∧ s.u.ctl.flashImg = some [] ∧ s.u.pow.pll ≠ 2)) ∧
    (let s : State := { u := { ctl := { boot := 1, flashImg := some [] }, pow := { pll := 2, shut := true, rst := true } } }
     s.u.ctl.boot = 1 ∧ s.u.pow.pll = 2 ∧ s.u.ctl.flashImg = some [] ∧ s.u.pow.shut = true ∧ s.u.pow.rst = true ∧ ({} : State).u.pow.shut = false) ∧
    (let s : State := { u := { pow := { pll := 1 } } }
     s.u.pow.pll = 1 ∧ s.u.pow.src.length = 5 ∧ s.u.pow.div.length = 5 ∧ s.u.pow.goal.length = 5 ∧ s.u.pow.pll ≠ 2) ∧
    (let s : State := { u := { pow := { div := [9, 4, 5, 5, 5], goal := [7, 6, 0, 0, 0], pll := 2, run := true } } }
     3 < 4 ∧ nth 0 s.u.pow.goal 3 = 0 ∧ 0 < nth 0 s.u.pow.goal 0 ∧ nth 0 s.u.pow.goal 0 + 1 < nth 0 s.u.pow.div 0 ∧ 0 < nth 0 s.u.pow.goal 1 ∧
       nth 0 s.u.pow.div 1 + 1 < nth 0 s.u.pow.goal 1 ∧ s.u.pow.loss = 0 ∧ s.u.pow.pll = 2 ∧ s.u.pow.run = true ∧ s.stopped = false) ∧
    (let s : State := { u := { pow := { point := 1, faster := some 0, admitted := true, rail := 730, run := true } } }
     s.u.pow.faster = some 0 ∧ s.u.pow.admitted = true ∧ railSet s = true ∧ s.stopped = false ∧ s.u.pow.run = true) ∧
    (let s : State := { course := 65535, u := { pow := { run := true, awake := [127] } } }
     127 < s.nCores ∧ s.u.pow.run = true ∧ 127 ∈ s.u.pow.awake ∧ s.idleFor 127 (pwrGateDelay s) = true ∧ s.u.pow.reqs = []) ∧
    (let s : State := { part := .evz7096 }
     67 < 68 ∧ sensorOn s 67 = true ∧ sensorOn s 63 = false ∧ s.u.ctl.cal = none ∧ tripOf 0 = some 460 ∧ tripOf 67 = none) ∧
    ((38000 : Nat) ≤ 38000 ∧ 37999 < 38000 ∧ 0x3B ≠ 0x3A ∧ 0 < 0x100000000000) := by
  decide +kernel

/-- A queue with a command, and an empty one; a queue whose front resets nothing, with locks set, a trip, a clock loss and open debug, and canonical memory. -/
theorem witness_StepRunsFrontCommand : ({} : State).pending = [] := rfl

theorem witness_StepKeeps : let s : State := { mem := [(5, 1)], regs := [(0x3000008, 1)], pending := [.pieceArrive], u := { pow := { tripped := true, loss := 1 }, ctl := { debugOpen := true } } }
    (∃ t, step s = .next t) ∧ Canonical s ∧ (∀ c, s.pending.head? = some c → ¬ mayReset c) ∧ s.locked = true ∧ s.u.pow.tripped = true ∧ s.u.pow.loss ≠ 0 ∧
      s.u.ctl.debugOpen = true := by
  refine ⟨⟨_, rfl⟩, ⟨by decide +kernel, by decide +kernel⟩, ?_, by decide +kernel, rfl, by decide, rfl⟩
  intro c h
  cases h
  exact id

end Sys2Proof.Tests
end

/-! ### How a command answers -/

section
namespace Sys2Proof.Machine

open Sys2Proof

/-- An answer that is a next state, or the refusal of a unit that the part lacks (R2, R3, R6). -/
def NextOrNoUnit (o : Host.Outcome State Fault Refusal) : Prop :=
  (∃ t, o = .next t) ∨ o = .refused .noSuchUnit

theorem nextOrNoUnit_next (t : State) : NextOrNoUnit (.next t) := .inl ⟨t, rfl⟩

/-- The test of a unit number: every meaning that takes one is built on it. -/
theorem nextOrNoUnit_ite (p : Prop) [Decidable p] (t : State) :
    NextOrNoUnit (if p then .next t else .refused .noSuchUnit) := by
  by_cases hp : p
  · rw [if_pos hp]; exact nextOrNoUnit_next t
  · rw [if_neg hp]; exact .inr rfl

/-- What comes after a next state keeps the answer's kind: the shape of the standard programs that do more once they have run. -/
theorem nextOrNoUnit_then (g : State → State) (o : Host.Outcome State Fault Refusal) :
    NextOrNoUnit o → NextOrNoUnit (match o with
      | .next t => .next (g t)
      | r => r) := by
  rintro (⟨t, rfl⟩ | rfl)
  · exact nextOrNoUnit_next (g t)
  · exact .inr rfl

/-- A standard program of the Bench names its engine. -/
theorem stdRun_nextOrNoUnit (e slot : Nat) (f : Launch → State → State) (s : State) :
    NextOrNoUnit (stdRun e slot f s) :=
  nextOrNoUnit_ite _ _

/-- A word of the scratchpad is no unit of its own; a word of an array names its core. -/
theorem execSramRead_nextOrNoUnit (who : Who) (x : SramWord) (e : BitVec 72) (idx : Nat) (s : State) :
    NextOrNoUnit (execSramRead who x e idx s) := by
  cases x with
  | pad a => exact nextOrNoUnit_next _
  | array n a pos word again => exact nextOrNoUnit_ite _ _

/-- Both the CXL port and the decoder are tested. -/
theorem execHdmCommit_nextOrNoUnit (w : Who) (p n : Nat) (v : W64) (s : State) : NextOrNoUnit (execHdmCommit w p n v s) := by
  unfold execHdmCommit
  by_cases hp : p < 2
  · rw [if_pos hp]; exact nextOrNoUnit_ite _ _
  · rw [if_neg hp]; exact .inr rfl

/-! ### Every command -/

/-- Whatever the state, each arm of the dispatch answers so: the commands listed name no unit, those with a line of their own do more
than test one number, and every other arm is a test of the unit number that its command names. -/
theorem exec_nextOrNoUnit (c : Instr) (s : State) : NextOrNoUnit (exec c s) := by
  cases c with
  | snapshotComplete | pieceArrive | fanOut | bncMapWrite | memInitComplete | gddr7Read | gddr7Write | partialWrite | bucketLeak | checkerSelfTest
  | memCompatWrite | memLogClear | memInjectArm | courseBoundary | syncSend | delayRequest | holdoverEnter | syncLost | crsRunWrite | crsLeadWrite
  | crsParentWrite | armPush | armCancel | handover | epochFence | pattern | step | history | snapshot | deadline | notBefore | benchArm | signalArm
  | ledgerRecordWrite | ledgerTailWrite | packetForward | packetDeliver | lnkPatValidWrite | gather | broadcast | allToAll | pointToPoint | chainReduce
  | chainReduceScatter | courseBarrier | chainStep | updatePiece | colData | chainSum | p2pData | snapData | colGrant | colArrive | colReject
  | conversationDone | barrierCourse | requestDeadline | colGroupLoad | colGroupUnload | colSubmit | colBackupSet | colCntClear | dispatchComplete
  | drainStart | queModeNow | stopNotice | requalStart | requalAbort | requalVerdict | evidencePost | healthDecay | swatchCheck | hostLinkTrained
  | hostLinkLoss | hostReadCompletion | hostReadTimeout | query | reglist | startJob | fwUpdate | calWrite | calRun | requal | progLoad | pldmFwUpdate
  | mctpMessage | spdmRequest | debugUnlockToken | ctlxLockSet | ctlCacheError | heartbeatTimeout | moduleReset | rtuSelfTest | imageVerify | pllStable
  | referenceLost | pllLockLoss | powerManagerCourse | fasterStep | supplyCheck | inputUndervoltage | pwrCntClear | registerWrite
  | i3cAddressAssignment =>
    exact nextOrNoUnit_next _
  | amaxHistory | chainAdd | digest => exact nextOrNoUnit_then _ _ (stdRun_nextOrNoUnit _ _ _ _)
  | sramRead who x e idx => exact execSramRead_nextOrNoUnit who x e idx s
  | hdmCommit w p n v => exact execHdmCommit_nextOrNoUnit w p n v s
  | _ => exact nextOrNoUnit_ite _ _

/-! ### The queue and the state after reset -/

theorem step_cons (s : State) (c : Instr) (r : List Instr) :
    step { s with pending := c :: r } = exec c { s with pending := r } := rfl

theorem step_of_empty {s : State} (h : s.pending = []) : step s = .next s := by
  unfold step; rw [h]

/-- Every core is at its default after reset, which is idle. -/
theorem core_reset (n : Nat) : State.reset.core n = {} := SMap.get_nil _ n

/-- Every register is at its reset value after reset (R472). -/
theorem stored_reset (r : Reg) : State.reset.stored r = r.init := SMap.get_nil _ r.off

theorem owner_reset (p : Nat) : State.reset.owner p = {} := SMap.get_nil _ p

theorem ownerList_reset : State.reset.ownerList = [] := by
  simp [State.ownerList, owner_reset, Owner.exists]

theorem canonical_reset : Canonical State.reset := ⟨State.reset_wf, rfl⟩

end Sys2Proof.Machine

open Sys2Proof.Machine

/-- Settles O59: a step is `exec` by the definition, every command answers by `exec_nextOrNoUnit`, and the state after reset has nothing
listed. -/
theorem stepRunsFrontCommand : Obligations.StepRunsFrontCommand := by
  unfold Obligations.StepRunsFrontCommand
  refine ⟨step_cons, fun s => step_of_empty, fun s c => exec_nextOrNoUnit c s, ?_⟩
  exact ⟨rfl, ownerList_reset, rfl, rfl, rfl, fun n => by rw [core_reset], stored_reset, canonical_reset⟩
end

/-! ### A PARK whose first write is corrupted -/

section
namespace Sys2Proof.Machine

open Sys2Proof

/-- Core 0 runs with slot 0 OPEN and an empty add target at the start of its scratchpad. `MEM_INJECT` is armed with error 0x01 for data byte 0 of
the target's sector, 2^32, and channel 0, on which that address falls, remembers that sector as corrected for the accesses behind it. -/
def parkArmed : State where
  cores := [(0, { m := { sk := [(0, { st := .opened })] }, seq := { run := .running } })]
  mem := [(0x010000000000, 2)]
  regs := [(0xC00018, 0x8000010100000000)]
  u := { mem := { ch := [(0, { fwd := some 0x100000000 })] } }

/-- PARK of slot 0 with mode ADD to the buffer at S0. -/
def parkAdd : BitVec 57 := 0x10000000000000

theorem parkArmed_ready : Ready parkArmed 0 where
  unit := by decide +kernel
  run := rfl
  frozen := rfl
  ending := rfl
  openB := rfl
  stalled := rfl
  unmet := rfl
  stopped := by decide +kernel
  quiet n := by
    by_cases h : 0 = n
    · subst h; rfl
    · simp [State.core, parkArmed, SMap.get, h]
  awake := by decide +kernel

theorem parkArmed_nextOk : NextOk parkArmed 0 := by
  unfold NextOk
  decide +kernel

theorem parkArmed_legal : Legal parkArmed 0 ⟨0, 0x06, parkAdd⟩ := ⟨by decide +kernel, by decide +kernel, by decide +kernel⟩

/-- What a command leaves channel 0 to remember as corrected. -/
def fwdAfter (o : Host.Outcome State Fault Refusal) : Option (Option Nat) :=
  match o with
  | .next t => some (t.memCh 0).fwd
  | _ => none

theorem fwdAfter_next (t : State) : fwdAfter (.next t) = some (t.memCh 0).fwd := rfl

/-- The first of PARK's writes brings the error into the sector; the second finds and corrects it, and takes the channel's note for its own. -/
theorem fwdAfter_park : fwdAfter (exec (.park 0 false parkAdd) parkArmed) = some none := by decide +kernel

end Sys2Proof.Machine

open Sys2Proof.Machine

/-- Refutes O18: `OnlyMem` has a PARK leave every unit's state, but with an injection armed for the buffer's sector (R248) and that sector
noted by its channel (R233), a PARK with mode ADD takes the note from the channel. -/
theorem not_parkAndResume : ¬ Obligations.ParkAndResume := by
  unfold Obligations.ParkAndResume
  intro h
  obtain ⟨hpark, -⟩ := h parkArmed 0 parkAdd parkArmed_ready parkArmed_nextOk ⟨rfl, rfl⟩
  obtain ⟨t, hexec, -, hmem, -⟩ := hpark parkArmed_legal (by decide +kernel) (by decide +kernel)
  obtain ⟨-, -, -, -, -, -, -, hu, -⟩ := hmem.rest
  have hnote : (t.memCh 0).fwd = some 0x100000000 := by rw [State.memCh, hu]; rfl
  have hgone := fwdAfter_park
  rw [hexec, fwdAfter_next, hnote] at hgone
  cases hgone
end

/-! ### Transient skeins -/

section
namespace Sys2Proof.Machine

open Sys2Proof

theorem onCore_of_lt {n : Nat} {s : State} (h : n < s.nCores) (f : State → State) : onCore n s f = .next (f s) := if_pos h

/-- An update of a core's matrix state gives no bundle a turn where none waits. -/
theorem settle_updMat {s : State} (h : Quiet s) (n : Nat) (f : CoreMat → CoreMat) :
    settle (s.updMat n f) = s.setCore n { s.core n with m := f (s.core n).m } := by
  rw [State.updMat_eq]
  exact settle_quiet (h.setCore n (h n))

/-- Core n with slot i FREE, and its cast-off pending no more. -/
def skeinFreed (s : State) (n i : Nat) : State :=
  s.setCore n { s.core n with m := { (s.core n).m.setSkein i {} with
    pend := (s.core n).m.pend.filter (fun j => j != i), dcbs := SMap.erase i (s.core n).m.dcbs } }

theorem skeinFree_wanted {s : State} (h : Quiet s) (n i : Nat) {x : SkSt} (hx : ((s.core n).m.skein i).st = x) :
    skeinFree n i (fun t => t == x) s = skeinFreed s n i :=
  (if_pos (beq_iff_eq.2 hx)).trans (settle_updMat h n _)

theorem execSkeinDrained_draining {s : State} {n i : Nat} (hn : n < s.nCores) (hq : Quiet s) (hst : ((s.core n).m.skein i).st = .draining)
    (hp : pieceStaged s n i = true) : execSkeinDrained n i s = .next (skeinFreed s n i) := by
  rw [execSkeinDrained, onCore_of_lt hn, if_pos hp, skeinFree_wanted hq n i hst]

theorem execParkComplete_parking {s : State} {n i : Nat} (hn : n < s.nCores) (hq : Quiet s) (hst : ((s.core n).m.skein i).st = .parking) :
    execParkComplete n i s = .next (skeinFreed s n i) := by
  rw [execParkComplete, onCore_of_lt hn, skeinFree_wanted hq n i hst]

theorem execResumeComplete_resuming {s : State} {n i : Nat} {b : Bool} (hn : n < s.nCores) (hq : Quiet s)
    (hst : ((s.core n).m.skein i).st = .resuming b) : execResumeComplete n i s = .next (s.setCore n { s.core n with
      m := (s.core n).m.setSkein i { (s.core n).m.skein i with st := if b then .sealed else .opened } }) := by
  rw [execResumeComplete, onCore_of_lt hn, hst]
  exact congrArg _ (settle_updMat hq n _)

theorem CoreMat.skein_setSkein (m : CoreMat) (i : Nat) (x : Skein) (j : Nat) : (m.setSkein i x).skein j = if j = i then x else m.skein j := by
  by_cases h : j = i
  · subst h; simp [CoreMat.skein, CoreMat.setSkein]
  · simp [CoreMat.skein, CoreMat.setSkein, h, SMap.get_set_other _ (Ne.symm h)]

end Sys2Proof.Machine

open Sys2Proof.Machine

/-- Settles O19: each command finds its slot in the state it wants, and `settle` finds no bundle to give a turn. -/
theorem skeinTransients : Obligations.SkeinTransients := by
  unfold Obligations.SkeinTransients
  intro s n i hn hq k freed
  exact ⟨execSkeinDrained_draining hn hq, execParkComplete_parking hn hq, fun _ => execResumeComplete_resuming hn hq,
    CoreMat.skein_setSkein k.m i {}⟩
end

/-! ### Writes that only clear counters -/

section
namespace Sys2Proof.Machine

open Sys2Proof

/-- A register of the part that keeps no written field, and of which no whole write is forbidden: a write does what its WO fields do, and no
more (R18). -/
structure Reg.ActsOnly (r : Reg) (s : State) : Prop where
  found : regAt r.off = some r
  present : r.absent s = false
  aligned : r.off % 8 = 0
  fields : ∀ f ∈ r.fields, f.hi < 64 ∧ f.acc ≠ .rw ∧ f.acc ≠ .rwl
  free : ∀ o v w m, regForbids s false r o v w m = false

theorem Reg.bits_eq_zero {r : Reg} {a : Acc} (h : ∀ f ∈ r.fields, f.acc ≠ a) : r.bits a = 0 := by
  have hnil : r.fields.filter (fun f => f.acc == a) = [] := List.filter_eq_nil_iff.2 (fun f hf => by simp [h f hf])
  rw [Reg.bits, hnil, List.foldl_nil]

theorem Reg.ActsOnly.unstored {r : Reg} {s : State} (h : r.ActsOnly s) : r.bits .rw ||| r.bits .rwl = 0 := by
  rw [Reg.bits_eq_zero (fun f hf => have ⟨_, hrw, _⟩ := h.fields f hf; hrw), Reg.bits_eq_zero (fun f hf => have ⟨_, _, hrwl⟩ := h.fields f hf; hrwl), Nat.or_self]

theorem storeReg_unstored {r : Reg} (h : r.bits .rw ||| r.bits .rwl = 0) (v : W64) (s : State) : storeReg r v s = s := by
  unfold storeReg
  split
  · rfl
  · rw [if_pos h]

theorem lockHit_unstored {r : Reg} (h : r.bits .rw ||| r.bits .rwl = 0) (s : State) (m : Nat) : lockHit s r m = false := by
  simp [lockHit, (Nat.or_eq_zero_iff.1 h).2]

/-- A write of all 64 bits covers every field whole (R471). -/
theorem partWo_whole {r : Reg} (h : ∀ f ∈ r.fields, f.hi < 64) (off : Nat) : partWo r (coverMask off 8) = false := by
  have hmask : ∀ f ∈ r.fields, f.mask &&& (2 ^ 64 - 1) = f.mask := by
    intro f hf
    have hpow : 2 ^ (f.hi + 1) ≤ 2 ^ 64 := Nat.pow_le_pow_right (by omega) (h f hf)
    have hlo : 0 < 2 ^ f.lo := by positivity
    rw [Nat.and_two_pow_sub_one_eq_mod, Nat.mod_eq_of_lt]
    unfold RField.mask
    omega
  rw [partWo, List.any_eq_false]
  intro f hf
  simp only [coverMask, if_true, hmask f hf]
  simp

/-- The control complex may write every register (R467), so its write of such a one acts. -/
theorem write64_ctl {r : Reg} {s : State} (h : r.ActsOnly s) (v : W64) :
    write64 .ctl r v s = regActs r (s.rwVal r) (newVal s r v (coverMask r.off 8)) v (coverMask r.off 8) s := by
  have hgood : writeBad s false .ctl r.off 8 v = false := by
    simp [writeBad, h.found, h.aligned, h.present, writeRight, partWo_whole (fun f hf => (h.fields f hf).1), lockHit_unstored h.unstored, h.free]
  have hdo : writeDo r.off 8 v s = regActs r (s.rwVal r) (newVal s r v (coverMask r.off 8)) v (coverMask r.off 8) s := by
    simp [writeDo, h.found, h.present, placed, storeReg_unstored h.unstored]
  simp [write64, regWrite, fnMute, hgood, hdo]

theorem writeInst_ctl {r : Reg} {s : State} (h : r.ActsOnly s) {i lim : Nat} (hi : i < lim) (v : W64) :
    writeInst .ctl i lim r v s = .next (regActs r (s.rwVal r) (newVal s r v (coverMask r.off 8)) v (coverMask r.off 8) s) := by
  rw [writeInst, if_pos hi, write64_ctl h]

/-- The bit that a row of the opcode table names is set, whatever else is written. -/
theorem bitOf_or (v m : W64) {n : Nat} (h : bitOf m n = true) : bitOf (v ||| m) n = true := by
  unfold bitOf at *
  rw [BitVec.getLsbD_or, h, Bool.or_true]

/-! ### Where the clear registers are found (R466, R468) -/

section
variable {a : Nat} (h8 : a % 8 = 0)
include h8

theorem regAt_que (lo : 0x600000 ≤ a) (hi : a < 0x800000) : regAt a = queAt (a - 0x600000) := by
  unfold regAt
  rw [show a / 8 * 8 = a by omega]
  iterate 6 rw [if_neg (by omega)]
  rw [if_pos hi]

theorem regAt_lnk (lo : 0x800000 ≤ a) (hi : a < 0xA00000) : regAt a = lnkAt (a - 0x800000) := by
  unfold regAt
  rw [show a / 8 * 8 = a by omega]
  iterate 7 rw [if_neg (by omega)]
  rw [if_pos hi]

theorem regAt_mem (lo : 0xC00000 ≤ a) (hi : a < 0xE00000) : regAt a = memAt (a - 0xC00000) := by
  unfold regAt
  rw [show a / 8 * 8 = a by omega]
  iterate 9 rw [if_neg (by omega)]
  rw [if_pos hi]

theorem regAt_bnc (lo : 0xE00000 ≤ a) (hi : a < 0x1000000) : regAt a = bncAt (a - 0xE00000) := by
  unfold regAt
  rw [show a / 8 * 8 = a by omega]
  iterate 10 rw [if_neg (by omega)]
  rw [if_pos hi]

theorem regAt_core (lo : 0x1000000 ≤ a) (hi : a < 0x1800000) :
    regAt a = coreAt ((a - 0x1000000) / 0x10000) ((a - 0x1000000) % 0x10000) := by
  unfold regAt
  rw [show a / 8 * 8 = a by omega]
  iterate 11 rw [if_neg (by omega)]
  rw [if_pos hi]

end

/-- A register of core n is found by its offset from the core's first. -/
theorem regAt_coreOff {n o : Nat} (hn : n < 128) (ho : o < 0x10000) (h8 : o % 8 = 0) : regAt (coreOff n o) = coreAt n o := by
  unfold coreOff
  rw [regAt_core (by omega) (by omega) (by omega), show (0x1000000 + n * 0x10000 + o - 0x1000000) / 0x10000 = n by omega,
    show (0x1000000 + n * 0x10000 + o - 0x1000000) % 0x10000 = o by omega]

theorem regAt_qpClear {p : Nat} (hp : p < 16) : regAt (Reg.qpClear p).off = some (.qpClear p) := by
  show regAt (queOff p 0x68) = _
  unfold queOff
  rw [regAt_que (by omega) (by omega) (by omega), queAt, if_pos (by simp; omega), show (0x610000 + p * 0x100 + 0x68 - 0x600000 - 0x10000) / 0x100 = p by omega,
    show (0x610000 + p * 0x100 + 0x68 - 0x600000) % 0x100 = 0x68 by omega]
  rfl

theorem regAt_lnkClear {l : Nat} (hl : l < 64) : regAt (Reg.lnkClear l).off = some (.lnkClear l) := by
  have hg : (linkOff l 0x20 - 0x800000) / 0x10000 = l / 8 := by unfold linkOff; omega
  have hq : (linkOff l 0x20 - 0x800000) % 0x10000 = 0x1020 + l % 8 * 0x100 := by unfold linkOff; omega
  have hl : 8 * (l / 8) + (0x1020 + l % 8 * 0x100 - 0x1000) / 0x100 = l := by omega
  show regAt (linkOff l 0x20) = _
  rw [regAt_lnk (by unfold linkOff; omega) (by unfold linkOff; omega) (by unfold linkOff; omega), lnkAt, if_pos (by unfold linkOff; omega)]
  simp only [hg, hq, hl]
  rw [if_neg (by omega), if_pos (by simp; omega), show (0x1020 + l % 8 * 0x100) % 0x100 = 0x20 by omega]
  rfl

theorem regAt_mcClear {c : Nat} (hc : c < 64) : regAt (Reg.mcClear c).off = some (.mcClear c) := by
  show regAt (mchOff c 0x28) = _
  unfold mchOff
  rw [regAt_mem (by omega) (by omega) (by omega), memAt, if_pos (by simp; omega)]
  simp only [show (0xC10000 + c * 0x100 + 0x28 - 0xC00000 - 0x10000) / 0x100 = c by omega,
    show (0xC10000 + c * 0x100 + 0x28 - 0xC00000) % 0x100 = 0x28 by omega]
  rfl

theorem regAt_beClear {e : Nat} (he : e < 64) : regAt (Reg.beClear e).off = some (.beClear e) := by
  have ht : (engOff e 0x18 - 0xE00000 - 0x10000) / 0x10000 = e / 8 := by unfold engOff; omega
  have hq : (engOff e 0x18 - 0xE00000) % 0x10000 = 0x1018 + e % 8 * 0x40 := by unfold engOff; omega
  have hi : 8 * (e / 8) + (0x1018 + e % 8 * 0x40 - 0x1000) / 0x40 = e := by omega
  show regAt (engOff e 0x18) = _
  rw [regAt_bnc (by unfold engOff; omega) (by unfold engOff; omega) (by unfold engOff; omega), bncAt, if_pos (by unfold engOff; simp; omega)]
  simp only [ht, hq, hi]
  rw [if_neg (by omega), if_pos (by simp; omega), show (0x1018 + e % 8 * 0x40) % 0x40 = 0x18 by omega]
  rfl

/-! ### The clear registers act only -/

section
variable {s : State}

theorem State.nCores_le (s : State) : s.nCores ≤ 128 := by unfold State.nCores; split <;> omega
theorem State.nCh_le (s : State) : s.nCh ≤ 64 := by unfold State.nCh; split <;> omega
theorem State.nLinks_le (s : State) : s.nLinks ≤ 64 := by unfold State.nLinks; split <;> omega
theorem State.nOwners_le (s : State) : s.nOwners ≤ 16 := by unfold State.nOwners; split <;> omega
theorem State.nCh_eq (s : State) : s.nCh = 8 * s.nTiles := by unfold State.nCh State.nTiles; split <;> rfl

/-- The part lacks no core below its number of cores, and so none of their registers (R4). -/
theorem core_present {n : Nat} (hn : n < s.nCores) : (s.locked && decide (s.nCores ≤ n)) = false := by simp [hn]

theorem coreClear_actsOnly {n : Nat} (hn : n < s.nCores) : (Reg.coreClear n).ActsOnly s where
  found := regAt_coreOff (hn.trans_le s.nCores_le) (by omega) rfl
  present := core_present hn
  aligned := by simp only [Reg.off, coreOff]; omega
  fields := by simp [Reg.fields, woF]
  free _ _ _ _ := rfl

theorem coreWclear_actsOnly {n : Nat} (hn : n < s.nCores) : (Reg.coreWclear n).ActsOnly s where
  found := regAt_coreOff (hn.trans_le s.nCores_le) (by omega) rfl
  present := core_present hn
  aligned := by simp only [Reg.off, coreOff]; omega
  fields := by simp [Reg.fields, woF]
  free _ _ _ _ := rfl

theorem coreSramce_actsOnly {n : Nat} (hn : n < s.nCores) : (Reg.coreSramce n).ActsOnly s where
  found := regAt_coreOff (hn.trans_le s.nCores_le) (by omega) rfl
  present := core_present hn
  aligned := by simp only [Reg.off, coreOff]; omega
  fields := by simp [Reg.fields, woF, roF]
  free _ _ _ _ := rfl

theorem beClear_actsOnly {e : Nat} (he : e < s.nCh) : (Reg.beClear e).ActsOnly s where
  found := regAt_beClear (he.trans_le s.nCh_le)
  present := by simp [Reg.absent, ← s.nCh_eq, he]
  aligned := by simp only [Reg.off, engOff]; omega
  fields := by simp [Reg.fields, woF]
  free _ _ _ _ := rfl

theorem mcClear_actsOnly {c : Nat} (hc : c < s.nCh) : (Reg.mcClear c).ActsOnly s where
  found := regAt_mcClear (hc.trans_le s.nCh_le)
  present := by simp [Reg.absent, hc]
  aligned := by simp only [Reg.off, mchOff]; omega
  fields := by simp [Reg.fields, woF]
  free _ _ _ _ := rfl

theorem lnkClear_actsOnly {l : Nat} (hl : l < s.nLinks) : (Reg.lnkClear l).ActsOnly s where
  found := regAt_lnkClear (hl.trans_le s.nLinks_le)
  present := by simp [Reg.absent, hl]
  aligned := by simp only [Reg.off, linkOff]; omega
  fields := by simp [Reg.fields, woF]
  free _ _ _ _ := rfl

theorem qpClear_actsOnly {p : Nat} (hp : p < s.nOwners) : (Reg.qpClear p).ActsOnly s where
  found := regAt_qpClear (hp.trans_le s.nOwners_le)
  present := by simp [Reg.absent, hp]
  aligned := by simp only [Reg.off, queOff]; omega
  fields := by simp [Reg.fields, woF]
  free _ _ _ _ := rfl

theorem memLogStatus_actsOnly : Reg.memLogStatus.ActsOnly s :=
  ⟨rfl, rfl, rfl, by simp [Reg.fields, woF, roF], fun _ _ _ _ => rfl⟩

theorem colClear_actsOnly : Reg.colClear.ActsOnly s := ⟨rfl, rfl, rfl, by simp [Reg.fields, woF], fun _ _ _ _ => rfl⟩

theorem pwrCntClear_actsOnly : Reg.pwrCntClear.ActsOnly s := ⟨rfl, rfl, rfl, by simp [Reg.fields, woF], fun _ _ _ _ => rfl⟩

end

end Sys2Proof.Machine

open Sys2Proof Sys2Proof.Machine

/-- Settles O37: each clear register acts only, and with its CLEAR bit written the act is the clearing of its group. -/
theorem countersClear : Obligations.CountersClear := by
  unfold Obligations.CountersClear
  intro s v
  have hbit : bitOf (v ||| 0x1) 0 = true := bitOf_or v 0x1 rfl
  have hlog : bitOf (v ||| 0x100) 8 = true := bitOf_or v 0x100 rfl
  have hsram : bitOf (v ||| 0x8000000000000000) 63 = true := bitOf_or v 0x8000000000000000 rfl
  refine ⟨fun n hn => ⟨?_, ?_, ?_⟩, fun e he => ⟨?_, ?_⟩, fun l hl => ?_, fun p hp => ?_, ?_, ?_, ?_⟩
  · exact (writeInst_ctl (coreClear_actsOnly hn) (hn.trans_le s.nCores_le) _).trans (congrArg _ (if_pos hbit))
  · exact (writeInst_ctl (coreWclear_actsOnly hn) (hn.trans_le s.nCores_le) _).trans (congrArg _ (if_pos hbit))
  · exact (writeInst_ctl (coreSramce_actsOnly hn) (hn.trans_le s.nCores_le) _).trans (congrArg _ (if_pos hsram))
  · exact (writeInst_ctl (beClear_actsOnly he) (he.trans_le s.nCh_le) _).trans (congrArg _ (if_pos hbit))
  · exact (writeInst_ctl (mcClear_actsOnly he) (he.trans_le s.nCh_le) _).trans (congrArg _ (if_pos hbit))
  · exact (writeInst_ctl (lnkClear_actsOnly hl) (hl.trans_le s.nLinks_le) _).trans (congrArg _ (if_pos hbit))
  · exact (writeInst_ctl (qpClear_actsOnly hp) (hp.trans_le s.nOwners_le) _).trans (congrArg _ (if_pos hbit))
  · exact congrArg _ ((write64_ctl memLogStatus_actsOnly _).trans (if_pos hlog))
  · exact congrArg _ ((write64_ctl colClear_actsOnly _).trans (if_pos hbit))
  · exact congrArg _ ((write64_ctl pwrCntClear_actsOnly _).trans (if_pos hbit))
end

/-! ### Scalar instructions that write a register -/

section
namespace Sys2Proof.Machine

open Sys2Proof

/-- An instruction of the arithmetic rows reads no memory and its unit checks nothing, so alone in its bundle it writes its result (R150). -/
theorem issue_scalar {s : State} {n op : Nat} {w : BitVec 57} {v : W64} (h : Ready s n) (hf : NextOk s n) (hl : Legal s n ⟨3, op, w⟩)
    (hop : op ≤ 0x0C) (hr : sResult s n op w = some (sSd w, v)) :
    issue n false 3 op w s = .next (nextBundle s n ((s.core n).r.setS (sSd w) v)) := by
  have hreads : slotReads s n ⟨3, op, w⟩ = [] := by simp only [slotReads]; rw [if_neg (by omega)]
  have hcheck : unitCheck s n (s.core n).seq.wmode ⟨3, op, w⟩ = none := by
    simp only [unitCheck, sCheck]
    rw [if_neg (by simp; omega), if_neg (by omega), if_neg (by omega), if_neg (by omega), if_neg (by omega), if_neg (by omega)]
  exact issue_setS h hl hf (by omega) hr (.inr hreads) hcheck

end Sys2Proof.Machine

open Sys2Proof.Machine

/-- Settles O1: each row is `issue_scalar` with the result that `sResult` gives its opcode. -/
theorem scalarArithmetic : Obligations.ScalarArithmetic := by
  unfold Obligations.ScalarArithmetic
  intro s n w h hf r d a b imm
  refine ⟨?_, ?_, ?_, ?_, ?_, ?_, ?_, ?_, ?_, ?_, ?_, ?_⟩ <;> intro hl <;> exact issue_scalar h hf hl (by decide) rfl

end

/-! ### What a write of memory leaves alone -/

section
namespace Sys2Proof.Machine

open Sys2Proof

theorem State.putAll_eq (s : State) (a : Nat) (l : List Byte) :
    s.putAll a l = { s with mem := (s.putAll a l).mem, ecc := (s.putAll a l).ecc, sp := (s.putAll a l).sp } := by
  induction l generalizing s a with
  | nil => rfl
  | cons b r ih => rw [State.putAll, ih]; rfl

theorem State.inject_eq (s : State) (a n : Nat) : s.inject a n = { s with regs := (s.inject a n).regs, ecc := (s.inject a n).ecc } := by
  unfold State.inject
  dsimp only
  split <;> rfl

/-- Where no injection is armed, a write injects nothing (R248). -/
theorem State.inject_unarmed {s : State} (h : bitOf (s.reg 0 0xC00018) 63 = false) (a n : Nat) : s.inject a n = s := by
  have hr : bitOf (SMap.get 0 0xC00018 s.regs) 63 = false := h
  unfold State.inject
  dsimp only
  rw [if_neg (by rw [hr]; simp)]

theorem State.putBytes_eq {s : State} (h : s.NoErr) (a : Nat) (l : List Byte) :
    s.putBytes a l = { s with
      regs := (s.putBytes a l).regs, mem := (s.putBytes a l).mem, ecc := (s.putBytes a l).ecc, sp := (s.putBytes a l).sp } := by
  rw [State.putBytes, State.putRaw_noErr h, State.inject_eq, State.putAll_eq]

theorem State.putBytes_core {s : State} (h : s.NoErr) (a : Nat) (l : List Byte) (c : Nat) : (s.putBytes a l).core c = s.core c := by
  rw [State.putBytes_eq h]; rfl

theorem State.putBytes_regs {s : State} (h : s.NoErr) (hr : bitOf (s.reg 0 0xC00018) 63 = false) (a : Nat) (l : List Byte) :
    (s.putBytes a l).regs = s.regs := by
  have hr' : bitOf ((s.putAll a l).reg 0 0xC00018) 63 = false := by rw [State.putAll_eq]; exact hr
  rw [State.putBytes, State.putRaw_noErr h, State.inject_unarmed hr', State.putAll_eq]

theorem Quiet.putBytes {s : State} (hq : Quiet s) (h : s.NoErr) (a : Nat) (l : List Byte) : Quiet (s.putBytes a l) :=
  hq.of_core (fun c => by rw [State.putBytes_core h])

/-- A write of memory on whose bundle core n goes on. -/
theorem onlyMem_goesTo_putBytes {s : State} (h : s.NoErr) (a : Nat) (l : List Byte) (n : Nat) (k : Core) (b : Addr) :
    OnlyMem s (goesTo (s.putBytes a l) n k b) n where
  regs hr := State.putBytes_regs h hr a l
  cores c hc := by rw [goesTo, State.core_setCore_other _ (Ne.symm hc), State.putBytes_core h]
  rest := by rw [State.putBytes_eq h]; exact ⟨rfl, rfl, rfl, rfl, rfl, rfl, rfl, rfl, rfl, rfl⟩

end Sys2Proof.Machine
end

/-! ### SLD and SST -/

section
namespace Sys2Proof.Machine

open Sys2Proof

/-- Only the waits, DEFER, WEND, WFLUSH and WMODE can make their bundle wait (R152, R154, R156 to R159). -/
theorem sWait_of_other {s : State} {n op : Nat} {w : BitVec 57} (old : Bool) (h : op < 0x20 ∨ op = 0x22 ∨ 0x2C ≤ op) :
    sWait s n old ⟨3, op, w⟩ = .ready := by
  unfold sWait
  dsimp only
  split_ifs <;> first | rfl | omega

theorem unitCheck_scalarMem {s : State} {n op : Nat} {w : BitVec 57} (hop : op = 0x10 ∨ op = 0x11) (hoff : sOff (s.core n).r w + 8 ≤ spSize) (wm : Bool) :
    unitCheck s n wm ⟨3, op, w⟩ = none := by
  have hp : spOff (sOff (s.core n).r w) 8 = true := by simpa [spOff] using hoff
  simp [unitCheck, sCheck, hop, hp]

/-- SLD writes the 8 bytes at its offset to SD (R150). -/
theorem exec_sld {s : State} {n : Nat} {w : BitVec 57} (h : Ready s n) (hf : NextOk s n) (hl : Legal s n ⟨3, 0x10, w⟩) (he : s.NoErr)
    (hoff : sOff (s.core n).r w + 8 ≤ spSize) :
    exec (.sld n false w) s =
      .next (nextBundle s n ((s.core n).r.setS (sSd w) (BitVec.ofNat 64 (leNat (s.bytes (spBase n + sOff (s.core n).r w) 8))))) :=
  issue_setS h hl hf (.inr (.inr rfl)) rfl (.inl he) (unitCheck_scalarMem (.inl rfl) hoff _)

/-- SST writes sb to the 8 bytes at its offset, and its core goes on (R150). -/
theorem exec_sst {s : State} {n : Nat} {w : BitVec 57} (h : Ready s n) (hf : NextOk s n) (hl : Legal s n ⟨3, 0x11, w⟩) (he : s.NoErr)
    (hoff : sOff (s.core n).r w + 8 ≤ spSize) :
    exec (.sst n false w) s =
      .next (goesTo (s.wr (spBase n + sOff (s.core n).r w) 8 (sB (s.core n).r w).toNat) n (s.core n) ((s.core n).seq.baddr + 32)) := by
  have hcore := State.putBytes_core he (spBase n + sOff (s.core n).r w) (leBytes 8 (sB (s.core n).r w).toNat) n
  have hi := issue_S (t := s.wr (spBase n + sOff (s.core n).r w) 8 (sB (s.core n).r w).toNat) h hl (by decide) (sWait_of_other false (by decide))
    (unitCheck_scalarMem (.inr rfl) hoff _) rfl (h.quiet.putBytes he _ _) (by rw [State.wr, hcore, h.run]) (by rw [State.wr, hcore, h.stalled])
    (by rw [State.wr, hcore, h.unmet]) (.inl he) (.inl he) (by rw [State.wr, State.putBytes_eq he]) hf
  exact hi.trans (by rw [State.wr, hcore]; rfl)

end Sys2Proof.Machine

open Sys2Proof Sys2Proof.Machine

/-- Settles O2: SLD sets a register; SST is one write of 8 bytes, and `State.byte_putBytes` says what each byte reads after it. -/
theorem scalarLoadStore : Obligations.ScalarLoadStore := by
  unfold Obligations.ScalarLoadStore
  intro s n w h hf r off a hoff he
  refine ⟨fun hl => exec_sld h hf hl he hoff, fun hl => ⟨_, exec_sst h hf hl he hoff, ?_, ?_, ?_, ?_⟩⟩
  · have hrd := State.rd_wr_same he a 8 (r.sreg (fld w 46 42)).toNat
    exact hrd.trans (Nat.mod_eq_of_lt (r.sreg (fld w 46 42)).isLt)
  · intro x hx
    exact State.byte_wr_other he a 8 _ hx
  · exact State.core_setCore_same _ n _
  · exact onlyMem_goesTo_putBytes he _ _ n _ _

end

/-! ### Branches -/

section
namespace Sys2Proof.Machine

open Sys2Proof

/-- A branch has no effect but on the bundle address (R150). -/
theorem issue_branch {s : State} {n op : Nat} {w : BitVec 57} (h : Ready s n) (hl : Legal s n ⟨3, op, w⟩) (hop : op = 0x18 ∨ op = 0x19)
    (hf : fetchOk s n (nextAddr s n ⟨3, op, w⟩) = true) :
    issue n false 3 op w s = .next (goesTo s n (s.core n) (nextAddr s n ⟨3, op, w⟩)) := by
  have hwait := sWait_of_other (s := s) (n := n) (op := op) (w := w) false (by omega)
  have hcheck : unitCheck s n (s.core n).seq.wmode ⟨3, op, w⟩ = none := by rcases hop with rfl | rfl <;> rfl
  have heff : sEff s n ⟨3, op, w⟩ s = s := by rcases hop with rfl | rfl <;> rfl
  have hreads : slotReads s n ⟨3, op, w⟩ = [] := by rcases hop with rfl | rfl <;> rfl
  exact issue_S h hl (by omega) hwait hcheck heff h.quiet h.run h.stalled h.unmet (.inr hreads) (.inr rfl) rfl hf

theorem nextAddr_br (s : State) (n : Nat) (w : BitVec 57) :
    nextAddr s n ⟨3, 0x18, w⟩ = BitVec.ofInt 48 (((s.core n).seq.baddr.toNat : Int) + 32 * signed 32 (fld w 31 0)) := rfl

theorem nextAddr_brc (s : State) (n : Nat) (w : BitVec 57) :
    nextAddr s n ⟨3, 0x19, w⟩ = if brCond (fld w 41 39) (sA (s.core n).r w) (sB (s.core n).r w) = true
      then BitVec.ofInt 48 (((s.core n).seq.baddr.toNat : Int) + 32 * signed 32 (fld w 31 0)) else (s.core n).seq.baddr + 32 := by
  simp [nextAddr]

end Sys2Proof.Machine
end

/-! ### END -/

section
namespace Sys2Proof.Machine

open Sys2Proof

/-- Core n after an END has issued, before it is known whether work is outstanding (R150, R357). -/
def endIssued (s : State) (n : Nat) : State :=
  (abandonChecks n s).setCore n { s.core n with seq := { (s.core n).seq with ending := true, baddr := (s.core n).seq.baddr + 32 } }

theorem issueBundle_end {s : State} {n : Nat} (h : Ready s n) : issueBundle n [⟨3, 0x1A, 0⟩] s = endCheck n (endIssued s n) := by
  have hreads : ReadsClean s n ⟨3, 0x1A, 0⟩ := .inr rfl
  have heff : sEff s n ⟨3, 0x1A, 0⟩ s =
    (abandonChecks n s).setCore n { s.core n with seq := { (s.core n).seq with ending := true } } := rfl
  have hb := (bundleEff_s hreads (.inr (by rw [heff]; rfl))).trans heff
  have hslot : slotOf [(⟨3, 0x1A, 0⟩ : SlotI)] 3 = ⟨3, 0x1A, 0⟩ := slotOf_self ⟨3, 0x1A, 0⟩
  simp only [issueBundle, bundleNote_solo hreads, hb, hslot, h.unmet]
  simp [State.updSeq_eq, h.run, h.stalled, h.unmet, nextAddr, endIssued]

theorem dispatchLeft_core_other (s : State) {c k : Nat} (h : c ≠ k) : (dispatchLeft c s).core k = s.core k := by
  unfold dispatchLeft
  split
  · rfl
  · exact State.core_setCore_other s h _

/-- Of a core that leaves its dispatch only the resident tag changes (R355). -/
theorem dispatchLeft_core_same (s : State) (c : Nat) : ∃ t, (dispatchLeft c s).core c = { s.core c with tag := t } := by
  unfold dispatchLeft
  split
  · exact ⟨(s.core c).tag, rfl⟩
  · exact ⟨_, State.core_setCore_same s c _⟩

theorem dispatchLeft_mem (s : State) (c : Nat) : (dispatchLeft c s).mem = s.mem := by
  unfold dispatchLeft; split <;> rfl

theorem dispatchLeft_regs (s : State) (c : Nat) : (dispatchLeft c s).regs = s.regs := by
  unfold dispatchLeft; split <;> rfl

/-- A core has no transfer queued and no request outstanding (R357). -/
def Core.workless (k : Core) : Prop := (∀ q < 4, (k.dmaq q).xs = []) ∧ k.reqs = []

/-- Core n becomes idle and leaves its dispatch (R355, R357). -/
def endDone (n : Nat) (s : State) : State :=
  dispatchLeft n ((s.updSeq n (fun q => { q with run := .idle, ending := false, q := [] })).idleNow n)

theorem endCheck_workless {s : State} {n : Nat} (he : (s.core n).seq.ending = true) (hr : (s.core n).seq.run = .running) (h : (s.core n).workless) :
    endCheck n s = endDone n s := by
  obtain ⟨hq, hreqs⟩ := h
  unfold endCheck
  exact if_pos (by simp [he, hr, hreqs]; exact hq)

theorem endCheck_working {s : State} {n : Nat} (h : ¬ (s.core n).workless) : endCheck n s = s := by
  unfold endCheck
  refine if_neg (fun hc => h ?_)
  simp only [Bool.and_eq_true, List.all_eq_true, List.mem_range, List.isEmpty_iff] at hc
  exact ⟨hc.2, hc.1.2⟩

theorem endDone_core_other (s : State) {n k : Nat} (h : n ≠ k) : (endDone n s).core k = s.core k :=
  (dispatchLeft_core_other _ h).trans (State.core_setCore_other s h _)

theorem endDone_core_same (s : State) (n : Nat) :
    ∃ t, (endDone n s).core n = { s.core n with tag := t, seq := { (s.core n).seq with run := .idle, ending := false, q := [] } } := by
  obtain ⟨t, ht⟩ := dispatchLeft_core_same ((s.updSeq n (fun q => { q with run := .idle, ending := false, q := [] })).idleNow n) n
  have hc : ((s.updSeq n (fun q => { q with run := .idle, ending := false, q := [] })).idleNow n).core n =
    { s.core n with seq := { (s.core n).seq with run := .idle, ending := false, q := [] } } := State.core_setCore_same s n _
  exact ⟨t, by rw [endDone, ht, hc]⟩

/-- END outside W mode issues at once, and its core is then idle or, with work outstanding, ends later. -/
theorem exec_coreEnd {s : State} {n : Nat} (h : Ready s n) (hl : Legal s n ⟨3, 0x1A, 0⟩) (hw : (s.core n).seq.wmode = false) :
    exec (.coreEnd n false 0) s = .next (settle (endCheck n (endIssued s n))) := by
  have hcheck : unitCheck s n (s.core n).seq.wmode ⟨3, 0x1A, 0⟩ = none := by simp [unitCheck, sCheck, hw]
  have hi := give_S h hl (by decide) (sWait_of_other false (by decide)) hcheck
  exact (if_pos h.unit).trans (by rw [hi, issueBundle_end h])

theorem endIssued_quiet {s : State} {n : Nat} (h : Ready s n) : Quiet (endIssued s n) :=
  Quiet.setCore (h.quiet.of_core fun _ => rfl) n (h.quiet n)

theorem endDone_quiet {s : State} {n : Nat} (h : Quiet s) : Quiet (endDone n s) := by
  intro k
  by_cases hk : n = k
  · obtain ⟨t, ht⟩ := endDone_core_same s n
    rw [← hk, ht]
  · rw [endDone_core_other s hk, h k]

end Sys2Proof.Machine

open Sys2Proof Sys2Proof.Machine

/-- Settles O3: BR and BRC change the bundle address alone; END leaves its core idle or ending, by whether it has work outstanding. -/
theorem branchesAndEnd : Obligations.BranchesAndEnd := by
  unfold Obligations.BranchesAndEnd
  refine ⟨?_, ?_⟩
  · intro s n w h r a b pc target holds
    have hcond : brCond (fld w 41 39) a b = true ↔ holds := by
      simp only [holds]
      generalize fld w 41 39 = c
      match c with
      | 0 => simp [brCond]
      | 1 => simp [brCond]
      | 2 => simp [brCond, BitVec.slt]
      | 3 => simp [brCond, BitVec.slt]
      | 4 => simp [brCond, BitVec.ult]
      | _ + 5 => simp [brCond, BitVec.ult]
    refine ⟨fun hl hf => issue_branch h hl (.inl rfl) hf, fun hl hh hf => ?_, fun hl hh hf => ?_⟩
    · have hnext : nextAddr s n ⟨3, 0x19, w⟩ = target := (nextAddr_brc s n w).trans (if_pos (hcond.2 hh))
      exact hnext ▸ issue_branch h hl (.inr rfl) (hnext ▸ hf)
    · have hnext : nextAddr s n ⟨3, 0x19, w⟩ = pc + 32 := (nextAddr_brc s n w).trans (if_neg (fun hc => hh (hcond.1 hc)))
      have hi := issue_branch h hl (.inr rfl) (hnext ▸ hf)
      exact hi.trans (by rw [hnext]; rfl)
  · intro s n h hl hw
    have hn : (endIssued s n).core n = { s.core n with seq := { (s.core n).seq with ending := true, baddr := (s.core n).seq.baddr + 32 } } :=
      State.core_setCore_same _ n _
    have hother : ∀ c, c ≠ n → (endIssued s n).core c = s.core c := fun c hc => State.core_setCore_other _ (Ne.symm hc) _
    have hquiet := endIssued_quiet h
    by_cases hwork : (s.core n).workless
    · have he : endCheck n (endIssued s n) = endDone n (endIssued s n) := endCheck_workless (by rw [hn]) (by rw [hn, h.run]) (by rw [hn]; exact hwork)
      obtain ⟨t, ht⟩ := endDone_core_same (endIssued s n) n
      rw [hn] at ht
      refine ⟨_, exec_coreEnd h hl hw, ?_⟩
      rw [he, settle_quiet (endDone_quiet hquiet), ht]
      refine ⟨dispatchLeft_mem _ n, dispatchLeft_regs _ n, fun c hc => ?_, rfl, rfl, rfl, fun _ => rfl, fun hno => absurd hwork hno⟩
      rw [endDone_core_other _ (Ne.symm hc), hother c hc]
    · have he : endCheck n (endIssued s n) = endIssued s n := endCheck_working (by rw [hn]; exact hwork)
      refine ⟨_, exec_coreEnd h hl hw, ?_⟩
      rw [he, settle_quiet hquiet, hn]
      exact ⟨rfl, rfl, hother, rfl, rfl, rfl, fun hyes => absurd hyes hwork, fun _ => ⟨h.run, rfl⟩⟩

end

/-! ### S slots that change their own core -/

section
namespace Sys2Proof.Machine

open Sys2Proof

/-- An S slot that need not wait and changes its own core alone. -/
theorem issue_S_core {s : State} {n op : Nat} {w : BitVec 57} {k : Core} (h : Ready s n) (hl : Legal s n ⟨3, op, w⟩)
    (ho : op ≠ 0x29 ∧ op ≠ 0x1A ∧ op ≠ 0x2B) (hw : sWait s n false ⟨3, op, w⟩ = .ready) (hc : unitCheck s n (s.core n).seq.wmode ⟨3, op, w⟩ = none)
    (he : sEff s n ⟨3, op, w⟩ s = s.setCore n k) (hm : slotReads s n ⟨3, op, w⟩ = []) (hf : fetchOk s n (nextAddr s n ⟨3, op, w⟩) = true)
    (hq : k.seq.q = []) (hr : k.seq.run = .running) (hs : k.seq.stalled = false) (hu : k.seq.unmet = false) :
    issue n false 3 op w s = .next (goesTo s n k (nextAddr s n ⟨3, op, w⟩)) := by
  have hi := issue_S h hl ho hw hc he (h.quiet.setCore n hq) (by simpa using hr) (by simpa using hs) (by simpa using hu) (.inr hm) (.inr rfl) rfl hf
  exact hi.trans (by simp [goesTo])

/-- A NOP alone in any slot only goes on (R99). -/
theorem exec_nop {s : State} {n k : Nat} (h : Ready s n) (hf : NextOk s n) (hk : k < 4) :
    exec (.nop n false k 0) s = .next (nextBundle s n (s.core n).r) := by
  have hl : Legal s n ⟨k, 0, 0⟩ := ⟨slotIllegal_nop k, by simp [slotRes, bankConflict], by simp [fragForbidden]⟩
  have hreads : ReadsClean s n ⟨k, 0, 0⟩ := .inr (slotReads_nop s n k)
  rcases Nat.lt_succ_iff_lt_or_eq.1 hk with h3 | rfl
  · have hgive : give n false ⟨k, 0, 0⟩ s = settle (nextBundle s n (s.core n).r) := by
      have hcheck : unitCheck s n (s.core n).seq.wmode ⟨k, 0, 0⟩ = none := by
        interval_cases k <;> rfl
      have hstall : bundleStalls s n [⟨k, 0, 0⟩] = false := by
        interval_cases k <;> simp [bundleStalls, slotOf, slotIllegal_nop, mWaits_nop, xWaits_nop]
      have heff : bundleEff s n [⟨k, 0, 0⟩] = s := by
        interval_cases k
        · exact (bundleEff_m hreads (.inr (congrArg State.sp (mEff_nop s s n)))).trans (mEff_nop s s n)
        · exact (bundleEff_v hreads (.inr (congrArg State.sp (vEff_nop s s n)))).trans (vEff_nop s s n)
        · exact (bundleEff_x hreads (.inr (congrArg State.sp (xEff_nop s s n)))).trans (xEff_nop s s n)
      rw [give_legal h hl hf h3 hstall hreads hcheck heff h.run rfl]
      simp [nextBundle, goesTo, h.run, h.stalled, h.unmet]
    have hmod : k % 4 = k := Nat.mod_eq_of_lt hk
    have hexec : exec (.nop n false k 0) s = onCore n s (give n false ⟨k % 4, 0, 0⟩) := rfl
    rw [hexec, onCore, if_pos h.unit, hmod, hgive, settle_quiet]
    exact h.quiet.setCore n (h.quiet n)
  · have heff : sEff s n ⟨3, 0, 0⟩ s = s := sEff_nop s s n
    have hi := issue_S h hl (by decide) (sWait_of_other false (by decide)) rfl heff h.quiet h.run h.stalled h.unmet hreads (.inr rfl) rfl hf
    exact hi

end Sys2Proof.Machine

open Sys2Proof Sys2Proof.Machine

/-- Settles O4. -/
theorem statusReads : Obligations.StatusReads := by
  unfold Obligations.StatusReads
  intro s n w h hf r bit
  refine ⟨fun hl => ?_, fun hl => ?_, fun hc => ?_, fun k hk => exec_nop h hf hk⟩
  · have hr : sResult s n 0x30 w = some (sSd w, srdVal s n (fld w 3 0)) := rfl
    have hi := issue_setS h hl hf (.inl rfl) hr (.inr rfl) rfl
    exact hi
  · exact issue_S_core h hl (by decide) (sWait_of_other false (by decide)) rfl rfl rfl hf (h.quiet n) h.run h.stalled h.unmet
  · simp [slotIllegal, slotUsed, slotBad, hc]

end

/-! ### WAIT, WAITC and SIGNAL -/

section
namespace Sys2Proof.Machine

open Sys2Proof

/-- A WAIT that finds its count at once is ready: its deadline counts only where it has waited (R152). -/
theorem sWait_wait_met {s : State} {n : Nat} {w : BitVec 57} (h : fld w 50 43 ≤ (s.core n).r.semv (fld w 56 51)) :
    sWait s n false ⟨3, 0x20, w⟩ = .ready := by
  simp [sWait, h]

/-- A WAITC whose course has come is ready (R154). -/
theorem sWait_waitc_met {s : State} {n : Nat} {w : BitVec 57} (h : ((s.core n).r.sreg (fld w 56 52)).toNat ≤ s.course.toNat) :
    sWait s n false ⟨3, 0x21, w⟩ = .ready := by
  simp [sWait, h]

/-- A WAITC that has not waited counts a course that had passed (R154, R170). -/
theorem sEff_waitc {s : State} {n : Nat} {w : BitVec 57} (hu : (s.core n).seq.unmet = false) :
    sEff s n ⟨3, 0x21, w⟩ s = if ((s.core n).r.sreg (fld w 56 52)).toNat < s.course.toNat
      then s.updSeq n (fun q => { q with cntLatec := satAdd 48 q.cntLatec 1 }) else s := by
  simp [sEff, sResult, hu]

theorem semAdd_fits {s : State} {c sem n : Nat} (h : (s.core c).r.semv sem + n < 2 ^ 32) :
    semAdd c sem n s = (s.updRegs c (fun r => r.setSem sem ((s.core c).r.semv sem + n)), true) :=
  if_neg (Nat.not_le.2 h)

theorem semAdd_overflow {s : State} {c sem n : Nat} (h : 2 ^ 32 ≤ (s.core c).r.semv sem + n) : semAdd c sem n s = (s, false) :=
  if_pos h

/-- A SIGNAL whose sum stays below 2^32 adds to its target's semaphore (R151). -/
theorem sEff_signal {s : State} {n : Nat} {w : BitVec 57}
    (h : (s.core (sigTarget s n w)).r.semv (fld w 56 51) + fld w 50 43 < 2 ^ 32) :
    sEff s n ⟨3, 0x22, w⟩ s = s.setCore (sigTarget s n w) { s.core (sigTarget s n w) with
      r := (s.core (sigTarget s n w)).r.setSem (fld w 56 51) ((s.core (sigTarget s n w)).r.semv (fld w 56 51) + fld w 50 43) } := by
  have hsig : sEff s n ⟨3, 0x22, w⟩ s = signalEff s n w s := by simp [sEff, sResult]
  rw [hsig, signalEff, semAdd_fits h]
  rfl

theorem unitCheck_signal {s : State} {n : Nat} {w : BitVec 57} (hc : sigTarget s n w < s.nCores)
    (ho : s.ownerOfCore (sigTarget s n w) = s.ownerOfCore n) (wm : Bool) : unitCheck s n wm ⟨3, 0x22, w⟩ = none := by
  simp [unitCheck, sCheck, hc, ho]

theorem exec_wait {s : State} {n : Nat} {w : BitVec 57} (h : Ready s n) (hf : NextOk s n) (hl : Legal s n ⟨3, 0x20, w⟩)
    (hm : fld w 50 43 ≤ (s.core n).r.semv (fld w 56 51)) :
    exec (.wait n false w) s = .next (nextBundle s n ((s.core n).r.setSem (fld w 56 51) ((s.core n).r.semv (fld w 56 51) - fld w 50 43))) :=
  issue_S_core h hl (by decide) (sWait_wait_met hm) rfl rfl rfl hf (h.quiet n) h.run h.stalled h.unmet

theorem exec_waitc {s : State} {n : Nat} {w : BitVec 57} (h : Ready s n) (hf : NextOk s n) (hl : Legal s n ⟨3, 0x21, w⟩)
    (hm : ((s.core n).r.sreg (fld w 56 52)).toNat ≤ s.course.toNat) :
    exec (.waitc n false w) s = .next (goesTo s n { s.core n with seq := { (s.core n).seq with
      cntLatec := if ((s.core n).r.sreg (fld w 56 52)).toNat < s.course.toNat then satAdd 48 (s.core n).seq.cntLatec 1 else (s.core n).seq.cntLatec } }
      ((s.core n).seq.baddr + 32)) := by
  have heff := sEff_waitc (w := w) h.unmet
  by_cases hp : ((s.core n).r.sreg (fld w 56 52)).toNat < s.course.toNat
  · rw [if_pos hp] at heff ⊢
    exact issue_S_core h hl (by decide) (sWait_waitc_met hm) rfl heff rfl hf (h.quiet n) h.run h.stalled h.unmet
  · rw [if_neg hp] at heff ⊢
    exact issue_S h hl (by decide) (sWait_waitc_met hm) rfl heff h.quiet h.run h.stalled h.unmet (.inr rfl) (.inr rfl) rfl hf

/-- The core of a SIGNAL is as it was but, where it is its own target, for the semaphore. -/
theorem exec_signal {s : State} {n : Nat} {w : BitVec 57} (h : Ready s n) (hf : NextOk s n) (hl : Legal s n ⟨3, 0x22, w⟩)
    (hc : sigTarget s n w < s.nCores) (ho : s.ownerOfCore (sigTarget s n w) = s.ownerOfCore n)
    (hv : (s.core (sigTarget s n w)).r.semv (fld w 56 51) + fld w 50 43 < 2 ^ 32) :
    let t := s.setCore (sigTarget s n w) { s.core (sigTarget s n w) with
      r := (s.core (sigTarget s n w)).r.setSem (fld w 56 51) ((s.core (sigTarget s n w)).r.semv (fld w 56 51) + fld w 50 43) }
    exec (.signal n false w) s = .next (goesTo t n (t.core n) ((s.core n).seq.baddr + 32)) := by
  intro t
  have hseq : ∀ c, (t.core c).seq = (s.core c).seq := by
    intro c
    by_cases hcc : sigTarget s n w = c
    · rw [← hcc, State.core_setCore_same]
    · rw [State.core_setCore_other s hcc]
  exact issue_S h hl (by decide) (sWait_of_other false (by decide)) (unitCheck_signal hc ho _) (sEff_signal hv)
    (h.quiet.of_core fun c => by rw [hseq c]) (by rw [hseq, h.run]) (by rw [hseq, h.stalled]) (by rw [hseq, h.unmet])
    (.inr rfl) (.inr rfl) rfl hf

end Sys2Proof.Machine

open Sys2Proof Sys2Proof.Machine

/-- Settles O5, a row at a time: what each waits for has come, and its effect is on semaphores and a counter alone. -/
theorem semaphoresAndWaits : Obligations.SemaphoresAndWaits := by
  unfold Obligations.SemaphoresAndWaits
  intro s n w h hf k r sem cnt course c
  exact ⟨fun hl hm => exec_wait h hf hl hm, fun hl hm => exec_waitc h hf hl hm, fun hl hc ho hv => exec_signal h hf hl hc ho hv⟩

end

/-! ### Deferral -/

section
namespace Sys2Proof.Machine

open Sys2Proof

theorem headNext_S {s : State} {n op : Nat} {w : BitVec 57} (h : Ready s n) (hl : Legal s n ⟨3, op, w⟩) (hw : sWait s n false ⟨3, op, w⟩ = .ready) :
    headNext s n [⟨3, op, w⟩] = .go := by
  have hs : slotOf [(⟨3, op, w⟩ : SlotI)] 3 = ⟨3, op, w⟩ := slotOf_self ⟨3, op, w⟩
  have h0 : slotOf [(⟨3, op, w⟩ : SlotI)] 0 = ⟨0, 0, 0#57⟩ := slotOf_other (by simp)
  have h2 : slotOf [(⟨3, op, w⟩ : SlotI)] 2 = ⟨2, 0, 0#57⟩ := slotOf_other (by simp)
  simp [headNext, hs, hl.bits, h.stalled, hw, bundleStalls, h0, h2, mWaits_nop, xWaits_nop]

/-! #### Outside a fragment -/

theorem sWait_wmode {s : State} {n : Nat} {w : BitVec 57} (hq : (s.core n).seq.wq = []) : sWait s n false ⟨3, 0x2B, w⟩ = .ready := by
  simp [sWait, hq]

theorem sWait_defer {s : State} {n : Nat} {w : BitVec 57} (hq : (s.core n).seq.wq.length < 64) : sWait s n false ⟨3, 0x28, w⟩ = .ready := by
  simp [sWait, Nat.not_le.2 hq]

theorem sWait_wflush {s : State} {n : Nat} {w : BitVec 57} (hq : (s.core n).seq.wq = []) : sWait s n false ⟨3, 0x2A, w⟩ = .ready := by
  simp [sWait, hq]

/-- A WMODE names no resource, so outside a fragment the W bank does not stop it, whichever mode it is checked under (R156, R157). -/
theorem slotCheck_wmode {s : State} {n : Nat} {w : BitVec 57} (hl : Legal s n ⟨3, 0x2B, w⟩) (hi : (s.core n).seq.infrag = false)
    (hm : (s.core n).seq.wmode = !bitOf w 56) : slotCheck s n [⟨3, 0x2B, w⟩] ⟨3, 0x2B, w⟩ = none := by
  have hbits : slotIllegal ⟨3, 0x2B, w⟩ = false := hl.bits
  have hcheck : ∀ wm, unitCheck s n wm ⟨3, 0x2B, w⟩ = none := by
    intro wm
    have hne : (bitOf w 56 == (s.core n).seq.wmode) = false := by rw [hm]; simp
    simp [unitCheck, sCheck, hne]
  have hbank : ∀ wm, bankConflict wm false (slotRes ⟨3, 0x2B, w⟩) = false := by simp [bankConflict, slotRes]
  simp [slotCheck, hbits, hcheck, hi, hbank]

theorem exec_wmode {s : State} {n : Nat} {w : BitVec 57} (h : Ready s n) (hf : NextOk s n) (hl : Legal s n ⟨3, 0x2B, w⟩)
    (hi : (s.core n).seq.infrag = false) (hm : (s.core n).seq.wmode = !bitOf w 56) (hq : (s.core n).seq.wq = []) :
    exec (.wmode n false w) s = .next (goesTo s n { s.core n with seq := { (s.core n).seq with wmode := bitOf w 56 } } ((s.core n).seq.baddr + 32)) := by
  have hgive := give_solo h (show 3 < 4 by decide) (headNext_S h hl (sWait_wmode hq)) (slotCheck_wmode hl hi hm)
  have heff : sEff s n ⟨3, 0x2B, w⟩ s = s.setCore n { s.core n with seq := { (s.core n).seq with wmode := bitOf w 56 } } := rfl
  have hissue := issueBundle_S (.inr rfl) heff (.inr rfl) h.unmet (by decide) (by decide) (by rw [State.core_setCore_same]; exact h.run) rfl hf
  have hexec : exec (.wmode n false w) s = onCore n s (give n false ⟨3, 0x2B, w⟩) := rfl
  rw [hexec, onCore, if_pos h.unit, hgive, hissue, State.core_setCore_same, State.setCore_setCore, settle_quiet]
  · simp [goesTo, nextAddr, h.run, h.stalled, h.unmet]
  · exact h.quiet.setCore n (h.quiet n)

theorem exec_defer {s : State} {n : Nat} {w : BitVec 57} (h : Ready s n) (hf : NextOk s n) (hl : Legal s n ⟨3, 0x28, w⟩)
    (hm : (s.core n).seq.wmode = true) (hq : (s.core n).seq.wq.length < 64) :
    exec (.defer n false w) s = .next (goesTo s n { s.core n with seq := { (s.core n).seq with wq := (s.core n).seq.wq ++
      [⟨(s.core n).r.sreg (fld w 56 52), (s.core n).r.sreg (fld w 51 47), fld w 15 0⟩] } } ((s.core n).seq.baddr + 32)) := by
  have hcheck : unitCheck s n (s.core n).seq.wmode ⟨3, 0x28, w⟩ = none := by simp [unitCheck, sCheck, hm]
  exact issue_S_core h hl (by decide) (sWait_defer hq) hcheck rfl rfl hf (h.quiet n) h.run h.stalled h.unmet

theorem exec_wflush {s : State} {n : Nat} {w : BitVec 57} (h : Ready s n) (hf : NextOk s n) (hl : Legal s n ⟨3, 0x2A, w⟩)
    (hq : (s.core n).seq.wq = []) : exec (.wflush n false w) s = .next (nextBundle s n (s.core n).r) :=
  issue_S h hl (by decide) (sWait_wflush hq) rfl rfl h.quiet h.run h.stalled h.unmet (.inr rfl) (.inr rfl) rfl hf

/-! #### The end of a fragment -/

/-- A mark is kept beside the course counter's state alone (R261). -/
theorem State.mark_eq (s : State) (own : Option Nat) (k : Nat) : ∃ f, s.mark own k = s.updCrs f := by
  unfold State.mark
  split
  · exact ⟨id, rfl⟩
  · split
    · exact ⟨id, rfl⟩
    · split
      · exact ⟨id, rfl⟩
      · exact ⟨_, rfl⟩

/-- Slot 3 of every array lets a fragment end: none is parked or resumed, and none stays open (R159). -/
def slot3Ends (k : Core) : Prop := ∀ a < 4, (k.m.skein (4 * a + 3)).st = .free ∨ (k.m.skein (4 * a + 3)).st = .draining

theorem sWait_wend {s : State} {n : Nat} {w : BitVec 57} (h3 : slot3Ends (s.core n)) (hd : dmaReads ((s.core n).dmaq 3) = false) :
    sWait s n false ⟨3, 0x29, w⟩ = .ready := by
  unfold sWait
  dsimp only
  rw [if_neg (by decide), if_neg (by decide), if_neg (by decide), if_pos rfl, if_neg]
  intro hstall
  simp only [Bool.and_eq_true, Bool.or_eq_true, List.any_eq_true, hd, Bool.false_eq_true, or_false] at hstall
  obtain ⟨-, a, ha, hst⟩ := hstall
  rcases h3 a (List.mem_range.1 ha) with h | h <;> simp [skIdx, h] at hst

theorem unitCheck_wend {s : State} {n : Nat} {w : BitVec 57} (hi : (s.core n).seq.infrag = true) (h3 : slot3Ends (s.core n)) (wm : Bool) :
    unitCheck s n wm ⟨3, 0x29, w⟩ = none := by
  have hok : slot3Ok s n = true := by
    rw [slot3Ok, List.all_eq_true]
    intro a ha
    rcases h3 a (List.mem_range.1 ha) with h | h <;> simp [skIdx, h]
  simp [unitCheck, sCheck, hi, hok]

/-- Core n after a WEND has issued, before the main program's bundle comes back (R159). -/
def wendIssued (s : State) (n : Nat) : State :=
  s.draw.2.setCore n { s.core n with seq := { (s.core n).seq with
    infrag := false, cntFill := satAdd 48 (s.core n).seq.cntFill (Config.cycles s.draw.1), baddr := (s.core n).seq.raddr } }

theorem issueBundle_wend {s : State} {n : Nat} {w : BitVec 57} (h : Ready s n) (hf : fetchOk s n (s.core n).seq.raddr = true) :
    issueBundle n [⟨3, 0x29, w⟩] s = popMain n ((wendIssued s n).mark (s.ownerOfCore n) 3) := by
  have hreads : ReadsClean s n ⟨3, 0x29, w⟩ := .inr rfl
  have heff : sEff s n ⟨3, 0x29, w⟩ s = s.draw.2.setCore n { s.core n with seq := { (s.core n).seq with
    infrag := false, cntFill := satAdd 48 (s.core n).seq.cntFill (Config.cycles s.draw.1) } } := rfl
  have hb := (bundleEff_s hreads (.inr (by rw [heff]; rfl))).trans heff
  have hslot : slotOf [(⟨3, 0x29, w⟩ : SlotI)] 3 = ⟨3, 0x29, w⟩ := slotOf_self ⟨3, 0x29, w⟩
  have hf' : ∀ k, fetchOk (s.draw.2.setCore n k) n (s.core n).seq.raddr = true := fun k => hf
  simp only [issueBundle, bundleNote_solo hreads, hb, hslot, h.unmet]
  simp [State.updSeq_eq, h.run, h.stalled, h.unmet, nextAddr, wendIssued, gotoAddr, hf']

/-- The main program's bundle comes back to the head of a core with no bundle waiting (R160). -/
theorem popMain_core_same {s : State} {n : Nat} (hq : (s.core n).seq.q = []) : ∃ m st un, (popMain n s).core n =
    { s.core n with seq := { (s.core n).seq with q := (s.core n).seq.main.toList, main := m, stalled := st, unmet := un } } := by
  rw [popMain, State.updSeq_eq, State.core_setCore_same]
  cases hm : (s.core n).seq.main with
  | none =>
    have hseq : (s.core n).seq = { (s.core n).seq with q := [], main := none } := by rw [← hm, ← hq]
    exact ⟨none, _, _, congrArg (fun q => { s.core n with seq := q }) hseq⟩
  | some b => exact ⟨none, true, _, by simp [hq]; rfl⟩

theorem exec_wend {s : State} {n : Nat} {w : BitVec 57} (h : Ready s n) (hl : Legal s n ⟨3, 0x29, w⟩) (hi : (s.core n).seq.infrag = true)
    (hf : fetchOk s n (s.core n).seq.raddr = true) (h3 : slot3Ends (s.core n)) (hd : dmaReads ((s.core n).dmaq 3) = false) :
    exec (.wend n false w) s = .next (settle (popMain n ((wendIssued s n).mark (s.ownerOfCore n) 3))) := by
  have hi := give_S h hl (by decide) (sWait_wend h3 hd) (unitCheck_wend hi h3 _)
  exact (if_pos h.unit).trans (by rw [hi, issueBundle_wend h hf])

end Sys2Proof.Machine

open Sys2Proof Sys2Proof.Machine

/-- Settles O6: outside a fragment each row changes its core's sequencer alone; a WEND issues, and then the main program's bundle comes back. -/
theorem deferral : Obligations.Deferral := by
  unfold Obligations.Deferral
  intro s n w h hf k q on
  refine ⟨fun hl hi hm hq => exec_wmode h hf hl hi hm hq, fun hl _ hm hq => exec_defer h hf hl hm hq,
    fun hl _ hq => exec_wflush h hf hl hq, fun hl hi hr h3 hd => ⟨_, exec_wend h hl hi hr h3 hd, ?_⟩⟩
  obtain ⟨f, hmark⟩ := State.mark_eq (wendIssued s n) (s.ownerOfCore n) 3
  have hn : ((wendIssued s n).updCrs f).core n = { k with seq := { q with
      infrag := false, cntFill := satAdd 48 q.cntFill (Config.cycles s.draw.1), baddr := q.raddr } } := State.core_setCore_same _ n _
  obtain ⟨m, st, un, hpop⟩ := popMain_core_same (s := (wendIssued s n).updCrs f) (n := n) (by rw [hn]; exact h.quiet n)
  rw [hn] at hpop
  rw [hmark, hpop]
  refine ⟨rfl, rfl, fun c hc => ?_, rfl, rfl, rfl, rfl, rfl, rfl⟩
  exact (State.core_setCore_other _ (Ne.symm hc) _).trans (State.core_setCore_other s.draw.2 (Ne.symm hc) _)

end

/-! ### X slots -/

section
namespace Sys2Proof.Machine

open Sys2Proof

theorem bundleStalls_x {s : State} {n op : Nat} {w : BitVec 57} (hw : xWaits s n ⟨2, op, w⟩ = false) : bundleStalls s n [⟨2, op, w⟩] = false := by
  have hx : slotOf [(⟨2, op, w⟩ : SlotI)] 2 = ⟨2, op, w⟩ := slotOf_self ⟨2, op, w⟩
  have hm : slotOf [(⟨2, op, w⟩ : SlotI)] 0 = ⟨0, 0, 0#57⟩ := slotOf_other (by simp)
  simp [bundleStalls, hx, hm, hw, mWaits_nop]

/-- An X slot with effect t that need not wait and leaves the sequencers alone. -/
theorem issue_x {s : State} {n op : Nat} {w : BitVec 57} {t : State} (h : Ready s n) (hf : NextOk s n) (hl : Legal s n ⟨2, op, w⟩)
    (hw : xWaits s n ⟨2, op, w⟩ = false) (hm : ReadsClean s n ⟨2, op, w⟩) (hc : xCheck s n ⟨2, op, w⟩ = none)
    (he : xEff s n ⟨2, op, w⟩ s = t) (hsp : s.NoErr ∨ t.sp = s.sp) (hseq : ∀ c, (t.core c).seq = (s.core c).seq) (hp : t.part = s.part) :
    issue n false 2 op w s = .next (goesTo t n (t.core n) ((s.core n).seq.baddr + 32)) := by
  have hb : bundleEff s n [⟨2, op, w⟩] = t := (bundleEff_x hm (by rwa [he])).trans he
  have hq : Quiet t := h.quiet.of_core fun c => by rw [hseq c]
  have hgive := give_legal h hl hf (show 2 < 3 by decide) (bundleStalls_x hw) hm hc hb (by rw [hseq, h.run]) hp
  rw [issue, onCore, if_pos h.unit, hgive, settle_quiet]
  · have hrun : (t.core n).seq.run = .running := by rw [hseq, h.run]
    have hstalled : (t.core n).seq.stalled = false := by rw [hseq, h.stalled]
    have hunmet : (t.core n).seq.unmet = false := by rw [hseq, h.unmet]
    simp [goesTo, hrun, hstalled, hunmet]
  · exact hq.setCore n (hq n)

/-- An X slot that changes its own core alone, and not its sequencer. -/
theorem issue_x_core {s : State} {n op : Nat} {w : BitVec 57} {k : Core} (h : Ready s n) (hf : NextOk s n) (hl : Legal s n ⟨2, op, w⟩)
    (hw : xWaits s n ⟨2, op, w⟩ = false) (hm : ReadsClean s n ⟨2, op, w⟩) (hc : xCheck s n ⟨2, op, w⟩ = none)
    (he : xEff s n ⟨2, op, w⟩ s = s.setCore n k) (hseq : k.seq = (s.core n).seq) :
    issue n false 2 op w s = .next (goesTo s n k ((s.core n).seq.baddr + 32)) := by
  have hall : ∀ c, ((s.setCore n k).core c).seq = (s.core c).seq := by
    intro c
    by_cases hcn : n = c
    · rw [← hcn, State.core_setCore_same, hseq]
    · rw [State.core_setCore_other s hcn]
  exact (issue_x h hf hl hw hm hc he (.inr rfl) hall rfl).trans (by simp [goesTo])

/-! #### TLD, GLD and GST -/

/-- A line at an aligned offset of the populated scratchpad may be moved (R143). -/
theorem lineBad_false {off : Nat} (ha : off % 64 = 0) (hs : off + 64 ≤ spSize) : lineBad off = false := by
  simp [lineBad, spOff, ha, hs]

theorem exec_tld {s : State} {n : Nat} {w : BitVec 57} (h : Ready s n) (hf : NextOk s n) (hl : Legal s n ⟨2, 0x01, w⟩) (he : s.NoErr)
    (hb : lineBad ((s.core n).r.sreg (fld w 52 48)).toNat = false) (ho : tdOk (s.line (spBase n + ((s.core n).r.sreg (fld w 52 48)).toNat)) = true) :
    exec (.tld n false w) s = .next (nextBundle s n ((s.core n).r.setT (fld w 56 53) (s.line (spBase n + ((s.core n).r.sreg (fld w 52 48)).toNat)))) :=
  issue_x_core h hf hl rfl (.inl he) (by simp [xCheck, tldCheck, hb, ho]) rfl rfl

theorem exec_gld {s : State} {n : Nat} {w : BitVec 57} (h : Ready s n) (hf : NextOk s n) (hl : Legal s n ⟨2, 0x02, w⟩) (he : s.NoErr)
    (hb : lineBad ((s.core n).r.sreg (fld w 53 49)).toNat = false) (ho : genOk (s.line (spBase n + ((s.core n).r.sreg (fld w 53 49)).toNat)) = true) :
    exec (.gld n false w) s = .next (nextBundle s n ((s.core n).r.setG (fld w 56 54) (s.line (spBase n + ((s.core n).r.sreg (fld w 53 49)).toNat)))) :=
  issue_x_core h hf hl rfl (.inl he) (by simp [xCheck, gldCheck, hb, ho]) rfl rfl

/-- GST is one write of 64 bytes, and its core goes on. -/
theorem exec_gst {s : State} {n : Nat} {w : BitVec 57} (h : Ready s n) (hf : NextOk s n) (hl : Legal s n ⟨2, 0x03, w⟩) (he : s.NoErr)
    (hb : lineBad ((s.core n).r.sreg (fld w 53 49)).toNat = false) :
    exec (.gst n false w) s = .next (goesTo (s.wr (spBase n + ((s.core n).r.sreg (fld w 53 49)).toNat) 64 ((s.core n).r.gen (fld w 56 54)).toNat)
      n (s.core n) ((s.core n).seq.baddr + 32)) := by
  have hcore := State.putBytes_core he (spBase n + ((s.core n).r.sreg (fld w 53 49)).toNat) (leBytes 64 ((s.core n).r.gen (fld w 56 54)).toNat)
  have heff : xEff s n ⟨2, 0x03, w⟩ s = gstEff s n w s := by simp [xEff]
  have hi := issue_x h hf hl rfl (.inl he) (by simp [xCheck, gstCheck, hb]) heff (.inl he) (fun c => by rw [gstEff, State.wr, hcore])
    (by rw [gstEff, State.wr, State.putBytes_eq he])
  refine hi.trans ?_
  rw [gstEff, State.wr, hcore]

/-- A line reads as what a write of its 64 bytes wrote. -/
theorem State.line_wr_same {s : State} (he : s.NoErr) (a : Nat) (l : Line) : (s.wr a 64 l.toNat).line a = l := by
  have hlt : l.toNat < 256 ^ 64 := by rw [show (256 : Nat) = 2 ^ 8 from rfl, ← Nat.pow_mul]; exact l.isLt
  rw [State.line, State.rd_wr_same he, Nat.mod_eq_of_lt hlt, BitVec.ofNat_toNat, BitVec.setWidth_eq]

/-! #### DMA and DMAT -/

theorem xWaits_dma {s : State} {n op : Nat} {w : BitVec 57} (hop : op = 0x04 ∨ op = 0x05) (hx : ((s.core n).dmaq (fld w 53 52)).xs.length < 16) :
    xWaits s n ⟨2, op, w⟩ = false := by
  simp [xWaits, hop, hx]

/-- A transfer enters its queue behind those that wait there (R144). -/
theorem issue_dma {s : State} {n op : Nat} {w : BitVec 57} {x : Xfer} (h : Ready s n) (hf : NextOk s n) (hl : Legal s n ⟨2, op, w⟩)
    (hop : op = 0x04 ∨ op = 0x05) (hx : ((s.core n).dmaq (fld w 53 52)).xs.length < 16) (hc : xCheck s n ⟨2, op, w⟩ = none)
    (he : xEff s n ⟨2, op, w⟩ s = enterXfer n (fld w 53 52) x s) :
    issue n false 2 op w s = .next (goesTo s n { s.core n with
      dma := SMap.set (fld w 53 52) { (s.core n).dmaq (fld w 53 52) with xs := ((s.core n).dmaq (fld w 53 52)).xs ++ [x] } (s.core n).dma }
      ((s.core n).seq.baddr + 32)) := by
  have hreads : slotReads s n ⟨2, op, w⟩ = [] := by rcases hop with rfl | rfl <;> rfl
  exact issue_x_core h hf hl (xWaits_dma hop hx) (.inr hreads) hc he rfl

/-! #### SEND, RECV and CHAIN -/

theorem State.byteField_line_zero (s : State) (a : Nat) : byteField (s.line a) 0 1 = (s.byte a).toNat := by
  rw [State.byteField_line s a 0 1 (by decide)]
  simp [State.rd, State.bytes, leNat]

/-- A request of an assigned operation is handed to the collective engine with its block and its semaphore (R149). -/
theorem issue_request {s : State} {n kind : Nat} {w : BitVec 57} (h : Ready s n) (hf : NextOk s n) (hl : Legal s n ⟨2, kind + 6, w⟩)
    (he : s.NoErr) (hr : (s.core n).reqs.length < 32) (hs : ((s.core n).r.sreg (fld w 56 52)).toNat + 64 ≤ spSize)
    (hop : reqOpBad kind (s.byte (spBase n + ((s.core n).r.sreg (fld w 56 52)).toNat)).toNat = false) :
    issue n false 2 (kind + 6) w s = .next { goesTo s n { s.core n with reqs := (s.core n).reqs ++ [fld w 51 46] } ((s.core n).seq.baddr + 32) with
      creqs := s.creqs ++ [⟨n, kind, fld w 51 46, s.line (spBase n + ((s.core n).r.sreg (fld w 56 52)).toNat)⟩] } := by
  have hwait : xWaits s n ⟨2, kind + 6, w⟩ = false := by simp [xWaits, hr]
  have hcheck : xCheck s n ⟨2, kind + 6, w⟩ = none := by simp [xCheck, reqCheck, spOff, hs]
  have heff : xEff s n ⟨2, kind + 6, w⟩ s = { s.setCore n { s.core n with reqs := (s.core n).reqs ++ [fld w 51 46] } with
      creqs := s.creqs ++ [⟨n, kind, fld w 51 46, s.line (spBase n + ((s.core n).r.sreg (fld w 56 52)).toNat)⟩] } := by
    simp only [xEff, Nat.add_sub_cancel]
    rw [if_neg (by omega), if_neg (by omega), if_neg (by omega), if_neg (by omega), if_neg (by omega), if_pos (by omega), reqEff,
      State.byteField_line_zero, hop]
    rfl
  have hseq : ∀ c, ((s.setCore n { s.core n with reqs := (s.core n).reqs ++ [fld w 51 46] }).core c).seq = (s.core c).seq := by
    intro c
    by_cases hcn : n = c
    · rw [← hcn, State.core_setCore_same]
    · rw [State.core_setCore_other s hcn]
  have hcore : ({ s.setCore n { s.core n with reqs := (s.core n).reqs ++ [fld w 51 46] } with
      creqs := s.creqs ++ [⟨n, kind, fld w 51 46, s.line (spBase n + ((s.core n).r.sreg (fld w 56 52)).toNat)⟩] } : State).core n =
    { s.core n with reqs := (s.core n).reqs ++ [fld w 51 46] } := State.core_setCore_same s n _
  refine (issue_x h hf hl hwait (.inl he) hcheck heff (.inl he) hseq rfl).trans ?_
  rw [hcore]
  simp [goesTo, State.setCore]

end Sys2Proof.Machine

open Sys2Proof Sys2Proof.Machine

/-- Settles O20, a row at a time. -/
theorem descriptorsAndTransfersEnter : Obligations.DescriptorsAndTransfersEnter := by
  unfold Obligations.DescriptorsAndTransfersEnter
  refine ⟨?_, ?_⟩
  · intro s n w h hf r off offT he
    refine ⟨fun hl ha hs ho => exec_tld h hf hl he (lineBad_false ha hs) ho, fun hl ha hs ho => exec_gld h hf hl he (lineBad_false ha hs) ho,
      fun hl ha hs => ⟨_, exec_gst h hf hl he (lineBad_false ha hs), ?_, ?_, ?_, ?_⟩⟩
    · exact State.line_wr_same he _ _
    · exact fun x hx => State.byte_wr_other he _ 64 _ hx
    · exact State.core_setCore_same _ n _
    · exact onlyMem_goesTo_putBytes he _ _ n _ _
  · intro s n w h hf k r q enter off ask
    refine ⟨fun hx => ⟨fun hl hc => issue_dma h hf hl (.inl rfl) hx hc rfl, fun hl hc => issue_dma h hf hl (.inr rfl) hx hc rfl⟩,
      fun he hr hs => ?_⟩
    intro op
    refine ⟨fun hl ho => ?_, fun hl ho => ?_, fun hl ho => ?_⟩
    · exact issue_request (kind := 0) h hf hl he hr hs (congrArg not (List.contains_iff_mem.2 ho))
    · exact issue_request (kind := 1) h hf hl he hr hs (congrArg not (List.contains_iff_mem.2 ho))
    · exact issue_request (kind := 2) h hf hl he hr hs (congrArg not (List.contains_iff_mem.2 ho))

end

/-! ### Accesses where no stored word has an error -/

section
namespace Sys2Proof.Machine

open Sys2Proof

section
variable {s : State} (h : s.NoErr)
include h

theorem State.eccIn_noErr (a n : Nat) : s.eccIn a n = [] := by simp [State.eccIn, h.1]

theorem State.errIn_noErr (a n : Nat) : s.errIn a n = [] := by simp [State.errIn, h.2]

theorem State.memUe_noErr (a n : Nat) : s.memUe a n = none := by simp [State.memUe, State.eccIn_noErr h, State.errIn_noErr h]

theorem State.readNote_noErr (a n : Nat) : s.readNote a n = s := by simp [State.readNote, State.eccIn_noErr h, State.errIn_noErr h]

theorem State.merged_noErr (sp : List (Nat × Nat)) : s.merged sp = ([], []) := by simp [State.merged, h.1, h.2]

theorem State.writeUe_noErr (sp : List (Nat × Nat)) : s.writeUe sp = none := by simp [State.writeUe, State.merged_noErr h]

theorem State.writeNote_noErr (sp : List (Nat × Nat)) : State.writeNote sp s = s := by
  obtain ⟨hecc, herr⟩ := h
  simp only [State.writeNote, State.merged_noErr ⟨hecc, herr⟩, List.foldl_nil, hecc, herr, List.filter_nil]
  rw [← hecc, ← herr]

theorem State.foldl_readNote_noErr (sp : List (Nat × Nat)) : sp.foldl (fun s p => s.readNote p.1 p.2) s = s := by
  induction sp with
  | nil => rfl
  | cons p r ih => rw [List.foldl_cons, State.readNote_noErr h, ih]

end

end Sys2Proof.Machine
end

/-! ### A transfer runs -/

section
namespace Sys2Proof.Machine

open Sys2Proof

/-- All that a transfer has left is its next units, as many as are left. -/
theorem xferLeft_take (x : Xfer) : (xferLeft x).take (xferUnits x - x.pos) = xferLeft x :=
  List.take_of_length_le (by simp [xferLeft])

/-- The transfer's writes are made as one, and it is marked done (R144, R146). -/
def xferDone (s : State) (n q : Nat) (x : Xfer) (rest : List Xfer) : State :=
  let own := s.ownerOfCore n
  let u := State.asOne (xferSpans x).2 (xferRun own (0x2000 + 4 * n + q) x (xferT s own x) (xferLeft x)) s
  u.setDmaq n q { (u.core n).dmaq q with xs :=
    { x with pos := x.pos + (xferLeft x).length, live := (xferScaled x).map (fun _ => xferT s own x), done := true } :: rest }

/-- A run of all that is left, of reachable spans that nothing holds, without stored errors and with a matching scale entry. -/
theorem runPart_all {s : State} {n q : Nat} {x : Xfer} {rest : List Xfer} (hbad : badSpan s (s.ownerOfCore n) (xferSpans x) = none)
    (hheld : ∀ p ∈ (xferSpans x).1 ++ (xferSpans x).2, portHeld s p = false) (he : s.NoErr)
    (hscale : ∀ t, xferScaled x = some t → scaleErr s (s.ownerOfCore n) t = none) :
    runPart (xferUnits x - x.pos) n q x rest s = xferDone s n q x rest := by
  have hany : ((xferSpans x).1 ++ (xferSpans x).2).any (portHeld s) = false := List.any_eq_false.2 (fun p hp => by simp [hheld p hp])
  have hue : ((xferSpans x).1 ++ entrySpans s x).findSome? (fun (p : Nat × Nat) => s.memUe p.1 p.2) = none :=
    List.findSome?_eq_none_iff.2 (fun p _ => State.memUe_noErr he p.1 p.2)
  have hentry : (xferScaled x).bind (scaleErr s (s.ownerOfCore n)) = none := by
    cases ht : xferScaled x with
    | none => rfl
    | some t => exact hscale t ht
  have hdone : decide (xferUnits x ≤ x.pos + (xferUnits x - x.pos)) = true := by simp; omega
  have hsp : spansOf x (xferLeft x) = xferSpans x := rfl
  simp only [runPart, xferLeft_take, hsp, hbad, hany, hue, Option.none_or, State.writeUe_noErr he, State.foldl_readNote_noErr he,
    State.writeNote_noErr he, hentry, hdone]
  rfl

/-- The head of a queue that moves runs, in the row of its kind. -/
theorem runHead_moves {s : State} {n q : Nat} {x : Xfer} {rest : List Xfer} (hx : ((s.core n).dmaq q).xs = x :: rest)
    (hf : ((s.core n).dmaq q).frozen = false) (hd : x.done = false) (hm : dmaMoves s n = true) :
    runHead x.kind n q s = runPart (xferUnits x - x.pos) n q x rest s := by
  simp [runHead, hx, hf, hd, hm]

end Sys2Proof.Machine

open Sys2Proof Sys2Proof.Machine

/-- Settles O21: the six rows are one run of the head, by its kind. -/
theorem transfersRun : Obligations.TransfersRun := by
  unfold Obligations.TransfersRun
  intro s n q x rest hn hq d own us sp hx hf hd hm hbad hheld he hscale tt u t
  have hrun : runHead x.kind n (q % 4) s = t := by
    rw [Nat.mod_eq_of_lt hq, runHead_moves hx hf hd hm, runPart_all hbad hheld he hscale]
    rfl
  have hexec : ∀ k, x.kind = k → onCore n s (fun s => settle (runHead k n (q % 4) s)) = .next (settle t) := by
    rintro k rfl
    rw [onCore, if_pos hn, hrun]
  exact ⟨hexec 0, hexec 1, hexec 2, hexec 3, hexec 4, hexec 5⟩

end

/-! ### What an event leaves of the cores -/

section
namespace Sys2Proof

theorem SMap.get_map_range {α : Type} (d : α) (f : Nat → α) {n i : Nat} (h : i < n) :
    SMap.get d i ((List.range n).map (fun j => (j, f j))) = f i := by
  have hget : ∀ m k, k ≤ i → i < k + m → SMap.get d i ((List.range' k m).map (fun j => (j, f j))) = f i := by
    intro m
    induction m with
    | zero => intro k h1 h2; omega
    | succ m ih =>
      intro k h1 h2
      rw [List.range'_succ, List.map_cons, SMap.get]
      by_cases hk : k = i
      · rw [if_pos hk, hk]
      · rw [if_neg hk]; exact ih (k + 1) (by omega) (by omega)
  rw [List.range_eq_range']
  exact hget n 0 (Nat.zero_le i) (by omega)

namespace Machine

/-- What an event may do to a core is to halt it, where it issues, and to freeze it with its DMA queues (R103, R365, R373). -/
structure Core.Stops (k k' : Core) : Prop where
  r : k'.r = k.r
  m : k'.m = k.m
  baddr : k'.seq.baddr = k.seq.baddr
  halted : k.seq.run = .halted → k'.seq.run = .halted
  frozen : ∀ q < 4, (k.dmaq q).frozen = true → (k'.dmaq q).frozen = true

theorem Core.Stops.refl (k : Core) : k.Stops k := ⟨rfl, rfl, rfl, id, fun _ _ => id⟩

theorem Core.Stops.trans {k k' k'' : Core} (h : k.Stops k') (h' : k'.Stops k'') : k.Stops k'' :=
  ⟨h'.r.trans h.r, h'.m.trans h.m, h'.baddr.trans h.baddr, h'.halted ∘ h.halted, fun q hq => h'.frozen q hq ∘ h.frozen q hq⟩

/-- Every core is as it was but for a stop. -/
structure CoresStop (s t : State) : Prop where
  core : ∀ c, (s.core c).Stops (t.core c)

theorem CoresStop.of {s t : State} (h : t.cores = s.cores) : CoresStop s t := by
  refine ⟨fun c => ?_⟩
  rw [State.core, State.core, h]
  exact .refl _

theorem CoresStop.refl (s : State) : CoresStop s s := .of rfl

theorem CoresStop.trans {s t u : State} (h : CoresStop s t) (k : CoresStop t u) : CoresStop s u :=
  ⟨fun c => (h.core c).trans (k.core c)⟩

theorem CoresStop.foldl {α : Type} {f : State → α → State} (h : ∀ s a, CoresStop s (f s a)) (l : List α) (s : State) : CoresStop s (l.foldl f s) := by
  induction l generalizing s with
  | nil => exact .refl s
  | cons a r ih => exact (h s a).trans (ih (f s a))

theorem CoresStop.ite {s t u : State} {b : Prop} [Decidable b] (h : CoresStop s t) (k : CoresStop s u) : CoresStop s (if b then t else u) := by
  split <;> assumption

theorem CoresStop.setCore (s : State) {n : Nat} {k : Core} (h : (s.core n).Stops k) : CoresStop s (s.setCore n k) := by
  refine ⟨fun c => ?_⟩
  by_cases hc : n = c
  · rw [← hc, State.core_setCore_same]; exact h
  · rw [State.core_setCore_other s hc]; exact .refl _

theorem CoresStop.updFlt (s : State) (f : FltSt → FltSt) : CoresStop s (s.updFlt f) := .of rfl
theorem CoresStop.updFltOwner (s : State) (p : Nat) (f : FltOwner → FltOwner) : CoresStop s (s.updFltOwner p f) := .of rfl
theorem CoresStop.updCrs (s : State) (f : CrsSt → CrsSt) : CoresStop s (s.updCrs f) := .of rfl
theorem CoresStop.updQue (s : State) (f : QueSt → QueSt) : CoresStop s (s.updQue f) := .of rfl
theorem CoresStop.updQueue (s : State) (q : Nat) (f : Queue → Queue) : CoresStop s (s.updQueue q f) := .of rfl
theorem CoresStop.out (s : State) (o : Out) : CoresStop s (s.out o) := .of rfl
theorem CoresStop.draw (s : State) : CoresStop s s.draw.2 := .of rfl
theorem CoresStop.setReg (s : State) (o : Nat) (v : W64) : CoresStop s (s.setReg o v) := .of rfl

/-! #### Memory -/

theorem CoresStop.putByte (s : State) (a : Nat) (b : Byte) : CoresStop s (s.putByte a b) := .of rfl

theorem State.putAll_cores (s : State) (a : Nat) (l : List Byte) : (s.putAll a l).cores = s.cores := by rw [State.putAll_eq]

theorem CoresStop.settleSector (a n : Nat) (s : State) (sec : Nat) : CoresStop s (State.settleSector a n s sec) := by
  unfold State.settleSector
  dsimp only
  refine .ite (.of rfl) (.ite (.refl s) (.ite (.of (State.putAll_cores s _ _)) (.of ?_)))
  split
  · exact State.putAll_cores s _ _
  · rfl

theorem CoresStop.settleWord (a n : Nat) (s : State) (w : Nat) : CoresStop s (State.settleWord a n s w) := by
  unfold State.settleWord
  exact .ite (.of rfl) (.ite (.of (State.putAll_cores s _ _)) (.ite (.refl s) (.of rfl)))

theorem CoresStop.putKept (s : State) (a : Nat) (l : List Byte) : CoresStop s (s.putKept a l) := by
  induction l generalizing s a with
  | nil => exact .refl s
  | cons b r ih => exact (CoresStop.ite (.refl s) (.putByte s a b)).trans (ih _ _)

theorem CoresStop.putBytes (s : State) (a : Nat) (l : List Byte) : CoresStop s (s.putBytes a l) := by
  refine CoresStop.trans (t := s.putRaw a l) ?_ (.of (by rw [State.putBytes, State.inject_eq]))
  unfold State.putRaw
  exact .ite (.of (State.putAll_cores s a l))
    (((CoresStop.foldl (CoresStop.settleSector a _) _ s).trans (.foldl (CoresStop.settleWord a _) _ _)).trans (.putKept _ a l))

theorem CoresStop.freeBytes (a n : Nat) (s : State) : CoresStop s (freeBytes a n s) :=
  .foldl (fun s i => (CoresStop.draw s).trans (.putByte s.draw.2 (a + i) _)) _ s

theorem State.msix_cores (s : State) (f v : Nat) : (s.msix f v).cores = s.cores := by
  unfold State.msix
  dsimp only
  split_ifs <;> rfl

theorem CoresStop.putDev (h : Held) (s : State) : CoresStop s (putDev h s) := by
  have hheld : CoresStop s (putHeld h s) := by
    have hw := CoresStop.foldl (fun s (w : Nat × List Byte) => CoresStop.putBytes s w.1 w.2) h.ws s
    unfold putHeld
    cases h.msg with
    | none => exact hw
    | some m => exact hw.trans (.of (State.msix_cores _ m.1 m.2))
  exact .ite (.refl s) (.ite (.of rfl) hheld)

/-! #### Stopping an owner -/

theorem CoresStop.haltCoreAt (c : Nat) (s : State) : CoresStop s (State.haltCoreAt c s) := by
  refine CoresStop.setCore s ?_
  dsimp only
  split
  · exact ⟨rfl, rfl, rfl, fun _ => rfl, fun _ _ => id⟩
  · exact .refl _

theorem CoresStop.freezeMasters (p : Nat) (s : State) : CoresStop s (freezeMasters p s) := by
  refine CoresStop.trans (CoresStop.foldl (fun s c => ?_) _ s) (.of rfl)
  refine (CoresStop.haltCoreAt c s).trans (CoresStop.trans (t := State.freezeCoreAt c s) ?_ ?_)
  · exact CoresStop.setCore _ ⟨rfl, rfl, rfl, id, fun _ _ => id⟩
  · refine CoresStop.setCore _ ⟨rfl, rfl, rfl, id, fun q hq _ => ?_⟩
    exact congrArg DmaQ.frozen (SMap.get_map_range {} (fun q => { ((State.freezeCoreAt c s).core c).dmaq q with frozen := true }) hq)

theorem CoresStop.spoil (s0 : State) (cs : List Conv) (s : State) : CoresStop s (spoil s0 cs s) := by
  unfold Machine.spoil
  exact .foldl (fun s c => .foldl (fun s r => .freeBytes r.1 r.2 s) (convArea s0 c) s) _ s

theorem CoresStop.abandonOwner (p : Nat) (s : State) : CoresStop s (abandonOwner p s) := by
  unfold Machine.abandonOwner
  refine CoresStop.trans ?_ (.spoil s _ _)
  exact .of rfl

theorem CoresStop.dropLaunches (p : Nat) (s : State) : CoresStop s (dropLaunches p s) := .of rfl

theorem CoresStop.readyClosed (p : Nat) (s : State) : CoresStop s (readyClosed p s) := .of rfl

theorem CoresStop.setOwner (s : State) (p : Nat) (o : Owner) : CoresStop s (s.setOwner p o) := .of rfl

theorem CoresStop.finish (s : State) (c : Disp) (status : Nat) : CoresStop s (s.finish c status) :=
  ((CoresStop.draw s).trans ((CoresStop.updQueue _ c.q _).trans (.updQue _ _))).trans (.putDev _ _)

theorem CoresStop.cancelArms (p : Nat) (s : State) : CoresStop s (cancelArms p s) := by
  unfold Machine.cancelArms undrain
  exact .ite (.of rfl) (.of rfl)

theorem CoresStop.applyConvictions (s : State) : CoresStop s (applyConvictions s) := by
  unfold Machine.applyConvictions
  exact .ite (.refl s) ((CoresStop.foldl (fun s e => .setReg s _ _) _ s).trans (.updFlt _ _))

theorem CoresStop.closeStep (p flags : Nat) (ready : Bool) (s : State) : CoresStop s (closeStep p flags ready s) := by
  unfold Machine.closeStep
  split <;> exact .of rfl

theorem CoresStop.stopOwner (p : Nat) (s : State) : CoresStop s (stopOwner p s) := by
  have hhalt : ∀ t : State, CoresStop t ((t.coresOf p).foldl (fun s c => State.haltCoreAt c s) t) :=
    fun t => .foldl (fun s c => .haltCoreAt c s) _ t
  have hdrop : ∀ t : State, CoresStop t (Machine.readyClosed p (Machine.cancelArms p (Machine.dropLaunches p (Machine.abandonOwner p t)))) := fun t =>
    ((CoresStop.abandonOwner p t).trans (.dropLaunches p _)).trans ((CoresStop.cancelArms p _).trans (.readyClosed p _))
  have hend : ∀ (l : List Disp) (t : State), CoresStop t (Machine.applyConvictions (l.foldl (fun s d => s.finish d 0xFF) t)) := fun l t =>
    (CoresStop.foldl (fun s d => CoresStop.finish s d 0xFF) l t).trans (.applyConvictions _)
  have hall := fun l => ((CoresStop.setOwner s p { s.owner p with st := .faulted }).trans (hhalt _)).trans ((hdrop _).trans (hend l _))
  unfold Machine.stopOwner
  exact .ite (.refl s) (.ite ((hall _).trans (.closeStep p 0 true _)) (((hall _).trans (.updFltOwner _ p _)).trans (.out _ _)))

/-! #### Events -/

theorem CoresStop.toRings (own : Option Nat) (r : BitVec 256) (s : State) : CoresStop s (toRings own r s) := by
  have hdev : CoresStop s (toDevRing r s) := by
    unfold toDevRing
    split
    · exact (CoresStop.putDev _ s).trans (.of rfl)
    · exact .of rfl
  unfold Machine.toRings
  cases own with
  | none => exact hdev
  | some p =>
    refine hdev.trans ?_
    dsimp only
    unfold toOwnRing
    dsimp only
    split
    · exact (CoresStop.putDev _ _).trans (.of rfl)
    · exact .of rfl

theorem CoresStop.consequence (cls : Nat) (fatal8 : Bool) (own : Option Nat) (s : State) : CoresStop s (consequence cls fatal8 own s) := by
  unfold Machine.consequence
  refine .ite (.ite (.of rfl) ((CoresStop.foldl (fun s p => .stopOwner p s) _ s).trans (.of rfl))) (.ite ?_ (.refl s))
  cases own with
  | none => exact .refl s
  | some p => exact .stopOwner p s

theorem CoresStop.countEvent (cls : Nat) (own : Option Nat) (s : State) : CoresStop s (countEvent cls own s) := by
  unfold Machine.countEvent
  exact .ite (.updCrs s _) (.refl s)

theorem CoresStop.raise1 (s : State) (code src : Nat) (own : Option Nat) (d0 d1 : W64) : CoresStop s (s.raise1 code src own d0 d1) := by
  unfold State.raise1
  dsimp only
  generalize Option.filter (fun p => decide (p < 16)) own = own
  refine CoresStop.trans ?_ (.consequence _ _ own _)
  have hcount := fun f => (CoresStop.countEvent (code / 4096) own s).trans (.updFlt _ f)
  have hrec : ∀ (o : Option (BitVec 256)) (t : State), CoresStop t (match o with
      | some r => Machine.toRings own r t
      | none => t) := by
    intro o t
    cases o with
    | none => exact .refl t
    | some r => exact .toRings own r t
  cases own with
  | none => exact (hcount _).trans (hrec _ _)
  | some p =>
    dsimp only
    refine .ite ?_ (((hcount _).trans (hrec _ _)).trans (.updFltOwner _ p _))
    exact ((((hcount _).trans (hrec _ _)).trans (.updFltOwner _ p _)).trans (.toRings _ _ _)).trans (.freezeMasters p _)

theorem CoresStop.flushLost (s : State) : CoresStop s (flushLost s) :=
  (CoresStop.updCrs s _).trans (.foldl (fun s p => CoresStop.raise1 s 0x8703 0x7000 (some p) 0 0) _ _)

theorem CoresStop.raise (s : State) (code src : Nat) (own : Option Nat) (d0 d1 : W64) : CoresStop s (s.raise code src own d0 d1) := by
  unfold State.raise
  have h := fun f => ((CoresStop.raise1 s code src own d0 d1).trans (.flushLost _)).trans (.updFlt _ f)
  exact .ite ((h _).trans (.raise1 _ _ _ _ _ _)) (h _)

end Machine
end Sys2Proof
end

/-! ### A transfer completes -/

section
namespace Sys2Proof.Machine

open Sys2Proof

theorem endCheck_going {s : State} {n : Nat} (h : (s.core n).seq.ending = false) : endCheck n s = s := by
  unfold endCheck
  exact if_neg (by simp [h])

/-- Core n after the head of its queue q, which had run, has completed (R146). -/
def headLeft (k : Core) (q : Nat) (x : Xfer) (rest : List Xfer) : Core :=
  { k with r := k.r.setSem x.sem (k.r.semv x.sem + 1), dma := SMap.set q { k.dmaq q with xs := rest } k.dma }

section
variable {s : State} {n q : Nat} {x : Xfer} {rest : List Xfer} (hx : ((s.core n).dmaq q).xs = x :: rest)
  (hf : ((s.core n).dmaq q).frozen = false) (hd : x.done = true) (hs : (s.core n).seq.run ≠ .saved) (hr : (s.core n).seq.run ≠ .restoring)
include hx hf hd hs hr

theorem dmaComplete_fits (he : (s.core n).seq.ending = false) (hq : Quiet s) (hv : (s.core n).r.semv x.sem + 1 < 2 ^ 32) :
    dmaComplete n q s = s.setCore n (headLeft (s.core n) q x rest) := by
  have hset : ((s.updRegs n (fun r => r.setSem x.sem ((s.core n).r.semv x.sem + 1))).setDmaq n q { xs := rest }) =
      s.setCore n (headLeft (s.core n) q x rest) := by
    rw [State.setDmaq_eq, State.updRegs_eq, State.core_setCore_same, State.setCore_setCore]
    simp only [headLeft, hf]
  have hgoing : ((s.setCore n (headLeft (s.core n) q x rest)).core n).seq.ending = false := by rw [State.core_setCore_same]; exact he
  have hquiet : Quiet (s.setCore n (headLeft (s.core n) q x rest)) := hq.setCore n (hq n)
  unfold dmaComplete
  simp only [hx, hf, hd, semAdd_fits hv]
  rw [hset, endCheck_going hgoing, settle_quiet hquiet]
  simp [hs, hr]

theorem dmaComplete_overflows (hv : 2 ^ 32 ≤ (s.core n).r.semv x.sem + 1) :
    dmaComplete n q s = dmaFault n q 0x851A (BitVec.ofNat 64 (x.sem + 64 * n)) 0 s := by
  unfold dmaComplete
  simp only [hx, hf, hd, semAdd_overflow hv]
  simp [hs, hr]

end

/-- A fault of a queue freezes it and leaves its core's registers (R146, R373). -/
theorem dmaFault_core (s : State) (n code : Nat) {q : Nat} (hq : q < 4) (d0 d1 : W64) :
    ((dmaFault n q code d0 d1 s).core n).r = (s.core n).r ∧ (((dmaFault n q code d0 d1 s).core n).dmaq q).frozen = true := by
  have hstop := (CoresStop.raise (freezeDma n q s) code (0x2000 + 4 * n + q) (s.ownerOfCore n) d0 d1).core n
  have hcore : (freezeDma n q s).core n = { s.core n with dma := SMap.set q { (s.core n).dmaq q with frozen := true } (s.core n).dma } :=
    State.core_setCore_same s n _
  rw [hcore] at hstop
  exact ⟨hstop.r, hstop.frozen q hq (by simp [Core.dmaq])⟩

end Sys2Proof.Machine

open Sys2Proof Sys2Proof.Machine

/-- Settles O23: the completion of a head that has run is `dmaComplete_fits` or, by its semaphore, a fault of its queue. -/
theorem transferCompletes : Obligations.TransferCompletes := by
  unfold Obligations.TransferCompletes
  intro s n q x rest hn hq hquiet k hx hf hd he hs hr
  have hexec : exec (.dmaComplete n q) s = .next (dmaComplete n q s) := by
    have hon : exec (.dmaComplete n q) s = onCore n s (dmaComplete n (q % 4)) := rfl
    rw [hon, Nat.mod_eq_of_lt hq, onCore, if_pos hn]
  refine ⟨fun hv => ?_, fun hv => ⟨_, hexec, ?_⟩⟩
  · rw [hexec, dmaComplete_fits hx hf hd hs hr he hquiet hv]
    rfl
  · rw [dmaComplete_overflows hx hf hd hs hr hv]
    exact dmaFault_core s n 0x851A hq _ _

end

/-! ### GF(2^8): multiplication by powers of alpha is repeated doubling (R228) -/

section
namespace Sys2Proof

theorem xor_xor_cancel_right (a b c : Byte) : (a ^^^ c) ^^^ (b ^^^ c) = a ^^^ b := by
  rw [BitVec.xor_assoc, BitVec.xor_comm b c, ← BitVec.xor_assoc c c b, BitVec.xor_self, BitVec.zero_xor]

theorem gfDouble_xor (a b : Byte) : gfDouble (a ^^^ b) = gfDouble a ^^^ gfDouble b := by
  unfold gfDouble
  rw [BitVec.getLsbD_xor, BitVec.shiftLeft_xor_distrib]
  cases a.getLsbD 7 <;> cases b.getLsbD 7
  · rfl
  · exact BitVec.xor_assoc _ _ _
  · exact (BitVec.xor_assoc _ _ _).trans ((congrArg _ (BitVec.xor_comm _ _)).trans (BitVec.xor_assoc _ _ _).symm)
  · exact (xor_xor_cancel_right _ _ _).symm

theorem gfDouble_zero : gfDouble 0 = 0 := by decide

theorem iterate_gfDouble_xor (n : Nat) (a b : Byte) : gfDouble^[n] (a ^^^ b) = gfDouble^[n] a ^^^ gfDouble^[n] b := by
  induction n with
  | zero => rfl
  | succ n ih => rw [Function.iterate_succ_apply', ih, gfDouble_xor, Function.iterate_succ_apply', Function.iterate_succ_apply']

theorem iterate_gfDouble_zero (n : Nat) : gfDouble^[n] 0 = 0 := Function.iterate_fixed gfDouble_zero n

theorem gfDouble_ite (b : Bool) (n : Nat) (a : Byte) : gfDouble (if b then gfDouble^[n] a else 0) = if b then gfDouble^[n + 1] a else 0 := by
  cases b
  · exact gfDouble_zero
  · exact (Function.iterate_succ_apply' gfDouble n a).symm

/-- The products with the bits of b alone add up. -/
theorem gfMulBits_xor_right (a b c : Byte) (n : Nat) : gfMulBits a (b ^^^ c) n = gfMulBits a b n ^^^ gfMulBits a c n := by
  induction n with
  | zero => exact (BitVec.xor_self (x := (0 : Byte))).symm
  | succ n ih =>
    rw [gfMulBits, gfMulBits, gfMulBits, ih, gfDouble_xor, BitVec.getLsbD_xor]
    generalize gfDouble (gfMulBits a b n) = p
    generalize gfDouble (gfMulBits a c n) = q
    cases b.getLsbD (7 - n) <;> cases c.getLsbD (7 - n)
    · simp
    · simp [BitVec.xor_assoc]
    · simp [BitVec.xor_assoc, BitVec.xor_comm a q]
    · simp [xor_xor_cancel_right]

/-- Horner's scheme over the bits of b, its first step taken apart. -/
theorem gfMulBits_succ_shift (a b : Byte) {n : Nat} (h : n ≤ 7) :
    gfMulBits a b (n + 1) = gfMulBits a (b <<< 1) n ^^^ (if b.getLsbD 7 then gfDouble^[n] a else 0) := by
  induction n with
  | zero => simp [gfMulBits, gfDouble]
  | succ n ih =>
    have hbit : (b <<< 1).getLsbD (7 - n) = b.getLsbD (7 - (n + 1)) := by
      rw [BitVec.getLsbD_shiftLeft, decide_eq_true (show 7 - n < 8 by omega), decide_eq_false (show ¬ 7 - n < 1 by omega),
        show 7 - n - 1 = 7 - (n + 1) by omega]
      rfl
    rw [gfMulBits, ih (by omega), gfDouble_xor, gfDouble_ite, gfMulBits, hbit]
    ac_rfl

/-- alpha^8 is the polynomial's remainder 0x1D. -/
theorem gfMul_reduction : ∀ a : Byte, gfMul a 0x1D#8 = gfDouble^[8] a := by decide

theorem gfMul_shift (a b : Byte) : gfMul a (b <<< 1) = gfDouble (gfMul a b) ^^^ (if b.getLsbD 7 then gfDouble^[8] a else 0) := by
  rw [gfMul, gfMul, gfMulBits_succ_shift a b (Nat.le_refl 7), gfDouble_xor, gfDouble_ite, gfMulBits, BitVec.xor_assoc, BitVec.xor_self]
  simp

theorem gfMul_gfDouble (a b : Byte) : gfMul a (gfDouble b) = gfDouble (gfMul a b) := by
  have hshift := gfMul_shift a b
  rw [gfDouble]
  split
  next h =>
    have hxor : gfMul a (b <<< 1 ^^^ 0x1D#8) = gfMul a (b <<< 1) ^^^ gfMul a 0x1D#8 := gfMulBits_xor_right a _ _ 8
    rw [hxor, hshift, if_pos h, gfMul_reduction, BitVec.xor_assoc, BitVec.xor_self, BitVec.xor_zero]
  next h => rw [hshift, if_neg h]; exact BitVec.xor_zero

theorem gfMul_one : ∀ a : Byte, gfMul a 1 = a := by decide

theorem gfMul_gfPow (a : Byte) (n : Nat) : gfMul a (gfPow n) = gfDouble^[n] a := by
  induction n with
  | zero => exact gfMul_one a
  | succ n ih => rw [gfPow, gfMul_gfDouble, ih, ← Function.iterate_succ_apply' gfDouble]

/-! #### The order of alpha -/

theorem gfDouble_eq_zero : ∀ a : Byte, gfDouble a = 0 → a = 0 := by decide

theorem iterate_gfDouble_ne_zero {a : Byte} (h : a ≠ 0) (n : Nat) : gfDouble^[n] a ≠ 0 := by
  induction n with
  | zero => exact h
  | succ n ih => rw [Function.iterate_succ_apply']; exact fun hz => ih (gfDouble_eq_zero _ hz)

theorem gfDouble_injective : Function.Injective gfDouble := by
  intro a b h
  have hz : gfDouble (a ^^^ b) = 0 := by rw [gfDouble_xor, h]; exact BitVec.xor_self
  exact BitVec.xor_eq_zero_iff.1 (gfDouble_eq_zero _ hz)

theorem gfPow_add (m n : Nat) : gfPow (m + n) = gfMul (gfPow m) (gfPow n) := by
  rw [gfMul_gfPow]
  induction n with
  | zero => rfl
  | succ n ih => rw [← Nat.add_assoc, gfPow, ih, ← Function.iterate_succ_apply' gfDouble]

theorem gfPow_15 : gfPow 15 = 0x26#8 := by decide +kernel

theorem gfPow_51 : gfPow 51 = 0x0A#8 := by
  have h36 : gfPow (15 + (15 + 6)) = 0x25#8 := by rw [gfPow_add 15, gfPow_add 15, gfPow_15]; decide +kernel
  rw [show 51 = 15 + (15 + (15 + 6)) from rfl, gfPow_add, h36, gfPow_15]; decide +kernel

theorem gfPow_85 : gfPow 85 = 0xD6#8 := by
  have h34 : gfPow (15 + (15 + 4)) = 0x4E#8 := by rw [gfPow_add 15, gfPow_add 15, gfPow_15]; decide +kernel
  rw [show 85 = 51 + (15 + (15 + 4)) from rfl, gfPow_add, h34, gfPow_51]; decide +kernel

theorem gfPow_255 : gfPow 255 = 1 := by
  rw [show 255 = 85 + (85 + 85) from rfl, gfPow_add, gfPow_add, gfPow_85]; decide +kernel

theorem gfMul_gfPow_15 : ∀ a : Byte, gfMul a (gfPow 15) = a → a = 0 := by rw [gfPow_15]; decide
theorem gfMul_gfPow_51 : ∀ a : Byte, gfMul a (gfPow 51) = a → a = 0 := by rw [gfPow_51]; decide
theorem gfMul_gfPow_85 : ∀ a : Byte, gfMul a (gfPow 85) = a → a = 0 := by rw [gfPow_85]; decide

/-- No power of alpha below the 255th fixes a byte other than 0: a divisor of 255 below it divides 15, 51 or 85. -/
theorem iterate_gfDouble_ne {a : Byte} (ha : a ≠ 0) {m : Nat} (h0 : 0 < m) (hm : m < 255) : gfDouble^[m] a ≠ a := by
  intro hfix
  have h255 : Function.IsPeriodicPt gfDouble 255 a := by
    rw [Function.IsPeriodicPt, Function.IsFixedPt, ← gfMul_gfPow, gfPow_255, gfMul_one]
  have hgcd : Function.IsPeriodicPt gfDouble (Nat.gcd m 255) a := Function.IsPeriodicPt.gcd hfix h255
  have hdvd : Nat.gcd m 255 ∣ 255 := Nat.gcd_dvd_right m 255
  have hlt : Nat.gcd m 255 < 255 := lt_of_le_of_lt (Nat.gcd_le_left 255 h0) hm
  have hcases : Nat.gcd m 255 ∣ 15 ∨ Nat.gcd m 255 ∣ 51 ∨ Nat.gcd m 255 ∣ 85 := by
    have hmem : Nat.gcd m 255 ∈ Nat.divisors 255 := Nat.mem_divisors.2 ⟨hdvd, by decide⟩
    generalize Nat.gcd m 255 = g at hlt hmem
    rw [show Nat.divisors 255 = {1, 3, 5, 15, 17, 51, 85, 255} by decide] at hmem
    simp only [Finset.mem_insert, Finset.mem_singleton] at hmem
    rcases hmem with rfl | rfl | rfl | rfl | rfl | rfl | rfl | rfl <;> revert hlt <;> decide
  rcases hcases with h | h | h
  · exact ha (gfMul_gfPow_15 a ((gfMul_gfPow a 15).trans (hgcd.trans_dvd h)))
  · exact ha (gfMul_gfPow_51 a ((gfMul_gfPow a 51).trans (hgcd.trans_dvd h)))
  · exact ha (gfMul_gfPow_85 a ((gfMul_gfPow a 85).trans (hgcd.trans_dvd h)))

/-- So different exponents below 255 give different products. -/
theorem iterate_gfDouble_ne_iterate {a : Byte} (ha : a ≠ 0) {m n : Nat} (h : m < n) (hn : n < 255) : gfDouble^[n] a ≠ gfDouble^[m] a := by
  intro heq
  obtain ⟨k, rfl⟩ := Nat.exists_eq_add_of_lt h
  rw [Nat.add_assoc, Function.iterate_add_apply] at heq
  exact iterate_gfDouble_ne ha (Nat.succ_pos k) (by omega) (gfDouble_injective.iterate m heq)

end Sys2Proof
end

/-! ### The sector code corrects one wrong symbol (R229, R231) -/

section
namespace Sys2Proof

/-- Horner's scheme at alpha^i, from a value on. -/
def horner (i : Nat) (acc : Byte) (l : List Byte) : Byte := l.foldl (fun a c => gfDouble^[i] a ^^^ c) acc

theorem syndrome_eq_horner (l : List Byte) (i : Nat) : syndrome l i = horner i 0 l := by
  simp only [syndrome, horner, gfMul_gfPow]

theorem horner_cons (i : Nat) (a c : Byte) (l : List Byte) : horner i a (c :: l) = horner i (gfDouble^[i] a ^^^ c) l := rfl

theorem horner_append (i : Nat) (a : Byte) (l r : List Byte) : horner i a (l ++ r) = horner i (horner i a l) r := List.foldl_append

/-- A difference in the value it starts from is multiplied once for every symbol. -/
theorem horner_xor_start (i : Nat) (a v : Byte) (l : List Byte) : horner i (a ^^^ v) l = horner i a l ^^^ gfDouble^[i * l.length] v := by
  induction l generalizing a v with
  | nil => rfl
  | cons c l ih =>
    rw [horner_cons, horner_cons, iterate_gfDouble_xor, show gfDouble^[i] a ^^^ gfDouble^[i] v ^^^ c = gfDouble^[i] a ^^^ c ^^^ gfDouble^[i] v by ac_rfl,
      ih, ← Function.iterate_add_apply, List.length_cons, Nat.mul_succ]

/-- A symbol of a list, wrong by v. -/
def flipSym (l : List Byte) (i : Nat) (v : Byte) : List Byte := l.set i (nth 0 l i ^^^ v)

/-- So is an error in one symbol, once for every symbol after it. -/
theorem horner_set (i : Nat) (a v : Byte) (l : List Byte) (j : Nat) (h : j < l.length) :
    horner i a (flipSym l j v) = horner i a l ^^^ gfDouble^[i * (l.length - 1 - j)] v := by
  induction l generalizing a j with
  | nil => exact absurd h (Nat.not_lt_zero j)
  | cons c l ih =>
    cases j with
    | zero => exact (congrArg (horner i · l) (BitVec.xor_assoc _ c v).symm).trans (horner_xor_start i _ v l)
    | succ j =>
      have hj : j < l.length := Nat.lt_of_succ_lt_succ h
      have hlen : (c :: l).length - 1 - (j + 1) = l.length - 1 - j := by rw [List.length_cons]; omega
      rw [hlen]
      exact ih _ j hj

/-- The register of the encoder, evaluated at alpha^i. -/
def remainderAt (i : Nat) (r : Byte × Byte × Byte × Byte) : Byte :=
  gfDouble^[i] (gfDouble^[i] (gfDouble^[i] r.1)) ^^^ gfDouble^[i] (gfDouble^[i] r.2.1) ^^^ gfDouble^[i] r.2.2.1 ^^^ r.2.2.2

/-- alpha^0 to alpha^3 are the roots of the generator polynomial. -/
theorem generator_root {i : Nat} (hi : i < 4) : ∀ f : Byte, remainderAt i (gfMul f 0x0F#8, gfMul f 0x36#8, gfMul f 0x78#8, gfMul f 0x40#8) =
    gfDouble^[i] (gfDouble^[i] (gfDouble^[i] (gfDouble^[i] f))) := by
  match i, hi with
  | 0, _ => decide
  | 1, _ => decide
  | 2, _ => decide
  | 3, _ => decide

theorem remainderAt_rsShift {i : Nat} (hi : i < 4) (r : Byte × Byte × Byte × Byte) (c : Byte) :
    remainderAt i (rsShift r c) = gfDouble^[i] (remainderAt i r) ^^^ gfDouble^[i] (gfDouble^[i] (gfDouble^[i] (gfDouble^[i] c))) := by
  obtain ⟨r0, r1, r2, r3⟩ := r
  have hroot := generator_root hi (r0 ^^^ c)
  simp only [remainderAt, rsShift, iterate_gfDouble_xor] at hroot ⊢
  rw [show ∀ a b c d e f g : Byte, a ^^^ b ^^^ (c ^^^ d) ^^^ (e ^^^ f) ^^^ g = (b ^^^ d ^^^ f ^^^ g) ^^^ (a ^^^ c ^^^ e) by intros; ac_rfl, hroot]
  ac_rfl

theorem remainderAt_foldl {i : Nat} (hi : i < 4) (l : List Byte) (r : Byte × Byte × Byte × Byte) (a : Byte)
    (h : remainderAt i r = gfDouble^[i] (gfDouble^[i] (gfDouble^[i] (gfDouble^[i] a)))) :
    remainderAt i (l.foldl rsShift r) = gfDouble^[i] (gfDouble^[i] (gfDouble^[i] (gfDouble^[i] (horner i a l)))) := by
  induction l generalizing r a with
  | nil => exact h
  | cons c l ih =>
    refine ih _ _ ?_
    rw [remainderAt_rsShift hi, h]
    simp only [iterate_gfDouble_xor]

/-- The codeword of its own check symbols has the syndromes 0. -/
theorem syndrome_rsCheck {i : Nat} (hi : i < 4) (l : List Byte) : syndrome (l ++ rsCheck l) i = 0 := by
  have hrem : remainderAt i (l.foldl rsShift (0, 0, 0, 0)) = _ := remainderAt_foldl hi l (0, 0, 0, 0) 0 (by simp only [remainderAt, iterate_gfDouble_zero]; rfl)
  rw [syndrome_eq_horner, horner_append]
  generalize horner i 0 l = h at hrem
  rw [remainderAt] at hrem
  simp only [rsCheck, horner, List.foldl_cons, List.foldl_nil, iterate_gfDouble_xor]
  rw [← hrem]
  generalize l.foldl rsShift (0, 0, 0, 0) = r
  refine Eq.trans ?_ (BitVec.xor_self (x := remainderAt i r))
  rw [remainderAt]
  ac_rfl

/-- The syndromes of one error v with k symbols after it. -/
def errorSyndromes (k : Nat) (v : Byte) : List Byte := [v, gfDouble^[k] v, gfDouble^[2 * k] v, gfDouble^[3 * k] v]

theorem syndromes_rsCheck (l : List Byte) : syndromes (l ++ rsCheck l) = [0, 0, 0, 0] := by
  simp only [syndromes, syndrome_rsCheck (show 0 < 4 by decide), syndrome_rsCheck (show 1 < 4 by decide),
    syndrome_rsCheck (show 2 < 4 by decide), syndrome_rsCheck (show 3 < 4 by decide)]

theorem syndromes_set {l : List Byte} (hl : syndromes l = [0, 0, 0, 0]) {j : Nat} (hj : j < l.length) (v : Byte) :
    syndromes (flipSym l j v) = errorSyndromes (l.length - 1 - j) v := by
  simp only [syndromes, List.cons.injEq, and_true, syndrome_eq_horner] at hl ⊢
  obtain ⟨h0, h1, h2, h3⟩ := hl
  simp only [horner_set _ _ _ _ _ hj, h0, h1, h2, h3, errorSyndromes]
  simp

theorem gfMul_iterate (m k : Nat) (v : Byte) : gfMul (gfDouble^[m * k] v) (gfPow k) = gfDouble^[(m + 1) * k] v := by
  rw [gfMul_gfPow, ← Function.iterate_add_apply, Nat.succ_mul, Nat.add_comm]

theorem gfLogRatio_errorSyndromes {v : Byte} (hv : v ≠ 0) {k n : Nat} (hk : k < n) (hn : n ≤ 255) : gfLogRatio (errorSyndromes k v) n = some k := by
  induction n with
  | zero => exact absurd hk (Nat.not_lt_zero k)
  | succ n ih =>
    rw [gfLogRatio]
    by_cases hkn : k = n
    · subst hkn
      have h0 : gfMul v (gfPow k) = gfDouble^[k] v := gfMul_gfPow v k
      have h1 : gfMul (gfDouble^[k] v) (gfPow k) = gfDouble^[2 * k] v := by simpa only [Nat.one_mul] using gfMul_iterate 1 k v
      refine if_pos ?_
      rw [Bool.and_eq_true, Bool.and_eq_true]
      exact ⟨⟨beq_iff_eq.2 h0, beq_iff_eq.2 h1⟩, beq_iff_eq.2 (gfMul_iterate 2 k v)⟩
    · have hne : gfDouble^[n] v ≠ gfDouble^[k] v := iterate_gfDouble_ne_iterate hv (by omega) (by omega)
      rw [if_neg, ih (by omega) (by omega)]
      intro h
      rw [Bool.and_eq_true, Bool.and_eq_true] at h
      exact hne ((gfMul_gfPow v n).symm.trans (beq_iff_eq.1 h.1.1))

theorem cwDecode_clean : cwDecode [0, 0, 0, 0] = (.clean, 0, 0) := by decide

theorem errorSyndromes_ne {v : Byte} (hv : v ≠ 0) (k : Nat) : errorSyndromes k v ≠ [0, 0, 0, 0] := fun h => hv (List.cons.inj h).1

theorem cwDecode_errorSyndromes {v : Byte} (hv : v ≠ 0) {j : Nat} (h5 : 5 ≤ j) (hj : j ≤ 136) :
    cwDecode (errorSyndromes (136 - j) v) = (.corrected, j - 5, v) := by
  have h0 : nth 0 (errorSyndromes (136 - j) v) 0 = v := rfl
  rw [cwDecode, if_neg (by simpa using errorSyndromes_ne hv _), h0, if_neg (by simpa using hv),
    gfLogRatio_errorSyndromes hv (show 136 - j < 255 by omega) (Nat.le_refl _)]
  show (if 136 < 136 - j then _ else if 136 - (136 - j) ≤ 4 then _ else _) = _
  rw [if_neg (by omega), if_neg (by omega), show 136 - (136 - j) = j by omega]

/-! #### A sector -/

/-- The 137 symbols of codeword w. -/
def codeword (a w : Nat) (b p : List Byte) : List Byte := addrSyms a ++ dataSyms w b ++ (p.drop (4 * w)).take 4

theorem addrSyms_length (a : Nat) : (addrSyms a).length = 5 := by rw [addrSyms, beBytes, List.length_reverse, Machine.leBytes_length]

theorem dataSyms_length (w : Nat) (b : List Byte) : (dataSyms w b).length = 128 := by rw [dataSyms, List.length_map, List.length_range]

theorem nth_dataSyms (w : Nat) (b : List Byte) {k : Nat} (hk : k < 128) : nth 0 (dataSyms w b) k = nth 0 b (2 * k + w) := by
  simp [nth, dataSyms, hk]

theorem sectorCheck_length (a : Nat) (b : List Byte) : (sectorCheck a b).length = 8 := rfl

theorem codeword_length (a w : Nat) (b p : List Byte) (hw : w < 2) (hp : p.length = 8) : (codeword a w b p).length = 137 := by
  simp only [codeword, List.length_append, addrSyms_length, dataSyms_length, List.length_take, List.length_drop, hp]
  omega

theorem syndromes_codeword (a : Nat) (b : List Byte) {w : Nat} (hw : w < 2) : syndromes (codeword a w b (sectorCheck a b)) = [0, 0, 0, 0] := by
  match w, hw with
  | 0, _ => exact syndromes_rsCheck _
  | 1, _ => exact syndromes_rsCheck _

theorem flipSym_length (l : List Byte) (i : Nat) (v : Byte) : (flipSym l i v).length = l.length := List.length_set

theorem flipSym_append_right (l r : List Byte) (i : Nat) (v : Byte) : l ++ flipSym r i v = flipSym (l ++ r) (l.length + i) v := by
  rw [flipSym, flipSym, List.set_append_right _ _ (Nat.le_add_right _ _), nth, nth, List.getD_append_right _ _ _ _ (Nat.le_add_right _ _),
    Nat.add_sub_cancel_left]

theorem flipSym_append_left (l r : List Byte) {i : Nat} (h : i < l.length) (v : Byte) : flipSym l i v ++ r = flipSym (l ++ r) i v := by
  simp only [flipSym, nth, List.set_append_left _ _ h, List.getD_append _ _ _ _ h]

theorem flipSym_flipSym (l : List Byte) {i : Nat} (h : i < l.length) (v : Byte) : flipSym (flipSym l i v) i v = l := by
  simp [flipSym, nth, h]

theorem dataSyms_flipSym_same (b : List Byte) {w k : Nat} (hb : 2 * k + w < b.length) (v : Byte) (hk : k < 128) :
    dataSyms w (flipSym b (2 * k + w) v) = flipSym (dataSyms w b) k v := by
  apply List.ext_getElem
  · rw [flipSym_length, dataSyms_length, dataSyms_length]
  · intro i hi _
    simp only [flipSym, nth_dataSyms w b hk]
    by_cases hik : k = i
    · subst hik
      simp [dataSyms, nth, hb]
    · simp [dataSyms, nth, hik]

theorem dataSyms_flipSym_other (b : List Byte) {w w' k : Nat} (hw : w < 2) (hw' : w' < 2) (hne : w ≠ w') (v : Byte) :
    dataSyms w' (flipSym b (2 * k + w) v) = dataSyms w' b := by
  apply List.map_congr_left
  intro i _
  simp [flipSym, nth, show ¬ (2 * k + w = 2 * i + w') by omega]

theorem codeword_flip_data (a : Nat) {b : List Byte} (hb : b.length = 256) (p : List Byte) {w k : Nat} (hw : w < 2) (hk : k < 128) (v : Byte) :
    codeword a w (flipSym b (2 * k + w) v) p = flipSym (codeword a w b p) (5 + k) v := by
  rw [codeword, dataSyms_flipSym_same b (by omega) v hk, flipSym_append_right, addrSyms_length, flipSym_append_left, codeword]
  rw [List.length_append, addrSyms_length, dataSyms_length]
  omega

theorem codeword_flip_check (a : Nat) (b : List Byte) (p : List Byte) {w j : Nat} (hj : j < 4) (v : Byte) :
    codeword a w b (flipSym p (4 * w + j) v) = flipSym (codeword a w b p) (133 + j) v := by
  have hpart : ((flipSym p (4 * w + j) v).drop (4 * w)).take 4 = flipSym ((p.drop (4 * w)).take 4) j v := by
    simp [flipSym, nth, List.drop_set, List.take_set, hj, List.getElem?_drop]
  rw [codeword, hpart, flipSym_append_right, List.length_append, addrSyms_length, dataSyms_length, codeword]

theorem codeword_flip_check_other (a : Nat) (b p : List Byte) {w w' j : Nat} (hne : w ≠ w') (hj : j < 4) (v : Byte) :
    codeword a w' b (flipSym p (4 * w + j) v) = codeword a w' b p := by
  have hpart : ((flipSym p (4 * w + j) v).drop (4 * w')).take 4 = (p.drop (4 * w')).take 4 := by
    apply List.ext_getElem?
    intro i
    by_cases hi : i < 4
    · simp [flipSym, hi, List.getElem?_drop, show ¬ (4 * w + j = 4 * w' + i) by omega]
    · simp [hi]
  rw [codeword, hpart, codeword]

/-- One codeword with an error in a symbol after its address and a clean one beside it: the error is taken out. -/
theorem sectorDecode_one_error (a : Nat) (b p : List Byte) {w j : Nat} {v : Byte} (hw : w < 2) (h5 : 5 ≤ j) (hj : j ≤ 136) (hv : v ≠ 0)
    (herr : syndromes (codeword a w b p) = errorSyndromes (136 - j) v) (hclean : ∀ w' < 2, w' ≠ w → syndromes (codeword a w' b p) = [0, 0, 0, 0]) :
    (sectorDecode a b p).out = .corrected ∧ (sectorDecode a b p).data = flipData b w (j - 5) v := by
  have hdec := cwDecode_errorSyndromes hv h5 hj
  match w, hw with
  | 0, _ =>
    have h1 := hclean 1 (by decide) (by decide)
    simp only [codeword, Nat.mul_zero, List.drop_zero, Nat.mul_one] at herr h1
    simp only [sectorDecode, herr, h1, hdec, cwDecode_clean]
    rw [if_neg (by simp)]
    exact ⟨rfl, rfl⟩
  | 1, _ =>
    have h0 := hclean 0 (by decide) (by decide)
    simp only [codeword, Nat.mul_zero, List.drop_zero, Nat.mul_one] at herr h0
    simp only [sectorDecode, herr, h0, hdec, cwDecode_clean]
    rw [if_neg (by simp)]
    exact ⟨rfl, rfl⟩

theorem sectorDecode_flip_data (a : Nat) {d : List Byte} (hd : d.length = 256) {i : Nat} (hi : i < 256) {v : Byte} (hv : v ≠ 0) :
    (sectorDecode a (flipSym d i v) (sectorCheck a d)).out = .corrected ∧ (sectorDecode a (flipSym d i v) (sectorCheck a d)).data = d := by
  have hw : i % 2 < 2 := Nat.mod_lt i (by decide)
  have hk : i / 2 < 128 := by omega
  have hsplit : 2 * (i / 2) + i % 2 = i := Nat.div_add_mod i 2
  have hclean := syndromes_codeword a d hw
  have hlen := codeword_length a (i % 2) d _ hw (sectorCheck_length a d)
  have herr : syndromes (codeword a (i % 2) (flipSym d i v) (sectorCheck a d)) = errorSyndromes (136 - (5 + i / 2)) v := by
    have h := syndromes_set hclean (show 5 + i / 2 < _ by rw [hlen]; omega) v
    rw [hlen, ← codeword_flip_data a hd _ hw hk, hsplit] at h
    exact h.trans (congrArg (errorSyndromes · v) (by omega))
  obtain ⟨hout, hdata⟩ := sectorDecode_one_error a (flipSym d i v) _ hw (by omega) (by omega) hv herr (by
    intro w' hw' hne
    rw [← hsplit, codeword, dataSyms_flipSym_other d hw hw' hne.symm]
    exact syndromes_codeword a d hw')
  refine ⟨hout, hdata.trans ?_⟩
  rw [flipData, if_pos (by omega), Nat.add_sub_cancel_left, hsplit]
  exact flipSym_flipSym d (by omega) v

theorem sectorDecode_flip_check (a : Nat) (d : List Byte) {i : Nat} (hi : i < 8) {v : Byte} (hv : v ≠ 0) :
    (sectorDecode a d (flipSym (sectorCheck a d) i v)).out = .corrected ∧ (sectorDecode a d (flipSym (sectorCheck a d) i v)).data = d := by
  have hw : i / 4 < 2 := by omega
  have hj : i % 4 < 4 := Nat.mod_lt i (by decide)
  have hsplit : 4 * (i / 4) + i % 4 = i := Nat.div_add_mod i 4
  have hclean := syndromes_codeword a d hw
  have hlen := codeword_length a (i / 4) d _ hw (sectorCheck_length a d)
  have herr : syndromes (codeword a (i / 4) d (flipSym (sectorCheck a d) i v)) = errorSyndromes (136 - (133 + i % 4)) v := by
    have h := syndromes_set hclean (show 133 + i % 4 < _ by rw [hlen]; omega) v
    rw [hlen, ← codeword_flip_check a d _ hj, hsplit] at h
    exact h.trans (congrArg (errorSyndromes · v) (by omega))
  obtain ⟨hout, hdata⟩ := sectorDecode_one_error a d _ hw (by omega) (by omega) hv herr (by
    intro w' hw' hne
    rw [← hsplit, codeword_flip_check_other a d _ hne.symm hj]
    exact syndromes_codeword a d hw')
  exact ⟨hout, hdata.trans (if_neg (by omega))⟩

end Sys2Proof
end

/-! ### Writes where at most one stored symbol is wrong (R231, R232, R248) -/

section
namespace Sys2Proof

theorem toNat_symbol {w i : Nat} (e : Byte) (hi : 8 * i + 8 ≤ w) : (BitVec.ofNat w e.toNat <<< (8 * i)).toNat = e.toNat * 2 ^ (8 * i) := by
  have he : e.toNat < 2 ^ 8 := e.isLt
  have hlt : e.toNat * 2 ^ (8 * i) < 2 ^ w :=
    calc e.toNat * 2 ^ (8 * i) < 2 ^ 8 * 2 ^ (8 * i) := Nat.mul_lt_mul_of_pos_right he (Nat.two_pow_pos _)
      _ = 2 ^ (8 + 8 * i) := (Nat.pow_add 2 8 (8 * i)).symm
      _ ≤ 2 ^ w := Nat.pow_le_pow_right (by decide) (by omega)
  have hew : e.toNat < 2 ^ w := lt_of_lt_of_le he (Nat.pow_le_pow_right (by decide) (by omega))
  rw [BitVec.toNat_shiftLeft, BitVec.toNat_ofNat, Nat.mod_eq_of_lt hew, Nat.shiftLeft_eq, Nat.mod_eq_of_lt hlt]

/-- An error in one stored symbol reads at that symbol alone. -/
theorem byteField_symbol (e : Byte) {i : Nat} (hi : i < 264) (j : Nat) :
    BitVec.ofNat 8 (byteField (BitVec.ofNat 2112 e.toNat <<< (8 * i)) j 1) = if i = j then e else 0 := by
  have he : e.toNat < 2 ^ 8 := e.isLt
  rw [byteField, toNat_symbol e (by omega), Nat.shiftRight_eq_div_pow]
  rcases Nat.lt_trichotomy i j with h | h | h
  · rw [if_neg (by omega), Nat.div_eq_of_lt]
    · rfl
    · calc e.toNat * 2 ^ (8 * i) < 2 ^ 8 * 2 ^ (8 * i) := Nat.mul_lt_mul_of_pos_right he (Nat.two_pow_pos _)
        _ = 2 ^ (8 + 8 * i) := (Nat.pow_add 2 8 (8 * i)).symm
        _ ≤ 2 ^ (8 * j) := Nat.pow_le_pow_right (by decide) (by omega)
  · rw [if_pos h, h, Nat.mul_div_cancel _ (Nat.two_pow_pos _), Nat.mul_one, Nat.mod_eq_of_lt he, BitVec.ofNat_toNat]
    exact BitVec.setWidth_eq e
  · have hpow : e.toNat * 2 ^ (8 * i) = e.toNat * 2 ^ (8 * (i - j - 1)) * 2 ^ 8 * 2 ^ (8 * j) := by
      rw [Nat.mul_assoc, Nat.mul_assoc, ← Nat.pow_add, ← Nat.pow_add]
      congr 2
      omega
    rw [if_neg (by omega), hpow, Nat.mul_div_cancel _ (Nat.two_pow_pos _), Nat.mul_one, Nat.mul_mod_left]
    rfl

namespace Machine

/-- The stored symbols that a sector is decoded from: those written, with the errors of m in them from byte o of m on. -/
def symbolsRead (m : BitVec 2112) (l : List Byte) (o : Nat) : List Byte :=
  (List.range l.length).map (fun i => nth 0 l i ^^^ BitVec.ofNat 8 (byteField m (o + i) 1))

theorem State.sectorRead_eq (s : State) (sec : Nat) : s.sectorRead sec =
    sectorDecode sec (symbolsRead (SMap.get 0 sec s.ecc) (s.bytes (256 * sec) 256) 0)
      (symbolsRead (SMap.get 0 sec s.ecc) (sectorCheck sec (s.bytes (256 * sec) 256)) 256) := rfl

theorem symbolsRead_inside (e : Byte) {i o : Nat} (hi : i < 264) (ho : o ≤ i) (l : List Byte) :
    symbolsRead (BitVec.ofNat 2112 e.toNat <<< (8 * i)) l o = flipSym l (i - o) e := by
  apply List.ext_getElem
  · simp [symbolsRead, flipSym_length]
  · intro j h1 h2
    have hj : j < l.length := by simpa [symbolsRead] using h1
    simp only [symbolsRead, List.getElem_map, List.getElem_range, byteField_symbol e hi, flipSym, List.getElem_set, nth]
    by_cases hij : i - o = j
    · rw [if_pos hij, if_pos (by omega), hij]
    · rw [if_neg hij, if_neg (by omega), List.getD_eq_getElem _ _ hj]
      exact BitVec.xor_zero

theorem symbolsRead_outside (e : Byte) {i o : Nat} (hi : i < 264) (l : List Byte) (ho : i < o ∨ o + l.length ≤ i) :
    symbolsRead (BitVec.ofNat 2112 e.toNat <<< (8 * i)) l o = l := by
  apply List.ext_getElem
  · simp [symbolsRead]
  · intro j h1 h2
    simp only [symbolsRead, List.getElem_map, List.getElem_range, byteField_symbol e hi, nth]
    rw [if_neg (by omega), List.getD_eq_getElem _ _ h2]
    exact BitVec.xor_zero

theorem State.bytes_length (s : State) (a n : Nat) : (s.bytes a n).length = n := by rw [State.bytes, List.length_map, List.length_range]

/-- A sector with one wrong symbol is read corrected, as its bytes were written. -/
theorem State.sectorRead_symbol (s : State) {sec i : Nat} {e : Byte} (hi : i < 264) (he : e ≠ 0)
    (h : SMap.get 0 sec s.ecc = BitVec.ofNat 2112 e.toNat <<< (8 * i)) :
    (s.sectorRead sec).out = .corrected ∧ (s.sectorRead sec).data = s.bytes (256 * sec) 256 := by
  rw [State.sectorRead_eq, h]
  by_cases hdata : i < 256
  · rw [symbolsRead_inside e hi (Nat.zero_le i), symbolsRead_outside e hi _ (Or.inl hdata)]
    exact sectorDecode_flip_data sec (State.bytes_length s _ _) hdata he
  · rw [symbolsRead_outside e hi _ (Or.inr (by rw [State.bytes_length]; omega)), symbolsRead_inside e hi (by omega)]
    exact sectorDecode_flip_check sec _ (by omega) he

/-! #### What a write in pieces leaves -/

theorem State.putAll_err (s : State) (a : Nat) (l : List Byte) : (s.putAll a l).sp.err = s.sp.err := by
  induction l generalizing s a with
  | nil => rfl
  | cons b r ih =>
    rw [State.putAll, ih, State.putByte, SpTrack.note]
    split <;> rfl

theorem State.putAll_regs (s : State) (a : Nat) (l : List Byte) : (s.putAll a l).regs = s.regs := by rw [State.putAll_eq]

theorem SMap.erase_of_forall_ne {α : Type} {k : Nat} {m : SMap α} (h : ∀ e ∈ m, e.1 ≠ k) : SMap.erase k m = m :=
  List.filter_eq_self.2 (fun e he => by simpa using h e he)

theorem SMap.find_eq_none {α : Type} {k : Nat} {m : SMap α} (h : ∀ e ∈ m, e.1 ≠ k) : SMap.find k m = none := by
  induction m with
  | nil => rfl
  | cons e m ih =>
    rw [SMap.find, if_neg (h e List.mem_cons_self)]
    exact ih (fun e he => h e (List.mem_cons_of_mem _ he))

/-- No sector with an error is among those of bytes [a, a + n). -/
def State.SectorsClean (s : State) (a n : Nat) : Prop := ∀ e ∈ s.ecc, 256 * e.1 + 256 ≤ a ∨ a + n ≤ 256 * e.1

theorem State.putByte_sectorsClean {s : State} {a n : Nat} (h : s.SectorsClean a (n + 1)) (b : Byte) :
    (s.putByte a b).ecc = s.ecc ∧ (s.putByte a b).SectorsClean (a + 1) n := by
  have hecc : (s.putByte a b).ecc = s.ecc := SMap.erase_of_forall_ne (fun e he => by rcases h e he with h | h <;> omega)
  refine ⟨hecc, fun e he => ?_⟩
  rcases h e (hecc ▸ he) with h | h <;> omega

theorem State.putAll_ecc {s : State} {a : Nat} {l : List Byte} (h : s.SectorsClean a l.length) : (s.putAll a l).ecc = s.ecc := by
  induction l generalizing s a with
  | nil => rfl
  | cons b r ih =>
    obtain ⟨hecc, hrest⟩ := State.putByte_sectorsClean h b
    rw [State.putAll, ih hrest, hecc]

theorem State.putKept_eq_putAll {s : State} {a : Nat} {l : List Byte} (h : s.SectorsClean a l.length) (herr : s.sp.err = []) :
    s.putKept a l = s.putAll a l := by
  induction l generalizing s a with
  | nil => rfl
  | cons b r ih =>
    obtain ⟨_, hrest⟩ := State.putByte_sectorsClean h b
    have hlen : (b :: r).length = r.length + 1 := rfl
    have hfind : SMap.find (a / 256) s.ecc = none := SMap.find_eq_none (fun e he => by rcases h e he with h | h <;> omega)
    have herr' : (s.putByte a b).sp.err = [] := (State.putAll_err s a [b]).trans herr
    rw [State.putKept, State.putAll, hfind, herr]
    exact ih hrest herr'

/-- Writing a sector's own bytes again leaves every byte, and no error in it. -/
theorem State.byte_putAll_self (s : State) (a n x : Nat) : (s.putAll a (s.bytes a n)).byte x = s.byte x := by
  rw [State.byte_putAll, State.bytes_length]
  split
  next h =>
    rw [List.getD_eq_getElem _ _ (by rw [State.bytes_length]; omega)]
    simp only [State.bytes, List.getElem_map, List.getElem_range]
    rw [Nat.add_sub_cancel' h.1]
  next => rfl

theorem State.putAll_ecc_single {s : State} {sec : Nat} {m : BitVec 2112} (h : s.ecc = [(sec, m)]) {l : List Byte} (hl : l ≠ []) (hlen : l.length ≤ 256) :
    (s.putAll (256 * sec) l).ecc = [] := by
  match l, hl with
  | b :: r, _ =>
    have hecc : (s.putByte (256 * sec) b).ecc = [] := by
      rw [State.putByte_ecc, h, Nat.mul_div_cancel_left sec (by decide)]
      simp [SMap.erase]
    rw [State.putAll, State.putAll_ecc (fun e he => absurd (hecc ▸ he) List.not_mem_nil), hecc]

end Machine
end Sys2Proof
end

/-! ### A run of writes over places that lie apart -/

section
namespace Sys2Proof.Machine

theorem bitOf_putBits_same (r : W64) : bitOf (putBits r 63 63 0) 63 = false := by
  have hr : r.toNat / 2 ^ 63 < 2 := Nat.div_lt_of_lt_mul r.isLt
  have hlow : r.toNat - r.toNat / 2 ^ 63 * 2 ^ 63 = r.toNat % 2 ^ 63 := by rw [Nat.mod_eq_sub_div_mul]
  rw [bitOf, putBits, BitVec.getLsbD_ofNat]
  rw [Nat.shiftRight_eq_div_pow, Nat.shiftLeft_eq, Nat.shiftLeft_eq, show 63 + 1 - 63 = 1 from rfl, Nat.pow_one, Nat.mod_eq_of_lt hr, hlow,
    Nat.zero_mod, Nat.zero_mul, Nat.add_zero, Nat.testBit_mod_two_pow, decide_eq_false (Nat.lt_irrefl 63), Bool.false_and, Bool.and_false]

/-- No scratchpad word has an error, and of the stored sectors at most one, in one symbol, which the armed injection left (R248). -/
structure State.Correctable (s : State) : Prop where
  err : s.sp.err = []
  ecc : s.ecc = [] ∨ bitOf (s.reg 0 0xC00018) 63 = false ∧
    ∃ sec i, ∃ e : Byte, i < 264 ∧ e ≠ 0 ∧ s.ecc = [(sec, BitVec.ofNat 2112 e.toNat <<< (8 * i))]

theorem State.NoErr.correctable {s : State} (h : s.NoErr) : s.Correctable := ⟨h.2, Or.inl h.1⟩

/-- A sector with one wrong symbol that a write reaches has none before the bytes are put, and keeps its bytes (R232). -/
theorem State.settleSector_symbol {s : State} (herr : s.sp.err = []) {sec i : Nat} {e : Byte} (hi : i < 264) (he : e ≠ 0)
    (hecc : s.ecc = [(sec, BitVec.ofNat 2112 e.toNat <<< (8 * i))]) (a n : Nat) :
    (s.settleSector a n sec).NoErr ∧ ∀ x, (s.settleSector a n sec).byte x = s.byte x := by
  obtain ⟨hout, hdata⟩ := State.sectorRead_symbol s (sec := sec) hi he (by rw [hecc]; exact if_pos rfl)
  have hput : (s.putAll (256 * sec) (s.sectorRead sec).data).ecc = [] := by
    rw [hdata]
    exact State.putAll_ecc_single hecc (List.ne_nil_of_length_pos (by rw [State.bytes_length]; decide)) (by rw [State.bytes_length])
  have hputErr : (s.putAll (256 * sec) (s.sectorRead sec).data).sp.err = [] := by rw [State.putAll_err, herr]
  have hputByte : ∀ x, (s.putAll (256 * sec) (s.sectorRead sec).data).byte x = s.byte x := by rw [hdata]; exact State.byte_putAll_self s _ _
  unfold State.settleSector
  generalize s.sectorRead sec = r at hout hput hputErr hputByte
  dsimp only
  rw [hout]
  split
  next => exact ⟨⟨by rw [hecc]; simp [SMap.erase], herr⟩, fun _ => rfl⟩
  next =>
    rw [if_neg (by decide)]
    split
    · exact ⟨⟨hput, hputErr⟩, hputByte⟩
    · exact ⟨⟨hput, hputErr⟩, hputByte⟩

theorem State.settleSector_regs (a n : Nat) (s : State) (sec : Nat) : (s.settleSector a n sec).regs = s.regs := by
  unfold State.settleSector
  dsimp only
  split
  · rfl
  · split
    · rfl
    · split
      · exact State.putAll_regs s _ _
      · split
        · exact State.putAll_regs s _ _
        · rfl

theorem State.errIn_nil {s : State} (h : s.sp.err = []) (a n : Nat) : s.errIn a n = [] := by rw [State.errIn, h]; rfl

theorem State.putRaw_of_err {s : State} {w : Nat × BitVec 2112} (hecc : s.ecc = [w]) (a : Nat) (l : List Byte)
    (hfold : ((s.eccIn a l.length).foldl (State.settleSector a l.length) s).sp.err = []) :
    s.putRaw a l = ((s.eccIn a l.length).foldl (State.settleSector a l.length) s).putKept a l := by
  rw [State.putRaw, if_neg (by rw [hecc]; simp)]
  dsimp only
  rw [State.errIn_nil hfold, List.foldl_nil]

/-- The write before an injection: the bytes of the write are put, all others stay. -/
theorem State.Correctable.putRaw {s : State} (h : s.Correctable) (a : Nat) (l : List Byte) :
    (s.putRaw a l).sp.err = [] ∧ ((s.putRaw a l).ecc = [] ∨ (s.putRaw a l).ecc = s.ecc) ∧ (s.putRaw a l).regs = s.regs ∧
      ∀ x, (s.putRaw a l).byte x = if a ≤ x ∧ x < a + l.length then l.getD (x - a) 0 else s.byte x := by
  have hputAll : ∀ t : State, t.NoErr → (t.putAll a l).ecc = [] := fun t ht =>
    (State.putAll_ecc (fun e he => absurd (ht.1 ▸ he) List.not_mem_nil)).trans ht.1
  rcases h.ecc with hnone | ⟨harm, sec, i, e, hi, he, hecc⟩
  · rw [State.putRaw_noErr ⟨hnone, h.err⟩]
    exact ⟨(State.putAll_err s a l).trans h.err, Or.inl (hputAll s ⟨hnone, h.err⟩), State.putAll_regs s a l, State.byte_putAll s a l⟩
  · by_cases hreach : 256 * sec < a + l.length ∧ a < 256 * sec + 256
    · obtain ⟨hno, hbyte⟩ := State.settleSector_symbol h.err hi he hecc a l.length
      have hin : s.eccIn a l.length = [sec] := by rw [State.eccIn, hecc]; simp [hreach]
      have hraw : s.putRaw a l = (s.settleSector a l.length sec).putAll a l := by
        rw [State.putRaw_of_err hecc a l (by rw [hin]; exact hno.2), hin, List.foldl_cons, List.foldl_nil]
        exact State.putKept_eq_putAll (fun e he => absurd (hno.1 ▸ he) List.not_mem_nil) hno.2
      rw [hraw]
      refine ⟨(State.putAll_err _ a l).trans hno.2, Or.inl (hputAll _ hno), (State.putAll_regs _ a l).trans (State.settleSector_regs _ _ _ _), fun x => ?_⟩
      rw [State.byte_putAll, hbyte]
    · have hin : s.eccIn a l.length = [] := by rw [State.eccIn, hecc]; simpa using hreach
      have hclean : s.SectorsClean a l.length := by
        intro x hx
        rw [hecc, List.mem_singleton] at hx
        subst hx
        omega
      have hraw : s.putRaw a l = s.putAll a l := by
        rw [State.putRaw_of_err hecc a l (by rw [hin]; exact h.err), hin, List.foldl_nil, State.putKept_eq_putAll hclean h.err]
      rw [hraw]
      exact ⟨(State.putAll_err s a l).trans h.err, Or.inr (State.putAll_ecc hclean), State.putAll_regs s a l, State.byte_putAll s a l⟩

/-- The stored symbol that an injection names (R248). -/
def injectSymbol (r : W64) : Nat :=
  if bitsOf r 55 48 < 128 then 2 * bitsOf r 55 48 + bitsOf r 56 56 else 256 + 4 * bitsOf r 56 56 + (bitsOf r 55 48 - 128) % 4

theorem injectSymbol_lt (r : W64) : injectSymbol r < 264 := by
  have hpos : bitsOf r 56 56 < 2 := Nat.mod_lt _ (by decide)
  unfold injectSymbol
  split <;> omega

/-- An injection does nothing, or puts a byte into one symbol of one sector and disarms itself. -/
theorem State.inject_cases (s : State) (a n : Nat) : s.inject a n = s ∨
    ∃ sec i, ∃ e : Byte, i < 264 ∧ s.inject a n = { s with
      regs := SMap.set 0xC00018 (putBits (s.reg 0 0xC00018) 63 63 0) s.regs
      ecc := SMap.setD 0 sec (SMap.get 0 sec s.ecc ^^^ (BitVec.ofNat 2112 e.toNat <<< (8 * i))) s.ecc } := by
  have he : bitsOf (s.reg 0 0xC00018) 47 40 < 2 ^ 8 := Nat.mod_lt _ (by decide)
  unfold State.inject
  dsimp only
  split
  next =>
    refine Or.inr ⟨bitsOf (s.reg 0 0xC00018) 39 0, injectSymbol (s.reg 0 0xC00018), BitVec.ofNat 8 (bitsOf (s.reg 0 0xC00018) 47 40), injectSymbol_lt _, ?_⟩
    rw [BitVec.toNat_ofNat, Nat.mod_eq_of_lt he]
    rfl
  next => exact Or.inl rfl

/-- What an injection leaves of a state without an error. -/
theorem State.inject_correctable {s : State} (h : s.NoErr) (a n : Nat) : (s.inject a n).Correctable := by
  rcases State.inject_cases s a n with heq | ⟨sec, i, e, hi, heq⟩
  · rw [heq]
    exact h.correctable
  · rw [heq]
    refine ⟨h.2, ?_⟩
    have hunarmed : SMap.get 0 0xC00018 (SMap.set 0xC00018 (putBits (s.reg 0 0xC00018) 63 63 0) s.regs) = putBits (s.reg 0 0xC00018) 63 63 0 :=
      SMap.get_set_same _ _ _ _
    dsimp only
    rw [h.1, SMap.get_nil, show ∀ v : BitVec 2112, 0 ^^^ v = v from fun _ => BitVec.zero_xor, SMap.setD]
    by_cases hz : BitVec.ofNat 2112 e.toNat <<< (8 * i) = 0
    · exact Or.inl (if_pos hz)
    · rw [if_neg hz]
      refine Or.inr ⟨(congrArg (bitOf · 63) hunarmed).trans (bitOf_putBits_same _), sec, i, e, hi, ?_, rfl⟩
      rintro rfl
      exact hz (BitVec.zero_shiftLeft _)

theorem State.inject_byte (s : State) (a n x : Nat) : (s.inject a n).byte x = s.byte x := by rw [State.byte, State.inject_mem]; rfl

theorem State.Correctable.putBytes {s : State} (h : s.Correctable) (a : Nat) (l : List Byte) : (s.putBytes a l).Correctable := by
  obtain ⟨herr, hecc, hregs, _⟩ := h.putRaw a l
  rw [State.putBytes]
  rcases hecc with hecc | hecc
  · exact State.inject_correctable ⟨hecc, herr⟩ a _
  · rcases h.ecc with hnone | ⟨harm, hsym⟩
    · exact State.inject_correctable ⟨hecc.trans hnone, herr⟩ a _
    · have harm' : bitOf ((s.putRaw a l).reg 0 0xC00018) 63 = false := by rw [State.reg, hregs]; exact harm
      rw [State.inject_unarmed harm']
      exact ⟨herr, Or.inr ⟨harm', hecc ▸ hsym⟩⟩

theorem State.Correctable.byte_putBytes {s : State} (h : s.Correctable) (a : Nat) (l : List Byte) (x : Nat) :
    (s.putBytes a l).byte x = if a ≤ x ∧ x < a + l.length then l.getD (x - a) 0 else s.byte x := by
  obtain ⟨_, _, _, hbyte⟩ := h.putRaw a l
  rw [State.putBytes, State.inject_byte, hbyte]

/-- The writes of a list of places and bytes, one after another. -/
def State.putEach (s : State) (ws : List (Nat × List Byte)) : State := ws.foldl (fun s w => s.putBytes w.1 w.2) s

/-- Two writes lie apart. -/
def Apart (v w : Nat × List Byte) : Prop := v.1 + v.2.length ≤ w.1 ∨ w.1 + w.2.length ≤ v.1

theorem State.Correctable.byte_putEach {s : State} (h : s.Correctable) (ws : List (Nat × List Byte)) {x : Nat}
    (hx : ∀ w ∈ ws, ¬ (w.1 ≤ x ∧ x < w.1 + w.2.length)) : (s.putEach ws).byte x = s.byte x := by
  induction ws generalizing s with
  | nil => rfl
  | cons w ws ih =>
    have hrest := ih (h.putBytes w.1 w.2) (fun v hv => hx v (List.mem_cons_of_mem _ hv))
    rw [h.byte_putBytes, if_neg (hx w List.mem_cons_self)] at hrest
    exact hrest

theorem State.bytes_congr {s t : State} {a n : Nat} (h : ∀ x, a ≤ x → x < a + n → t.byte x = s.byte x) : t.bytes a n = s.bytes a n :=
  List.map_congr_left (fun i hi => h _ (Nat.le_add_right a i) (Nat.add_lt_add_left (List.mem_range.1 hi) a))

theorem State.Correctable.bytes_putBytes {s : State} (h : s.Correctable) (a : Nat) (l : List Byte) : (s.putBytes a l).bytes a l.length = l := by
  apply List.ext_getElem
  · rw [State.bytes_length]
  · intro i h1 h2
    simp only [State.bytes, List.getElem_map, List.getElem_range]
    rw [h.byte_putBytes, if_pos (by omega), Nat.add_sub_cancel_left, List.getD_eq_getElem _ _ h2]

/-- Each write of a list whose places lie apart is read again after all of them. -/
theorem State.Correctable.bytes_putEach {s : State} (h : s.Correctable) {ws : List (Nat × List Byte)} (hapart : ws.Pairwise Apart)
    {w : Nat × List Byte} (hw : w ∈ ws) : (s.putEach ws).bytes w.1 w.2.length = w.2 := by
  induction ws generalizing s with
  | nil => exact absurd hw List.not_mem_nil
  | cons v ws ih =>
    obtain ⟨hv, hrest⟩ := List.pairwise_cons.1 hapart
    rcases List.mem_cons.1 hw with rfl | hw
    · refine (State.bytes_congr (fun x hx hx' => ?_)).trans (h.bytes_putBytes w.1 w.2)
      refine (h.putBytes w.1 w.2).byte_putEach ws (fun u hu => ?_)
      rcases hv u hu with h | h <;> omega
    · exact ih (h.putBytes v.1 v.2) hrest hw

end Sys2Proof.Machine
end

/-! ### Transfers as lists of writes (R144, R147) -/

section
namespace Sys2Proof.Machine

/-- Where a unit of a transfer to a tensor that is not ES is written. -/
def unitAddr (x : Xfer) (u : Nat) : Nat := elAddr x.td (unitDst x u)

theorem unitSpans_float {x : Xfer} (hes : fmtIsEs (tdFmt x.td) = false) (u : Nat) : (unitSpans x u).2 = [(unitAddr x u, elSize (tdFmt x.td))] := by
  show tensorSpans x.td (unitDst x u) 1 = _
  rw [tensorSpans, hes]
  rfl

theorem xferSpans_float {x : Xfer} (hes : fmtIsEs (tdFmt x.td) = false) :
    (xferSpans x).2 = (xferLeft x).map (fun u => (unitAddr x u, elSize (tdFmt x.td))) := by
  rw [xferSpans, spansOf]
  simp only [unitSpans_float hes]
  exact List.map_eq_flatMap.symm

theorem xferLeft_start {x : Xfer} (h : x.pos = 0) : xferLeft x = List.range (xferUnits x) := by
  rw [xferLeft, h, Nat.sub_zero]
  simp

/-- What a transfer of the kinds COPY, ZERO and DMAT writes in its unit u, with the bytes of s0. -/
def unitBytes (s0 : State) (x : Xfer) (u : Nat) : List Byte :=
  if x.kind = 4 then leBytes (elSize (tdFmt x.td)) 0 else s0.bytes (elAddr x.ts ((unitSrc x u).headD 0)) (elSize (tdFmt x.td))

theorem unitBytes_length (s0 : State) (x : Xfer) (u : Nat) : (unitBytes s0 x u).length = elSize (tdFmt x.td) := by
  unfold unitBytes
  split
  · exact leBytes_length _ _
  · exact State.bytes_length _ _ _

/-- The writes of a run of these kinds. -/
def unitWrites (s0 : State) (x : Xfer) (us : List Nat) : List (Nat × List Byte) := us.map (fun u => (unitAddr x u, unitBytes s0 x u))

theorem xferRun_eq_putEach (s : State) (own : Option Nat) (src : Nat) (tt : Int) {x : Xfer} (us : List Nat) (hes : fmtIsEs (tdFmt x.td) = false)
    (hk : x.kind = 0 ∨ x.kind = 4 ∨ x.kind = 5) : xferRun own src x tt us s = s.putEach (unitWrites s x us) := by
  have hx : xferEs x = false := hes
  rw [State.putEach, unitWrites, List.foldl_map]
  rcases hk with hk | hk | hk
  · simp only [xferRun, hk, runCopy, hx, unitBytes, copyBytes]
    rfl
  · simp only [xferRun, hk, runZero, hx, unitBytes]
    rfl
  · simp only [xferRun, hk, runTranspose, hx, unitBytes, copyBytes]
    rfl

theorem unitWrites_apart (s : State) {x : Xfer} (hes : fmtIsEs (tdFmt x.td) = false)
    (h : (xferSpans x).2.Pairwise (fun a b => a.1 + a.2 ≤ b.1 ∨ b.1 + b.2 ≤ a.1)) : (unitWrites s x (xferLeft x)).Pairwise Apart := by
  rw [xferSpans_float hes, List.pairwise_map] at h
  rw [unitWrites, List.pairwise_map]
  exact h.imp (fun {u v} hab => by simpa only [Apart, unitBytes_length] using hab)

theorem byte_xferRun_other {s : State} (he : s.NoErr) (own : Option Nat) (src : Nat) (tt : Int) {x : Xfer} (hes : fmtIsEs (tdFmt x.td) = false)
    (hk : x.kind = 0 ∨ x.kind = 4 ∨ x.kind = 5) {a : Nat} (ha : ∀ p ∈ (xferSpans x).2, ¬ (p.1 ≤ a ∧ a < p.1 + p.2)) :
    (xferRun own src x tt (xferLeft x) s).byte a = s.byte a := by
  rw [xferRun_eq_putEach s own src tt _ hes hk]
  refine he.correctable.byte_putEach _ (fun w hw => ?_)
  obtain ⟨u, hu, rfl⟩ := List.mem_map.1 hw
  rw [unitBytes_length]
  exact ha (unitAddr x u, elSize (tdFmt x.td)) (by rw [xferSpans_float hes]; exact List.mem_map_of_mem hu)

/-- Every unit of a whole run reads as it was written. -/
theorem bytes_xferRun_unit {s : State} (he : s.NoErr) (own : Option Nat) (src : Nat) (tt : Int) {x : Xfer} (hes : fmtIsEs (tdFmt x.td) = false)
    (hk : x.kind = 0 ∨ x.kind = 4 ∨ x.kind = 5) (hpos : x.pos = 0)
    (h : (xferSpans x).2.Pairwise (fun a b => a.1 + a.2 ≤ b.1 ∨ b.1 + b.2 ≤ a.1)) {u : Nat} (hu : u < xferUnits x) :
    (xferRun own src x tt (xferLeft x) s).bytes (unitAddr x u) (elSize (tdFmt x.td)) = unitBytes s x u := by
  have hmem : (unitAddr x u, unitBytes s x u) ∈ unitWrites s x (xferLeft x) := by
    rw [xferLeft_start hpos]
    exact List.mem_map.2 ⟨u, List.mem_range.2 hu, rfl⟩
  have hread := he.correctable.bytes_putEach (unitWrites_apart s hes h) hmem
  rw [xferRun_eq_putEach s own src tt _ hes hk]
  rwa [unitBytes_length] at hread

theorem leBytes_zero (n : Nat) : leBytes n 0 = List.replicate n 0 := by
  induction n with
  | zero => rfl
  | succ n ih => rw [leBytes, List.replicate_succ, Nat.zero_div, ih]; rfl

end Sys2Proof.Machine
end

section
open Sys2Proof Sys2Proof.Machine

/-- Settles O22: the run is a list of writes that lie apart, of which the sector code takes back the one symbol that an armed injection wrongs. -/
theorem transferContents : Obligations.TransferContents := by
  unfold Obligations.TransferContents
  intro s own src tt x he hes _ hpos hpair htr t sz
  have hx : xferEs x = false := hes
  have hlinear (hk : x.kind ≠ 5) : x.transpose = false := by rw [Bool.eq_false_iff]; exact fun h => hk (htr.1 h)
  refine ⟨fun hk a ha => byte_xferRun_other he own src tt hes hk ha, fun hk i hi => ?_, fun hk i hi => ?_, fun hk i hi j hj => ?_⟩
  · have htrf := hlinear (by omega)
    have hu : i < xferUnits x := by rw [xferUnits, htrf, hx]; exact hi
    have hrun := bytes_xferRun_unit he own src tt hes (Or.inl hk) hpos hpair hu
    simp only [unitAddr, unitDst, unitBytes, unitSrc, htrf, hx, hk] at hrun
    simpa using hrun
  · have htrf := hlinear (by omega)
    have hu : i < xferUnits x := by rw [xferUnits, htrf, hx]; exact hi
    have hrun := bytes_xferRun_unit he own src tt hes (Or.inr (Or.inl hk)) hpos hpair hu
    simp only [unitAddr, unitDst, unitBytes, htrf, hx, hk, leBytes_zero] at hrun
    simpa using hrun
  · have htrt : x.transpose = true := htr.2 hk
    have hdiv : (i * rcRow x.sn + j) / rcRow x.sn = i := by
      rw [Nat.mul_comm, Nat.mul_add_div (by omega), Nat.div_eq_of_lt hj, Nat.add_zero]
    have hmod : (i * rcRow x.sn + j) % rcRow x.sn = j := by rw [Nat.mul_comm, Nat.mul_add_mod, Nat.mod_eq_of_lt hj]
    have hu : i * rcRow x.sn + j < xferUnits x := by
      rw [xferUnits, htrt, hx]
      calc i * rcRow x.sn + j < (i + 1) * rcRow x.sn := by rw [Nat.succ_mul]; omega
        _ ≤ rcCol x.sn * rcRow x.sn := Nat.mul_le_mul_right _ hi
    have hrun := bytes_xferRun_unit he own src tt hes (Or.inr (Or.inr hk)) hpos hpair hu
    simp only [unitAddr, unitDst, unitBytes, unitSrc, tpDst, tpSrc, htrt, hx, hk] at hrun
    simpa [hdiv, hmod] using hrun
end

/-! ### Writes of a save area and what they keep (R165, R166) -/

section
namespace Sys2Proof.Machine

/-- No stored word has an error and no injection is armed. -/
structure State.Clean (s : State) : Prop where
  noErr : s.NoErr
  unarmed : bitOf (s.reg 0 0xC00018) 63 = false

/-- From s to t the bytes that P names stay. -/
structure State.KeepsBytes (P : Nat → Prop) (s t : State) : Prop where
  clean : t.Clean
  byte : ∀ x, P x → t.byte x = s.byte x

/-- And so do the transfers that entries of save areas stand for. -/
structure State.Keeps (P : Nat → Prop) (s t : State) : Prop extends State.KeepsBytes P s t where
  images : t.images = s.images

/-- The addresses outside [lo, hi). -/
def Outside (lo hi x : Nat) : Prop := x < lo ∨ hi ≤ x

theorem State.Keeps.refl {P : Nat → Prop} {s : State} (h : s.Clean) : s.Keeps P s := ⟨⟨h, fun _ _ => rfl⟩, rfl⟩

theorem State.KeepsBytes.trans {P : Nat → Prop} {s t u : State} (h : s.KeepsBytes P t) (h' : t.KeepsBytes P u) : s.KeepsBytes P u :=
  ⟨h'.clean, fun x hx => (h'.byte x hx).trans (h.byte x hx)⟩

theorem State.KeepsBytes.mono {P Q : Nat → Prop} {s t : State} (h : s.KeepsBytes P t) (hPQ : ∀ x, Q x → P x) : s.KeepsBytes Q t :=
  ⟨h.clean, fun x hx => h.byte x (hPQ x hx)⟩

theorem State.Keeps.trans {P : Nat → Prop} {s t u : State} (h : s.Keeps P t) (h' : t.Keeps P u) : s.Keeps P u :=
  ⟨h.toKeepsBytes.trans h'.toKeepsBytes, h'.images.trans h.images⟩

theorem State.Keeps.mono {P Q : Nat → Prop} {s t : State} (h : s.Keeps P t) (hPQ : ∀ x, Q x → P x) : s.Keeps Q t :=
  ⟨h.toKeepsBytes.mono hPQ, h.images⟩

theorem State.Keeps.foldl {α : Type} {P : Nat → Prop} {f : State → α → State} {l : List α} (hf : ∀ t : State, t.Clean → ∀ e ∈ l, t.Keeps P (f t e))
    {s : State} (h : s.Clean) : s.Keeps P (l.foldl f s) := by
  induction l generalizing s with
  | nil => exact State.Keeps.refl h
  | cons e l ih =>
    have hhead := hf s h e List.mem_cons_self
    exact hhead.trans (ih (fun t ht e he => hf t ht e (List.mem_cons_of_mem _ he)) hhead.clean)

theorem State.rd_congr {s t : State} {a n : Nat} (h : ∀ x, a ≤ x → x < a + n → t.byte x = s.byte x) : t.rd a n = s.rd a n := by
  rw [State.rd, State.bytes_congr h, State.rd]

theorem State.KeepsBytes.rd {P : Nat → Prop} {s t : State} (h : s.KeepsBytes P t) {a n : Nat} (hP : ∀ x, a ≤ x → x < a + n → P x) : t.rd a n = s.rd a n :=
  State.rd_congr (fun x hx hx' => h.byte x (hP x hx hx'))

theorem State.rd_eq_zero {s : State} {a n : Nat} (h : ∀ x, a ≤ x → x < a + n → s.byte x = 0) : s.rd a n = 0 := by
  have hbytes : s.bytes a n = leBytes n 0 := by
    rw [leBytes_zero]
    refine List.eq_replicate_iff.2 ⟨State.bytes_length s a n, fun y hy => ?_⟩
    obtain ⟨i, hi, rfl⟩ := List.mem_map.1 hy
    exact h _ (Nat.le_add_right a i) (Nat.add_lt_add_left (List.mem_range.1 hi) a)
  rw [State.rd, hbytes, leNat_leBytes, Nat.zero_mod]

/-! #### One write -/

theorem State.Clean.putBytes {s : State} (h : s.Clean) (a : Nat) (l : List Byte) : s.Keeps (Outside a (a + l.length)) (s.putBytes a l) := by
  have hput : s.putBytes a l = s.putAll a l := by
    have hunarmed : bitOf ((s.putAll a l).reg 0 0xC00018) 63 = false := by rw [State.putAll_eq]; exact h.unarmed
    rw [State.putBytes, State.putRaw_noErr h.noErr, State.inject_unarmed hunarmed]
  have hno : (s.putAll a l).NoErr :=
    ⟨(State.putAll_ecc (fun e he => absurd (h.noErr.1 ▸ he) List.not_mem_nil)).trans h.noErr.1, (State.putAll_err s a l).trans h.noErr.2⟩
  rw [hput]
  refine ⟨⟨⟨hno, ?_⟩, fun x hx => ?_⟩, ?_⟩
  · rw [State.putAll_eq]
    exact h.unarmed
  · rw [State.byte_putAll, if_neg]
    rcases hx with hx | hx <;> omega
  · rw [State.putAll_eq]

theorem State.Clean.wr {s : State} (h : s.Clean) (a n v : Nat) : s.Keeps (Outside a (a + n)) (s.wr a n v) := by
  have hput := h.putBytes a (leBytes n v)
  rwa [leBytes_length] at hput

theorem SpTrack.note_err (t : SpTrack) (a n : Nat) : (t.note a n).err = t.err := by
  unfold SpTrack.note
  split <;> rfl

theorem State.Clean.zero {s : State} (h : s.Clean) (a n : Nat) : s.Keeps (Outside a (a + n)) (s.zero a n) := by
  have hzero : s.zero a n = { s with mem := SMap.clear a n s.mem, sp := s.sp.note a n } := by
    rw [State.zero, h.noErr.1, h.noErr.2]
    rfl
  refine ⟨⟨⟨?_, ?_⟩, fun x hx => ?_⟩, ?_⟩
  · rw [hzero]
    exact ⟨h.noErr.1, (SpTrack.note_err _ _ _).trans h.noErr.2⟩
  · rw [hzero]
    exact h.unarmed
  · rw [State.byte_zero h.noErr, if_neg]
    rcases hx with hx | hx <;> omega
  · rw [hzero]

/-- Entries merged into a table leave every number that none of them has. -/
theorem SMap.get_onto_other {α : Type} (d : α) {x : Nat} (l : SMap α) (h : ∀ e ∈ l, e.1 ≠ x) (m : SMap α) : SMap.get d x (SMap.onto m l) = SMap.get d x m := by
  induction l generalizing m with
  | nil => rfl
  | cons e l ih =>
    rw [SMap.onto, ih (fun e he => h e (List.mem_cons_of_mem _ he)), SMap.get_set_other d (h e List.mem_cons_self)]

theorem State.Clean.copyMem {s : State} (h : s.Clean) (a b n : Nat) : s.Keeps (Outside b (b + n)) (s.copyMem a b n) := by
  have hcopy : s.copyMem a b n =
      { s with mem := SMap.onto (SMap.clear b n s.mem) ((SMap.slice a n s.mem).map (fun e => (e.1 - a + b, e.2))), sp := s.sp.note b n } := by
    rw [State.copyMem, h.noErr.1, h.noErr.2]
    rfl
  refine ⟨⟨⟨?_, ?_⟩, fun x hx => ?_⟩, ?_⟩
  · rw [hcopy]
    exact ⟨h.noErr.1, (SpTrack.note_err _ _ _).trans h.noErr.2⟩
  · rw [hcopy]
    exact h.unarmed
  · have hkeys : ∀ e ∈ (SMap.slice a n s.mem).map (fun e => (e.1 - a + b, e.2)), e.1 ≠ x := by
      intro e he
      obtain ⟨y, hy, rfl⟩ := List.mem_map.1 he
      obtain ⟨_, hy⟩ := List.mem_filter.1 hy
      rw [Bool.and_eq_true, decide_eq_true_eq, decide_eq_true_eq] at hy
      rcases hx with hx | hx <;> dsimp only <;> omega
    rw [hcopy]
    show SMap.get 0 x (SMap.onto _ _) = SMap.get 0 x s.mem
    rw [SMap.get_onto_other 0 _ hkeys, SMap.get_clear, if_neg]
    rcases hx with hx | hx <;> omega
  · rw [hcopy]

/-! #### Tables of numbers of n bytes each -/

/-- Write each listed number at its place of a table at address a. -/
def State.wrEach (a n : Nat) (ws : SMap Nat) (s : State) : State := ws.foldl (fun s e => s.wr (a + n * e.1) n e.2) s

theorem saveTable_eq_wrEach {w : Nat} (a n : Nat) (m : SMap (BitVec w)) (s : State) :
    saveTable a n m s = State.wrEach a n (m.map (fun e => (e.1, e.2.toNat))) s := by
  rw [saveTable, State.wrEach, List.foldl_map]

theorem State.Clean.wrEach {s : State} (h : s.Clean) {a n c : Nat} {ws : SMap Nat} (hws : ∀ e ∈ ws, e.1 < c) :
    s.Keeps (Outside a (a + n * c)) (State.wrEach a n ws s) := by
  refine State.Keeps.foldl (fun t ht e he => (ht.wr (a + n * e.1) n e.2).mono (fun x hx => ?_)) h
  have hplace : n * e.1 + n ≤ n * c := Nat.mul_le_mul_left n (hws e he)
  unfold Outside at hx ⊢
  omega

theorem place_apart {a n i j : Nat} (hij : i ≠ j) {x : Nat} (hx : a + n * i ≤ x) (hx' : x < a + n * i + n) : Outside (a + n * j) (a + n * j + n) x := by
  rcases Nat.lt_or_gt_of_ne hij with h | h
  · have hplace : n * i + n ≤ n * j := Nat.mul_le_mul_left n h
    exact Or.inl (by omega)
  · have hplace : n * j + n ≤ n * i := Nat.mul_le_mul_left n h
    exact Or.inr (by omega)

theorem State.Clean.rd_wrEach_other {s : State} (h : s.Clean) {a n i : Nat} {ws : SMap Nat} (hws : ∀ e ∈ ws, e.1 ≠ i) :
    (State.wrEach a n ws s).rd (a + n * i) n = s.rd (a + n * i) n := by
  refine (State.Keeps.foldl (P := fun x => a + n * i ≤ x ∧ x < a + n * i + n) (fun t ht e he => ?_) h).rd (fun x hx hx' => ⟨hx, hx'⟩)
  exact (ht.wr (a + n * e.1) n e.2).mono (fun x hx => place_apart (hws e he).symm hx.1 hx.2)

/-- A place of a table reads as the number listed for it, or as before. -/
theorem State.Clean.rd_wrEach {s : State} (h : s.Clean) {a n i : Nat} {ws : SMap Nat} (hws : (ws.map (fun e => e.1)).Nodup) :
    (State.wrEach a n ws s).rd (a + n * i) n = ((SMap.find i ws).map (· % 256 ^ n)).getD (s.rd (a + n * i) n) := by
  induction ws generalizing s with
  | nil => rfl
  | cons e ws ih =>
    obtain ⟨hnot, hrest⟩ := List.nodup_cons.1 hws
    have hclean := (h.wr (a + n * e.1) n e.2).clean
    rw [SMap.find]
    split
    next hi =>
      have hne : ∀ f ∈ ws, f.1 ≠ i := fun f hf hfi => hnot (List.mem_map.2 ⟨f, hf, hfi.trans hi.symm⟩)
      subst hi
      exact (hclean.rd_wrEach_other hne).trans (State.rd_wr_same h.noErr _ _ _)
    next hi =>
      refine (ih hclean hrest).trans (congrArg _ ((h.wr (a + n * e.1) n e.2).rd (fun x hx hx' => place_apart (Ne.symm hi) hx hx')))

theorem SMap.get_eq_find {α : Type} (d : α) (i : Nat) (m : SMap α) : SMap.get d i m = (SMap.find i m).getD d := by
  induction m with
  | nil => rfl
  | cons e m ih =>
    rw [SMap.get, SMap.find]
    split
    · rfl
    · exact ih

theorem SMap.find_map {α β : Type} (f : α → β) (i : Nat) (m : SMap α) : SMap.find i (m.map (fun e => (e.1, f e.2))) = (SMap.find i m).map f := by
  induction m with
  | nil => rfl
  | cons e m ih =>
    rw [List.map_cons, SMap.find, SMap.find]
    split
    · rfl
    · exact ih

/-- A register table over zeroed memory reads back, its unlisted registers as 0. -/
theorem State.Clean.rd_saveTable {s : State} (h : s.Clean) {w a n i c : Nat} (hw : w = 8 * n) {m : SMap (BitVec w)} (hm : tableOk c m)
    (hzero : s.rd (a + n * i) n = 0) : (saveTable a n m s).rd (a + n * i) n = (SMap.get 0 i m).toNat := by
  have hnodup : ((m.map (fun e => (e.1, e.2.toNat))).map (fun e => e.1)).Nodup := by rw [List.map_map]; exact hm.1
  have hlt : ∀ v : BitVec w, v.toNat % 256 ^ n = v.toNat := fun v => Nat.mod_eq_of_lt (by
    rw [show (256 : Nat) = 2 ^ 8 from rfl, ← Nat.pow_mul, ← hw]
    exact v.isLt)
  rw [saveTable_eq_wrEach, h.rd_wrEach hnodup, SMap.find_map, SMap.get_eq_find, hzero]
  cases SMap.find i m with
  | none => simp
  | some v => exact hlt v

theorem State.Clean.saveTable {s : State} (h : s.Clean) {w a n c : Nat} {m : SMap (BitVec w)} (hm : tableOk c m) :
    s.Keeps (Outside a (a + n * c)) (saveTable a n m s) := by
  rw [saveTable_eq_wrEach]
  refine h.wrEach (fun e he => ?_)
  obtain ⟨f, hf, rfl⟩ := List.mem_map.1 he
  exact hm.2 f hf

end Sys2Proof.Machine
end

/-! ### The entries of queued transfers in a save area -/

section
namespace Sys2Proof.Machine

theorem dmaEntryOf_low (n : Nat) : (dmaEntryOf n).toNat % 2 ^ 128 = 2 * (n % 2 ^ 127) + 1 := by
  have hn : n % 2 ^ 127 < 2 ^ 127 := Nat.mod_lt _ (Nat.two_pow_pos _)
  rw [dmaEntryOf, BitVec.toNat_ofNat, Nat.mod_mod_of_dvd _ (Nat.pow_dvd_pow 2 (by decide)), Nat.mul_add_mod_self_right, Nat.mod_eq_of_lt]
  rw [show 128 = 127 + 1 from rfl, Nat.pow_succ]
  omega

theorem dmaEntryOf_ne_zero (n : Nat) : dmaEntryOf n ≠ 0 := by
  intro h
  have hlow := dmaEntryOf_low n
  rw [h, show (0 : Line).toNat = 0 from BitVec.toNat_zero, Nat.zero_mod] at hlow
  omega

/-- Entries drawn close together differ. -/
theorem dmaEntryOf_ne {m n : Nat} (h : m < n) (hn : n < m + 2 ^ 127) : dmaEntryOf n ≠ dmaEntryOf m := by
  intro heq
  have hmod : n % 2 ^ 127 = m % 2 ^ 127 := by
    have hlow := dmaEntryOf_low n
    rw [heq, dmaEntryOf_low m] at hlow
    omega
  have hdvd : 2 ^ 127 ∣ n - m := (Nat.modEq_iff_dvd' h.le).1 hmod.symm
  exact absurd (Nat.le_of_dvd (by omega) hdvd) (by omega)

/-- Save transfers, each at its place. -/
def saveEach (l : List (Nat × Xfer)) (s : State) : State := l.foldl (fun s e => saveXfer e.1 e.2 s) s

theorem State.Clean.draw {s : State} (h : s.Clean) : s.draw.2.Clean := ⟨h.noErr, h.unarmed⟩

theorem SMap.find_set_other {α : Type} {k i : Nat} (h : k ≠ i) (v : α) (m : SMap α) : SMap.find i (SMap.set k v m) = SMap.find i m := by
  induction m with
  | nil => exact if_neg h
  | cons e m ih =>
    rw [SMap.set]
    split
    · exact if_neg h
    · split
      next hk => rw [SMap.find, SMap.find, if_neg h, if_neg (hk ▸ h)]
      next => rw [SMap.find, SMap.find, ih]

/-- What saving one transfer does: the next drawn entry stands at its place and stands for it. -/
structure SavedXfer (a : Nat) (x : Xfer) (s t : State) : Prop where
  clean : t.Clean
  byte : ∀ y, Outside a (a + 64) y → t.byte y = s.byte y
  line : t.line a = dmaEntryOf s.fresh
  images : t.images = SMap.set (dmaEntryOf s.fresh).toNat x s.images
  fresh : t.fresh = s.fresh + 1

theorem savedXfer {s : State} (h : s.Clean) (a : Nat) (x : Xfer) : SavedXfer a x s (saveXfer a x s) where
  clean := ⟨(h.draw.wr a 64 _).clean.noErr, (h.draw.wr a 64 _).clean.unarmed⟩
  byte := (h.draw.wr a 64 _).byte
  line := State.line_wr_same h.draw.noErr a _
  images := rfl
  fresh := by
    show (s.draw.2.putBytes a _).fresh = _
    rw [State.putBytes_eq h.draw.noErr]
    rfl

theorem State.line_congr {s t : State} {a : Nat} (h : ∀ x, a ≤ x → x < a + 64 → t.byte x = s.byte x) : t.line a = s.line a := by
  rw [State.line, State.rd_congr h, State.line]

/-- The place of a transfer holds an entry that stands for it. -/
def StandsFor (t : State) (a : Nat) (x : Xfer) : Prop := t.line a ≠ 0 ∧ SMap.find (t.line a).toNat t.images = some x

theorem StandsFor.restXfer {t : State} {a : Nat} {x : Xfer} (h : StandsFor t a x) : restXfer t a = some x := by
  rw [Machine.restXfer, if_neg h.1, h.2]
  rfl

/-- Saving further transfers elsewhere leaves a saved one, whose entry was drawn not long before. -/
theorem standsFor_saveEach {s : State} (h : s.Clean) {a n : Nat} {x : Xfer} (l : List (Nat × Xfer)) (hl : ∀ e ∈ l, e.1 + 64 ≤ a ∨ a + 64 ≤ e.1)
    (hline : s.line a = dmaEntryOf n) (hfind : SMap.find (dmaEntryOf n).toNat s.images = some x) (hn : n < s.fresh)
    (hlen : s.fresh + l.length ≤ n + 2 ^ 127) : StandsFor (saveEach l s) a x := by
  induction l generalizing s with
  | nil => exact ⟨hline ▸ dmaEntryOf_ne_zero n, (congrArg (fun e : Line => SMap.find e.toNat s.images) hline).trans hfind⟩
  | cons e l ih =>
    have hsaved := savedXfer h e.1 e.2
    rw [List.length_cons] at hlen
    have hne : (dmaEntryOf s.fresh).toNat ≠ (dmaEntryOf n).toNat := fun heq => dmaEntryOf_ne hn (by omega) (BitVec.eq_of_toNat_eq heq)
    refine ih hsaved.clean (fun f hf => hl f (List.mem_cons_of_mem _ hf)) ?_ ?_ ?_ ?_
    · refine (State.line_congr (fun y hy hy' => hsaved.byte y ?_)).trans hline
      unfold Outside
      rcases hl e List.mem_cons_self with h | h <;> omega
    · rw [hsaved.images, SMap.find_set_other hne, hfind]
    · rw [hsaved.fresh]; omega
    · rw [hsaved.fresh]; omega

/-- After all of them are saved, each stands at its place. -/
theorem standsFor_of_mem_saveEach {s : State} (h : s.Clean) {l : List (Nat × Xfer)} (hl : l.Pairwise (fun d e => d.1 + 64 ≤ e.1 ∨ e.1 + 64 ≤ d.1))
    (hlen : l.length ≤ 2 ^ 127) {e : Nat × Xfer} (he : e ∈ l) : StandsFor (saveEach l s) e.1 e.2 := by
  induction l generalizing s with
  | nil => exact absurd he List.not_mem_nil
  | cons d l ih =>
    obtain ⟨hd, hrest⟩ := List.pairwise_cons.1 hl
    have hsaved := savedXfer h d.1 d.2
    rw [List.length_cons] at hlen
    rcases List.mem_cons.1 he with rfl | he
    · refine standsFor_saveEach hsaved.clean l (fun f hf => (hd f hf).symm) hsaved.line ?_ ?_ ?_
      · rw [hsaved.images, SMap.find_set_same]
      · rw [hsaved.fresh]; omega
      · rw [hsaved.fresh]; omega
    · exact ih hsaved.clean hrest (by omega) he

theorem State.Clean.saveEach {s : State} (h : s.Clean) {P : Nat → Prop} {l : List (Nat × Xfer)} (hP : ∀ e ∈ l, ∀ y, P y → Outside e.1 (e.1 + 64) y) :
    s.KeepsBytes P (saveEach l s) := by
  induction l generalizing s with
  | nil => exact ⟨h, fun _ _ => rfl⟩
  | cons e l ih =>
    have hsaved := savedXfer h e.1 e.2
    have hfirst : s.KeepsBytes P (saveXfer e.1 e.2 s) := ⟨hsaved.clean, fun y hy => hsaved.byte y (hP e List.mem_cons_self y hy)⟩
    exact hfirst.trans (ih hsaved.clean (fun f hf => hP f (List.mem_cons_of_mem _ hf)))

end Sys2Proof.Machine
end

/-! ### The registers in a save area (R166) -/

section
namespace Sys2Proof.Machine

theorem State.rd_one (s : State) (a : Nat) : s.rd a 1 = (s.byte a).toNat := by
  have hb := (s.byte a).isLt
  simp [State.rd, State.bytes, leNat]

/-- Bytes [lo, hi) are 0. -/
def State.ZeroIn (s : State) (lo hi : Nat) : Prop := ∀ x, lo ≤ x → x < hi → s.byte x = 0

theorem State.ZeroIn.rd {s : State} {lo hi a n : Nat} (h : s.ZeroIn lo hi) (hlo : lo ≤ a) (hhi : a + n ≤ hi) : s.rd a n = 0 :=
  State.rd_eq_zero (fun x hx hx' => h x (by omega) (by omega))

theorem State.ZeroIn.keeps {P : Nat → Prop} {s t : State} {lo hi lo' hi' : Nat} (h : s.ZeroIn lo hi) (hk : s.KeepsBytes P t) (hlo : lo ≤ lo') (hhi : hi' ≤ hi)
    (hP : ∀ x, lo' ≤ x → x < hi' → P x) : t.ZeroIn lo' hi' :=
  fun x hx hx' => (hk.byte x (hP x hx hx')).trans (h x (by omega) (by omega))

/-- The scalar and predicate registers and the flags are written. -/
def saveScalars (b : Nat) (r : CoreRegs) (s : State) : State := (saveTable (b + 0x200) 8 r.p (saveTable (b + 0x100) 8 r.s s)).wr (b + 0x240) 1 (vsBits r.vs)

/-- And after them the semaphores, descriptors and generators. -/
def saveRegs (b : Nat) (r : CoreRegs) (s : State) : State :=
  saveTable (b + 0x800) 64 r.g (saveTable (b + 0x400) 64 r.t (State.wrEach (b + 0x300) 4 r.sem (saveScalars b r s)))

/-- The registers stand in the save area at b of state t. -/
structure RegsAt (t : State) (b : Nat) (r : CoreRegs) : Prop where
  sreg : ∀ i < 32, t.rd (b + 0x100 + 8 * i) 8 = (r.sreg i).toNat
  preg : ∀ i < 8, t.rd (b + 0x200 + 8 * i) 8 = (r.preg i).toNat
  vs : t.rd (b + 0x240) 1 = vsBits r.vs
  semv : ∀ i < 64, t.rd (b + 0x300 + 4 * i) 4 = r.semv i
  tdesc : ∀ i < 16, t.rd (b + 0x400 + 64 * i) 64 = (r.tdesc i).toNat
  gen : ∀ i < 8, t.rd (b + 0x800 + 64 * i) 64 = (r.gen i).toNat

theorem RegsAt.keeps {t u : State} {b : Nat} {r : CoreRegs} {P : Nat → Prop} (h : RegsAt t b r) (hk : t.KeepsBytes P u)
    (hP : ∀ x, b + 0x100 ≤ x → x < b + 0xA00 → P x) : RegsAt u b r := by
  have hrd : ∀ a n, b + 0x100 ≤ a → a + n ≤ b + 0xA00 → u.rd a n = t.rd a n :=
    fun a n hlo hhi => hk.rd (fun x hx hx' => hP x (by omega) (by omega))
  exact {
    sreg := fun i hi => (hrd _ _ (by omega) (by omega)).trans (h.sreg i hi)
    preg := fun i hi => (hrd _ _ (by omega) (by omega)).trans (h.preg i hi)
    vs := (hrd _ _ (by omega) (by omega)).trans h.vs
    semv := fun i hi => (hrd _ _ (by omega) (by omega)).trans (h.semv i hi)
    tdesc := fun i hi => (hrd _ _ (by omega) (by omega)).trans (h.tdesc i hi)
    gen := fun i hi => (hrd _ _ (by omega) (by omega)).trans (h.gen i hi) }

theorem State.KeepsBytes.above {s t : State} {lo hi : Nat} (h : s.KeepsBytes (Outside lo hi) t) {c : Nat} (hc : hi ≤ c) : s.KeepsBytes (c ≤ ·) t :=
  h.mono (fun _ hx => Or.inr (Nat.le_trans hc hx))

theorem State.KeepsBytes.below {s t : State} {lo hi : Nat} (h : s.KeepsBytes (Outside lo hi) t) {c : Nat} (hc : c ≤ lo) : s.KeepsBytes (· < c) t :=
  h.mono (fun _ hx => Or.inl (Nat.lt_of_lt_of_le hx hc))

theorem vsBits_lt (f : FlagSet) : vsBits f < 256 := by
  unfold vsBits
  split <;> split <;> split <;> split <;> decide

theorem SMap.mem_of_find {α : Type} {i : Nat} {v : α} {m : SMap α} (h : SMap.find i m = some v) : (i, v) ∈ m := by
  induction m with
  | nil => exact absurd h (Option.some_ne_none v).symm
  | cons e m ih =>
    rw [SMap.find] at h
    split at h
    next hi =>
      cases h
      subst hi
      exact List.mem_cons_self
    next => exact List.mem_cons_of_mem _ (ih h)

/-- A table of semaphore counts over zeroed memory reads back. -/
theorem State.Clean.rd_wrEach_sem {s : State} (h : s.Clean) {a i : Nat} {m : SMap Nat} (hm : tableOk 64 m) (hv : ∀ e ∈ m, e.2 < 2 ^ 32)
    (hzero : s.rd (a + 4 * i) 4 = 0) : (State.wrEach a 4 m s).rd (a + 4 * i) 4 = SMap.get 0 i m := by
  rw [h.rd_wrEach hm.1, hzero, SMap.get_eq_find]
  cases hfind : SMap.find i m with
  | none => rfl
  | some v => exact Nat.mod_eq_of_lt (hv (i, v) (SMap.mem_of_find hfind))

theorem saveScalars_keeps {s : State} (h : s.Clean) (b : Nat) {k : Core} (hk : CoreFits k) :
    s.Keeps (Outside (b + 0x100) (b + 0x300)) (saveScalars b k.r s) := by
  have h1 := h.saveTable (a := b + 0x100) (n := 8) hk.s
  have h2 := h1.clean.saveTable (a := b + 0x200) (n := 8) hk.p
  have h3 := h2.clean.wr (b + 0x240) 1 (vsBits k.r.vs)
  refine ((h1.mono ?_).trans (h2.mono ?_)).trans (h3.mono ?_) <;> (intro x hx; unfold Outside at *; omega)

theorem saveRegs_keeps {s : State} (h : s.Clean) (b : Nat) {k : Core} (hk : CoreFits k) : s.Keeps (Outside (b + 0x100) (b + 0xA00)) (saveRegs b k.r s) := by
  have h1 := saveScalars_keeps h b hk
  have h2 := h1.clean.wrEach (a := b + 0x300) (n := 4) hk.sem.2
  have h3 := h2.clean.saveTable (a := b + 0x400) (n := 64) hk.t
  have h4 := h3.clean.saveTable (a := b + 0x800) (n := 64) hk.g
  refine (((h1.mono ?_).trans (h2.mono ?_)).trans (h3.mono ?_)).trans (h4.mono ?_) <;> (intro x hx; unfold Outside at *; omega)

/-- Each table is written over zeroes, and those after it lie above. -/
theorem saveRegs_regsAt {s : State} (h : s.Clean) {b : Nat} {k : Core} (hk : CoreFits k) (hzero : s.ZeroIn (b + 0x100) (b + 0xA00)) :
    RegsAt (saveRegs b k.r s) b k.r := by
  have h1 := h.saveTable (a := b + 0x100) (n := 8) hk.s
  have h2 := h1.clean.saveTable (a := b + 0x200) (n := 8) hk.p
  have h3 := h2.clean.wr (b + 0x240) 1 (vsBits k.r.vs)
  have h4 := h3.clean.wrEach (a := b + 0x300) (n := 4) hk.sem.2
  have h5 := h4.clean.saveTable (a := b + 0x400) (n := 64) hk.t
  have h6 := h5.clean.saveTable (a := b + 0x800) (n := 64) hk.g
  have z1 := hzero.keeps (h1.above (c := b + 0x200) (by omega)) (show b + 0x100 ≤ b + 0x200 by omega) (Nat.le_refl _) (fun x hx _ => hx)
  have z3 := z1.keeps ((h2.above (by omega)).trans (h3.above (c := b + 0x300) (by omega))) (show b + 0x200 ≤ b + 0x300 by omega) (Nat.le_refl _) (fun x hx _ => hx)
  have z4 := z3.keeps (h4.above (c := b + 0x400) (by omega)) (show b + 0x300 ≤ b + 0x400 by omega) (Nat.le_refl _) (fun x hx _ => hx)
  have z5 := z4.keeps (h5.above (c := b + 0x800) (by omega)) (show b + 0x400 ≤ b + 0x800 by omega) (Nat.le_refl _) (fun x hx _ => hx)
  have d5 := h6.below (c := b + 0x800) (Nat.le_refl _)
  have d4 := (h5.below (c := b + 0x400) (Nat.le_refl _)).trans (d5.mono (fun x hx => by omega))
  have d3 := (h4.below (c := b + 0x300) (Nat.le_refl _)).trans (d4.mono (fun x hx => by omega))
  have d2 := (h3.below (c := b + 0x240) (Nat.le_refl _)).trans (d3.mono (fun x hx => by omega))
  have d1 := (h2.below (c := b + 0x200) (Nat.le_refl _)).trans (d2.mono (fun x hx => by omega))
  exact {
    sreg := fun i hi => (d1.rd (fun x _ hx => by omega)).trans (h.rd_saveTable rfl hk.s (hzero.rd (by omega) (by omega)))
    preg := fun i hi => (d2.rd (fun x _ hx => by omega)).trans (h1.clean.rd_saveTable rfl hk.p (z1.rd (by omega) (by omega)))
    vs := (d3.rd (fun x _ hx => by omega)).trans ((State.rd_wr_same h2.clean.noErr _ _ _).trans (Nat.mod_eq_of_lt (vsBits_lt _)))
    semv := fun i hi => (d4.rd (fun x _ hx => by omega)).trans (h3.clean.rd_wrEach_sem hk.sem hk.semv (z3.rd (by omega) (by omega)))
    tdesc := fun i hi => (d5.rd (fun x _ hx => by omega)).trans (h4.clean.rd_saveTable rfl hk.t (z4.rd (by omega) (by omega)))
    gen := fun i hi => h5.clean.rd_saveTable rfl hk.g (z5.rd (by omega) (by omega)) }

end Sys2Proof.Machine
end

/-! ### The queues in a save area, and what is written around them (R166) -/

section
namespace Sys2Proof.Machine

/-- The entries of the W queue are written. -/
def saveWq (b : Nat) (wq : List WEntry) (s : State) : State :=
  (List.range wq.length).foldl (fun s i =>
    let e := nth ⟨0, 0, 0⟩ wq i
    (((s.wr (b + 0xA00 + 32 * i) 8 e.addr.toNat).wr (b + 0xA08 + 32 * i) 8 e.arg.toNat).wr (b + 0xA10 + 32 * i) 2 e.tag).wr (b + 0xA1F + 32 * i) 1 1) s

theorem saveWq_keeps {s : State} (h : s.Clean) (b : Nat) {wq : List WEntry} (hlen : wq.length ≤ 64) :
    s.Keeps (Outside (b + 0xA00) (b + 0x1200)) (saveWq b wq s) := by
  refine State.Keeps.foldl (fun t ht i hi => ?_) h
  rw [List.mem_range] at hi
  have h1 := ht.wr (b + 0xA00 + 32 * i) 8 (nth ⟨0, 0, 0⟩ wq i).addr.toNat
  have h2 := h1.clean.wr (b + 0xA08 + 32 * i) 8 (nth ⟨0, 0, 0⟩ wq i).arg.toNat
  have h3 := h2.clean.wr (b + 0xA10 + 32 * i) 2 (nth ⟨0, 0, 0⟩ wq i).tag
  have h4 := h3.clean.wr (b + 0xA1F + 32 * i) 1 1
  refine (((h1.mono ?_).trans (h2.mono ?_)).trans (h3.mono ?_)).trans (h4.mono ?_) <;> (intro x hx; unfold Outside at *; omega)

/-- The place of each queued transfer. -/
def dmaPlaces (b : Nat) (k : Core) : List (Nat × Xfer) :=
  (List.range 4).flatMap (fun q => (k.dmaq q).xs.zipIdx.map (fun e => (b + 0x1200 + 1024 * q + 64 * e.2, e.1)))

theorem mem_dmaPlaces {b : Nat} {k : Core} {e : Nat × Xfer} : e ∈ dmaPlaces b k ↔
    ∃ q < 4, ∃ i, ∃ hi : i < (k.dmaq q).xs.length, e = (b + 0x1200 + 1024 * q + 64 * i, (k.dmaq q).xs[i]) := by
  simp only [dmaPlaces, List.mem_flatMap, List.mem_range, List.mem_map, Prod.exists, List.mk_mem_zipIdx_iff_getElem?, List.getElem?_eq_some_iff]
  constructor
  · rintro ⟨q, hq, x, i, ⟨hi, rfl⟩, rfl⟩
    exact ⟨q, hq, i, hi, rfl⟩
  · rintro ⟨q, hq, i, hi, rfl⟩
    exact ⟨q, hq, _, i, ⟨hi, rfl⟩, rfl⟩

theorem dmaPlaces_apart (b : Nat) {k : Core} (hk : CoreFits k) : (dmaPlaces b k).Pairwise (fun d e => d.1 + 64 ≤ e.1 ∨ e.1 + 64 ≤ d.1) := by
  rw [dmaPlaces, List.pairwise_flatMap]
  constructor
  · intro q _
    have hlt : ((k.dmaq q).xs.zipIdx.map Prod.snd).Pairwise (· < ·) := by
      rw [List.zipIdx_map_snd]
      exact List.pairwise_lt_range'
    rw [List.pairwise_map] at hlt ⊢
    exact hlt.imp (fun {d e} hde => Or.inl (by dsimp only; omega))
  · refine List.pairwise_lt_range.imp (fun {q q'} hqq d hd e he => ?_)
    obtain ⟨⟨x, i⟩, hx, rfl⟩ := List.mem_map.1 hd
    obtain ⟨⟨y, j⟩, hy, rfl⟩ := List.mem_map.1 he
    have hi := (List.mem_zipIdx hx).2.1
    have hlen := hk.dma q
    exact Or.inl (by dsimp only; omega)

theorem dmaPlaces_length (b : Nat) {k : Core} (hk : CoreFits k) : (dmaPlaces b k).length ≤ 64 := by
  have h0 := hk.dma 0
  have h1 := hk.dma 1
  have h2 := hk.dma 2
  have h3 := hk.dma 3
  simp only [dmaPlaces, List.length_flatMap, List.length_map, List.length_zipIdx, List.range_succ, List.range_zero, List.nil_append, List.map_append,
    List.map_cons, List.map_nil, List.sum_append, List.sum_cons, List.sum_nil]
  omega

/-- The queued transfers stand in the save area at b of state t, and nothing stands behind them. -/
structure DmaAt (t : State) (b : Nat) (k : Core) : Prop where
  entry : ∀ q < 4, ∀ i, ∀ hi : i < (k.dmaq q).xs.length, restXfer t (b + 0x1200 + 1024 * q + 64 * i) = some (k.dmaq q).xs[i]
  free : ∀ q < 4, ∀ i, (k.dmaq q).xs.length ≤ i → i < 16 → restXfer t (b + 0x1200 + 1024 * q + 64 * i) = none

theorem restXfer_congr {s t : State} {a : Nat} (h : t.line a = s.line a) (himg : t.images = s.images) : restXfer t a = restXfer s a := by
  rw [restXfer, h, himg]
  rfl

theorem DmaAt.keeps {t u : State} {b : Nat} {k : Core} {P : Nat → Prop} (h : DmaAt t b k) (hfit : CoreFits k) (hk : t.Keeps P u)
    (hP : ∀ x, b + 0x1200 ≤ x → x < b + 0x2200 → P x) : DmaAt u b k := by
  have hrest : ∀ q < 4, ∀ i < 16, restXfer u (b + 0x1200 + 1024 * q + 64 * i) = restXfer t (b + 0x1200 + 1024 * q + 64 * i) := fun q hq i hi =>
    restXfer_congr (State.line_congr (fun x hx hx' => hk.byte x (hP x (by omega) (by omega)))) hk.images
  exact {
    entry := fun q hq i hi => (hrest q hq i (Nat.lt_of_lt_of_le hi (hfit.dma q))).trans (h.entry q hq i hi)
    free := fun q hq i hi hi' => (hrest q hq i hi').trans (h.free q hq i hi hi') }

theorem saveDma_keeps {s : State} (h : s.Clean) (b : Nat) {k : Core} (hk : CoreFits k) :
    s.KeepsBytes (Outside (b + 0x1200) (b + 0x2200)) (saveEach (dmaPlaces b k) s) := by
  refine h.saveEach (fun e he y hy => ?_)
  obtain ⟨q, hq, i, hi, rfl⟩ := mem_dmaPlaces.1 he
  have hlen := hk.dma q
  unfold Outside at *
  dsimp only
  omega

theorem saveDma_dmaAt {s : State} (h : s.Clean) {b : Nat} {k : Core} (hk : CoreFits k) (hzero : s.ZeroIn (b + 0x1200) (b + 0x2200)) :
    DmaAt (saveEach (dmaPlaces b k) s) b k where
  entry q hq i hi :=
    (standsFor_of_mem_saveEach h (dmaPlaces_apart b hk) (Nat.le_trans (dmaPlaces_length b hk) (by decide)) (mem_dmaPlaces.2 ⟨q, hq, i, hi, rfl⟩)).restXfer
  free q hq i hi hi' := by
    have hkeep : s.KeepsBytes (fun x => b + 0x1200 + 1024 * q + 64 * i ≤ x ∧ x < b + 0x1200 + 1024 * q + 64 * i + 64) (saveEach (dmaPlaces b k) s) := by
      refine h.saveEach (fun e he y hy => ?_)
      obtain ⟨q', hq', j, hj, rfl⟩ := mem_dmaPlaces.1 he
      have hlen := hk.dma q'
      unfold Outside
      dsimp only
      rcases Nat.lt_trichotomy q q' with hqq | hqq | hqq
      · omega
      · subst hqq
        omega
      · omega
    have hrd := (hzero.keeps (lo' := b + 0x1200 + 1024 * q + 64 * i) (hi' := b + 0x1200 + 1024 * q + 64 * i + 64) hkeep (by omega) (by omega)
      (fun x hx hx' => ⟨hx, hx'⟩)).rd (Nat.le_refl _) (Nat.le_refl _)
    have hline : (saveEach (dmaPlaces b k) s).line (b + 0x1200 + 1024 * q + 64 * i) = 0 := by rw [State.line, hrd]; rfl
    rw [restXfer, if_pos hline]

/-- The cast-offs that wait are written. -/
def savePend (b : Nat) (m : CoreMat) (s : State) : State :=
  (m.pend.zipIdx).foldl (fun s e => (s.wr (b + 0x2840 + 128 * e.2) 64 (SMap.get 0 e.1 m.dcbs).toNat).wr (b + 0x2800 + 128 * e.2) 1 (128 + e.1)) s

theorem savePend_keeps {s : State} (h : s.Clean) (b : Nat) {m : CoreMat} (hlen : m.pend.length ≤ 16) :
    s.Keeps (Outside (b + 0x2800) (b + 0x3000)) (savePend b m s) := by
  refine State.Keeps.foldl (fun t ht e he => ?_) h
  have hi := (List.mem_zipIdx he).2.1
  have h1 := ht.wr (b + 0x2840 + 128 * e.2) 64 (SMap.get 0 e.1 m.dcbs).toNat
  have h2 := h1.clean.wr (b + 0x2800 + 128 * e.2) 1 (128 + e.1)
  refine (h1.mono ?_).trans (h2.mono ?_) <;> (intro x hx; unfold Outside at *; omega)

/-- The requests outstanding and the core's end are written. -/
def saveReqs (b : Nat) (k : Core) (s : State) : State :=
  (State.wrEach (b + 0x3600) 8 (k.reqs.zipIdx.map (fun e => (e.2, e.1 + 1))) s).wr (b + 0x31FF) 1 (saveEnd k.seq)

/-- They stand in the save area at b of state t. -/
structure ReqsAt (t : State) (b : Nat) (k : Core) : Prop where
  entry : ∀ i, ∀ hi : i < k.reqs.length, t.rd (b + 0x3600 + 8 * i) 8 = k.reqs[i] + 1
  free : ∀ i, k.reqs.length ≤ i → i < 32 → t.rd (b + 0x3600 + 8 * i) 8 = 0
  ended : t.rd (b + 0x31FF) 1 = saveEnd k.seq

theorem ReqsAt.keeps {t u : State} {b : Nat} {k : Core} {P : Nat → Prop} (h : ReqsAt t b k) (hfit : CoreFits k) (hk : t.KeepsBytes P u)
    (hP : ∀ x, x = b + 0x31FF ∨ b + 0x3600 ≤ x ∧ x < b + 0x3700 → P x) : ReqsAt u b k := by
  have hlen := hfit.reqs
  exact {
    entry := fun i hi => (hk.rd (fun x hx hx' => hP x (Or.inr (by omega)))).trans (h.entry i hi)
    free := fun i hi hi' => (hk.rd (fun x hx hx' => hP x (Or.inr (by omega)))).trans (h.free i hi hi')
    ended := (hk.rd (fun x hx hx' => hP x (Or.inl (by omega)))).trans h.ended }

theorem saveReqs_keeps {s : State} (h : s.Clean) (b : Nat) {k : Core} (hk : CoreFits k) : s.Keeps (Outside (b + 0x31FF) (b + 0x3700)) (saveReqs b k s) := by
  have hplaces : ∀ e ∈ k.reqs.zipIdx.map (fun e => (e.2, e.1 + 1)), e.1 < 32 := by
    intro e he
    obtain ⟨⟨r, i⟩, hr, rfl⟩ := List.mem_map.1 he
    have hi := (List.mem_zipIdx hr).2.1
    have hlen := hk.reqs
    dsimp only
    omega
  have h1 := h.wrEach (a := b + 0x3600) (n := 8) hplaces
  have h2 := h1.clean.wr (b + 0x31FF) 1 (saveEnd k.seq)
  refine (h1.mono ?_).trans (h2.mono ?_) <;> (intro x hx; unfold Outside at *; omega)

theorem find_zipIdx_succ (l : List Nat) (i n : Nat) :
    SMap.find i ((l.zipIdx n).map (fun e => (e.2, e.1 + 1))) = if n ≤ i then (l[i - n]?).map (· + 1) else none := by
  induction l generalizing n with
  | nil => simp [SMap.find]
  | cons x l ih =>
    rw [List.zipIdx_cons, List.map_cons, SMap.find, ih]
    rcases Nat.lt_trichotomy n i with h | h | h
    · rw [if_neg (by dsimp only; omega), if_pos (by omega), if_pos (by omega), show i - n = i - (n + 1) + 1 by omega, List.getElem?_cons_succ]
    · simp [h]
    · rw [if_neg (by dsimp only; omega), if_neg (by omega), if_neg (by omega)]

theorem saveEnd_lt (q : CoreSeq) : saveEnd q < 256 := by
  unfold saveEnd
  split <;> split <;> decide

theorem saveReqs_reqsAt {s : State} (h : s.Clean) {b : Nat} {k : Core} (hk : CoreFits k) (hzero : s.ZeroIn (b + 0x3600) (b + 0x3700)) :
    ReqsAt (saveReqs b k s) b k := by
  have hnodup : ((k.reqs.zipIdx.map (fun e => (e.2, e.1 + 1))).map (fun e => e.1)).Nodup := by
    rw [List.map_map]
    exact List.nodup_zipIdx_map_snd k.reqs
  have hclean : (State.wrEach (b + 0x3600) 8 (k.reqs.zipIdx.map (fun e => (e.2, e.1 + 1))) s).Clean :=
    (State.Keeps.foldl (P := fun _ => False) (fun t ht e _ => (ht.wr _ _ _).mono (fun _ hx => hx.elim)) h).clean
  have hrd : ∀ i < 32, (saveReqs b k s).rd (b + 0x3600 + 8 * i) 8 = (((k.reqs[i]?).map (· + 1)).map (· % 256 ^ 8)).getD 0 := by
    intro i hi
    refine ((hclean.wr (b + 0x31FF) 1 (saveEnd k.seq)).rd (fun x hx _ => Or.inr (by omega))).trans ?_
    rw [h.rd_wrEach hnodup, find_zipIdx_succ, if_pos (Nat.zero_le i), Nat.sub_zero, hzero.rd (by omega) (by omega)]
  exact {
    entry := fun i hi => by
      have hlen := hk.reqs
      have hv := hk.reqv _ (List.getElem_mem hi)
      rw [hrd i (by omega), List.getElem?_eq_getElem hi]
      exact Nat.mod_eq_of_lt (show k.reqs[i] + 1 < 256 ^ 8 by omega)
    free := fun i hi hi' => by
      rw [hrd i hi', List.getElem?_eq_none hi]
      rfl
    ended := (State.rd_wr_same hclean.noErr _ _ _).trans (Nat.mod_eq_of_lt (saveEnd_lt _)) }

end Sys2Proof.Machine
end

/-! ### A whole save, part by part (R165, R166) -/

section
namespace Sys2Proof.Machine

/-- The header is written over a zeroed area. -/
def saveHead (b c : Nat) (s : State) : State := (s.zero b 0x100000).putBytes b (saveHeader s c)

/-- The skeins, drain carries and halves are written. -/
def saveMatrix (b W : Nat) (m : CoreMat) (s : State) : State :=
  let s10 := (List.range 16).foldl (fun s i => saveSkein W (b + 0xD000 + 10304 * i) (m.skein i) s) s
  let s11 := m.carry.foldl (fun s e => saveCarry (b + 0x8000 + 5120 * e.1) e.2 s) s10
  let s12 := (List.range 2).foldl (fun s h => saveHalf (b + 0x3200 + 64 * h) (b + 0x40000 + 69632 * h) 0x10000 (m.whalf h) s) s11
  (List.range 8).foldl (fun s h => saveHalf (b + 0x3280 + 64 * h) (b + 0x62000 + 34816 * h) 0x8000 (m.fhalf (h / 2) (h % 2)) s) s12

/-- The selected scratchpad banks are copied. -/
def saveScratch (b c : Nat) (s : State) : State :=
  (List.range 48).foldl (fun s i =>
    if Nat.testBit (saveBanks s c) i then s.copyMem (spBase c + i * 0x80000) (b + 0x100000 + i * 0x80000) 0x80000 else s) s

theorem State.asOne_unarmed {s : State} (h : bitOf (s.reg 0 0xC00018) 63 = false) (sp : List (Nat × Nat)) (f : State → State) : s.asOne sp f = f s := by
  have hr : bitOf (SMap.get 0 0xC00018 s.regs) 63 = false := h
  unfold State.asOne
  dsimp only
  rw [if_neg (by rw [hr]; simp)]

/-- The save before its matrix state and scratchpad banks. -/
def saveLow (b c : Nat) (k : Core) (s : State) : State :=
  saveTable (b + 0x4000) 256 k.r.v (saveReqs b k (savePend b k.m (saveEach (dmaPlaces b k) (saveWq b k.seq.wq (saveRegs b k.r (saveHead b c s))))))

theorem saveDma_eq (b : Nat) (k : Core) (s : State) : saveEach (dmaPlaces b k) s =
    (List.range 4).foldl (fun s q => ((k.dmaq q).xs.zipIdx).foldl (fun s e => saveXfer (b + 0x1200 + 1024 * q + 64 * e.2) e.1 s) s) s := by
  simp only [saveEach, dmaPlaces, List.foldl_flatMap, List.foldl_map]

theorem saveReqs_eq (b : Nat) (k : Core) (s : State) : saveReqs b k s =
    ((k.reqs.zipIdx).foldl (fun s e => s.wr (b + 0x3600 + 8 * e.2) 8 (e.1 + 1)) s).wr (b + 0x31FF) 1 (saveEnd k.seq) := by
  rw [saveReqs, State.wrEach, List.foldl_map]

theorem saveCoreAt_eq {s : State} (h : s.Clean) (b c : Nat) :
    saveCoreAt b c s = saveScratch b c (saveMatrix b (s.width c) (s.core c).m (saveLow b c (s.core c) s)) := by
  rw [saveCoreAt, State.asOne_unarmed h.unarmed, saveLow, saveReqs_eq, saveDma_eq]
  rfl

/-! #### The header -/

theorem State.Clean.rd_putBytes_part {s : State} (h : s.Clean) (a : Nat) (l₁ l₂ l₃ : List Byte) :
    (s.putBytes a (l₁ ++ (l₂ ++ l₃))).rd (a + l₁.length) l₂.length = leNat l₂ := by
  have hbytes : (s.putBytes a (l₁ ++ (l₂ ++ l₃))).bytes (a + l₁.length) l₂.length = l₂ := by
    apply List.ext_getElem
    · rw [State.bytes_length]
    · intro i h1 h2
      simp only [State.bytes, List.getElem_map, List.getElem_range]
      rw [State.byte_putBytes h.noErr, if_pos (by simp only [List.length_append]; omega), Nat.add_assoc, Nat.add_sub_cancel_left,
        List.getD_append_right _ _ _ _ (Nat.le_add_right _ _), Nat.add_sub_cancel_left, List.getD_append _ _ _ _ h2, List.getD_eq_getElem _ _ h2]
  rw [State.rd, hbytes]

/-- The byte of flags in a save area's header. -/
def headFlags (q : CoreSeq) (banks : Nat) : Nat :=
  (if q.infrag then 1 else 0) + (if q.wmode then 2 else 0) + (if q.held == .halted then 4 else 0) + (if banks = 2 ^ 48 - 1 then 0 else 8)

/-- The header and the flags of a saved core stand in the save area at b of state t. -/
structure HeadAt (t : State) (b : Nat) (q : CoreSeq) : Prop where
  flags : ∃ d : Bool, t.rd (b + 7) 1 = (if q.infrag then 1 else 0) + (if q.wmode then 2 else 0) + (if q.held == .halted then 4 else 0) + (if d then 8 else 0)
  baddr : t.rd (b + 8) 6 = q.baddr.toNat
  raddr : q.infrag = true → t.rd (b + 16) 6 = q.raddr.toNat

theorem HeadAt.keeps {t u : State} {b : Nat} {q : CoreSeq} {P : Nat → Prop} (h : HeadAt t b q) (hk : t.KeepsBytes P u) (hP : ∀ x, x < b + 0x100 → P x) :
    HeadAt u b q := by
  have hrd : ∀ a n, a + n ≤ b + 0x100 → u.rd a n = t.rd a n := fun a n hhi => hk.rd (fun x _ hx => hP x (by omega))
  exact {
    flags := h.flags.imp (fun _ hd => (hrd _ _ (by omega)).trans hd)
    baddr := (hrd _ _ (by omega)).trans h.baddr
    raddr := fun hi => (hrd _ _ (by omega)).trans (h.raddr hi) }

theorem State.rd_low_addr {s : State} {a : Nat} {x : Addr} (h : s.rd a 8 = x.toNat) : s.rd a 6 = x.toNat := by
  have hx : x.toNat < 256 ^ 6 := x.isLt
  have hfield := State.rd_field s a 0 6 8 (by decide)
  rw [h, Nat.pow_zero, Nat.div_one, Nat.add_zero, Nat.mod_eq_of_lt hx] at hfield
  exact hfield.symm

theorem saveHeader_length (s : State) (c : Nat) : (saveHeader s c).length = 38 := by
  simp only [saveHeader, List.length_append, leBytes_length]

theorem saveHead_keeps {s : State} (h : s.Clean) (b c : Nat) : s.Keeps (Outside b (b + 0x100000)) (saveHead b c s) := by
  have h1 := h.zero b 0x100000
  have h2 := h1.clean.putBytes b (saveHeader s c)
  rw [saveHeader_length] at h2
  refine h1.trans (h2.mono ?_)
  intro x hx
  unfold Outside at *
  omega

theorem saveHead_zero {s : State} (h : s.Clean) (b c : Nat) : (saveHead b c s).ZeroIn (b + 0x100) (b + 0x100000) := by
  have h2 := (h.zero b 0x100000).clean.putBytes b (saveHeader s c)
  rw [saveHeader_length] at h2
  intro x hx hx'
  refine (h2.byte x (Or.inr (by omega))).trans ?_
  rw [State.byte_zero h.noErr, if_pos (by omega)]

theorem saveHead_rd {s : State} (h : s.Clean) (b : Nat) {c n m v : Nat} {l₁ l₃ : List Byte} (hsplit : saveHeader s c = l₁ ++ (leBytes m v ++ l₃))
    (hn : l₁.length = n) (hv : v < 256 ^ m) : (saveHead b c s).rd (b + n) m = v := by
  have hpart := (h.zero b 0x100000).clean.rd_putBytes_part b l₁ (leBytes m v) l₃
  rwa [leNat_leBytes, Nat.mod_eq_of_lt hv, leBytes_length, hn, ← hsplit] at hpart

theorem headFlags_lt (q : CoreSeq) (banks : Nat) : headFlags q banks < 256 := by
  unfold headFlags
  split <;> split <;> split <;> split <;> decide

theorem saveHead_headAt {s : State} (h : s.Clean) (b c : Nat) : HeadAt (saveHead b c s) b (s.core c).seq := by
  have hflags : (saveHead b c s).rd (b + 7) 1 = headFlags (s.core c).seq (saveBanks s c) := by
    refine saveHead_rd h b (l₁ := leBytes 4 0x5A534156 ++ leBytes 2 1 ++ leBytes 1 (s.width c))
      (l₃ := leBytes 8 (s.core c).seq.baddr.toNat ++ (leBytes 8 (if (s.core c).seq.infrag then (s.core c).seq.raddr.toNat else 0) ++ (leBytes 8 s.course.toNat ++ leBytes 6 (saveBanks s c)))) ?_ ?_ (headFlags_lt _ _)
    · rw [saveHeader, headFlags]
      simp only [List.append_assoc]
    · simp only [List.length_append, leBytes_length]
  have hbaddr : (saveHead b c s).rd (b + 8) 8 = (s.core c).seq.baddr.toNat := by
    refine saveHead_rd h b
      (l₁ := leBytes 4 0x5A534156 ++ leBytes 2 1 ++ leBytes 1 (s.width c) ++ leBytes 1 (headFlags (s.core c).seq (saveBanks s c)))
      (l₃ := leBytes 8 (if (s.core c).seq.infrag then (s.core c).seq.raddr.toNat else 0) ++ (leBytes 8 s.course.toNat ++ leBytes 6 (saveBanks s c))) ?_ ?_
      (Nat.lt_trans (s.core c).seq.baddr.isLt (by decide))
    · rw [saveHeader, headFlags]
      simp only [List.append_assoc]
    · simp only [List.length_append, leBytes_length]
  have hraddr : (s.core c).seq.infrag = true → (saveHead b c s).rd (b + 16) 8 = (s.core c).seq.raddr.toNat := by
    intro hin
    refine saveHead_rd h b
      (l₁ := leBytes 4 0x5A534156 ++ leBytes 2 1 ++ leBytes 1 (s.width c) ++ leBytes 1 (headFlags (s.core c).seq (saveBanks s c)) ++
        leBytes 8 (s.core c).seq.baddr.toNat)
      (l₃ := leBytes 8 s.course.toNat ++ leBytes 6 (saveBanks s c)) ?_ ?_ (Nat.lt_trans (s.core c).seq.raddr.isLt (by decide))
    · rw [saveHeader, headFlags]
      simp only [List.append_assoc, hin, if_true]
    · simp only [List.length_append, leBytes_length]
  refine ⟨⟨!decide (saveBanks s c = 2 ^ 48 - 1), ?_⟩, State.rd_low_addr hbaddr, fun hin => State.rd_low_addr (hraddr hin)⟩
  rw [hflags, headFlags]
  by_cases hb : saveBanks s c = 2 ^ 48 - 1 <;> simp [hb]

/-! #### The matrix state and the banks lie apart -/

/-- The parts of a save area at b that the matrix state and the banks leave, up to its end. -/
def LowPart (b x : Nat) : Prop := x < b + 0x3200 ∨ b + 0x3600 ≤ x ∧ x < b + 0x8000

theorem saveSkein_keeps {s : State} (h : s.Clean) (W a : Nat) (k : Skein) : s.Keeps (· < a) (saveSkein W a k s) := by
  have h1 := h.putBytes a (saveBuf k W)
  have h2 := h1.clean.wr (a + 7) 1 k.st.code
  refine (h1.mono ?_).trans (h2.mono ?_) <;> (intro x hx; exact Or.inl (by omega))

theorem saveCarry_keeps {s : State} (h : s.Clean) (a : Nat) (k : Carry) : s.Keeps (· < a) (saveCarry a k s) := by
  have h1 := h.putBytes a (leBytes 1 k.stream ++ leBytes 1 k.cols ++ leBytes 1 (if k.vals.isEmpty then 0 else 1))
  refine (h1.mono (fun x hx => Or.inl hx)).trans (State.Keeps.foldl (fun t ht i _ => (ht.putBytes _ _).mono (fun x hx => Or.inl ?_)) h1.clean)
  omega

theorem saveHalf_keeps {s : State} (h : s.Clean) (tag a els : Nat) (k : Half) : s.Keeps (fun x => Outside tag (tag + 8) x ∧ x < a) (saveHalf tag a els k s) := by
  have h1 := h.putBytes tag (halfTag k)
  have htag : (halfTag k).length = 8 := by simp only [halfTag, List.length_append, leBytes_length]
  rw [htag] at h1
  refine (h1.mono (fun x hx => hx.1)).trans (State.Keeps.foldl (fun t ht i _ => State.Keeps.foldl (fun u hu j _ => ?_) ht) h1.clean)
  have h2 := hu.putBytes (a + storeBytes k.fmt * (32 * i + j)) (storeElems k.fmt (nth (zeroBlock 0) (nth [] k.blocks i) j))
  refine (h2.mono ?_).trans ((h2.clean.wr _ _ _).mono ?_) <;> (intro x hx; exact Or.inl (by omega))

theorem saveMatrix_keeps {s : State} (h : s.Clean) (b W : Nat) (m : CoreMat) : s.Keeps (LowPart b) (saveMatrix b W m s) := by
  have h1 : s.Keeps (LowPart b) _ := State.Keeps.foldl (f := fun s i => saveSkein W (b + 0xD000 + 10304 * i) (m.skein i) s) (l := List.range 16)
    (fun t ht i _ => (saveSkein_keeps ht _ _ _).mono (fun x hx => by unfold LowPart at hx; omega)) h
  have h2 := State.Keeps.foldl (P := LowPart b) (f := fun s e => saveCarry (b + 0x8000 + 5120 * e.1) e.2 s) (l := m.carry)
    (fun t ht e _ => (saveCarry_keeps ht _ _).mono (fun x hx => by unfold LowPart at hx; omega)) h1.clean
  have h3 := State.Keeps.foldl (P := LowPart b) (f := fun s h => saveHalf (b + 0x3200 + 64 * h) (b + 0x40000 + 69632 * h) 0x10000 (m.whalf h) s) (l := List.range 2)
    (fun t ht i hi => (saveHalf_keeps ht _ _ _ _).mono (fun x hx => by rw [List.mem_range] at hi; unfold LowPart at hx; unfold Outside; omega)) h2.clean
  have h4 := State.Keeps.foldl (P := LowPart b)
    (f := fun s h => saveHalf (b + 0x3280 + 64 * h) (b + 0x62000 + 34816 * h) 0x8000 (m.fhalf (h / 2) (h % 2)) s) (l := List.range 8)
    (fun t ht i hi => (saveHalf_keeps ht _ _ _ _).mono (fun x hx => by rw [List.mem_range] at hi; unfold LowPart at hx; unfold Outside; omega)) h3.clean
  exact ((h1.trans h2).trans h3).trans h4

theorem saveScratch_keeps {s : State} (h : s.Clean) (b c : Nat) : s.Keeps (LowPart b) (saveScratch b c s) := by
  refine State.Keeps.foldl (fun t ht i _ => ?_) h
  split
  · exact (ht.copyMem _ _ _).mono (fun x hx => Or.inl (by unfold LowPart at hx; omega))
  · exact State.Keeps.refl ht

end Sys2Proof.Machine
end

/-! ### A saved core restored (R165 to R167) -/

section
namespace Sys2Proof.Machine

/-- A save area at b of state t holds core k. -/
structure SavedAt (t : State) (b : Nat) (k : Core) : Prop where
  head : HeadAt t b k.seq
  regs : RegsAt t b k.r
  vreg : ∀ i < 64, t.rd (b + 0x4000 + 256 * i) 256 = (k.r.vreg i).toNat
  dma : DmaAt t b k
  reqs : ReqsAt t b k

theorem SavedAt.keeps {t u : State} {b : Nat} {k : Core} (h : SavedAt t b k) (hfit : CoreFits k) (hk : t.Keeps (LowPart b) u) : SavedAt u b k where
  head := h.head.keeps hk.toKeepsBytes (fun x hx => by unfold LowPart; omega)
  regs := h.regs.keeps hk.toKeepsBytes (fun x _ hx => by unfold LowPart; omega)
  vreg i hi := (hk.rd (fun x hx hx' => by unfold LowPart; omega)).trans (h.vreg i hi)
  dma := h.dma.keeps hfit hk (fun x _ hx => by unfold LowPart; omega)
  reqs := h.reqs.keeps hfit hk.toKeepsBytes (fun x hx => by unfold LowPart; omega)

theorem State.ZeroIn.mono {s : State} {lo hi lo' hi' : Nat} (h : s.ZeroIn lo hi) (hlo : lo ≤ lo') (hhi : hi' ≤ hi) : s.ZeroIn lo' hi' :=
  fun x hx hx' => h x (by omega) (by omega)

/-- Each part is written over zeroes, and the parts after it lie above. -/
theorem saveLow_savedAt {s : State} (h : s.Clean) (b c : Nat) (hk : CoreFits (s.core c)) :
    (saveLow b c (s.core c) s).Clean ∧ SavedAt (saveLow b c (s.core c) s) b (s.core c) := by
  have h1 := saveHead_keeps h b c
  have hhead := saveHead_headAt h b c
  have z1 := saveHead_zero h b c
  rw [saveLow]
  generalize s.core c = k at hk hhead ⊢
  have h2 := saveRegs_keeps h1.clean b hk
  have h3 := saveWq_keeps h2.clean b hk.wq
  have h4 := saveDma_keeps h3.clean b hk
  have h5 := savePend_keeps h4.clean b hk.pend
  have h6 := saveReqs_keeps h5.clean b hk
  have h7 := h6.clean.saveTable (a := b + 0x4000) (n := 256) hk.v
  have z2 := z1.keeps (h2.above (c := b + 0xA00) (Nat.le_refl _)) (show b + 0x100 ≤ b + 0xA00 by omega) (Nat.le_refl _) (fun x hx _ => hx)
  have z3 := z2.keeps (h3.above (c := b + 0x1200) (Nat.le_refl _)) (show b + 0xA00 ≤ b + 0x1200 by omega) (Nat.le_refl _) (fun x hx _ => hx)
  have z4 := z3.keeps (h4.above (c := b + 0x2200) (Nat.le_refl _)) (show b + 0x1200 ≤ b + 0x2200 by omega) (Nat.le_refl _) (fun x hx _ => hx)
  have z5 := z4.keeps (h5.above (c := b + 0x3000) (Nat.le_refl _)) (show b + 0x2200 ≤ b + 0x3000 by omega) (Nat.le_refl _) (fun x hx _ => hx)
  have z6 := z5.keeps (h6.above (c := b + 0x3700) (Nat.le_refl _)) (show b + 0x3000 ≤ b + 0x3700 by omega) (Nat.le_refl _) (fun x hx _ => hx)
  have d6 : State.Keeps (· < b + 0x4000) _ _ := h7.mono (fun x hx => Or.inl hx)
  have d5 : State.Keeps (· < b + 0x31FF) _ _ := (h6.mono (fun x hx => Or.inl hx)).trans (d6.mono (fun x hx => by omega))
  have d4 : State.Keeps (· < b + 0x2800) _ _ := (h5.mono (fun x hx => Or.inl hx)).trans (d5.mono (fun x hx => by omega))
  have d3 := (h4.below (c := b + 0x1200) (Nat.le_refl _)).trans (d4.toKeepsBytes.mono (fun x hx => by omega))
  have d2 := (h3.below (c := b + 0xA00) (Nat.le_refl _)).trans (d3.mono (fun x hx => by omega))
  have d1 := (h2.below (c := b + 0x100) (Nat.le_refl _)).trans (d2.mono (fun x hx => by omega))
  have hregs := saveRegs_regsAt (b := b) h1.clean hk (z1.mono (Nat.le_refl _) (by omega))
  have hdma := saveDma_dmaAt (b := b) h3.clean hk (z3.mono (Nat.le_refl _) (by omega))
  have hreqs := saveReqs_reqsAt (b := b) h5.clean hk (z5.mono (by omega) (by omega))
  exact ⟨h7.clean, {
    head := hhead.keeps d1 (fun x hx => hx)
    regs := hregs.keeps d2 (fun x _ hx => hx)
    vreg := fun i hi => h6.clean.rd_saveTable (by decide) hk.v (z6.rd (by omega) (by omega))
    dma := hdma.keeps hk d4 (fun x _ hx => by omega)
    reqs := hreqs.keeps hk d6.toKeepsBytes (fun x hx => by omega) }⟩

theorem saveCoreAt_savedAt {s : State} (h : s.Clean) (b c : Nat) (hk : CoreFits (s.core c)) :
    (saveCoreAt b c s).Clean ∧ SavedAt (saveCoreAt b c s) b (s.core c) := by
  obtain ⟨hclean, hsaved⟩ := saveLow_savedAt h b c hk
  have hmat := saveMatrix_keeps hclean b (s.width c) (s.core c).m
  have hscratch := saveScratch_keeps hmat.clean b c
  rw [saveCoreAt_eq h]
  exact ⟨hscratch.clean, (hsaved.keeps hk hmat).keeps hk hscratch⟩

/-! #### What a restore reads -/

/-- The registers that a restore reads from the save area at b. -/
def restRegs (s : State) (b : Nat) : CoreRegs :=
  let vs := s.byte (b + 0x240)
  { s := restTable 64 s (b + 0x100) 32 8, v := restTable 2048 s (b + 0x4000) 64 256, p := restTable 64 s (b + 0x200) 8 8
    vs := ⟨bitOf vs 0, bitOf vs 1, bitOf vs 2, bitOf vs 3⟩, t := restTable 512 s (b + 0x400) 16 64, g := restTable 512 s (b + 0x800) 8 64
    sem := (List.range 64).map (fun i => (i, s.rd (b + 0x300 + 4 * i) 4)) }

/-- A core is as a restore from the save area at b of state s leaves it. -/
structure Restored (s : State) (b : Nat) (x : Core) : Prop where
  regs : x.r = restRegs s b
  run : x.seq.run = if bitOf (s.byte (b + 7)) 2 then .halted else if bitOf (s.byte (b + 0x31FF)) 1 then .idle else .running
  infrag : x.seq.infrag = bitOf (s.byte (b + 7)) 0
  wmode : x.seq.wmode = bitOf (s.byte (b + 7)) 1
  baddr : x.seq.baddr = BitVec.ofNat 48 (s.rd (b + 8) 6)
  raddr : x.seq.raddr = BitVec.ofNat 48 (s.rd (b + 16) 6)
  dma : x.dma = (List.range 4).map (fun q => (q, ({ xs := (List.range 16).filterMap (fun i => restXfer s (b + 0x1200 + 1024 * q + 64 * i)) } : DmaQ)))
  reqs : x.reqs = (((List.range 32).map (fun i => s.rd (b + 0x3600 + 8 * i) 8)).filter (fun h => h != 0)).map (fun h => h - 1)

theorem Restored.dmaq {s : State} {b : Nat} {x : Core} (h : Restored s b x) {q : Nat} (hq : q < 4) :
    x.dmaq q = { xs := (List.range 16).filterMap (fun i => restXfer s (b + 0x1200 + 1024 * q + 64 * i)) } := by
  rw [Core.dmaq, h.dma]
  exact SMap.get_map_range {} (fun q => ({ xs := (List.range 16).filterMap (fun i => restXfer s (b + 0x1200 + 1024 * q + 64 * i)) } : DmaQ)) hq

theorem State.Clean.copyMem_core {s : State} (h : s.Clean) (a b n c : Nat) : (s.copyMem a b n).core c = s.core c := by
  rw [State.copyMem, h.noErr.1, h.noErr.2]
  rfl

theorem State.Clean.zero_core {s : State} (h : s.Clean) (a n c : Nat) : (s.zero a n).core c = s.core c := by
  rw [State.zero, h.noErr.1, h.noErr.2]
  rfl

/-- The banks of a restored image do not touch the cores. -/
theorem restoreBanks_core {s : State} (h : s.Clean) (b c banks : Nat) (l : List Nat) :
    (l.foldl (fun s i =>
      if Nat.testBit banks i then s.copyMem (b + 0x100000 + i * 0x80000) (spBase c + i * 0x80000) 0x80000
      else s.zero (spBase c + i * 0x80000) 0x80000) s).core c = s.core c := by
  induction l generalizing s with
  | nil => rfl
  | cons i l ih =>
    rw [List.foldl_cons]
    split
    · exact (ih (h.copyMem _ _ _).clean).trans (h.copyMem_core _ _ _ c)
    · exact (ih (h.zero _ _).clean).trans (h.zero_core _ _ c)

theorem State.Clean.setCore {s : State} (h : s.Clean) (c : Nat) (k : Core) : (s.setCore c k).Clean := ⟨h.noErr, h.unarmed⟩

theorem restoreCoreAt_restored {s : State} (h : s.Clean) (b c : Nat) : Restored s b ((restoreCoreAt b c s).core c) := by
  rw [restoreCoreAt, restoreBanks_core (h.setCore c _), State.core_setCore_same]
  exact { regs := rfl, run := rfl, infrag := rfl, wmode := rfl, baddr := rfl, raddr := rfl, dma := rfl, reqs := by with_reducible rfl }

/-! #### It is what was saved -/

theorem get_restTable {w : Nat} (s : State) (a : Nat) {n i : Nat} (bytes : Nat) (h : i < n) {v : BitVec w} (hv : s.rd (a + bytes * i) bytes = v.toNat) :
    SMap.get 0 i (restTable w s a n bytes) = v := by
  rw [restTable, SMap.get_map_range 0 _ h, hv, BitVec.ofNat_toNat, BitVec.setWidth_eq]

/-- A byte of four flags reads as its flags. -/
theorem bitOf_flags (v : Byte) (p q r t : Bool) (h : v.toNat = (if p then 1 else 0) + (if q then 2 else 0) + (if r then 4 else 0) + (if t then 8 else 0)) :
    bitOf v 0 = p ∧ bitOf v 1 = q ∧ bitOf v 2 = r ∧ bitOf v 3 = t := by
  have hv : v = BitVec.ofNat 8 ((if p then 1 else 0) + (if q then 2 else 0) + (if r then 4 else 0) + (if t then 8 else 0)) := by
    rw [← h, BitVec.ofNat_toNat, BitVec.setWidth_eq]
  rw [hv]
  clear h hv
  revert p q r t
  decide

theorem filterMap_getElem?_range {α : Type} (l : List α) : (List.range l.length).filterMap (fun i => l[i]?) = l := by
  induction l with
  | nil => rfl
  | cons x l ih =>
    rw [List.length_cons, List.range_succ_eq_map, List.filterMap_cons, List.filterMap_map]
    exact congrArg (x :: ·) ih

theorem filterMap_range_eq {α : Type} (f : Nat → Option α) (l : List α) {n : Nat} (hn : l.length ≤ n) (hin : ∀ i, ∀ hi : i < l.length, f i = some l[i])
    (hout : ∀ i, l.length ≤ i → i < n → f i = none) : (List.range n).filterMap f = l := by
  obtain ⟨m, rfl⟩ := Nat.exists_eq_add_of_le hn
  rw [List.range_add, List.filterMap_append]
  have hfirst : (List.range l.length).filterMap f = l := by
    have hmap : (List.range l.length).filterMap f = (List.range l.length).filterMap (fun i => l[i]?) :=
      List.filterMap_congr (fun i hi => by
        rw [List.mem_range] at hi
        rw [hin i hi, List.getElem?_eq_getElem hi])
    rw [hmap, filterMap_getElem?_range]
  have hsecond : ((List.range m).map (l.length + ·)).filterMap f = [] := by
    rw [List.filterMap_eq_nil_iff]
    intro i hi
    obtain ⟨j, hj, rfl⟩ := List.mem_map.1 hi
    rw [List.mem_range] at hj
    exact hout _ (Nat.le_add_right _ _) (by omega)
  rw [hfirst, hsecond, List.append_nil]

theorem map_filter_map_eq_filterMap {α β : Type} (g : Nat → α) (p : α → Bool) (f : α → β) (l : List Nat) :
    (((l.map g).filter p).map f) = l.filterMap (fun i => if p (g i) then some (f (g i)) else none) := by
  induction l with
  | nil => rfl
  | cons i l ih =>
    cases hp : p (g i) <;> simp [hp, ih]

theorem saveEnd_flags (q : CoreSeq) : saveEnd q = (if q.ending then 1 else 0) + (if q.held == .idle then 2 else 0) + (if false then 4 else 0) + (if false then 8 else 0) := rfl

end Sys2Proof.Machine
end

section
open Sys2Proof Sys2Proof.Machine

/-- Settles O26: every part of the area is written over zeroes and left by the parts written after it, so a restore reads what was saved. -/
theorem savedCoresComeBack : Obligations.SavedCoresComeBack := by
  unfold Obligations.SavedCoresComeBack
  intro s n b _ _ _ hno harm hfit k x
  obtain ⟨hclean, hsaved⟩ := saveCoreAt_savedAt ⟨hno, harm⟩ b n hfit
  have hrest : Restored (saveCoreAt b n s) b x := restoreCoreAt_restored hclean b n
  generalize saveCoreAt b n s = t at hclean hsaved hrest
  obtain ⟨d, hflags⟩ := hsaved.head.flags
  rw [State.rd_one] at hflags
  obtain ⟨hinfrag, hwmode, hhalted, _⟩ := bitOf_flags _ _ _ _ _ hflags
  obtain ⟨_, hidle, _⟩ := bitOf_flags _ _ _ _ _ ((State.rd_one _ _).symm.trans (hsaved.reqs.ended.trans (saveEnd_flags _)))
  obtain ⟨hnv, hdz, hof, huf⟩ := bitOf_flags _ _ _ _ _ ((State.rd_one _ _).symm.trans hsaved.regs.vs)
  refine ⟨fun i hi => ?_, fun i hi => ?_, fun i hi => ?_, fun i hi => ?_, fun i hi => ?_, fun i hi => ?_, ?_, ?_, ?_, ?_, fun hin => ?_, ?_, ?_, fun q hq => ?_⟩
  · rw [hrest.regs]
    exact get_restTable t _ 8 hi (hsaved.regs.sreg i hi)
  · rw [hrest.regs]
    exact get_restTable t _ 256 hi (hsaved.vreg i hi)
  · rw [hrest.regs]
    exact get_restTable t _ 8 hi (hsaved.regs.preg i hi)
  · rw [hrest.regs]
    exact get_restTable t _ 64 hi (hsaved.regs.tdesc i hi)
  · rw [hrest.regs]
    exact get_restTable t _ 64 hi (hsaved.regs.gen i hi)
  · rw [hrest.regs]
    exact (SMap.get_map_range 0 _ hi).trans (hsaved.regs.semv i hi)
  · rw [hrest.regs, restRegs, hnv, hdz, hof, huf]
  · rw [hrest.baddr, hsaved.head.baddr, BitVec.ofNat_toNat, BitVec.setWidth_eq]
  · rw [hrest.wmode, hwmode]
  · rw [hrest.infrag, hinfrag]
  · rw [hrest.raddr, hsaved.head.raddr hin, BitVec.ofNat_toNat, BitVec.setWidth_eq]
  · rw [hrest.run, hhalted, hidle]
    simp only [beq_iff_eq]
    rfl
  · rw [hrest.reqs, map_filter_map_eq_filterMap]
    refine filterMap_range_eq _ _ hfit.reqs (fun i hi => ?_) (fun i hi hi' => ?_)
    · rw [hsaved.reqs.entry i hi]
      rfl
    · rw [hsaved.reqs.free i hi hi']
      rfl
  · rw [hrest.dmaq hq]
    dsimp only
    exact filterMap_range_eq _ _ (hfit.dma q) (hsaved.dma.entry q hq) (hsaved.dma.free q hq)
end

/-! ### A fold over the entry of its own slice -/

section
namespace Sys2Proof.Machine

open Sys2Proof

/-- A piece of slice 7 at row block 0 and column 0: one column of 32 values, 0x640 and zeros, of micro-batch 0. -/
def overPiece : Piece where
  desc := BitVec.ofNat 128 (7 * 2 ^ 32 + 2 ^ 96)
  vals := [0x640]

/-- The piece waits, and engine 0 is idle. The table lists slice 7 at 0x200000, of 32 rows and columns and one micro-batch, on engine 0; the slice's
accumulator begins at 0x200004, inside that entry. The device ring is at 0x300000. -/
def overTable : State where
  mem := [(0x200000, 7), (0x200008, 32), (0x20000C, 32), (0x20001C, 4), (0x20001E, 0x20), (0x200036, 1)]
  regs := [(0x400020, 0x1000000300000), (0xE00010, 0x1000000200000)]
  u := { col := { pieces := [overPiece] }, host := { st := 2 } }

theorem overTable_calm : overTable.Calm where
  noErr := ⟨rfl, rfl⟩
  settled := ⟨fun _ h => absurd h List.not_mem_nil, fun _ h => absurd h List.not_mem_nil, rfl⟩
  unarmed := by decide +kernel

/-- The launch that folds the piece (R202). -/
def overFold : Launch where
  blk := mkBlock 0 true 7
  src := 0x6000
  fold := some overPiece

/-- It may start on engine 0: its slice's epoch is not stale, and all that it reaches is in reach (R201, R328). -/
theorem overFold_starts : launchStale overTable overFold = none ∧ launchHit overTable 0 overFold = none := by decide +kernel

/-- Telling the sender of a piece that it is accepted writes no memory. -/
theorem acceptPiece_mem (p : Piece) (s : State) : (acceptPiece p s).mem = s.mem := by
  unfold acceptPiece
  split
  · rfl
  next g hg =>
    clear hg
    generalize rankDevs g (g.n - 1) true = devs
    induction devs generalizing s with
    | nil => rfl
    | cons d devs ih => exact ih _

/-- The byte at an address after a command. -/
def byteAfter (a : Nat) (o : Host.Outcome State Fault Refusal) : Option Byte :=
  match o with
  | .next t => some (t.byte a)
  | _ => none

theorem byteAfter_next (a : Nat) (t : State) : byteAfter a (.next t) = some (t.byte a) := rfl

/-- The fold makes engine and flags of the entry 0x40 and 0x06: a lead slice with noise statistics on an engine that the part does not have. The
launch of its statistics is refused with 0x8532, and the event's record goes into the device ring. -/
theorem byteAfter_pieceArrive_overTable : byteAfter 0x300000 (exec .pieceArrive overTable) = some 0x32 := by decide +kernel

/-- The folding itself leaves the ring alone. -/
theorem byte_fold_overTable :
    (foldHeld 0 0x200000 7 0 0 4096 (foldStep 0x200000 7 0 0 1 overPiece.vals overTable)).byte 0x300000 = 0 := by decide +kernel

end Sys2Proof.Machine

open Sys2Proof.Machine

/-- Refutes O34: a fold that runs at once is to leave the memory that the folding alone leaves, but nothing keeps the accumulator apart from the
slice's entry, and a fold over that entry can end in a refused launch (R208, R220), whose event is written to the device ring (R372). -/
theorem not_piecesFold : ¬ Obligations.PiecesFold := by
  unfold Obligations.PiecesFold
  intro h
  obtain ⟨harrive, -⟩ := h overTable 0x200000 overTable_calm
  obtain ⟨hnext, -⟩ := harrive overPiece [] rfl (by decide +kernel) (by decide +kernel) (by decide +kernel) (by decide +kernel) (by decide +kernel)
    (by decide +kernel)
  obtain ⟨hatOnce, -⟩ := hnext (by decide +kernel) (fun _ hown => nomatch hown) rfl
  obtain ⟨hstale, hhit⟩ := overFold_starts
  obtain ⟨t, hexec, hmem⟩ := hatOnce rfl rfl rfl hstale hhit
  have hring : t.byte 0x300000 = 0x32 := by
    have hafter := byteAfter_pieceArrive_overTable
    rw [hexec, byteAfter_next, State.byte, acceptPiece_mem] at hafter
    exact Option.some.inj hafter
  have hleft : t.byte 0x300000 = 0 := by
    rw [State.byte, hmem]
    exact byte_fold_overTable
  exact absurd (hring.symm.trans hleft) (by decide)
end

/-! ### The sector code tells a wrong address apart (R228, R230, R231) -/

section
namespace Sys2Proof

/-- Horner's scheme is linear in the symbols. -/
theorem horner_zipWith_xor (i : Nat) (a b : Byte) {l r : List Byte} (h : l.length = r.length) :
    horner i (a ^^^ b) (List.zipWith (· ^^^ ·) l r) = horner i a l ^^^ horner i b r := by
  induction l generalizing a b r with
  | nil => rw [List.length_eq_zero_iff.1 h.symm]; rfl
  | cons c l ih =>
    cases r with
    | nil => exact absurd h (Nat.succ_ne_zero _)
    | cons d r =>
      rw [List.zipWith_cons_cons, horner_cons, horner_cons, horner_cons, ← ih _ _ (Nat.succ.inj h), iterate_gfDouble_xor]
      ac_rfl

theorem horner_zero_cons (i : Nat) (c : Byte) (l : List Byte) : horner i 0 (c :: l) = horner i 0 l ^^^ gfDouble^[i * l.length] c := by
  rw [horner_cons, iterate_gfDouble_zero, horner_xor_start]

/-- The symbols but the last, each multiplied by alpha^k - 1 with k the number of symbols after it. -/
def dropConstant : List Byte → List Byte
  | [] => []
  | [_] => []
  | c :: d :: l => (gfDouble^[l.length + 1] c ^^^ c) :: dropConstant (d :: l)

theorem dropConstant_length (c : Byte) (l : List Byte) : (dropConstant (c :: l)).length = l.length := by
  induction l generalizing c with
  | nil => rfl
  | cons d l ih => exact congrArg (· + 1) (ih d)

/-- The constant term drops out of the difference of two neighbouring values, and alpha^i divides the rest. -/
theorem horner_dropConstant (i : Nat) (l : List Byte) : horner (i + 1) 0 l ^^^ horner i 0 l = gfDouble^[i] (horner i 0 (dropConstant l)) := by
  induction l with
  | nil => exact (BitVec.xor_self (x := (0 : Byte))).trans (iterate_gfDouble_zero i).symm
  | cons c l ih =>
    cases l with
    | nil =>
      rw [horner_zero_cons, horner_zero_cons]
      exact (xor_xor_cancel_right 0 0 c).trans (iterate_gfDouble_zero i).symm
    | cons d l =>
      have hlen : i + i * (dropConstant (d :: l)).length = i * (d :: l).length := by rw [dropConstant_length, List.length_cons]; ring
      have hhead : gfDouble^[i] (gfDouble^[i * (dropConstant (d :: l)).length] (gfDouble^[(d :: l).length] c ^^^ c)) =
          gfDouble^[(i + 1) * (d :: l).length] c ^^^ gfDouble^[i * (d :: l).length] c := by
        rw [← Function.iterate_add_apply, hlen, iterate_gfDouble_xor, ← Function.iterate_add_apply, Nat.succ_mul]
      rw [horner_zero_cons (i + 1) c, horner_zero_cons i c, dropConstant, horner_zero_cons i (_ ^^^ _), iterate_gfDouble_xor i, ← ih,
        ← List.length_cons (a := d), hhead]
      ac_rfl

theorem eq_zero_of_dropConstant {l : List Byte} (hlen : l.length ≤ 255) (hsum : horner 0 0 l = 0) (h : ∀ x ∈ dropConstant l, x = 0) : ∀ c ∈ l, c = 0 := by
  induction l with
  | nil => exact fun c hc => absurd hc List.not_mem_nil
  | cons c l ih =>
    cases l with
    | nil =>
      have hc : c = 0 := (BitVec.zero_xor (x := c)).symm.trans hsum
      exact List.forall_mem_singleton.2 hc
    | cons d l =>
      rw [dropConstant, List.forall_mem_cons] at h
      obtain ⟨hhead, hrest⟩ := h
      have hc : c = 0 := by
        by_contra hne
        exact iterate_gfDouble_ne hne (Nat.succ_pos l.length) hlen (BitVec.xor_eq_zero_iff.1 hhead)
      subst hc
      exact List.forall_mem_cons.2 ⟨rfl, ih (Nat.le_of_succ_le hlen) hsum hrest⟩

/-- A polynomial of fewer than n + 1 coefficients with the n roots alpha^0 to alpha^(n - 1) is 0. -/
theorem eq_zero_of_horner {l : List Byte} (hlen : l.length ≤ 255) (h : ∀ i < l.length, horner i 0 l = 0) : ∀ c ∈ l, c = 0 := by
  induction hn : l.length generalizing l with
  | zero => rw [List.length_eq_zero_iff.1 hn]; exact fun c hc => absurd hc List.not_mem_nil
  | succ n ih =>
    obtain ⟨c, r, rfl⟩ := List.exists_cons_of_length_eq_add_one hn
    have hdrop : (dropConstant (c :: r)).length = n := (dropConstant_length c r).trans (Nat.succ.inj hn)
    refine eq_zero_of_dropConstant hlen (h 0 (Nat.succ_pos _)) (ih (by omega) (fun i hi => ?_) hdrop)
    have hdiff := horner_dropConstant i (c :: r)
    rw [h (i + 1) (by omega), h i (by omega)] at hdiff
    by_contra hne
    exact iterate_gfDouble_ne_zero hne i (hdiff.symm.trans BitVec.xor_self)

theorem eq_of_zipWith_xor {l r : List Byte} (hlen : l.length = r.length) (h : ∀ c ∈ List.zipWith (· ^^^ ·) l r, c = 0) : l = r := by
  refine List.ext_getElem hlen (fun k hl hr => BitVec.xor_eq_zero_iff.1 ?_)
  have hk : k < (List.zipWith (· ^^^ ·) l r).length := by rw [List.length_zipWith]; exact Nat.lt_min.2 ⟨hl, hr⟩
  exact (List.getElem_zipWith (h := hk)).symm.trans (h _ (List.getElem_mem hk))

/-- So n symbols are given by their values at alpha^0 to alpha^(n - 1). -/
theorem eq_of_horner_eq {l r : List Byte} (hlr : l.length = r.length) (hlen : l.length ≤ 255) (h : ∀ i < l.length, horner i 0 l = horner i 0 r) : l = r := by
  have hzip : (List.zipWith (· ^^^ ·) l r).length = l.length := by rw [List.length_zipWith, ← hlr, Nat.min_self]
  refine eq_of_zipWith_xor hlr (eq_zero_of_horner (hzip ▸ hlen) (fun i hi => ?_))
  have hdiff : horner i 0 (List.zipWith (· ^^^ ·) l r) = horner i 0 l ^^^ horner i 0 r := horner_zipWith_xor i 0 0 hlr
  rw [hdiff, h i (hzip ▸ hi)]
  exact BitVec.xor_self

/-- The multiple of the generator polynomial by f, below its leading coefficient. -/
def generatorMultiple (f : Byte) : List Byte := [gfMul f 0x0F#8, gfMul f 0x36#8, gfMul f 0x78#8, gfMul f 0x40#8]

theorem horner_generatorMultiple {i : Nat} (hi : i < 4) (f : Byte) : horner i 0 (generatorMultiple f) = gfDouble^[i * 4] f := by
  have hroot := generator_root hi f
  have hregister : horner i 0 (generatorMultiple f) = remainderAt i (gfMul f 0x0F#8, gfMul f 0x36#8, gfMul f 0x78#8, gfMul f 0x40#8) := by
    simp only [generatorMultiple, horner, List.foldl_cons, List.foldl_nil, iterate_gfDouble_zero, iterate_gfDouble_xor, remainderAt]
    exact congrArg (· ^^^ _ ^^^ _ ^^^ _) BitVec.zero_xor
  rw [hregister, hroot, show i * 4 = i + (i + (i + i)) by ring, Function.iterate_add_apply, Function.iterate_add_apply, Function.iterate_add_apply]

/-- No coefficient of the generator is 0. -/
theorem eq_zero_of_generatorMultiple : ∀ j < 5, ∀ f : Byte, nth 0 (f :: generatorMultiple f) j = 0 → f = 0 := by decide +kernel

/-- Five symbols whose value at alpha^0 to alpha^3 is 0 are a multiple of the generator: all of them are 0, or none is. -/
theorem eq_zero_of_horner_five {e : List Byte} (hlen : e.length = 5) (h : ∀ i < 4, horner i 0 e = 0) {j : Nat} (hj : j < 5) (hz : nth 0 e j = 0) :
    ∀ c ∈ e, c = 0 := by
  obtain ⟨f, l, rfl⟩ := List.exists_cons_of_length_eq_add_one hlen
  have hl : l.length = 4 := Nat.succ.inj hlen
  have hmul : l = generatorMultiple f := by
    refine eq_of_horner_eq hl (by omega) (fun i hi => ?_)
    have hi4 : i < 4 := hl ▸ hi
    have he := h i hi4
    rw [horner_zero_cons, hl] at he
    rw [horner_generatorMultiple hi4]
    exact BitVec.xor_eq_zero_iff.1 he
  subst hmul
  rw [eq_zero_of_generatorMultiple j hj f hz]
  decide

/-! #### The address of a sector -/

theorem leBytes_getElem (n v i : Nat) (h : i < (leBytes n v).length) : (leBytes n v)[i] = BitVec.ofNat 8 (v / 256 ^ i) := by
  induction n generalizing v i with
  | zero => exact absurd h (Nat.not_lt_zero i)
  | succ n ih =>
    cases i with
    | zero => rw [Nat.pow_zero, Nat.div_one]; rfl
    | succ i => rw [Nat.pow_succ', ← Nat.div_div_eq_div_mul]; exact ih (v / 256) i (Nat.lt_of_succ_lt_succ h)

theorem addrSyms_of_lt {a : Nat} (ha : a < 2 ^ 40) : addrSyms a = (leBytes 5 a).reverse := by rw [addrSyms, beBytes, Nat.mod_eq_of_lt ha]

/-- An address below 2^40 is given by its five symbols. -/
theorem addrSyms_injOn {a b : Nat} (ha : a < 2 ^ 40) (hb : b < 2 ^ 40) (h : addrSyms a = addrSyms b) : a = b := by
  rw [addrSyms_of_lt ha, addrSyms_of_lt hb] at h
  have hnat := congrArg leNat (List.reverse_injective h)
  rw [Machine.leNat_leBytes, Machine.leNat_leBytes] at hnat
  exact (Nat.mod_eq_of_lt ha).symm.trans (hnat.trans (Nat.mod_eq_of_lt hb))

theorem nth_addrSyms {a : Nat} (ha : a < 2 ^ 40) {i : Nat} (hi : i < 5) : nth 0 (addrSyms a) (4 - i) = BitVec.ofNat 8 (a / 256 ^ i) := by
  have hlen : (leBytes 5 a).length = 5 := Machine.leBytes_length 5 a
  rw [addrSyms_of_lt ha, nth, List.getD_eq_getElem _ _ (by rw [List.length_reverse, hlen]; omega), List.getElem_reverse, leBytes_getElem]
  congr 3
  omega

/-- The difference of the address symbols of two sectors. -/
def addrDiff (a b : Nat) : List Byte := List.zipWith (· ^^^ ·) (addrSyms a) (addrSyms b)

theorem addrSyms_length_eq (a b : Nat) : (addrSyms a).length = (addrSyms b).length := (addrSyms_length a).trans (addrSyms_length b).symm

theorem addrDiff_length (a b : Nat) : (addrDiff a b).length = 5 := by rw [addrDiff, List.length_zipWith, addrSyms_length, addrSyms_length, Nat.min_self]

theorem nth_addrDiff_eq_zero {a b i : Nat} (ha : a < 2 ^ 40) (hb : b < 2 ^ 40) (hi : i < 5) (h : b / 256 ^ i % 256 = a / 256 ^ i % 256) :
    nth 0 (addrDiff a b) (4 - i) = 0 := by
  have hsyms : nth 0 (addrSyms a) (4 - i) = nth 0 (addrSyms b) (4 - i) := by
    rw [nth_addrSyms ha hi, nth_addrSyms hb hi]
    exact BitVec.eq_of_toNat_eq (by rw [BitVec.toNat_ofNat, BitVec.toNat_ofNat]; exact h.symm)
  have hlen : 4 - i < (addrDiff a b).length := by rw [addrDiff_length]; omega
  simp only [nth] at hsyms ⊢
  rw [List.getD_eq_getElem _ _ (by rw [addrSyms_length]; omega), List.getD_eq_getElem _ _ (by rw [addrSyms_length]; omega)] at hsyms
  rw [List.getD_eq_getElem _ _ hlen]
  simp only [addrDiff, List.getElem_zipWith, hsyms]
  exact BitVec.xor_self

/-- Addresses that differ but share a byte differ at one of alpha^0 to alpha^3. -/
theorem horner_addrDiff {a b : Nat} (ha : a < 2 ^ 40) (hb : b < 2 ^ 40) (hne : b ≠ a) {i : Nat} (hi : i < 5) (h : b / 256 ^ i % 256 = a / 256 ^ i % 256) :
    ∃ k < 4, horner k 0 (addrDiff a b) ≠ 0 := by
  by_contra hall
  have hzero : ∀ k < 4, horner k 0 (addrDiff a b) = 0 := fun k hk => by_contra (fun hk' => hall ⟨k, hk, hk'⟩)
  have hdiff := eq_zero_of_horner_five (addrDiff_length a b) hzero (show 4 - i < 5 by omega) (nth_addrDiff_eq_zero ha hb hi h)
  exact hne (addrSyms_injOn ha hb (eq_of_zipWith_xor (addrSyms_length_eq a b) hdiff)).symm

/-- A codeword read under another address has at alpha^i the difference of the addresses, once for every symbol after them. -/
theorem syndrome_other_addr (a b : Nat) (d : List Byte) {w i : Nat} (hw : w < 2) (hi : i < 4) :
    syndrome (codeword b w d (sectorCheck a d)) i = gfDouble^[i * 132] (horner i 0 (addrDiff a b)) := by
  have hclean : syndrome (codeword a w d (sectorCheck a d)) i = 0 := by
    match w, hw with
    | 0, _ => exact syndrome_rsCheck hi _
    | 1, _ => exact syndrome_rsCheck hi _
  have hdiff : horner i 0 (addrSyms b) = horner i 0 (addrSyms a) ^^^ horner i 0 (addrDiff a b) := by
    have hlin : horner i 0 (addrDiff a b) = horner i 0 (addrSyms a) ^^^ horner i 0 (addrSyms b) := horner_zipWith_xor i 0 0 (addrSyms_length_eq a b)
    rw [hlin, ← BitVec.xor_assoc, BitVec.xor_self, BitVec.zero_xor]
  rw [syndrome_eq_horner, codeword, List.append_assoc, horner_append] at hclean ⊢
  rw [hdiff, horner_xor_start, hclean, List.length_append, dataSyms_length, List.length_take, List.length_drop, sectorCheck_length,
    show min 4 (8 - 4 * w) = 4 by omega]
  exact BitVec.zero_xor

/-- The syndromes of both codewords read under another address. -/
def addrSyndromes (a b : Nat) : List Byte :=
  [horner 0 0 (addrDiff a b), gfDouble^[132] (horner 1 0 (addrDiff a b)), gfDouble^[264] (horner 2 0 (addrDiff a b)),
    gfDouble^[396] (horner 3 0 (addrDiff a b))]

theorem syndromes_other_addr (a b : Nat) (d : List Byte) {w : Nat} (hw : w < 2) : syndromes (codeword b w d (sectorCheck a d)) = addrSyndromes a b := by
  simp only [syndromes, syndrome_other_addr a b d hw (show 0 < 4 by decide), syndrome_other_addr a b d hw (show 1 < 4 by decide),
    syndrome_other_addr a b d hw (show 2 < 4 by decide), syndrome_other_addr a b d hw (show 3 < 4 by decide)]
  rfl

theorem addrSyndromes_ne {a b : Nat} (ha : a < 2 ^ 40) (hb : b < 2 ^ 40) (hne : b ≠ a) {i : Nat} (hi : i < 5) (h : b / 256 ^ i % 256 = a / 256 ^ i % 256) :
    addrSyndromes a b ≠ [0, 0, 0, 0] := by
  intro hs
  obtain ⟨k, hk, hval⟩ := horner_addrDiff ha hb hne hi h
  obtain ⟨h0, h1, h2, h3, -⟩ : _ ∧ _ ∧ _ ∧ _ ∧ True := by simpa only [addrSyndromes, List.cons.injEq] using hs
  match k, hk with
  | 0, _ => exact hval h0
  | 1, _ => exact iterate_gfDouble_ne_zero hval 132 h1
  | 2, _ => exact iterate_gfDouble_ne_zero hval 264 h2
  | 3, _ => exact iterate_gfDouble_ne_zero hval 396 h3

end Sys2Proof
end

/-! ### What the sector decoder makes of the syndromes of its two codewords (R231) -/

section
namespace Sys2Proof

/-- The outcome of a sector whose codewords have these syndromes. -/
def sectorOut (s0 s1 : List Byte) : EccOut :=
  if s0 != [0, 0, 0, 0] && s0 == s1 then .mismatch
  else if (cwDecode s0).1 == .mismatch || (cwDecode s1).1 == .mismatch then .mismatch
  else if (cwDecode s0).1 == .uncorrectable || (cwDecode s1).1 == .uncorrectable then .uncorrectable
  else if (cwDecode s0).1 == .corrected || (cwDecode s1).1 == .corrected then .corrected
  else .clean

theorem sectorDecode_out (a : Nat) (b p : List Byte) :
    (sectorDecode a b p).out = sectorOut (syndromes (codeword a 0 b p)) (syndromes (codeword a 1 b p)) := by
  show (sectorDecode a b p).out = sectorOut (syndromes (addrSyms a ++ dataSyms 0 b ++ p.take 4)) (syndromes (addrSyms a ++ dataSyms 1 b ++ (p.drop 4).take 4))
  unfold sectorDecode sectorOut
  dsimp only
  split <;> rfl

theorem sectorOut_same {s : List Byte} (h : s ≠ [0, 0, 0, 0]) : sectorOut s s = .mismatch := if_pos (by simpa using h)

/-- A sector reads clean under its own address with its own check bytes. -/
theorem sectorDecode_sectorCheck (a : Nat) (d : List Byte) : sectorDecode a d (sectorCheck a d) = ⟨.clean, .clean, .clean, 0, 0, d⟩ := by
  have h0 := syndromes_codeword a d (show 0 < 2 by decide)
  have h1 := syndromes_codeword a d (show 1 < 2 by decide)
  simp only [codeword, Nat.mul_zero, List.drop_zero, Nat.mul_one] at h0 h1
  simp only [sectorDecode, h0, h1, cwDecode_clean]
  rfl

/-- Under another address that shares a byte with its own it reads as a mismatch. -/
theorem sectorDecode_other_addr {a b : Nat} (ha : a < 2 ^ 40) (hb : b < 2 ^ 40) (hne : b ≠ a) {i : Nat} (hi : i < 5)
    (h : b / 256 ^ i % 256 = a / 256 ^ i % 256) (d : List Byte) : (sectorDecode b d (sectorCheck a d)).out = .mismatch := by
  rw [sectorDecode_out, syndromes_other_addr a b d (show 0 < 2 by decide), syndromes_other_addr a b d (show 1 < 2 by decide)]
  exact sectorOut_same (addrSyndromes_ne ha hb hne hi h)

/-! #### Errors in stored symbols -/

/-- A sector's bytes and check bytes, wrong by v in stored symbol p (0 to 131) of codeword w, for an error (w, p, v). -/
def flipStored (b : List Byte × List Byte) (x : Nat × Nat × Byte) : List Byte × List Byte :=
  if x.2.1 < 128 then (flipData b.1 x.1 x.2.1 x.2.2, b.2) else (b.1, flipSym b.2 (4 * x.1 + (x.2.1 - 128)) x.2.2)

theorem flipStored_data (d c : List Byte) {p : Nat} (hp : p < 128) (w : Nat) (v : Byte) :
    flipStored (d, c) (w, p, v) = (flipSym d (2 * p + w) v, c) := by
  rw [flipStored, if_pos hp, flipData, if_pos hp]
  rfl

theorem flipStored_check (d c : List Byte) (w j : Nat) (v : Byte) : flipStored (d, c) (w, 128 + j, v) = (d, flipSym c (4 * w + j) v) := by
  rw [flipStored, if_neg (Nat.not_lt.2 (Nat.le_add_right 128 j))]
  dsimp only
  rw [Nat.add_sub_cancel_left]

/-- Every stored symbol is one of the data or one of the check symbols. -/
theorem stored_cases {p : Nat} (hp : p < 132) : p < 128 ∨ ∃ j < 4, p = 128 + j := by
  by_cases h : p < 128
  · exact Or.inl h
  · exact Or.inr ⟨p - 128, by omega, by omega⟩

theorem flipStored_length (b : List Byte × List Byte) {w p : Nat} (hp : p < 132) (v : Byte) :
    (flipStored b (w, p, v)).1.length = b.1.length ∧ (flipStored b (w, p, v)).2.length = b.2.length := by
  obtain ⟨d, c⟩ := b
  rcases stored_cases hp with h | ⟨j, _, rfl⟩
  · rw [flipStored_data d c h]
    exact ⟨flipSym_length _ _ _, rfl⟩
  · rw [flipStored_check]
    exact ⟨rfl, flipSym_length _ _ _⟩

theorem codeword_flipStored_same (a : Nat) {b : List Byte × List Byte} (hb : b.1.length = 256) {w p : Nat} (hw : w < 2) (hp : p < 132) (v : Byte) :
    codeword a w (flipStored b (w, p, v)).1 (flipStored b (w, p, v)).2 = flipSym (codeword a w b.1 b.2) (5 + p) v := by
  obtain ⟨d, c⟩ := b
  rcases stored_cases hp with h | ⟨j, hj, rfl⟩
  · rw [flipStored_data d c h]
    exact codeword_flip_data a hb c hw h v
  · rw [flipStored_check, ← Nat.add_assoc]
    exact codeword_flip_check a d c hj v

theorem codeword_flipStored_other (a : Nat) (b : List Byte × List Byte) {w w' p : Nat} (hw : w < 2) (hw' : w' < 2) (hne : w' ≠ w) (hp : p < 132) (v : Byte) :
    codeword a w' (flipStored b (w, p, v)).1 (flipStored b (w, p, v)).2 = codeword a w' b.1 b.2 := by
  obtain ⟨d, c⟩ := b
  rcases stored_cases hp with h | ⟨j, hj, rfl⟩
  · rw [flipStored_data d c h, codeword, dataSyms_flipSym_other d hw hw' hne.symm, codeword]
  · rw [flipStored_check]
    exact codeword_flip_check_other a d c hne.symm hj v

theorem syndromes_flipSym (l : List Byte) {j : Nat} (hj : j < l.length) (v : Byte) :
    syndromes (flipSym l j v) = List.zipWith (· ^^^ ·) (syndromes l) (errorSyndromes (l.length - 1 - j) v) := by
  simp only [syndromes, syndrome_eq_horner, horner_set _ _ _ _ _ hj, errorSyndromes, List.zipWith_cons_cons, List.zipWith_nil_left, Nat.zero_mul, Nat.one_mul,
    Function.iterate_zero, id_eq]

/-- The syndromes of codeword w with the errors of a list that are in it. -/
def storedSyndromes (w : Nat) (l : List (Nat × Nat × Byte)) (s : List Byte) : List Byte :=
  l.foldl (fun s x => if w = x.1 then List.zipWith (· ^^^ ·) s (errorSyndromes (131 - x.2.1) x.2.2) else s) s

theorem syndromes_flipStored (a : Nat) {b : List Byte × List Byte} (hb : b.1.length = 256 ∧ b.2.length = 8) {x : Nat × Nat × Byte}
    (hx : x.1 < 2 ∧ x.2.1 < 132) {w : Nat} (hw : w < 2) : syndromes (codeword a w (flipStored b x).1 (flipStored b x).2) =
      if w = x.1 then List.zipWith (· ^^^ ·) (syndromes (codeword a w b.1 b.2)) (errorSyndromes (131 - x.2.1) x.2.2) else syndromes (codeword a w b.1 b.2) := by
  obtain ⟨w', p, v⟩ := x
  obtain ⟨hw', hp⟩ := hx
  dsimp only at hw' hp ⊢
  split
  next h =>
    subst h
    have hlen := codeword_length a w b.1 b.2 hw hb.2
    rw [codeword_flipStored_same a hb.1 hw hp, syndromes_flipSym _ (by omega), hlen, show 137 - 1 - (5 + p) = 131 - p by omega]
  next h => rw [codeword_flipStored_other a b hw' hw h hp]

theorem syndromes_foldl_flipStored (a : Nat) {b : List Byte × List Byte} (hb : b.1.length = 256 ∧ b.2.length = 8) {l : List (Nat × Nat × Byte)}
    (hl : ∀ x ∈ l, x.1 < 2 ∧ x.2.1 < 132) {w : Nat} (hw : w < 2) :
    syndromes (codeword a w (l.foldl flipStored b).1 (l.foldl flipStored b).2) = storedSyndromes w l (syndromes (codeword a w b.1 b.2)) := by
  induction l generalizing b with
  | nil => rfl
  | cons x l ih =>
    obtain ⟨hx, hrest⟩ := List.forall_mem_cons.1 hl
    obtain ⟨hdata, hcheck⟩ := flipStored_length b (w := x.1) hx.2 x.2.2
    rw [List.foldl_cons, ih ⟨hdata.trans hb.1, hcheck.trans hb.2⟩ hrest, syndromes_flipStored a hb hx hw]
    rfl

/-- A read that corrects stored symbol p of codeword w, beside a clean codeword, and gives the data d. -/
structure EccRes.CorrectedAt (r : EccRes) (d : List Byte) (w p : Nat) : Prop where
  out : r.out = .corrected
  data : r.data = d
  cws : (if w = 0 then (r.cw0, r.cw1) else (r.cw1, r.cw0)) = (.corrected, .clean)
  pos : (if w = 0 then r.pos0 else r.pos1) = p

theorem sectorDecode_correctedAt (a : Nat) {b p : List Byte} {w k : Nat} {v : Byte} (hw : w < 2) (hk : k < 132) (hv : v ≠ 0)
    (herr : syndromes (codeword a w b p) = errorSyndromes (131 - k) v) (hclean : ∀ w' < 2, w' ≠ w → syndromes (codeword a w' b p) = [0, 0, 0, 0]) :
    (sectorDecode a b p).CorrectedAt (flipData b w k v) w k := by
  have hdec : cwDecode (errorSyndromes (131 - k) v) = (.corrected, k, v) := by
    have h := cwDecode_errorSyndromes hv (j := 5 + k) (by omega) (by omega)
    rwa [show 136 - (5 + k) = 131 - k by omega, Nat.add_sub_cancel_left] at h
  match w, hw with
  | 0, _ =>
    have h1 := hclean 1 (by decide) (by decide)
    simp only [codeword, Nat.mul_zero, List.drop_zero, Nat.mul_one] at herr h1
    simp only [sectorDecode, herr, h1, hdec, cwDecode_clean]
    rw [if_neg (by simp)]
    exact ⟨rfl, rfl, rfl, rfl⟩
  | 1, _ =>
    have h0 := hclean 0 (by decide) (by decide)
    simp only [codeword, Nat.mul_zero, List.drop_zero, Nat.mul_one] at herr h0
    simp only [sectorDecode, herr, h0, hdec, cwDecode_clean]
    rw [if_neg (by simp)]
    exact ⟨rfl, rfl, rfl, rfl⟩

theorem flipData_flipStored {d : List Byte} (hd : d.length = 256) (c : List Byte) {w k : Nat} (hw : w < 2) (hk : k < 132) (v : Byte) :
    flipData (flipStored (d, c) (w, k, v)).1 w k v = d := by
  rcases stored_cases hk with h | ⟨j, _, rfl⟩
  · rw [flipStored_data d c h, flipData, if_pos h]
    exact flipSym_flipSym d (by omega) v
  · rw [flipStored_check, flipData, if_neg (by omega)]

/-- One wrong stored symbol of a sector is found and taken out. -/
theorem sectorDecode_flipStored (a : Nat) {d : List Byte} (hd : d.length = 256) {w k : Nat} {v : Byte} (hw : w < 2) (hk : k < 132) (hv : v ≠ 0) :
    (sectorDecode a (flipStored (d, sectorCheck a d) (w, k, v)).1 (flipStored (d, sectorCheck a d) (w, k, v)).2).CorrectedAt d w k := by
  have hback := flipData_flipStored hd (sectorCheck a d) hw hk v
  have hsyn := fun w' (hw' : w' < 2) =>
    syndromes_flipStored a (b := (d, sectorCheck a d)) (x := (w, k, v)) ⟨hd, sectorCheck_length a d⟩ ⟨hw, hk⟩ hw'
  generalize flipStored (d, sectorCheck a d) (w, k, v) = b at hback hsyn
  have herr : syndromes (codeword a w b.1 b.2) = errorSyndromes (131 - k) v := by
    rw [hsyn w hw, if_pos rfl, syndromes_codeword a d hw]
    simp [errorSyndromes]
  have hread := sectorDecode_correctedAt a hw hk hv herr (fun w' hw' hne => by rw [hsyn w' hw', if_neg hne, syndromes_codeword a d hw'])
  rwa [hback] at hread

end Sys2Proof
end

/-! ### The SRAM code corrects one wrong bit (R242, R243) -/

section
namespace Sys2Proof

theorem shiftRight_mod_two_iff_testBit (v i : Nat) : (v >>> i) % 2 = 1 ↔ Nat.testBit v i = true := by
  rw [Nat.testBit_eq_decide_div_mod_eq, Nat.shiftRight_eq_div_pow, decide_eq_true_eq]

/-- The xor of the first n columns of a value's set bits. -/
def colXorTo (cols : List Nat) (v n : Nat) : Nat := (List.range n).foldl (fun a i => if (v >>> i) % 2 = 1 then a ^^^ nth 0 cols i else a) 0

theorem colXorTo_succ (cols : List Nat) (v n : Nat) :
    colXorTo cols v (n + 1) = colXorTo cols v n ^^^ (if Nat.testBit v n then nth 0 cols n else 0) := by
  rw [colXorTo, List.range_succ, List.foldl_append, List.foldl_cons, List.foldl_nil, ← colXorTo]
  simp only [shiftRight_mod_two_iff_testBit]
  split
  · rfl
  · exact (Nat.xor_zero _).symm

theorem colXorTo_flip (cols : List Nat) (v b n : Nat) :
    colXorTo cols (v ^^^ 2 ^ b) n = colXorTo cols v n ^^^ (if b < n then nth 0 cols b else 0) := by
  induction n with
  | zero => simp [colXorTo]
  | succ n ih =>
    rw [colXorTo_succ, colXorTo_succ, ih, Nat.testBit_xor, Nat.testBit_two_pow]
    by_cases hbn : b = n
    · subst hbn
      cases Nat.testBit v b <;> simp
    · have hlt : b < n + 1 ↔ b < n := by omega
      simp only [hbn, hlt, decide_false, Bool.xor_false]
      ac_rfl

/-- A wrong bit of a value adds its column. -/
theorem colXor_flip (cols : List Nat) (v : Nat) {b : Nat} (hb : b < cols.length) : colXor cols (v ^^^ 2 ^ b) = colXor cols v ^^^ nth 0 cols b :=
  (colXorTo_flip cols v b cols.length).trans (by rw [if_pos hb]; rfl)

theorem sramDataCols_length : sramDataCols.length = 64 := by decide +kernel

/-- The data columns differ from each other and from 0. -/
theorem colFind_sramDataCols : ∀ b < 64, nth 0 sramDataCols b ≠ 0 ∧ colFind (nth 0 sramDataCols b) sramDataCols 0 = some b := by decide +kernel

/-- A single check bit is no data column. -/
theorem colFind_checkBit : ∀ b < 8, colFind (2 ^ b) sramDataCols 0 = none ∧ popcount8 (2 ^ b) = 1 := by decide +kernel

theorem sramRead_clean (w i : Nat) : sramRead w (sramCheck w i) i = (.clean, w) := by
  rw [sramRead, Nat.xor_self]
  rfl

theorem sramRead_dataBit (w i : Nat) {b : Nat} (hb : b < 64) : sramRead (w ^^^ 2 ^ b) (sramCheck w i) i = (.corrected, w) := by
  obtain ⟨hne, hfind⟩ := colFind_sramDataCols b hb
  have hsyn : sramCheck w i ^^^ sramCheck (w ^^^ 2 ^ b) i = nth 0 sramDataCols b := by
    rw [sramCheck, sramCheck, colXor_flip _ w (sramDataCols_length.symm ▸ hb)]
    rw [show ∀ x y z : Nat, x ^^^ y ^^^ (x ^^^ z ^^^ y) = z ^^^ ((x ^^^ x) ^^^ (y ^^^ y)) by intros; ac_rfl]
    simp
  rw [sramRead, hsyn]
  simp only [hne, hfind, if_false, Nat.one_shiftLeft, Nat.xor_assoc, Nat.xor_self, Nat.xor_zero]

theorem sramRead_checkBit (w i : Nat) {b : Nat} (hb : b < 8) : sramRead w (sramCheck w i ^^^ 2 ^ b) i = (.corrected, w) := by
  obtain ⟨hfind, hpop⟩ := colFind_checkBit b hb
  have hsyn : sramCheck w i ^^^ 2 ^ b ^^^ sramCheck w i = 2 ^ b := by
    rw [Nat.xor_comm, ← Nat.xor_assoc, Nat.xor_self, Nat.zero_xor]
  rw [sramRead, hsyn]
  simp only [(Nat.two_pow_pos b).ne', hfind, hpop, if_false, if_true]

end Sys2Proof
end

/-! ### The patterns of the self-tests (R245) -/

section
namespace Sys2Proof.Machine

/-- The written sector of the patterns, with its check bytes. -/
def testSector : List Byte × List Byte := (testData, sectorCheck testSec testData)

theorem testData_length : testData.length = 256 := by rw [testData, List.length_map, List.length_range]

theorem testRead_eq (l : List (Nat × Nat × Byte)) (sec : Nat) :
    testRead l sec = sectorDecode sec (l.foldl flipStored testSector).1 (l.foldl flipStored testSector).2 := rfl

/-- The outcome of a pattern under the written address is that of its errors' syndromes. -/
theorem testRead_out {l : List (Nat × Nat × Byte)} (hl : ∀ x ∈ l, x.1 < 2 ∧ x.2.1 < 132) :
    (testRead l testSec).out = sectorOut (storedSyndromes 0 l [0, 0, 0, 0]) (storedSyndromes 1 l [0, 0, 0, 0]) := by
  have hclean : ∀ w < 2, syndromes (codeword testSec w testSector.1 testSector.2) = [0, 0, 0, 0] := fun w hw => syndromes_codeword testSec testData hw
  rw [testRead_eq, sectorDecode_out, syndromes_foldl_flipStored testSec ⟨testData_length, rfl⟩ hl (show 0 < 2 by decide),
    syndromes_foldl_flipStored testSec ⟨testData_length, rfl⟩ hl (show 1 < 2 by decide), hclean 0 (by decide), hclean 1 (by decide)]

theorem testSingle_eq_true {w p : Nat} {v : Byte} (hw : w < 2) (hp : p < 132) (hv : v ≠ 0) : testSingle w p v = true := by
  have h : (testRead [(w, p, v)] testSec).CorrectedAt testData w p := sectorDecode_flipStored testSec testData_length hw hp hv
  obtain ⟨hout, hdata, hcws, hpos⟩ := h
  unfold testSingle
  generalize testRead [(w, p, v)] testSec = r at hout hdata hcws hpos
  match w, hw with
  | 0, _ => simp_all
  | 1, _ => simp_all

/-- Two wrong symbols of equal value: the first syndrome is 0 and the others are not. -/
theorem testRead_double : (testRead [(0, 0, 0x01), (0, 131, 0x01)] testSec).out = .uncorrectable := by
  rw [testRead_out (by decide)]
  decide +kernel

theorem testRead_triple : (testRead [(1, 0, 0x01), (1, 64, 0x01), (1, 131, 0x01)] testSec).out = .uncorrectable := by
  rw [testRead_out (by decide)]
  decide +kernel

theorem testRead_equal : (testRead [(0, 10, 0x55), (1, 10, 0x55)] testSec).out = .mismatch := by
  rw [testRead_out (by decide)]
  exact sectorOut_same (by decide)

theorem testRead_other_addr {b : Nat} (hb : b < 2 ^ 40) (hne : b ≠ testSec) {i : Nat} (hi : i < 5) (h : b / 256 ^ i % 256 = testSec / 256 ^ i % 256) :
    (testRead [] b).out = .mismatch := sectorDecode_other_addr (by decide) hb hne hi h testData

theorem sectorTestOk_eq_true : sectorTestOk = true := by
  have hsingle : [0, 1].all (fun w => (List.range 132).all (fun p => testSingle w p 0x01 && testSingle w p 0xFF)) = true := by
    simp only [List.all_eq_true, List.mem_range, Bool.and_eq_true]
    intro w hw p hp
    have hw2 : w < 2 := by revert w; decide
    exact ⟨testSingle_eq_true hw2 hp (by decide), testSingle_eq_true hw2 hp (by decide)⟩
  have hclean : (testRead [] testSec).out = .clean := congrArg EccRes.out (sectorDecode_sectorCheck testSec testData)
  have hlow : (testRead [] (testSec ^^^ 0x0000000001)).out = .mismatch := testRead_other_addr (by decide) (by decide) (show 1 < 5 by decide) (by decide)
  have hhigh : (testRead [] (testSec ^^^ 0x0101010000)).out = .mismatch := testRead_other_addr (by decide) (by decide) (show 0 < 5 by decide) (by decide)
  rw [sectorTestOk, hclean, hsingle, testRead_double, testRead_triple, testRead_equal, hlow, hhigh]
  rfl

theorem sramTestOk_eq_true : sramTestOk = true := by decide +kernel

end Sys2Proof.Machine
end

section
open Sys2Proof Sys2Proof.Machine

/-- Settles O57: an error of one symbol is read off the syndromes; a polynomial of degree below 4 that is 0 at alpha^0 to alpha^3 is 0, so a wrong address that
shares a byte shows in them; and the columns of the SRAM code tell its bits apart. -/
theorem sectorCodeCorrects : Obligations.SectorCodeCorrects := by
  unfold Obligations.SectorCodeCorrects
  refine ⟨fun a d ha hd => ⟨?_, ?_, fun w hw k hk e he => ?_, fun j hj e he => ?_, fun b hb hne hshare => ?_⟩, fun w i _ _ => ?_, sectorTestOk_eq_true,
    sramTestOk_eq_true⟩
  · rw [sectorDecode_sectorCheck]
  · rw [sectorDecode_sectorCheck]
  · have hread := sectorDecode_flipStored a hd hw (show k < 132 by omega) he
    rw [flipStored_data d _ hk] at hread
    exact ⟨hread.out, hread.data, hread.pos⟩
  · exact sectorDecode_flip_check a d hj he
  · obtain ⟨i, hi, hbyte⟩ := hshare
    exact sectorDecode_other_addr ha hb hne hi hbyte d
  · exact ⟨sramRead_clean w i, fun b hb => sramRead_dataBit w i hb, fun b hb => sramRead_checkBit w i hb⟩
end

/-! ### A write of GDDR7 where the table of scratchpad words' errors lists a word of it (R232, R243) -/

section
namespace Sys2Proof.Machine

open Sys2Proof

theorem symbolsRead_zero (l : List Byte) (o : Nat) : symbolsRead 0 l o = l := by
  apply List.ext_getElem
  · simp [symbolsRead]
  · intro i _ hi
    have hfield : byteField (0 : BitVec 2112) (o + i) 1 = 0 := by
      rw [byteField, show (0 : BitVec 2112).toNat = 0 from BitVec.toNat_zero, Nat.zero_shiftRight, Nat.zero_mod]
    simp only [symbolsRead, List.getElem_map, List.getElem_range, nth, hfield]
    rw [List.getD_eq_getElem _ _ hi]
    exact BitVec.xor_zero

/-- A sector without an error reads clean under its own address (R231). -/
theorem readUnder_clean {s : State} (h : s.ecc = []) (sec : Nat) : (readUnder s sec sec).out = .clean := by
  have hread : readUnder s sec sec = sectorDecode sec (symbolsRead 0 (s.bytes (256 * sec) 256) 0)
      (symbolsRead 0 (sectorCheck sec (s.bytes (256 * sec) 256)) 256) := by
    rw [readUnder, h]
    rfl
  rw [hread, symbolsRead_zero, symbolsRead_zero, sectorDecode_sectorCheck]

/-- A smaller write in a sector without an error puts its bytes (R232). -/
theorem memDo_smaller {s : State} {o : MemOp} (hk : o.kind = 2) (hecc : s.ecc = []) (hfrom : o.from_ = o.a / 256)
    (hfwd : (s.memCh (s.gddrMap o.a).1).fwd = none) : memDo o s = s.putBytes o.a o.data := by
  unfold memDo
  dsimp only
  rw [hk, hfrom, readUnder_clean hecc, hfwd]
  rfl

/-- An access within reach to a channel in service takes effect (R231, R232). -/
theorem memAccess_inService {s : State} {o : MemOp} {n : Nat} (hpriv : (o.who == .ctl && privAt s o.a n) = false)
    (hreach : whoReach s o.who o.a n (decide (o.kind ≠ 0)) = true) (hin : within o.a n 0 s.gddrTop = true)
    (hst : (s.memCh (s.gddrMap o.a).1).state = 2) : memAccess o n 0 s = memDo o s := by
  unfold memAccess
  dsimp only
  rw [hpriv, hreach, hin, hst]
  rfl

/-- No further error appears. -/
theorem upset_zero {s : State} (h : s.ecc = []) (sec : Nat) : upset sec 0 s = s := by
  have hkept : SMap.setD 0 sec (SMap.get 0 sec s.ecc ^^^ (0 : BitVec 2112)) s.ecc = s.ecc := by
    rw [h, SMap.get_nil, show (0 : BitVec 2112) ^^^ 0 = 0 from BitVec.xor_zero, SMap.setD, if_pos rfl]
    rfl
  rw [upset, hkept]

/-- A smaller write that fits in its sector is one access (R232). -/
theorem exec_partialWrite {s : State} {a : Nat} {d : List Byte} (h : s.ecc = []) (hfit : a % 256 + d.length ≤ 256) (who : Who) :
    exec (.partialWrite who a d 0 0) s = .next (memAccess { kind := 2, who, a, data := d, from_ := a / 256 } d.length 0 s) := by
  show execPartialWrite who a d 0 0 s = _
  rw [execPartialWrite, upset_zero h, Nat.min_eq_left (by omega), List.take_length]

/-- Channel 0 is in service and no sector has an error. The table of scratchpad words' errors lists two wrong data bits for address / 8 = 0, which is in
GDDR7. -/
def gddrWordWrong : State where
  sp := { err := [(0, 3)] }
  u := { mem := { ch := [(0, { state := 2 })] } }

theorem exec_partialWrite_gddrWordWrong : exec (.partialWrite .ctl 0 [1] 0 0) gddrWordWrong = .next (gddrWordWrong.putBytes 0 [1]) := by
  rw [exec_partialWrite rfl (by decide), memAccess_inService (by decide +kernel) (by decide +kernel) (by decide +kernel) (by decide +kernel),
    memDo_smaller rfl rfl rfl (by decide +kernel)]

/-- The word that the write covers in part reads uncorrectable, so it is discarded. -/
theorem byte_putBytes_gddrWordWrong : (gddrWordWrong.putBytes 0 [1]).byte 0 = 0 := by decide +kernel

end Sys2Proof.Machine

open Sys2Proof.Machine

/-- Refutes O56: a PARTIAL_WRITE in a sector without an error is to store its bytes, but no premise keeps the table of scratchpad words' errors
to scratchpad addresses, and a write that covers in part a listed word that reads uncorrectable is discarded (R243). -/
theorem not_memoryAccesses : ¬ Obligations.MemoryAccesses := by
  unfold Obligations.MemoryAccesses
  intro h
  obtain ⟨haccess, -⟩ := h gddrWordWrong
  obtain ⟨-, -, hpartial⟩ := haccess .ctl 0 [1] 0
  obtain ⟨t, hexec, hbytes, -⟩ := hpartial (by decide) (by decide) (by decide +kernel) (by decide +kernel) (by decide +kernel) rfl
  have hstored : t.byte 0 = 1 := (List.cons.inj hbytes).1
  have hnext : gddrWordWrong.putBytes 0 [1] = t := Host.Outcome.next.inj (exec_partialWrite_gddrWordWrong.symm.trans hexec)
  rw [← hnext, byte_putBytes_gddrWordWrong] at hstored
  exact absurd hstored (by decide)
end

/-! ### What leaves course time alone -/

section
namespace Sys2Proof.Machine

open Sys2Proof

/-- Where a device stands in course time (R250, R256, R487), its counter apart. -/
structure Clock where
  st : Nat
  synced : Bool
  tick : Nat
  elapsed : Nat
  heldAt : Nat

def CrsSt.clock (c : CrsSt) : Clock := ⟨c.st, c.synced, c.tick, c.elapsed, c.heldAt⟩

/-- From s to t course time stands still, a snapshot under way stays, and where no bundle waits none comes to. -/
structure KeepsTime (s t : State) : Prop where
  course : t.course = s.course
  clock : t.u.crs.clock = s.u.crs.clock
  snap : t.bench.snap = s.bench.snap
  quiet : Quiet s → Quiet t

section
variable {s t : State} (h : KeepsTime s t)
include h

theorem KeepsTime.st : t.u.crs.st = s.u.crs.st := congrArg Clock.st h.clock
theorem KeepsTime.synced : t.u.crs.synced = s.u.crs.synced := congrArg Clock.synced h.clock
theorem KeepsTime.tick : t.u.crs.tick = s.u.crs.tick := congrArg Clock.tick h.clock
theorem KeepsTime.elapsed : t.u.crs.elapsed = s.u.crs.elapsed := congrArg Clock.elapsed h.clock
theorem KeepsTime.heldAt : t.u.crs.heldAt = s.u.crs.heldAt := congrArg Clock.heldAt h.clock

theorem KeepsTime.counterRuns : counterRuns t = counterRuns s := by
  simp only [Machine.counterRuns, h.st, h.synced]

theorem KeepsTime.trans {u : State} (k : KeepsTime t u) : KeepsTime s u :=
  ⟨k.course.trans h.course, k.clock.trans h.clock, k.snap.trans h.snap, k.quiet ∘ h.quiet⟩

end

theorem KeepsTime.refl (s : State) : KeepsTime s s := ⟨rfl, rfl, rfl, id⟩

theorem KeepsTime.foldl {α : Type} {f : State → α → State} (h : ∀ s a, KeepsTime s (f s a)) (l : List α) (s : State) : KeepsTime s (l.foldl f s) := by
  induction l generalizing s with
  | nil => exact .refl s
  | cons a r ih => exact (h s a).trans (ih (f s a))

theorem KeepsTime.ite {s t u : State} {b : Prop} [Decidable b] (h : KeepsTime s t) (k : KeepsTime s u) : KeepsTime s (if b then t else u) := by
  split <;> assumption

/-- What leaves the cores, course time and the snapshot as they are. -/
theorem KeepsTime.of {s t : State}
    (h : (t.course, t.u.crs.clock, t.bench.snap, t.cores) = (s.course, s.u.crs.clock, s.bench.snap, s.cores)) : KeepsTime s t := by
  simp only [Prod.mk.injEq] at h
  obtain ⟨hcourse, hclock, hsnap, hcores⟩ := h
  refine ⟨hcourse, hclock, hsnap, fun hq => hq.of_core (fun n => ?_)⟩
  rw [State.core, State.core, hcores]

/-! #### Small updates -/

theorem KeepsTime.setCore (s : State) {n : Nat} {k : Core} (h : (s.core n).seq.q = [] → k.seq.q = []) :
    KeepsTime s (s.setCore n k) :=
  ⟨rfl, rfl, rfl, fun hq => hq.setCore n (h (hq n))⟩

theorem KeepsTime.setReg (s : State) (o : Nat) (v : W64) : KeepsTime s (s.setReg o v) := .of rfl
theorem KeepsTime.setOwner (s : State) (p : Nat) (o : Owner) : KeepsTime s (s.setOwner p o) := .of rfl
theorem KeepsTime.setEng (s : State) (e : Nat) (x : Engine) : KeepsTime s (s.setEng e x) := .of rfl
theorem KeepsTime.draw (s : State) : KeepsTime s s.draw.2 := .of rfl
theorem KeepsTime.out (s : State) (o : Out) : KeepsTime s (s.out o) := .of rfl
theorem KeepsTime.pend (s : State) (k : Nat) : KeepsTime s (s.pend k) := .of rfl
theorem KeepsTime.idleNow (s : State) (n : Nat) : KeepsTime s (s.idleNow n) := .of rfl
theorem KeepsTime.updFlt (s : State) (f : FltSt → FltSt) : KeepsTime s (s.updFlt f) := .of rfl
theorem KeepsTime.updFltOwner (s : State) (p : Nat) (f : FltOwner → FltOwner) : KeepsTime s (s.updFltOwner p f) := .of rfl
theorem KeepsTime.updNet (s : State) (f : NetSt → NetSt) : KeepsTime s (s.updNet f) := .of rfl
theorem KeepsTime.updCol (s : State) (f : ColSt → ColSt) : KeepsTime s (s.updCol f) := .of rfl
theorem KeepsTime.updQue (s : State) (f : QueSt → QueSt) : KeepsTime s (s.updQue f) := .of rfl
theorem KeepsTime.updQueue (s : State) (q : Nat) (f : Queue → Queue) : KeepsTime s (s.updQueue q f) := .of rfl
theorem KeepsTime.updHost (s : State) (f : HostSt → HostSt) : KeepsTime s (s.updHost f) := .of rfl
theorem KeepsTime.updMem (s : State) (f : MemSt → MemSt) : KeepsTime s (s.updMem f) := .of rfl
theorem KeepsTime.updPow (s : State) (f : PowSt → PowSt) : KeepsTime s (s.updPow f) := .of rfl

/-- A change of course time's arms, links, records and events. -/
theorem KeepsTime.updCrs (s : State) (f : CrsSt → CrsSt) (h : ∀ c, (f c).clock = c.clock) :
    KeepsTime s (s.updCrs f) := ⟨rfl, h _, rfl, fun hq => hq.of_core (fun _ => rfl)⟩

/-! #### Memory -/

theorem KeepsTime.putAll (s : State) (a : Nat) (l : List Byte) : KeepsTime s (s.putAll a l) := by
  rw [State.putAll_eq]
  exact .of rfl

theorem KeepsTime.settleSector (a n : Nat) (s : State) (sec : Nat) : KeepsTime s (State.settleSector a n s sec) := by
  have hput : KeepsTime s (s.putAll (256 * sec) (s.sectorRead sec).data) := .putAll s _ _
  unfold State.settleSector
  dsimp only
  refine .ite (.of (by rfl)) (.ite (.refl s) (.ite (hput.trans (.of (by rfl))) ?_))
  exact KeepsTime.trans (KeepsTime.ite hput (.refl s)) (.of (by rfl))

theorem KeepsTime.settleWord (a n : Nat) (s : State) (w : Nat) : KeepsTime s (State.settleWord a n s w) := by
  unfold State.settleWord
  exact .ite (.of (by rfl)) (.ite ((KeepsTime.putAll s _ _).trans (.of (by rfl))) (.ite (.refl s) (.of (by rfl))))

theorem KeepsTime.putKept (s : State) (a : Nat) (l : List Byte) : KeepsTime s (s.putKept a l) := by
  induction l generalizing s a with
  | nil => exact .refl s
  | cons b r ih => exact (KeepsTime.ite (.refl s) (.of (by rfl))).trans (ih _ _)

theorem KeepsTime.putBytes (s : State) (a : Nat) (l : List Byte) : KeepsTime s (s.putBytes a l) := by
  have hraw : KeepsTime s (s.putRaw a l) := .ite (.putAll s a l)
    (((KeepsTime.foldl (.settleSector a _) _ s).trans (.foldl (.settleWord a _) _ _)).trans (.putKept _ a l))
  rw [State.putBytes, State.inject_eq]
  exact hraw.trans (.of (by rfl))

theorem KeepsTime.wr (s : State) (a n v : Nat) : KeepsTime s (s.wr a n v) := .putBytes s a _

theorem KeepsTime.store (s : State) (a : Nat) (l : List Byte) : KeepsTime s (s.store a l) := .ite (.refl s) (.putBytes s a l)

theorem KeepsTime.freeBytes (a n : Nat) (s : State) : KeepsTime s (freeBytes a n s) :=
  .foldl (fun s _ => (KeepsTime.draw s).trans (.of (by rfl))) _ s

theorem KeepsTime.msix (s : State) (f v : Nat) : KeepsTime s (s.msix f v) := .ite (.refl s) (.ite (.ite (.out s _) (.refl s)) (.updHost s _))

theorem KeepsTime.putHeld (h : Held) (s : State) : KeepsTime s (putHeld h s) := by
  have hput := KeepsTime.foldl (fun s (w : Nat × List Byte) => KeepsTime.putBytes s w.1 w.2) h.ws s
  unfold Machine.putHeld
  cases h.msg with
  | none => exact hput
  | some m => exact hput.trans (.msix _ m.1 m.2)

theorem KeepsTime.putDev (h : Held) (s : State) : KeepsTime s (putDev h s) := .ite (.refl s) (.ite (.updHost s _) (.putHeld h s))

/-! #### Stopping an owner -/

theorem KeepsTime.haltCoreAt (c : Nat) (s : State) : KeepsTime s (State.haltCoreAt c s) := by
  refine .setCore s (fun hq => ?_)
  dsimp only
  split
  · rfl
  · exact hq

theorem KeepsTime.freezeCoreAt (c : Nat) (s : State) : KeepsTime s (State.freezeCoreAt c s) :=
  (KeepsTime.haltCoreAt c s).trans (.setCore _ (by exact id))

theorem KeepsTime.dropLaunches (p : Nat) (s : State) : KeepsTime s (dropLaunches p s) := .of rfl

theorem KeepsTime.freezeMasters (p : Nat) (s : State) : KeepsTime s (freezeMasters p s) :=
  ((KeepsTime.foldl (fun s c => (KeepsTime.freezeCoreAt c s).trans (.setCore _ (by exact id))) _ s).trans (.updHost _ _)).trans (.dropLaunches p _)

theorem KeepsTime.spoil (s0 : State) (cs : List Conv) (s : State) : KeepsTime s (spoil s0 cs s) := by
  unfold Machine.spoil
  exact .foldl (fun s c => .foldl (fun s r => .freeBytes r.1 r.2 s) (convArea s0 c) s) _ s

theorem KeepsTime.abandonOwner (p : Nat) (s : State) : KeepsTime s (abandonOwner p s) :=
  KeepsTime.trans (.of (by rfl)) (.spoil s _ _)

theorem KeepsTime.cancelArms (p : Nat) (s : State) : KeepsTime s (cancelArms p s) :=
  (KeepsTime.updCrs s _ (fun _ => by rfl)).trans (.ite (.refl _) (.of (by rfl)))

theorem KeepsTime.readyClosed (p : Nat) (s : State) : KeepsTime s (readyClosed p s) := .updCrs s _ (fun _ => rfl)

theorem KeepsTime.closeStep (p flags : Nat) (ready : Bool) (s : State) : KeepsTime s (closeStep p flags ready s) := by
  unfold Machine.closeStep
  split
  · exact .refl s
  · exact .updCrs s _ (fun _ => rfl)

theorem KeepsTime.applyConvictions (s : State) : KeepsTime s (applyConvictions s) :=
  .ite (.refl s) ((KeepsTime.foldl (fun s _ => .setReg s _ _) _ s).trans (.updFlt _ _))

theorem KeepsTime.finish (s : State) (c : Disp) (status : Nat) : KeepsTime s (s.finish c status) :=
  (((KeepsTime.draw s).trans (.updQueue _ c.q _)).trans (.updQue _ _)).trans (.putDev _ _)

theorem KeepsTime.stopOwner (p : Nat) (s : State) : KeepsTime s (stopOwner p s) := by
  have hhalt : KeepsTime s (((s.setOwner p { s.owner p with st := .faulted }).coresOf p).foldl (fun s c => State.haltCoreAt c s)
      (s.setOwner p { s.owner p with st := .faulted })) := (KeepsTime.setOwner s p _).trans (.foldl (fun s c => .haltCoreAt c s) _ _)
  have hdrop := ((hhalt.trans (.abandonOwner p _)).trans (.dropLaunches p _)).trans ((KeepsTime.cancelArms p _).trans (.readyClosed p _))
  have hend := fun l => (hdrop.trans (.foldl (fun s d => KeepsTime.finish s d 0xFF) l _)).trans (.applyConvictions _)
  exact .ite (.refl s) (.ite ((hend _).trans (.closeStep p 0 true _)) (((hend _).trans (.updFltOwner _ p _)).trans (.out _ _)))

/-! #### Events -/

theorem KeepsTime.toDevRing (r : BitVec 256) (s : State) : KeepsTime s (toDevRing r s) := by
  unfold Machine.toDevRing
  split
  · exact ((KeepsTime.putDev _ s).trans (.updFlt _ _)).trans (.pend _ 1)
  · exact .updFlt s _

theorem KeepsTime.toOwnRing (p : Nat) (r : BitVec 256) (s : State) : KeepsTime s (toOwnRing p r s) := by
  unfold Machine.toOwnRing
  dsimp only
  split
  · exact (KeepsTime.putDev _ s).trans (.updFltOwner _ p _)
  · exact .updFltOwner s p _

theorem KeepsTime.toRings (own : Option Nat) (r : BitVec 256) (s : State) : KeepsTime s (toRings own r s) := by
  cases own with
  | none => exact .toDevRing r s
  | some p => exact (KeepsTime.toDevRing r s).trans (.toOwnRing p r _)

theorem KeepsTime.countEvent (cls : Nat) (own : Option Nat) (s : State) : KeepsTime s (countEvent cls own s) :=
  .ite (.updCrs s _ (fun _ => rfl)) (.refl s)

theorem KeepsTime.consequence (cls : Nat) (fatal8 : Bool) (own : Option Nat) (s : State) : KeepsTime s (consequence cls fatal8 own s) := by
  unfold Machine.consequence
  refine .ite (.ite (.updFlt s _) ((KeepsTime.foldl (fun s p => .stopOwner p s) _ s).trans (.updFlt _ _))) (.ite ?_ (.refl s))
  cases own with
  | none => exact .refl s
  | some p => exact .stopOwner p s

theorem KeepsTime.raise1 (s : State) (code src : Nat) (own : Option Nat) (d0 d1 : W64) : KeepsTime s (s.raise1 code src own d0 d1) := by
  unfold State.raise1
  dsimp only
  generalize Option.filter (fun p => decide (p < 16)) own = own
  refine KeepsTime.trans ?_ (.consequence _ _ own _)
  have hcount := fun f => (KeepsTime.countEvent (code / 4096) own s).trans (.updFlt _ f)
  have hrec : ∀ (o : Option (BitVec 256)) (t : State), KeepsTime t (match o with
      | some r => Machine.toRings own r t
      | none => t) := by
    intro o t
    cases o with
    | none => exact .refl t
    | some r => exact .toRings own r t
  cases own with
  | none => exact (hcount _).trans (hrec _ _)
  | some p =>
    have hwin := fun o g f => ((hcount g).trans (hrec o _)).trans (.updFltOwner _ p f)
    exact .ite (((hwin _ _ _).trans (.toRings _ _ _)).trans (.freezeMasters p _)) (hwin _ _ _)

theorem KeepsTime.flushLost (s : State) : KeepsTime s (flushLost s) :=
  (KeepsTime.updCrs s _ (fun _ => by rfl)).trans (.foldl (fun s p => .raise1 s 0x8703 0x7000 (some p) 0 0) _ _)

/-- No event moves course time. -/
theorem KeepsTime.raise (s : State) (code src : Nat) (own : Option Nat) (d0 d1 : W64) : KeepsTime s (s.raise code src own d0 d1) := by
  have hlow := fun f => ((KeepsTime.raise1 s code src own d0 d1).trans (.flushLost _)).trans (.updFlt _ f)
  exact .ite ((hlow _).trans (.raise1 _ _ _ _ _ _)) (hlow _)

theorem KeepsTime.raiseUe (x : Nat) (own : Option Nat) (s : State) : KeepsTime s (s.raiseUe x own) :=
  (KeepsTime.ite (.refl s) (.updMem s _)).trans (.raise _ _ _ _ _ _)

theorem KeepsTime.mark (s : State) (own : Option Nat) (k : Nat) : KeepsTime s (s.mark own k) := by
  unfold State.mark
  split
  · exact .refl s
  · split
    · exact .refl s
    · exact .ite (.refl s) (.updCrs s _ (fun _ => rfl))

end Sys2Proof.Machine
end

/-! ### Course time under the collective engine -/

section
namespace Sys2Proof.Machine

open Sys2Proof

/-! #### Reads that correct (R233, R243) -/

theorem KeepsTime.bucketLeak (s : State) : KeepsTime s (bucketLeak s) := .ite (.refl s) (.updMem s _)

theorem KeepsTime.updMemCh (c : Nat) (f : MemCh → MemCh) (s : State) : KeepsTime s (updMemCh c f s) := .updMem s _

theorem KeepsTime.countCorrection (sec : Nat) (r : EccRes) (s : State) : KeepsTime s (countCorrection sec r s) := by
  have hce := fun c f => (KeepsTime.bucketLeak s).trans (.updMemCh c f _)
  have hraise := fun (t : State) (p : Prop) [Decidable p] code src d0 d1 (h : KeepsTime s t) =>
    KeepsTime.ite (b := p) (h.trans (.raise t code src none d0 d1)) h
  have htwo := fun c f d g => (hce c f).trans (.updMemCh d g _)
  unfold Machine.countCorrection
  dsimp only
  exact .ite (hraise _ _ _ _ _ _ ((htwo _ _ _ _).trans (.updMem _ _)))
    (hraise _ _ _ _ _ _ (hraise _ _ _ _ _ _ (htwo _ _ _ _)))

theorem KeepsTime.takeRead (sec : Nat) (r : EccRes) (s : State) : KeepsTime s (takeRead sec r s) :=
  .ite (.updMemCh _ _ s) (.ite ((KeepsTime.countCorrection sec r s).trans (.putAll _ _ _)) (.countCorrection sec r s))

theorem KeepsTime.wordFix (w data : Nat) (s : State) : KeepsTime s (wordFix w data s) := by
  have hfix := fun f a l => (KeepsTime.updMem s f).trans (.putAll _ a l)
  unfold Machine.wordFix
  dsimp only
  exact .ite (((hfix _ _ _).trans (.of (by rfl))).trans (.raise _ _ _ _ _ _)) ((hfix _ _ _).trans (.of (by rfl)))

theorem KeepsTime.readNote (s : State) (a n : Nat) : KeepsTime s (s.readNote a n) :=
  (KeepsTime.foldl (fun s x => .ite (.takeRead x _ s) (.refl s)) _ s).trans (.foldl (fun s w => .ite (.wordFix w _ s) (.refl s)) _ _)

theorem KeepsTime.drainFor (own : Option Nat) (s : State) : KeepsTime s (drainFor own s) := by
  have htaken : KeepsTime s { s with sp := { s.sp with notes := [], words := [] } } := .of rfl
  unfold Machine.drainFor
  refine .ite (.refl s) ((htaken.trans (KeepsTime.foldl (fun s e => ?_) _ _)).trans (.foldl (fun s e => ?_) _ _))
  · exact .ite (.countCorrection _ _ s) ((KeepsTime.updMem s _).trans (.raise _ _ _ _ _ _))
  · exact .ite (.raise s _ _ _ _ _) (.updMem s _)

/-! #### Launches, packets and conversations -/

theorem KeepsTime.enterLaunch (e : Nat) (l : Launch) (s : State) : KeepsTime s (enterLaunch e l s) := .setEng s e _

theorem KeepsTime.sendCol (g : Group) (gid ty dev : Nat) (hdr data : List Byte) (s : State) : KeepsTime s (sendCol g gid ty dev hdr data s) := .of rfl

theorem KeepsTime.sendGrant (g : Group) (c : Conv) (rank stream n : Nat) (s : State) : KeepsTime s (sendGrant g c rank stream n s) :=
  .foldl (fun s _ => .sendCol g _ _ _ _ _ s) _ s

theorem KeepsTime.sendArrival (g : Group) (c : Conv) (s : State) : KeepsTime s (sendArrival g c s) := .sendCol g _ _ _ _ _ s

theorem KeepsTime.updGroup (i : Nat) (f : Group → Group) (s : State) : KeepsTime s (updGroup i f s) := by
  unfold Machine.updGroup
  split
  · exact .updCol s _
  · exact .refl s

theorem KeepsTime.updConv (id : Nat) (f : Conv → Conv) (s : State) : KeepsTime s (updConv id f s) := .updCol s _

theorem KeepsTime.updStream (id k : Nat) (f : Stream → Stream) (s : State) : KeepsTime s (updStream id k f s) := .updConv id _ s

theorem KeepsTime.takeSeq (gid rank pos : Nat) (backup : Bool) (g : Group) (s : State) : KeepsTime s (takeSeq gid rank pos backup g s).2 :=
  .updGroup gid _ s

theorem KeepsTime.colRaise (code : Nat) (own : Option Nat) (gid epoch seq mine theirs : Nat) (s : State) :
    KeepsTime s (colRaise code own gid epoch seq mine theirs s) := .raise s _ _ _ _ _

theorem KeepsTime.freezeIssuer (ep : Nat) (s : State) : KeepsTime s (freezeIssuer ep s) := .ite (.freezeCoreAt ep s) (.refl s)

theorem KeepsTime.epochRefuse (ep gid epoch : Nat) (own : Option Nat) (g : Group) (s : State) : KeepsTime s (epochRefuse ep gid epoch own g s) :=
  (KeepsTime.freezeIssuer ep s).trans (.colRaise _ _ _ _ _ _ _ _)

theorem KeepsTime.reqGone (ep : Nat) (sem : Option Nat) (s : State) : KeepsTime s (reqGone ep sem s) := by
  unfold Machine.reqGone
  refine .ite ?_ (.refl s)
  cases sem with
  | none => exact .refl s
  | some m => exact .setCore s id

theorem KeepsTime.abandonSeq (gid seq : Nat) (s : State) : KeepsTime s (abandonSeq gid seq s) :=
  ((KeepsTime.updCol s _).trans (.foldl (fun s (c : Conv) => .reqGone c.ep c.sem s) _ _)).trans (.spoil s _ _)

theorem KeepsTime.abandonWith (code : Nat) (c : Conv) (mine theirs : Nat) (s : State) : KeepsTime s (abandonWith code c mine theirs s) :=
  (KeepsTime.abandonSeq c.gid c.seq s).trans (.colRaise _ _ _ _ _ _ _ _)

/-- A read of the engine goes on, waits, or abandons its conversation. -/
theorem KeepsTime.convRead (c : Conv) (p : Nat × Nat) {f : State → State} (hf : ∀ s, KeepsTime s (f s)) (s : State) : KeepsTime s (convRead c p f s) := by
  unfold Machine.convRead
  refine .ite (.updCol s _) (.ite (((KeepsTime.abandonSeq _ _ s).trans (.freezeIssuer _ _)).trans (.raise _ _ _ _ _ _)) ?_)
  split
  next x hx => exact (KeepsTime.raiseUe x c.own s).trans (.abandonSeq _ _ _)
  next hx => exact (KeepsTime.readNote s p.1 p.2).trans (hf _)

/-! #### Moving a conversation's data (R302, R307, R311) -/

theorem KeepsTime.sendStreamPkt (g : Group) (c : Conv) (rank stream k : Nat) (s : State) : KeepsTime s (sendStreamPkt g c rank stream k s) :=
  .foldl (fun s _ => (KeepsTime.ite (.sendCol g _ _ _ _ _ s) (.refl s)).trans (.sendCol g _ _ _ _ _ _)) _ s

theorem KeepsTime.pumpStream (g : Group) (id rank stream n : Nat) (s : State) : KeepsTime s (pumpStream g id rank stream n s) := by
  induction n generalizing s with
  | zero => exact .refl s
  | succ n ih =>
    unfold Machine.pumpStream
    split
    · exact .refl s
    next c hc =>
      refine .ite (.refl s) (.ite (.convRead c _ (fun t => ?_) s) ?_) <;>
        exact (((KeepsTime.sendStreamPkt g c rank stream _ _).trans (.updStream id _ _ _)).trans (.updConv id _ _)).trans (ih _)

theorem KeepsTime.regrant (g : Group) (id rank stream consumed pkts : Nat) (s : State) : KeepsTime s (regrant g id rank stream consumed pkts s) := by
  unfold Machine.regrant
  split
  · exact .refl s
  · exact .ite ((KeepsTime.updStream id _ _ s).trans (.sendGrant g _ _ _ _ _)) (.refl s)

theorem KeepsTime.placeResult (c : Conv) (k : Nat) (v : List AF40) (s : State) : KeepsTime s (placeResult c k v s) :=
  .ite (.store s _ _) (.ite (.foldl (fun s _ => .putBytes s _ _) _ s) (.refl s))

theorem KeepsTime.takeResult (id k : Nat) (v : List AF40) (s : State) : KeepsTime s (takeResult id k v s) := by
  unfold Machine.takeResult
  split
  · exact .refl s
  · exact (KeepsTime.placeResult _ k v s).trans (.updConv id _ _)

/-- A value of a chain is kept, and stops here where it is a result of this member's. -/
theorem KeepsTime.stopHere (id k : Nat) (v : List AF40) (b : Prop) [Decidable b] (f : Conv → Conv) (s : State) :
    KeepsTime s (if b then Machine.takeResult id k v (Machine.updConv id f s) else Machine.updConv id f s) :=
  .ite ((KeepsTime.updConv id f s).trans (.takeResult id k v _)) (.updConv id f s)

/-- Or it goes to the member's next position. -/
theorem KeepsTime.handOn {s t : State} (h : KeepsTime s t) (o : Option Conv) (f : Conv → Conv) :
    KeepsTime s (match o with
      | some d => Machine.updConv d.id f t
      | none => t) := by
  cases o with
  | none => exact h
  | some d => exact h.trans (.updConv d.id f t)

theorem KeepsTime.makeVals (g : Group) (id n : Nat) (s : State) : KeepsTime s (makeVals g id n s) := by
  induction n generalizing s with
  | zero => exact .refl s
  | succ n ih =>
    unfold Machine.makeVals
    split
    · exact .refl s
    next c hc =>
      refine .ite (.refl s) ?_
      split
      · exact .refl s
      next v hv =>
        refine .ite (.convRead c _ (fun t => ?_) s) ?_ <;>
          exact (KeepsTime.ite (.stopHere _ _ _ _ _ _) (.handOn (.stopHere _ _ _ _ _ _) _ _)).trans (ih _)

theorem KeepsTime.launchAdd (c : Conv) (s : State) : KeepsTime s (launchAdd c s) := .enterLaunch _ _ s

theorem KeepsTime.freeStage (g : Group) (id : Nat) (s : State) : KeepsTime s (freeStage g id s) := by
  unfold Machine.freeStage
  split
  · exact .refl s
  · exact .ite ((KeepsTime.updConv id _ s).trans (.updCol _ _)) (.refl s)

theorem KeepsTime.semAdd (c sem n : Nat) (s : State) : KeepsTime s (semAdd c sem n s).1 := by
  unfold Machine.semAdd
  dsimp only
  split
  · exact .refl s
  · exact .setCore s id

theorem KeepsTime.colSem (ep sem n : Nat) (s : State) : KeepsTime s (colSem ep sem n s) :=
  .ite (.semAdd ep sem n s) (.raise s _ _ _ _ _)

theorem KeepsTime.requeueEarly (gid seq : Nat) (s : State) : KeepsTime s (requeueEarly gid seq s) := .of rfl

/-! #### Opening a conversation (R302, R316, R317) -/

theorem KeepsTime.ownCopy (c : Conv) (s : State) : KeepsTime s (ownCopy c s) :=
  .ite (.ite (.updConv c.id _ s) (.refl s)) (.ite (.store s _ _) (.ite (.store s _ _) (.ite (.store s _ _) (.refl s))))

theorem KeepsTime.stampCheck (id role : Nat) (s : State) : KeepsTime s (stampCheck id role s) := by
  unfold Machine.stampCheck
  split
  · exact .refl s
  next c hc =>
    have hchk : ∀ (b b' : Bool) m t a l s, KeepsTime s (if b then Machine.abandonWith 0x8304 c m t s else if b' then s else s.store a l) :=
      fun b b' m t a l s => .ite (.abandonWith _ c m t s) (.ite (.refl s) (.store s a l))
    exact .ite (.refl s) (.ite (.convRead c _ (fun s => hchk _ _ _ _ _ _ s) s) (hchk _ _ _ _ _ _ s))

theorem KeepsTime.ownStamp (id : Nat) (s : State) : KeepsTime s (ownStamp id s) := by
  unfold Machine.ownStamp
  split
  · exact .refl s
  · exact .ite ((KeepsTime.updStream id _ _ s).trans (.stampCheck id _ _)) (.refl s)

/-! #### Completion (R304, R320, R387) -/

theorem KeepsTime.dispatchLeft (c : Nat) (s : State) : KeepsTime s (dispatchLeft c s) := by
  unfold Machine.dispatchLeft
  split
  · exact .refl s
  · exact KeepsTime.trans (t := s.updCore c _) (.setCore s id) (.updQue _ _)

theorem KeepsTime.endCheck (c : Nat) (s : State) : KeepsTime s (endCheck c s) := by
  refine .ite ?_ (.refl s)
  exact (KeepsTime.setCore s (fun _ => rfl)).trans ((KeepsTime.idleNow _ c).trans (.dispatchLeft c _))

theorem KeepsTime.noteFin (c : Conv) (s : State) : KeepsTime s (noteFin c s) := .updCol s _

theorem KeepsTime.reap (s : State) : KeepsTime s (reap s) := .of rfl

theorem KeepsTime.launchHistory (own : Option Nat) (scope : Nat) (step : W64) (s : State) : KeepsTime s (launchHistory own scope step s) :=
  .foldl (fun s _ => .ite (.refl s) (.enterLaunch _ _ s)) _ s

theorem KeepsTime.snapScope (own : Option Nat) (scope : Nat) (s : State) : KeepsTime s (snapScope own scope s) := by
  unfold Machine.snapScope
  split
  · exact .refl s
  · exact .ite (.refl s) (.foldl (fun s _ => .enterLaunch _ _ s) _ s)

theorem KeepsTime.amaxDone (c : Conv) (s : State) : KeepsTime s (amaxDone c s) := by
  unfold Machine.amaxDone
  exact ((KeepsTime.foldl (fun s _ => .wr s _ _ _) _ s).trans (.launchHistory _ _ _ _)).trans (.snapScope _ _ _)

theorem KeepsTime.digestAgreed (own : Option Nat) (s : State) : KeepsTime s (digestAgreed own s) := by
  cases own with
  | none => exact .refl s
  | some p =>
    unfold Machine.digestAgreed
    exact (KeepsTime.updCrs s _ (fun _ => by rfl)).trans (.mark _ _ _)

theorem KeepsTime.digestDone (g : Group) (c : Conv) (s : State) : KeepsTime s (digestDone g c s) := by
  unfold Machine.digestDone
  dsimp only
  split
  · exact .digestAgreed _ s
  · exact .raise s _ _ _ _ _

end Sys2Proof.Machine
end

/-! ### Course time under the collective engine where no bundle waits -/

section
namespace Sys2Proof.Machine

open Sys2Proof

/-- Course time stands still where no bundle waits: a semaphore that the engine adds to gives no core a turn (R149). -/
def Quietly (s t : State) : Prop := Quiet s → KeepsTime s t

theorem KeepsTime.quietly {s t : State} (h : KeepsTime s t) : Quietly s t := fun _ => h

theorem Quietly.trans {s t u : State} (h : Quietly s t) (k : Quietly t u) : Quietly s u := fun hq => (h hq).trans (k ((h hq).quiet hq))

theorem Quietly.refl (s : State) : Quietly s s := fun _ => .refl s

theorem Quietly.foldl {α : Type} {f : State → α → State} (h : ∀ s a, Quietly s (f s a)) (l : List α) (s : State) : Quietly s (l.foldl f s) := by
  induction l generalizing s with
  | nil => exact .refl s
  | cons a r ih => exact (h s a).trans (ih (f s a))

theorem Quietly.ite {s t u : State} {b : Prop} [Decidable b] (h : Quietly s t) (k : Quietly s u) : Quietly s (if b then t else u) := by
  split <;> assumption

theorem Quietly.settle (s : State) : Quietly s (settle s) := fun hq => by
  rw [settle_quiet hq]
  exact .refl s

/-! #### Driving a conversation (R302, R316) -/

theorem Quietly.chunkSignal (g : Group) (id : Nat) (s : State) : Quietly s (chunkSignal g id s) := by
  unfold Machine.chunkSignal
  split
  · exact .refl s
  · exact .ite (((KeepsTime.updConv id _ s).trans (.colSem _ _ _ _)).quietly.trans (.settle _)) (.refl s)

theorem KeepsTime.regrantAll (g : Group) (id : Nat) (s : State) :
    KeepsTime s (match findConv s id with
      | some d => (d.ins g).foldl (fun s i => Machine.regrant g id i.1 i.2.1 (d.consumed g i.1 i.2.1) i.2.2 s) s
      | none => s) := by
  split
  · exact .foldl (fun s _ => .regrant g id _ _ _ _ s) _ s
  · exact .refl s

theorem Quietly.drive (id : Nat) (s : State) : Quietly s (drive id s) := by
  unfold Machine.drive
  split
  · exact .refl s
  next c hc =>
    split
    · exact .refl s
    next g hg =>
      have hadd : KeepsTime s (if c.canAdd g then Machine.launchAdd c (Machine.updConv id (fun x => { x with asked := true }) s) else s) :=
        .ite ((KeepsTime.updConv id _ s).trans (.launchAdd c _)) (.refl s)
      have hmake := hadd.trans (.ite (b := isChain c.op) (.makeVals g id (c.chainPkts g + 1) _) (.refl _))
      have hpump := hmake.trans (.foldl (fun s (o : Nat × Nat) => .pumpStream g id o.1 o.2 ((c.ready g o.1 o.2).2 + 1) s) (c.outs g) _)
      refine .ite (.refl s) ?_
      exact ((hpump.trans (.regrantAll g id _)).trans (.freeStage g id _)).quietly.trans (.chunkSignal g id _)

theorem Quietly.driveAll (gid seq : Nat) (s : State) : Quietly s (driveAll gid seq s) := .foldl (fun s (c : Conv) => .drive c.id s) _ s

theorem Quietly.driveStuck (s : State) : Quietly s (driveStuck s) :=
  .ite ((KeepsTime.updCol s _).quietly.trans (.foldl (fun s (c : Conv) => .drive c.id s) _ _)) (.refl s)

/-! #### Opening conversations (R302, R304, R306) -/

theorem Quietly.openConv (id : Nat) (s : State) : Quietly s (openConv id s) := by
  unfold Machine.openConv
  split
  · exact .refl s
  · split
    · exact .refl s
    next g hg =>
      have hopen := fun f => KeepsTime.updConv id f s
      refine .ite ((hopen _).trans (.sendArrival g _ _)).quietly (Quietly.trans (KeepsTime.quietly ?_) (.driveAll _ _ _))
      exact (((hopen _).trans (.ownCopy _ _)).trans (.ownStamp id _)).trans (.foldl (fun s _ => .regrant g id _ _ _ _ s) _ _)

theorem Quietly.openReleased (s : State) : Quietly s (openReleased s) := by
  refine .foldl (fun s c => ?_) _ s
  split
  · exact .ite (.refl s) (.openConv _ s)
  · exact .refl s

theorem Quietly.beginConv (c : Conv) (s : State) : Quietly s (beginConv c s) := by
  unfold Machine.beginConv
  split
  · exact .refl s
  next g hg =>
    have hnew := fun f => (KeepsTime.updCol s f).quietly
    exact .ite (KeepsTime.reqGone _ _ s).quietly ((Quietly.ite (hnew _) ((hnew _).trans (.openConv _ _))).trans (KeepsTime.requeueEarly _ _ _).quietly)

theorem Quietly.amaxBegin (own : Option Nat) (scope : Nat) (step : W64) (s : State) : Quietly s (amaxBegin own scope step s) := by
  have hrefuse := (KeepsTime.colRaise 0x8305 own (scope % 4096) 0 0 0 0 s).quietly
  unfold Machine.amaxBegin
  refine .ite hrefuse ?_
  split
  · exact hrefuse
  next g hg =>
    split
    · exact hrefuse
    · exact .ite hrefuse (.ite (KeepsTime.epochRefuse _ _ _ own g s).quietly ((KeepsTime.takeSeq _ _ _ _ g s).quietly.trans (.beginConv _ _)))

theorem Quietly.digestBegin (own : Option Nat) (shard : W64) (s : State) : Quietly s (digestBegin own shard s) := by
  unfold Machine.digestBegin
  split
  · exact .refl s
  next p =>
    have hrefuse := fun gid => (KeepsTime.colRaise 0x8305 (some p) gid 0 0 0 0 s).quietly
    refine .ite (.refl s) (.ite (hrefuse _) ?_)
    split
    · exact hrefuse _
    next g hg =>
      split
      · exact hrefuse _
      · exact .ite (hrefuse _) (.ite (KeepsTime.digestAgreed _ s).quietly (.ite (KeepsTime.epochRefuse _ _ _ _ g s).quietly
          ((KeepsTime.takeSeq _ _ _ _ g s).quietly.trans (.beginConv _ _))))

theorem Quietly.beginWaiting (n : Nat) (s : State) : Quietly s (beginWaiting n s) := by
  induction n generalizing s with
  | zero => exact .refl s
  | succ n ih =>
    unfold Machine.beginWaiting
    split
    · exact .refl s
    next r rest hw =>
      have hrest := (KeepsTime.updCol s (fun t => { t with wait := rest })).quietly
      exact .ite (.refl s) ((hrest.trans (.ite (.amaxBegin _ _ _ _) (.digestBegin _ _ _))).trans (ih _))

theorem Quietly.reopenConv (c : Conv) (s : State) : Quietly s (reopenConv c s) := by
  unfold Machine.reopenConv
  split
  · exact .refl s
  next g hg =>
    have hback := fun f => KeepsTime.updCol s f
    refine .ite (hback _).quietly (.ite (hback _).quietly (.ite (.ite (hback _).quietly ((hback _).trans (.sendArrival g _ _)).quietly) ?_))
    exact ((hback _).trans (.foldl (fun s _ => .sendGrant g _ _ _ _ s) _ _)).quietly.trans (.drive _ _)

theorem Quietly.engineWaits (s : State) : Quietly s (engineWaits s) :=
  .ite (.refl s) (((KeepsTime.updCol s _).quietly.trans (.foldl (fun s c => .reopenConv c s) _ _)).trans (.beginWaiting _ _))

/-! #### Barriers (R319) -/

theorem Quietly.finishConv (g : Group) (c : Conv) (s : State) : Quietly s (finishConv g c s) := by
  have hdone := fun f => (KeepsTime.updConv c.id f s).trans (.noteFin c _)
  unfold Machine.finishConv
  refine Quietly.trans (KeepsTime.quietly (KeepsTime.trans ?_ (.reap _))) (.settle _)
  split
  · refine .ite ?_ (((hdone _).trans (.updCol _ _)).trans (.pend _ 5))
    split
    · exact (((hdone _).trans (.reqGone _ _ _)).trans (.colSem _ _ _ _)).trans (.endCheck _ _)
    · exact hdone _
  · exact (hdone _).trans (.amaxDone c _)
  · exact (hdone _).trans (.digestDone g c _)
  · exact hdone _

theorem Quietly.barrierCourse (s : State) : Quietly s (barrierCourse s) := by
  refine .foldl (fun s c => ?_) _ s
  split
  · exact .ite (.finishConv _ _ s) (KeepsTime.abandonWith _ _ _ _ s).quietly
  · exact .refl s

end Sys2Proof.Machine
end

/-! ### Writes that set a register's RW fields (R18) -/

section
namespace Sys2Proof.Machine

open Sys2Proof

/-! #### Bits of fields -/

theorem RField.testBit_mask (f : RField) (i : Nat) : f.mask.testBit i = (decide (f.lo ≤ i) && decide (i ≤ f.hi)) := by
  by_cases h : f.lo ≤ f.hi + 1
  · have hshift : f.mask = (2 ^ (f.hi + 1 - f.lo) - 1) <<< f.lo := by
      rw [RField.mask, Nat.shiftLeft_eq, Nat.sub_mul, Nat.one_mul, ← Nat.pow_add, Nat.sub_add_cancel h]
    rw [hshift, Nat.testBit_shiftLeft, Nat.testBit_two_pow_sub_one]
    by_cases hlo : f.lo ≤ i
    · simp only [hlo, decide_true, Bool.true_and, decide_eq_decide]
      omega
    · simp [hlo]
  · have hzero : f.mask = 0 := Nat.sub_eq_zero_of_le (Nat.pow_le_pow_right (by omega) (by omega))
    rw [hzero, Nat.zero_testBit]
    refine (Bool.and_eq_false_iff.2 ?_).symm
    rw [decide_eq_false_iff_not, decide_eq_false_iff_not]
    omega

theorem testBit_foldl_mask (l : List RField) (m i : Nat) :
    (l.foldl (fun m f => m ||| f.mask) m).testBit i = (m.testBit i || l.any (fun f => decide (f.lo ≤ i) && decide (i ≤ f.hi))) := by
  induction l generalizing m with
  | nil => simp
  | cons f r ih => rw [List.foldl_cons, ih, Nat.testBit_or, RField.testBit_mask, List.any_cons, Bool.or_assoc]

theorem Reg.testBit_bits_rw (r : Reg) (i : Nat) : (r.bits .rw).testBit i = r.rwBit i := by
  rw [Reg.bits, testBit_foldl_mask, Nat.zero_testBit, Bool.false_or, List.any_filter, Reg.rwBit]
  simp only [Bool.and_assoc]

theorem testBit_flags (l : List Bool) (i : Nat) : (flags l).testBit i = l.getD i false := by
  induction l generalizing i with
  | nil => simp [flags]
  | cons b r ih =>
    have hcons : flags (b :: r) = (if b then 1 else 0) + 2 * flags r := rfl
    cases i with
    | zero => cases b <;> simp [hcons, Nat.testBit_zero]
    | succ i =>
      rw [hcons, Nat.testBit_succ, show ((if b then 1 else 0) + 2 * flags r) / 2 = flags r by split <;> omega, ih]
      simp

/-- After a whole write a stored bit is as written in an RW field, and as it was elsewhere. -/
theorem bitOf_rwPut (s : State) (r : Reg) (v : W64) {i : Nat} (h : i < 64) : bitOf (rwPut s r v) i = if r.rwBit i then bitOf v i else bitOf (s.stored r) i := by
  simp only [bitOf, rwPut, BitVec.getLsbD_ofNat, h, decide_true, Bool.true_and, testBit_flags]
  rw [List.getD_eq_getElem _ _ (by simpa using h)]
  simp

theorem bitOf_rwPut_rw (s : State) {r : Reg} (v : W64) {i : Nat} (hrw : r.rwBit i = true) (h : i < 64) : bitOf (rwPut s r v) i = bitOf v i := by
  rw [bitOf_rwPut s r v h, if_pos hrw]

/-! #### A whole write -/

/-- A register of the part that only RW fields keep what is written of, and where nothing but its own condition forbids a whole write. -/
structure Reg.Stores (r : Reg) (s : State) : Prop where
  found : regAt r.off = some r
  present : r.absent s = false
  aligned : r.off % 8 = 0
  fields : ∀ f ∈ r.fields, f.hi < 64 ∧ f.acc ≠ .rwl
  held : s.rwVal r = s.stored r
  put : ∀ x t, storeReg r x t = t.setReg r.off x

theorem Reg.Stores.newVal {r : Reg} {s : State} (h : r.Stores s) (v : W64) : newVal s r v (2 ^ 64 - 1) = rwPut s r v := by
  have hrwl : r.bits .rwl = 0 := Reg.bits_eq_zero (fun f hf => have ⟨_, hrwl⟩ := h.fields f hf; hrwl)
  have hmask : (2 ^ 64 - 1) &&& r.bits .rw < 2 ^ 64 := lt_of_le_of_lt Nat.and_le_left (by decide)
  refine BitVec.eq_of_getLsbD_eq (fun i hi => (Eq.trans ?_ (bitOf_rwPut s r v hi).symm))
  have hi' : (2 ^ 64 - 1).testBit i = true := by rw [Nat.testBit_two_pow_sub_one, decide_eq_true hi]
  have hbit : ((2 ^ 64 - 1) &&& r.bits .rw).testBit i = r.rwBit i := by rw [Nat.testBit_and, hi', Bool.true_and, Reg.testBit_bits_rw]
  have hnot : (2 ^ 64 - 1 - ((2 ^ 64 - 1) &&& r.bits .rw)).testBit i = !r.rwBit i := by
    rw [Nat.sub_sub, Nat.add_comm 1, Nat.testBit_two_pow_sub_succ hmask, decide_eq_true hi, Bool.true_and, hbit]
  simp only [Machine.newVal, hrwl, Nat.or_zero, h.held, BitVec.getLsbD_ofNat, hi, decide_true, Bool.true_and, Nat.testBit_or]
  rw [Nat.testBit_and, Nat.testBit_and, hnot, hbit]
  cases r.rwBit i <;> simp [bitOf, BitVec.getLsbD]

/-- The control complex's whole write of such a register sets its RW fields, and then the register acts. -/
theorem write64_ctl_stores {r : Reg} {s : State} (h : r.Stores s) {v : W64}
    (hfree : regForbids s false r (s.stored r) (rwPut s r v) v (2 ^ 64 - 1) = false) :
    write64 .ctl r v s = regActs r (s.stored r) (rwPut s r v) v (2 ^ 64 - 1) (s.setReg r.off (rwPut s r v)) := by
  have hmask : coverMask r.off 8 = 2 ^ 64 - 1 := rfl
  have hlock : lockHit s r (2 ^ 64 - 1) = false := by
    simp [lockHit, Reg.bits_eq_zero (a := .rwl) (fun f hf => have ⟨_, hrwl⟩ := h.fields f hf; hrwl)]
  have hpart : partWo r (2 ^ 64 - 1) = false := partWo_whole (fun f hf => have ⟨hhi, _⟩ := h.fields f hf; hhi) r.off
  have hgood : writeBad s false .ctl r.off 8 v = false := by
    simp only [writeBad, h.found, h.aligned, writeRight, hmask, hpart, hlock, placed, h.newVal, h.held]
    simpa using fun _ => hfree
  have hdo : writeDo r.off 8 v s = regActs r (s.stored r) (rwPut s r v) v (2 ^ 64 - 1) (s.setReg r.off (rwPut s r v)) := by
    simp only [writeDo, h.found, h.present, hmask, placed, h.newVal, h.held, h.put]
    simp
  simp [write64, regWrite, fnMute, hgood, hdo]

end Sys2Proof.Machine
end

/-! ### Course time (R250 to R256, R451, R487) -/

section
namespace Sys2Proof.Machine

open Sys2Proof

/-! #### CRS_CTRL -/

theorem bitsOf_congr {x y : W64} {hi lo : Nat} (h : ∀ i, lo ≤ i → i ≤ hi → bitOf x i = bitOf y i) : bitsOf x hi lo = bitsOf y hi lo := by
  refine Nat.eq_of_testBit_eq (fun i => ?_)
  simp only [bitsOf, Nat.testBit_mod_two_pow, Nat.testBit_shiftRight]
  by_cases hi' : i < hi + 1 - lo
  · exact congrArg _ (h (lo + i) (by omega) (by omega))
  · simp [hi']

theorem bitsOf_bit (x : W64) (n : Nat) : bitsOf x n n = (bitOf x n).toNat := by
  rw [bitsOf, Nat.add_sub_cancel_left, Nat.pow_one, bitOf, BitVec.getLsbD, Nat.testBit, Nat.one_and_eq_mod_two]
  have hlt : x.toNat >>> n % 2 < 2 := Nat.mod_lt _ (by decide)
  generalize x.toNat >>> n % 2 = b at hlt
  interval_cases b <;> rfl

theorem crsCtrl_stores (s : State) : Reg.crsCtrl.Stores s where
  found := rfl
  present := rfl
  aligned := rfl
  fields := by simp [Reg.fields, roF, rwF]
  held := rfl
  put _ _ := rfl

theorem updCrsSt_changed {s : State} {f : CrsSt → CrsSt} (h : (f s.u.crs).st ≠ s.u.crs.st) : s.updCrsSt f = (s.updCrs f).pend 7 := by
  rw [State.updCrsSt, decide_eq_true h]
  rfl

theorem updCrsSt_same {s : State} {f : CrsSt → CrsSt} (h : (f s.u.crs).st = s.u.crs.st) : s.updCrsSt f = s.updCrs f := by
  rw [State.updCrsSt, decide_eq_false (not_not.2 h)]
  rfl

@[simp] theorem updCrsSt_crs (s : State) (f : CrsSt → CrsSt) : (s.updCrsSt f).u.crs = f s.u.crs := by
  unfold State.updCrsSt State.pendIf
  split <;> rfl

@[simp] theorem updCrsSt_course (s : State) (f : CrsSt → CrsSt) : (s.updCrsSt f).course = s.course := by
  unfold State.updCrsSt State.pendIf
  split <;> rfl

/-- Only a follower in HOLDOVER that takes the lead changes its state (R256). -/
theorem leadChanged_other {s : State} (h : s.u.crs.st ≠ tsHoldover) (on : Bool) : leadChanged on s = s := by simp [leadChanged, h]

section
variable {s : State} (hst : s.u.crs.st = tsStopped)
include hst

/-- After a clock loss the machine stays STOPPED (R451). -/
theorem runChanged_lost (hl : s.u.pow.loss ≠ 0) (on : Bool) : runChanged on s = s.updCrs (fun c => { c with beyond := false }) := by
  have hoff : (on && s.u.pow.loss == 0) = false := by simp [hl]
  have hsame : (s.updCrs (fun c => { c with beyond := false })).updCrs (fun c => { c with st := tsStopped }) =
      s.updCrs (fun c => { c with beyond := false }) := by rw [← hst]; rfl
  unfold runChanged
  rw [hoff]
  exact (updCrsSt_same hst.symm).trans hsame

theorem runChanged_lead (hl : s.u.pow.loss = 0) (hlead : crsLead s = true) :
    runChanged true s = (s.updCrs (fun c => { c with st := tsLocked, tick := 0, beyond := false })).pend 7 := by
  have hlead' : crsLead (s.updCrs (fun c => { c with beyond := false })) = true := hlead
  simp only [runChanged, hl, hlead', beq_self_eq_true, Bool.and_self, Bool.not_true, Bool.false_eq_true, if_false, if_true]
  exact updCrsSt_changed ((show tsLocked ≠ tsStopped by decide).trans_eq hst.symm)

theorem runChanged_follow (hl : s.u.pow.loss = 0) (hlead : crsLead s = false) :
    runChanged true s = (s.updCrs (fun c => { c with st := tsAcquiring, tick := 0, synced := false, good := 0, beyond := false })).pend 7 := by
  have hlead' : crsLead (s.updCrs (fun c => { c with beyond := false })) = false := hlead
  simp only [runChanged, hl, hlead', beq_self_eq_true, Bool.and_self, Bool.not_true, Bool.false_eq_true, if_false]
  exact updCrsSt_changed ((show tsAcquiring ≠ tsStopped by decide).trans_eq hst.symm)

/-- While STOPPED and with no arm, the control complex's write of CRS_CTRL sets its fields, and RUN acts where it changes (R252, R256). -/
theorem write64_crsCtrl (harms : s.u.crs.arms = []) {v : W64} (hp : bitsOf v 14 8 = 127 ∨ bitsOf v 14 8 ≤ 63) :
    write64 .ctl .crsCtrl v s = if bitOf v 0 = bitOf (s.stored .crsCtrl) 0 then s.setReg 0x500008 (rwPut s .crsCtrl v)
      else runChanged (bitOf v 0) (s.setReg 0x500008 (rwPut s .crsCtrl v)) := by
  have hparent : bitsOf (rwPut s .crsCtrl v) 14 8 = bitsOf v 14 8 :=
    bitsOf_congr (fun i hlo hhi => bitOf_rwPut_rw s v (by simp [Reg.rwBit, Reg.fields, rwF, roF, hlo, hhi]) (by omega))
  have hrun : bitOf (rwPut s .crsCtrl v) 0 = bitOf v 0 := bitOf_rwPut_rw s v rfl (by decide)
  have hfree : regForbids s false .crsCtrl (s.stored .crsCtrl) (rwPut s .crsCtrl v) v (2 ^ 64 - 1) = false := by
    simp only [regForbids, hst, harms, hparent]
    simp
    omega
  have hold : ∀ on, leadChanged on (s.setReg 0x500008 (rwPut s .crsCtrl v)) = s.setReg 0x500008 (rwPut s .crsCtrl v) :=
    leadChanged_other (by rw [State.setReg_u, hst]; decide)
  rw [write64_ctl_stores (crsCtrl_stores s) hfree]
  simp only [regActs, Reg.off, hold, ite_self, hrun, bitsOf_bit]
  cases bitOf v 0 <;> cases bitOf (s.stored .crsCtrl) 0 <;> rfl

end

theorem crsLead_written (s : State) (v : W64) : crsLead (s.setReg 0x500008 (rwPut s .crsCtrl v)) = bitOf v 1 := by
  rw [crsLead, crsCtrl, State.reg_setReg_same, bitOf_rwPut_rw s v (by decide) (by decide)]

/-! #### Syncs and delays (R254, R256) -/

theorem nowTicks_eq (s : State) (tick : Nat) : nowTicks s tick = (s.course.toNat * 9000 + tick % 9000 : Nat) := by simp [nowTicks]

@[simp] theorem crsLinkOf_updCrsLink (l : Nat) (f : CrsLink → CrsLink) (s : State) : crsLinkOf (updCrsLink l f s) l = f (crsLinkOf s l) := by
  unfold crsLinkOf
  exact SMap.get_set_same _ l _ _

theorem onLink_of_lt {l : Nat} {s : State} (h : l < s.nLinks) (f : State → State) : onLink l s f = .next (f s) := if_pos h

section
variable {s : State} {l : Nat} (hl : l = crsParent s) (hlead : crsLead s = false) (hst : s.u.crs.st = tsAcquiring)
include hl hlead hst

/-- The first sync of a follower in ACQUIRING. -/
theorem syncReceive_first (hs : s.u.crs.synced = false) (hq : Quiet s) (stamp tick : Nat) :
    let pt : Int := stamp + (crsLinkOf s l).delay
    syncReceive l stamp tick s = { ((updCrsLink l (fun x => { x with offset := pt - nowTicks s tick }) s).updCrs (fun c => { c with
        steer := pt - nowTicks s tick, lastSync := s.course.toNat })).updCrs (fun c => { c with
        synced := true, good := 0, steer := 0, tick := (pt % 9000).toNat, lastSync := (pt / 9000).toNat }) with
      course := BitVec.ofNat 64 (pt / 9000).toNat } := by
  simp only [syncReceive, ← hl, hlead, hst, hs]
  simp only [ne_eq, not_true_eq_false, decide_false, Bool.false_or, Bool.false_and, Bool.false_eq_true, if_false, if_true, Bool.not_false]
  exact settle_quiet (hq.of_core (fun _ => rfl))

/-- A later one. -/
theorem syncReceive_later (hs : s.u.crs.synced = true) (stamp tick : Nat) :
    let off : Int := stamp + (crsLinkOf s l).delay - nowTicks s tick
    let good := if off.natAbs ≤ crsTol s then s.u.crs.good + 1 else 0
    syncReceive l stamp tick s = ((updCrsLink l (fun x => { x with offset := off }) s).updCrs (fun c => { c with
        steer := off, lastSync := s.course.toNat })).updCrsSt (fun c => { c with
        good, beyond := false, st := if 16 ≤ good then tsLocked else tsAcquiring }) := by
  simp only [syncReceive, ← hl, hlead, hst, hs]
  simp

end

/-- A TIME message waits at a link that is UP. -/
def queueTime (m : Nat × Nat) (s : State) (l : Nat) : State :=
  if (s.link l).st = lkUp then s.updTx l (fun t => { t with time := t.time ++ [m] }) else s

theorem link_queueTime_same (m : Nat × Nat) (s : State) (l : Nat) : ((queueTime m s l).link l).tx.time =
    (s.link l).tx.time ++ (if (s.link l).st = lkUp then [m] else []) := by
  unfold queueTime
  split
  · simp [State.updTx, State.updLink, State.setLink, State.link]
  · simp

theorem link_queueTime_other (m : Nat × Nat) (s : State) {l k : Nat} (h : l ≠ k) : (queueTime m s l).link k = s.link k := by
  unfold queueTime
  split
  · unfold State.link
    exact SMap.get_set_other _ h _ _
  · rfl

theorem mem_queueTime (m : Nat × Nat) (s : State) (l : Nat) : (queueTime m s l).mem = s.mem := by
  unfold queueTime
  split <;> rfl

/-- Links named once each queue the message once where they are UP. -/
theorem time_foldl_queueTime (m : Nat × Nat) {ls : List Nat} (h : ls.Nodup) (s : State) (k : Nat) :
    ((ls.foldl (queueTime m) s).link k).tx.time = (s.link k).tx.time ++ (if k ∈ ls ∧ (s.link k).st = lkUp then [m] else []) := by
  induction ls generalizing s with
  | nil => simp
  | cons l r ih =>
    obtain ⟨hl, hr⟩ := List.nodup_cons.1 h
    rw [List.foldl_cons, ih hr]
    by_cases hk : l = k
    · subst hk
      simp [hl, link_queueTime_same]
    · simp [link_queueTime_other m s hk, Ne.symm hk]

theorem mem_foldl_queueTime (m : Nat × Nat) (ls : List Nat) (s : State) : (ls.foldl (queueTime m) s).mem = s.mem := by
  induction ls generalizing s with
  | nil => rfl
  | cons l r ih => rw [List.foldl_cons, ih, mem_queueTime]

theorem syncSend_sends {s : State} (h : s.u.crs.st = tsLocked ∨ s.u.crs.st = tsHoldover) (ls : List Nat) :
    syncSend ls s = ls.foldl (queueTime (0, 0)) s :=
  if_pos (by simpa using h)

theorem delayRequest_follower {s : State} (h : crsLead s = false) : delayRequest s = (List.range s.nLinks).foldl (queueTime (1, 0)) s :=
  if_neg (by simp [h])

theorem delayReply_due {s : State} {l : Nat} {t1 : Int} (h : (crsLinkOf s l).t1 = some t1) (t2 t3 t4 : Int) :
    delayReply l t2 t3 t4 s =
      (let s1 := updCrsLink l (fun x => { x with delay := ((t4 - t1) - (t3 - t2)) / 2, t1 := none }) s
      if l = crsParent s then s1.updCrs (fun c => { c with steer := ((t2 - t1) - (t4 - t3)) / 2 - crsAsym s l / 2 }) else s1) := by
  simp only [delayReply, h]

/-! #### HOLDOVER and LOST (R256) -/

theorem holdoverEnter_due {s : State} (hst : s.u.crs.st = tsLocked) (hlead : crsLead s = false) (h : s.u.crs.lastSync + 1024 ≤ s.course.toNat) :
    holdoverEnter s = (s.updCrsSt (fun c => { c with st := tsHoldover, heldAt := s.course.toNat })).raise 0x4702 0x7000 none 0 0 :=
  if_pos (by simp [hst, hlead, h])

theorem holdoverEnter_lead {s : State} (h : crsLead s = true) : holdoverEnter s = s := if_neg (by simp [h])

theorem syncLost_due {s : State} (hst : s.u.crs.st = tsHoldover) (h : s.u.crs.heldAt + crsHold s < s.course.toNat) :
    syncLost s = (dedupe (s.u.crs.arms.map armOwner)).foldl (fun s p => cancelArms p (s.raise 0x8701 0x7000 (some p) 0 0))
      ((s.updCrs (fun c => { c with st := tsLost })).pend 7) := by
  have hchanged : s.updCrsSt (fun c => { c with st := tsLost }) = (s.updCrs (fun c => { c with st := tsLost })).pend 7 :=
    updCrsSt_changed ((show tsLost ≠ tsHoldover by decide).trans_eq hst.symm)
  rw [← hchanged]
  exact if_pos (by simp [hst, h])

theorem syncLost_other {s : State} (h : s.u.crs.st ≠ tsHoldover) : syncLost s = s := if_neg (by simp [h])

/-! #### A course boundary (R250, R251, R487) -/

theorem KeepsTime.healthDecay (s : State) : KeepsTime s (healthDecay s) := .ite ((KeepsTime.updFlt s _).trans (.updFlt _ _)) (.refl s)

theorem KeepsTime.requalPoint (old : Nat) (s : State) : KeepsTime s (requalPoint old s) := by
  unfold Machine.requalPoint
  split
  · exact .refl s
  · exact .updPow s _

/-- What the elapsed course brings before it passes. -/
theorem KeepsTime.elapsing (s : State) : KeepsTime s (Machine.healthDecay (drainNotes (Machine.bucketLeak s))) :=
  ((KeepsTime.bucketLeak s).trans (.drainFor none _)).trans (.healthDecay _)

/-- An elapsed course passes: the counter, where it runs, is at tick 0. -/
def coursePassed (s : State) : State :=
  let s1 := (s.updCrs (fun c => { c with elapsed := c.elapsed + 1, tick := if counterRuns s then 0 else c.tick })).updMem (fun m => { m with
    bucket := s.reg 0x1040989680989680 0xC00008 })
  s1.cores.foldl (fun t e => if e.2.seq.run == .idle then t else t.idleNow e.1) s1

theorem coursePassed_keeps (s : State) :
    KeepsTime (s.updCrs (fun c => { c with elapsed := c.elapsed + 1, tick := if counterRuns s then 0 else c.tick })) (coursePassed s) :=
  (KeepsTime.updMem _ _).trans (.foldl (fun t (e : Nat × Core) => .ite (.refl t) (.idleNow t e.1)) _ _)

theorem courseBoundary_eq (s : State) : courseBoundary s =
    (let e := Machine.healthDecay (drainNotes (Machine.bucketLeak (endCourse s)))
    if counterRuns e then settle (snapDeadline (barrierCourse (driveStuck (openReleased (engineWaits { coursePassed e with course := e.course + 1 })))))
    else coursePassed e) := rfl

/-- Where the counter does not run the ending course owes nothing. -/
theorem endCourse_halted {s : State} (h : counterRuns s = false) : endCourse s = s := if_neg (by simp [h])

/-- Nor does it of a lead with no arm and no conversation. -/
theorem endCourse_lead {s : State} (hst : s.u.crs.st ≠ tsHoldover) (hlead : crsLead s = true) (harms : s.u.crs.arms = []) (hconvs : s.u.col.convs = []) :
    endCourse s = s := by
  have hdrain : drainStart s = s := by rw [drainStart, harms]; rfl
  have hfire : fireDue 1088 s = s := by
    have hnone : nextArm s = none := by rw [nextArm, harms]; rfl
    rw [fireDue, hnone]
  have hrequests : requestDeadline s = s := by rw [requestDeadline, hconvs]; rfl
  have hbarriers : barrierCourse s = s := by rw [barrierCourse, hconvs]; rfl
  rw [endCourse, hdrain, hfire, hrequests, hbarriers, holdoverEnter_lead hlead, syncLost_other hst, ite_self]

theorem courseBoundary_halted {s : State} (h : counterRuns s = false) :
    (courseBoundary s).u.crs.elapsed = s.u.crs.elapsed + 1 ∧ (courseBoundary s).course = s.course := by
  have hend := KeepsTime.elapsing s
  have hpass := coursePassed_keeps (Machine.healthDecay (drainNotes (Machine.bucketLeak s)))
  rw [courseBoundary_eq, endCourse_halted h]
  dsimp only
  rw [hend.counterRuns, h]
  exact ⟨hpass.elapsed.trans (congrArg (· + 1) hend.elapsed), hpass.course.trans hend.course⟩

theorem courseBoundary_lead {s : State} (hrun : counterRuns s = true) (hst : s.u.crs.st ≠ tsHoldover) (hlead : crsLead s = true)
    (harms : s.u.crs.arms = []) (hconvs : s.u.col.convs = []) (hsnap : s.bench.snap = none) (hq : Quiet s) :
    (courseBoundary s).u.crs.elapsed = s.u.crs.elapsed + 1 ∧ (courseBoundary s).course = s.course + 1 ∧ (courseBoundary s).u.crs.tick = 0 := by
  rw [courseBoundary_eq, endCourse_lead hst hlead harms hconvs]
  dsimp only
  have hend := KeepsTime.elapsing s
  generalize Machine.healthDecay (drainNotes (Machine.bucketLeak s)) = e at hend ⊢
  have hrun' : counterRuns e = true := hend.counterRuns.trans hrun
  have hpass := coursePassed_keeps e
  have hquiet : Quiet { coursePassed e with course := e.course + 1 } := (hpass.quiet ((hend.quiet hq).of_core (fun _ => rfl))).of_core (fun _ => rfl)
  have hengine := ((((Quietly.engineWaits _).trans (.openReleased _)).trans (.driveStuck _)).trans (.barrierCourse _)) hquiet
  generalize barrierCourse _ = b at hengine ⊢
  have hnone : snapDeadline b = b := by
    rw [snapDeadline, hengine.snap.trans (hpass.snap.trans (hend.snap.trans hsnap))]
  rw [if_pos hrun', hnone, settle_quiet (hengine.quiet hquiet)]
  refine ⟨hengine.elapsed.trans (hpass.elapsed.trans (congrArg (· + 1) hend.elapsed)), hengine.course.trans (congrArg (· + 1) hend.course), ?_⟩
  exact hengine.tick.trans (hpass.tick.trans (if_pos hrun'))

/-- What convictions wait for, and the segments of requalification, leave course time alone. -/
theorem exec_courseBoundary (s : State) : ∃ t, exec .courseBoundary s = .next t ∧ KeepsTime (courseBoundary s) t :=
  ⟨_, rfl, (KeepsTime.applyConvictions _).trans (.requalPoint _ _)⟩

end Sys2Proof.Machine
end

section
open Sys2Proof Sys2Proof.Machine

/-- Settles O41, a command at a time. A boundary is `courseBoundary_halted` or `courseBoundary_lead`: what the collective engine then does moves no
time, for the semaphores that it adds to give no core a turn where no bundle waits. -/
theorem courseTime : Obligations.CourseTime := by
  unfold Obligations.CourseTime
  intro s v
  refine ⟨?_, ?_, fun hst ls hnd => ?_, fun hlead => ?_, fun l t2 t3 t4 t1 hl ht1 => ?_, fun hst hlead hdue => ?_, fun hst hdue => ?_, ?_⟩
  · intro hst harms hp u
    have hwrite := write64_crsCtrl hst harms hp
    have hlead : crsLead u = bitOf v 1 := crsLead_written s v
    have hruns : bitOf v 0 = true → bitOf (s.stored .crsCtrl) 0 = false → exec (.crsRunWrite .ctl v) s = .next (runChanged true u) := fun hv hs => by
      rw [hv, hs, if_neg (by decide)] at hwrite
      exact congrArg Host.Outcome.next hwrite
    refine ⟨fun h => ?_, fun hv hs hl => ?_, fun hv hs hl hv1 => ?_, fun hv hs hl hv1 => ?_⟩
    · have hsame := hwrite.trans (if_pos h)
      exact ⟨congrArg Host.Outcome.next hsame, congrArg Host.Outcome.next hsame⟩
    · rw [hruns hv hs, runChanged_lost (s := u) hst hl]
    · rw [hruns hv hs, runChanged_lead (s := u) hst hl (hlead.trans hv1)]
    · rw [hruns hv hs, runChanged_follow (s := u) hst hl (hlead.trans hv1)]
  · intro l stamp tick hl hparent hlead hst pt off
    refine ⟨fun hs hq _ => ⟨_, (onLink_of_lt hl _).trans (congrArg _ (syncReceive_first hparent hlead hst hs hq stamp tick)), ?_⟩, fun hs => ?_⟩
    · exact ⟨rfl, rfl, rfl, hst, rfl, rfl⟩
    · have hoff : (stamp : Int) + (crsLinkOf s l).delay - nowTicks s tick = off := by rw [nowTicks_eq]
      have hlater := syncReceive_later hparent hlead hst hs stamp tick
      rw [hoff] at hlater
      refine ⟨_, (onLink_of_lt hl _).trans (congrArg _ hlater), updCrsSt_course _ _, ?_, by rw [updCrsSt_crs], by rw [updCrsSt_crs]⟩
      rw [crsLinkOf, updCrsSt_crs]
      exact congrArg CrsLink.offset (crsLinkOf_updCrsLink l (fun x => { x with offset := off }) s)
  · refine ⟨_, congrArg Host.Outcome.next (syncSend_sends hst ls), fun l => ?_, mem_foldl_queueTime _ _ _⟩
    rw [time_foldl_queueTime _ hnd, List.length_append]
    split <;> rfl
  · refine ⟨_, congrArg Host.Outcome.next (delayRequest_follower hlead), fun l hl => ?_⟩
    rw [time_foldl_queueTime _ List.nodup_range]
    simp [hl]
  · refine ⟨_, (onLink_of_lt hl _).trans (congrArg _ (delayReply_due ht1 t2 t3 t4)), ?_⟩
    have hlink := crsLinkOf_updCrsLink l (fun x => { x with delay := ((t4 - t1) - ((t3 : Int) - t2)) / 2, t1 := none }) s
    dsimp only
    split
    next h => exact ⟨congrArg CrsLink.delay hlink, congrArg CrsLink.t1 hlink, fun _ => rfl⟩
    next h => exact ⟨congrArg CrsLink.delay hlink, congrArg CrsLink.t1 hlink, fun hp => absurd hp h⟩
  · have hraise := KeepsTime.raise (s.updCrsSt (fun c => { c with st := tsHoldover, heldAt := s.course.toNat })) 0x4702 0x7000 none 0 0
    refine ⟨_, congrArg Host.Outcome.next (holdoverEnter_due hst hlead hdue), hraise.st.trans ?_, hraise.heldAt.trans ?_,
      hraise.course.trans (updCrsSt_course _ _)⟩
    · rw [updCrsSt_crs]
    · rw [updCrsSt_crs]
  · refine ⟨_, congrArg Host.Outcome.next (syncLost_due hst hdue), ?_, fun harms => ?_⟩
    · exact (KeepsTime.foldl (fun s p => (KeepsTime.raise s _ _ _ _ _).trans (.cancelArms p _)) _ _).st
    · rw [harms]
      rfl
  · obtain ⟨t, hexec, hkeeps⟩ := exec_courseBoundary s
    refine ⟨t, hexec, fun hst => ?_, fun hrun hst hlead harms hconvs hsnap hq => ?_⟩
    · have hhalted : counterRuns s = false := by simp [counterRuns, hst, tsStopped, tsAcquiring, tsLocked, tsHoldover, tsLost]
      obtain ⟨helapsed, hcourse⟩ := courseBoundary_halted hhalted
      exact ⟨hkeeps.elapsed.trans helapsed, hkeeps.course.trans hcourse⟩
    · obtain ⟨helapsed, hcourse, htick⟩ := courseBoundary_lead hrun hst hlead harms hconvs hsnap hq
      exact ⟨hkeeps.elapsed.trans helapsed, hkeeps.course.trans hcourse, hkeeps.tick.trans htick⟩

end

/-! ### Armed events (R257 to R260) -/

section
namespace Sys2Proof.Machine

open Sys2Proof

/-! #### Memory without errors, and a snapshot that is not under way -/

theorem guardRead_noErr {s : State} (h : s.NoErr) (own : Option Nat) (sp : List (Nat × Nat)) (f : State → State) : s.guardRead own sp f = f s :=
  if_pos (by simp [h.1, h.2])

theorem State.putAll_noEcc {s : State} (h : s.ecc = []) (a : Nat) (l : List Byte) : (s.putAll a l).ecc = [] := by
  induction l generalizing s a with
  | nil => exact h
  | cons b r ih => exact ih (show SMap.erase (a / 256) s.ecc = [] by rw [h]; rfl) _

theorem State.putBytes_u {s : State} (h : s.NoErr) (a : Nat) (l : List Byte) : (s.putBytes a l).u = s.u := by
  rw [State.putBytes_eq h]

/-- A write to calm memory leaves it calm: it injects nothing (R248), and waits for nothing. -/
theorem State.Calm.putBytes {s : State} (h : s.Calm) (a : Nat) (l : List Byte) : (s.putBytes a l).Calm where
  noErr := by
    have hr : bitOf ((s.putAll a l).reg 0 0xC00018) 63 = false := by rw [State.putAll_eq]; exact h.unarmed
    rw [State.putBytes, State.putRaw_noErr h.noErr, State.inject_unarmed hr]
    exact ⟨State.putAll_noEcc h.noErr.1 a l, (State.putAll_err s a l).trans h.noErr.2⟩
  settled := by
    rw [State.Settled, State.putBytes_u h.noErr]
    exact h.settled
  unarmed := by
    rw [State.reg, State.putBytes_regs h.noErr h.unarmed]
    exact h.unarmed

theorem State.Calm.setReg {s : State} (h : s.Calm) {o : Nat} (ho : o ≠ 0xC00018) (v : W64) : (s.setReg o v).Calm :=
  ⟨h.noErr, h.settled, (congrArg (bitOf · 63) (State.reg_setReg_other s 0 ho v)).trans h.unarmed⟩

/-! #### The registers of the arms -/

theorem crsArm3_actsOnly (s : State) : (Reg.crsArm 3).ActsOnly s where
  found := rfl
  present := rfl
  aligned := rfl
  fields := by simp [Reg.fields, woF]
  free _ _ _ _ := rfl

theorem crsArmStatus_actsOnly (s : State) : Reg.crsArmStatus.ActsOnly s where
  found := rfl
  present := rfl
  aligned := rfl
  fields := by simp [Reg.fields, woF, roF]
  free _ _ _ _ := rfl

theorem crsLedgerPtr_stores (s : State) : Reg.crsLedgerPtr.Stores s where
  found := rfl
  present := rfl
  aligned := rfl
  fields := by simp [Reg.fields, roF, rwF]
  held := rfl
  put _ _ := rfl

theorem write64_crsArm3 (s : State) (v : W64) : write64 .ctl (.crsArm 3) v s = armPush (v ++ s.u.crs.w2 ++ s.u.crs.w1 ++ s.u.crs.w0) s :=
  write64_ctl (crsArm3_actsOnly s) v

/-- CANCEL is bit 23; the owner that it names lies below (R260). -/
theorem bitsOf_owner_cancel (v : W64) : bitsOf (v ||| 0x800000) 19 16 = bitsOf v 19 16 := by
  refine bitsOf_congr (fun i hlo hhi => ?_)
  unfold bitOf
  rw [BitVec.getLsbD_or]
  interval_cases i <;> simp

theorem write64_crsArmStatus (s : State) (v : W64) : write64 .ctl .crsArmStatus (v ||| 0x800000) s = cancelArms (bitsOf v 19 16) s := by
  have hcancel : bitOf (v ||| 0x800000) 23 = true := bitOf_or v 0x800000 (by decide)
  have hwrite := write64_ctl (crsArmStatus_actsOnly s) (v ||| 0x800000)
  rw [hwrite, ← bitsOf_owner_cancel]
  exact if_pos hcancel

/-- The tail moves, and records that wait take the room (R264). -/
theorem write64_crsLedgerPtr (s : State) (v : W64) : write64 .ctl .crsLedgerPtr v s =
    ledgerDrain s.u.crs.closed.length (s.setReg 0x500048 (rwPut s .crsLedgerPtr v)) :=
  write64_ctl_stores (crsLedgerPtr_stores s) rfl

/-! #### Pushes and cancels -/

theorem armPush_accepted {s : State} {e : BitVec 256} (hcalm : s.Calm) (hkind : byteField e 8 1 ≠ 1) (hgood : armBad s e (byteField e 0 8) 0 [] = false) :
    armPush e s = s.updCrs (fun c => { c with arms := c.arms ++ [{ e, course := byteField e 0 8, seq := s.u.crs.armSeq }], armSeq := c.armSeq + 1 }) := by
  rw [armPush, guardRead_noErr hcalm.noErr, armPut]
  simp only [if_neg hkind]
  exact if_neg (by rw [show armCourse e = byteField e 0 8 from rfl, hgood]; exact Bool.false_ne_true)

/-- A HANDOVER that stays armed keeps partitions draining (R260). -/
theorem undrain_armed {s : State} (h : s.u.crs.arms.any (fun a => armKind a == 1) = true) : undrain s = s := if_pos h

theorem any_handover_filter {arms : List Arm} {p : Nat} (h : arms.any (fun a => armKind a == 1 && armOwner a != p) = true) :
    (arms.filter (fun a => armOwner a != p)).any (fun a => armKind a == 1) = true := by
  rw [List.any_filter]
  simpa only [Bool.and_comm] using h

/-! #### A due entry fires -/

theorem rearm_once {a : Arm} (h : armRepeat a.e = false) (s : State) : rearm a s = s := if_pos (by simp [h])

theorem fireKind_next {s : State} {a : Arm} {k : Nat} (hnext : nextArm s = some a) (hruns : counterRuns s = true) (hkind : armKind a = k)
    (honce : armRepeat a.e = false) : fireKind k s = fireEffect a (s.updCrs (fun c => { c with arms := c.arms.filter (fun b => b.seq != a.seq) })) := by
  unfold fireKind
  rw [hruns, hnext]
  exact (if_pos hkind).trans (rearm_once honce _)

/-! ##### What the firing of each kind is (R258) -/

section
variable (s : State) {a : Arm}

theorem fireEffect_epochFence (h : armKind a = 2) : fireEffect a s = epochFence (armOwner a) (armTarget a.e) s := by
  simp only [fireEffect, h]

theorem fireEffect_pattern (h : armKind a = 3) : fireEffect a s = patternArm (armOwner a) (armTarget a.e) s := by
  simp only [fireEffect, h]

theorem fireEffect_step (h : armKind a = 4) : fireEffect a s = 
      s.guardRead (some (armOwner a)) [(sliceBase s, 128 * sliceCount s)] (stepFires (armOwner a) (BitVec.ofNat 64 (armArg a.e))) := by
  simp only [fireEffect, h]

theorem fireEffect_history (h : armKind a = 5) : fireEffect a s = historyFires (armOwner a) s := by
  simp only [fireEffect, h]

theorem fireEffect_snapshot (h : armKind a = 6) : fireEffect a s = snapArm (some (armOwner a)) (armArg a.e) s := by
  simp only [fireEffect, h]

theorem fireEffect_deadline (h : armKind a = 7) : fireEffect a s = 
      if armTarget a.e = 0x80000000 then updateDeadline (armOwner a) s else groupDeadline (armTarget a.e) (armArg a.e) s := by
  simp only [fireEffect, h]

theorem fireEffect_notBefore (h : armKind a = 8) : fireEffect a s = notBefore (armTarget a.e) (armArg a.e) s := by
  simp only [fireEffect, h]

theorem fireEffect_bench (h : armKind a = 9) : fireEffect a s = benchFires (armOwner a) (armTarget a.e) (armArg a.e) s := by
  simp only [fireEffect, h]

theorem fireEffect_signal (h : armKind a = 10) : fireEffect a s = signalFires (armOwner a) (armTarget a.e) (armArg a.e) s := by
  simp only [fireEffect, h]

end

/-! #### EPOCH_FENCE (R329) -/

theorem bitsOf_putBits_target (r : W64) (e : Nat) : bitsOf (putBits r 15 0 e) 15 0 = e % 2 ^ 16 := by
  simp only [bitsOf, putBits, BitVec.toNat_ofNat, Nat.shiftRight_eq_div_pow, Nat.shiftLeft_eq]
  omega

theorem bitsOf_putBits_prev (r : W64) (v e : Nat) : bitsOf (putBits (putBits r 31 16 v) 15 0 e) 31 16 = v % 2 ^ 16 := by
  have := r.isLt
  simp only [bitsOf, putBits, BitVec.toNat_ofNat, Nat.shiftRight_eq_div_pow, Nat.shiftLeft_eq]
  omega

/-- From s to t, calm as s is, memory alone has changed. -/
structure WritesCalm (s t : State) : Prop where
  calm : t.Calm
  regs : t.regs = s.regs
  u : t.u = s.u

theorem WritesCalm.refl {s : State} (h : s.Calm) : WritesCalm s s := ⟨h, rfl, rfl⟩

theorem WritesCalm.putBytes {s t : State} (h : WritesCalm s t) (a : Nat) (l : List Byte) : WritesCalm s (t.putBytes a l) :=
  ⟨h.calm.putBytes a l, (State.putBytes_regs h.calm.noErr h.calm.unarmed a l).trans h.regs, (State.putBytes_u h.calm.noErr a l).trans h.u⟩

theorem WritesCalm.foldl {α : Type} {f : State → α → State} {s : State} (hf : ∀ t a, WritesCalm s t → WritesCalm s (f t a)) (l : List α) {t : State}
    (h : WritesCalm s t) : WritesCalm s (l.foldl f t) := by
  induction l generalizing t with
  | nil => exact h
  | cons a r ih => exact ih (hf t a h)

theorem WritesCalm.clearHold {s t : State} (h : WritesCalm s t) (a : Nat) : WritesCalm s (clearHold a t) := by
  refine .foldl (fun v i hv => ?_) _ h
  split
  · exact hv
  · exact hv.putBytes _ _

theorem WritesCalm.tableTakesEffect {s : State} (h : s.Calm) (p : Nat) : WritesCalm s (tableTakesEffect p s) :=
  .foldl (fun _ a ht => ht.clearHold a) _ (.refl h)

/-- A fence with nothing open: TARGET is the epoch, the one before is PREV, and what was held is in the inbox. -/
theorem epochFence_clear {s : State} (h : s.Calm) {p : Nat} (hp : p < 16) (hclear : (fenceOpen p s).2 = false) (e : Nat) :
    curEpoch (epochFence p e s) p = e % 2 ^ 16 ∧ bitsOf ((epochFence p e s).reg 0 (0xA00050 + 8 * p)) 31 16 = curEpoch s p ∧
      (epochFence p e s).u.net.inbox = s.u.col.held ++ s.u.net.inbox := by
  have hset := h.setReg (o := 0xA00050 + 8 * p) (by omega) (putBits (putBits (s.reg 0 (0xA00050 + 8 * p)) 31 16 (curEpoch s p)) 15 0 e)
  have hwrites := WritesCalm.tableTakesEffect hset p
  have hreg := (congrArg (SMap.get 0 (0xA00050 + 8 * p)) hwrites.regs).trans (State.reg_setReg_same s 0 _ _)
  have hcur : curEpoch s p % 2 ^ 16 = curEpoch s p := Nat.mod_mod _ _
  unfold epochFence
  dsimp only
  rw [hclear, if_neg Bool.false_ne_true]
  refine ⟨(congrArg (bitsOf · 15 0) hreg).trans (bitsOf_putBits_target _ e),
    (congrArg (bitsOf · 31 16) hreg).trans ((bitsOf_putBits_prev _ _ e).trans hcur), ?_⟩
  exact congrArg (fun u => u.col.held ++ u.net.inbox) hwrites.u

/-! #### PATTERN, STEP and HISTORY -/

theorem patternArm_valid {s : State} {t : Nat} (h : patValid s t = true) (own : Nat) :
    (patternArm own t s).regs = SMap.set 0x880008 (putBits (lnkPat s) 3 0 t) s.regs ∧ (patternArm own t s).mem = s.mem := by
  rw [patternArm, if_pos h, setPattern]
  split <;> exact ⟨rfl, rfl⟩

theorem snapShard_none {s : State} (h : s.bench.snap = none) : snapShard s = s := by
  have hsame : { s.bench with snap := none } = s.bench := by rw [← h]
  rw [snapShard, State.updBench, h, Option.map_none, hsame]

theorem closeStepEv_none {s : State} {p : Nat} (hopen : SMap.find p s.u.crs.steps = none) (hlost : s.u.crs.lost = []) (flags : Nat) (ready : Bool) :
    closeStepEv p flags ready s = s := by
  have hclose : closeStep p flags ready s = s := by rw [closeStep, hopen]
  have hsame : s.updCrs (fun c => { c with lost := [] }) = s := by
    rw [← hlost]
    rfl
  rw [closeStepEv, hclose, flushLost, hlost, List.foldl_nil, hsame]

/-- The record that a step opens. -/
def stepRec (p : Nat) (n : W64) (j : Job) (s : State) : StepRec :=
  { own := p, step := n, start := s.course.toNat, job := j.id, gauge := j.gauge, members := noiseMembers s p
    flags := if (SMap.get [] p s.u.crs.begun).contains n.toNat then 2 else 0
    evInfo := eventsNow s p 1, evCorr := eventsNow s p 4
    swatch0 := [s.u.sw.sampled, s.u.sw.failed, s.u.sw.abandoned]
    fill0 := coreSum s (fun q => q.cntFill), stall0 := coreSum s (fun q => q.cntStall) }

theorem slicesOf_none {s : State} (h : sliceCount s = 0) (own : Option Nat) : slicesOf s own = [] := by
  rw [slicesOf, sliceEntries, h]
  rfl

/-- A step begins: its owner's job has its number and its record is open. -/
def stepBegun (p : Nat) (n : W64) (j : Job) (s : State) : State :=
  let begun := SMap.get [] p s.u.crs.begun
  ((s.setOwner p { s.owner p with job := some { j with step := n, ran := true } }).updCrs (fun c => { c with
    steps := SMap.set p (stepRec p n j s) c.steps
    begun := SMap.set p (if begun.contains n.toNat then begun else n.toNat :: begun) c.begun })).updBench (fun b => { b with digSum := 0 })

theorem stepFires_eq {s : State} {p : Nat} {j : Job} (hjob : (s.owner p).job = some j) (hsnap : s.bench.snap = none) (hlost : s.u.crs.lost = [])
    (hopen : SMap.find p s.u.crs.steps = none) (n : W64) : stepFires p n s =
      (let as := slicesOf (stepBegun p n j s) (some p)
      as.foldl (fun s a => launchSlice 0x7000 a (some p) 0 false s) (as.foldl (fun s a => freshSlice a s) (stepBegun p n j s))) := by
  unfold stepFires
  rw [snapShard_none hsnap, closeStepEv_none hopen hlost]
  simp only [hjob]
  rfl

/-- A step of a job with none open and no slice takes its number and opens its record. -/
theorem stepFires_first {s : State} {p : Nat} {j : Job} (hjob : (s.owner p).job = some j) (hsnap : s.bench.snap = none) (hlost : s.u.crs.lost = [])
    (hopen : SMap.find p s.u.crs.steps = none) (hslices : sliceCount s = 0) (n : W64) :
    ((stepFires p n s).owner p).job = some { j with step := n, ran := true } ∧
      SMap.find p (stepFires p n s).u.crs.steps = some (stepRec p n j s) := by
  have hnone : slicesOf (stepBegun p n j s) (some p) = [] := slicesOf_none (s := stepBegun p n j s) hslices _
  rw [stepFires_eq hjob hsnap hlost hopen, hnone]
  exact ⟨congrArg Owner.job (State.owner_setOwner_same s p _), SMap.find_set_same p _ _⟩

theorem engEntries_updEng (s : State) (e : Nat) (f : Engine → Engine) : engEntries (s.updEng e f) = engEntries s := rfl

theorem eng_enterLaunch_other (s : State) {e k : Nat} (h : e ≠ k) (l : Launch) : (enterLaunch e l s).eng k = s.eng k := State.eng_setEng_other s h _

/-- Launches on engines named once, on those that hold an entry of the scope. -/
theorem eng_foldl_enterLaunch (scope : Nat) (l : Launch) {es : List Nat} (hes : es.Nodup) (s : State) (e : Nat) :
    (es.foldl (fun s e => if (engEntries s e scope).isEmpty then s else enterLaunch e l s) s).eng e =
      if e ∈ es ∧ engEntries s e scope ≠ [] then (s.eng e).enter l else s.eng e := by
  induction es generalizing s with
  | nil => simp
  | cons k r ih =>
    obtain ⟨hk, hr⟩ := List.nodup_cons.1 hes
    rw [List.foldl_cons, ih hr]
    by_cases hnone : engEntries s k scope = []
    · have hiff : (e ∈ r ∧ engEntries s e scope ≠ []) ↔ (e ∈ k :: r ∧ engEntries s e scope ≠ []) := by
        rw [List.mem_cons]
        exact and_congr_left (fun hsome => ⟨Or.inr, Or.rec (fun heq => absurd (heq ▸ hnone) hsome) id⟩)
      simp only [hnone, List.isEmpty_nil, if_true, hiff]
    · have hstep : (if (engEntries s k scope).isEmpty then s else enterLaunch k l s) = enterLaunch k l s := if_neg (by simpa using hnone)
      have hsame : engEntries (enterLaunch k l s) = engEntries s := engEntries_updEng s k _
      rw [hstep, hsame]
      by_cases hke : k = e
      · subst hke
        simp [hk, hnone, enterLaunch, State.updEng]
      · simp [eng_enterLaunch_other s hke, Ne.symm hke]

/-- Program 1 is launched on every engine that holds an entry of the scope, on no other. -/
theorem eng_launchHistory (own : Option Nat) (scope : Nat) (step : W64) (s : State) {e : Nat} (he : e < s.nCh) :
    (launchHistory own scope step s).eng e = if engEntries s e scope = [] then s.eng e else
      (s.eng e).enter { own, blk := mkBlock 1 false noSlice ||| (BitVec.ofNat 4096 step.toNat <<< 128), snap := scope, src := 0x7000 } := by
  rw [launchHistory, eng_foldl_enterLaunch scope _ List.nodup_range]
  simp only [List.mem_range, he, true_and, ne_eq, ite_not]

theorem historyFires_local {s : State} (h : groupScopes s = []) (p : Nat) : historyFires p s = launchHistory (some p) 0 (s.jobOf (some p)).step s := by
  rw [historyFires, h, List.foldl_nil]

/-! #### SNAPSHOT (R224) -/

theorem snapFail_none {s : State} (h : s.bench.snap = none) : snapFail s = s := by rw [snapFail, h]

theorem snapPut_here {s : State} {k : Nat} (h : snapRemote s k = false) (own : Option Nat) (off fl : Nat) (l : List Byte) :
    snapPut own k off fl l s = s.putBytes (snapBase s k + off) l := if_neg (by simp [h])

/-- The snapshot that begins, into a slot in this device's memory. -/
def snapRun (own : Option Nat) (deadline : Nat) (s : State) : Snap :=
  let j := s.jobOf own
  let late := scopesOpen s own
  let entries := validEntries s
  { slot := nextSlot s.bench, own, step := j.step, gauge := j.gauge, seed := j.seed, deadline, parts := snapEngines s late entries, late, entries }

def snapBegun (own : Option Nat) (deadline : Nat) (s : State) : State :=
  s.updBench (fun b => { b with snap := some (snapRun own deadline s), snapUsed := some (nextSlot s.bench) })

theorem snapRemote_congr {s t : State} (h : t.regs = s.regs) (k : Nat) : snapRemote t k = snapRemote s k := by
  rw [snapRemote, snapDest, State.reg, h]
  rfl

theorem KeepsTime.snapPut {s : State} {k : Nat} (h : snapRemote s k = false) (own : Option Nat) (off fl : Nat) (l : List Byte) :
    KeepsTime s (snapPut own k off fl l s) := by
  rw [snapPut_here h]
  exact .putBytes s _ _

/-- A snapshot with none under way: its launches and the events of slices without an engine leave it as it began. -/
theorem snapArm_here {s : State} (hnone : s.bench.snap = none) (hhere : snapRemote s (nextSlot s.bench) = false) (own : Option Nat) (deadline : Nat) :
    (snapArm own deadline s).bench.snap = some (snapRun own deadline s) := by
  have hput : KeepsTime (snapBegun own deadline s) (snapPut own (nextSlot s.bench) 0 0 (List.replicate 256 0) (snapBegun own deadline s)) :=
    .snapPut ((snapRemote_congr (s := s) (t := snapBegun own deadline s) rfl _).trans hhere) own 0 0 _
  have hlaunch := fun es => hput.trans (.foldl (fun t (e : Nat × Nat) =>
    KeepsTime.enterLaunch e.1 { own, blk := mkBlock 9 false noSlice, snap := nextSlot s.bench, src := 0x7000 } t) es _)
  have hraise := fun es as => (hlaunch es).trans (.foldl (fun t a => KeepsTime.raise t 0x8532 0x7000 (sliceOwner t a) 0 (benchD1 0 (slId t a))) as _)
  unfold snapArm
  rw [snapFail_none hnone]
  simp only [hhere, Bool.false_and, Bool.false_eq_true, if_false]
  exact (hraise _ _).snap

/-! #### DEADLINE and NOT_BEFORE (R305) -/

theorem updateDeadline_done {s : State} (h : s.NoErr) {p : Nat}
    (hdone : ∀ b ∈ slicesOf s (some p), sliceFrozen s b = false ∧ (s.slice (slId s b)).opted = true) :
    updateDeadline p s = s := by
  have hfrozen : (slicesOf s (some p)).filter (sliceFrozen s) = [] := List.filter_eq_nil_iff.2 (fun a ha => by simp [hdone a ha])
  have hleft : (slicesOf s (some p)).filter (fun a => !sliceFrozen s a && !(s.slice (slId s a)).opted) = [] :=
    List.filter_eq_nil_iff.2 (fun a ha => by simp [hdone a ha])
  have hread : ∀ l : List Nat, l.foldl (fun t a => t.readNote a 128) s = s := List.foldl_fixed' (fun a => State.readNote_noErr h a 128)
  unfold updateDeadline
  simp only [State.memUe_noErr h, Option.isNone_none, List.filter_true, hfrozen, hread, List.foldl_nil]
  rw [hleft, List.foldl_nil]

theorem updGroup_listed {s : State} {t : Nat} {g : Group} (h : s.group t = some g) (f : Group → Group) :
    updGroup t f s = s.updCol (fun c => { c with groups := SMap.set t (f g) c.groups }) := by rw [updGroup, h]

theorem openReleased_noConvs {s : State} (h : s.u.col.convs = []) : openReleased s = s := by
  rw [openReleased, h]
  rfl

theorem groupDeadline_done {s : State} {t q : Nat} {g : Group} (hg : s.group t = some g) (hdone : unfinished s t g q = []) :
    groupDeadline t q s = updGroup t (fun x => { x with late := some (max q (x.late.getD 0)) }) s := by
  rw [groupDeadline, hg]
  simp only [hdone, List.foldl_nil]

theorem notBefore_noConvs {s : State} {t : Nat} {g : Group} (hg : s.group t = some g) (hconvs : s.u.col.convs = []) (q : Nat) :
    ((notBefore t q s).group t).map (fun x => x.mark) = some (some (max q (g.mark.getD 0))) := by
  have hopen : ∀ f, openReleased (updGroup t f s) = updGroup t f s := fun f => openReleased_noConvs (by
    rw [updGroup_listed hg]
    exact hconvs)
  rw [notBefore, hopen, updGroup_listed hg]
  exact congrArg (Option.map (fun x : Group => x.mark)) (SMap.find_set_same t _ _)

/-! #### BENCH and SIGNAL -/

theorem benchFires_enters {s : State} (h : s.NoErr) {e : Nat} (he : e < s.nCh) (p a : Nat) :
    benchFires p e a s = enterLaunch e { own := some p, addr := a, blk := BitVec.ofNat 4096 (s.rd a 512), src := 0x7000 } s := by
  rw [benchFires, guardRead_noErr h]
  exact if_pos he

theorem Quiet.updRegs {s : State} (h : Quiet s) (c : Nat) (f : CoreRegs → CoreRegs) : Quiet (s.updRegs c f) := h.setCore c (h c)

theorem signalFires_fits {s : State} (h : Quiet s) {t n : Nat} (hfits : (s.core (t % 256)).r.semv (t / 256 % 64) + n < 2 ^ 32) (p : Nat) :
    signalFires p t n s = s.updRegs (t % 256) (fun r => r.setSem (t / 256 % 64) ((s.core (t % 256)).r.semv (t / 256 % 64) + n)) := by
  rw [signalFires, semAdd_fits hfits]
  exact settle_quiet (h.updRegs _ _)

end Sys2Proof.Machine
end

/-! ### The ledger (R262 to R264) -/

section
namespace Sys2Proof.Machine

open Sys2Proof

theorem recordBytes_nonempty (s : State) (r : StepRec) : 0 < (recordBytes s r).length := by
  have hreserved : leBytes 64 0 ≠ [] := List.ne_nil_of_length_pos (by rw [leBytes_length]; decide)
  unfold recordBytes
  extract_lets es warm fl nz w4
  exact List.length_pos_of_ne_nil (List.append_ne_nil_of_left_ne_nil (List.append_ne_nil_of_right_ne_nil _ hreserved) _)

/-- Where the ring has its head. -/
def ledgerHead (s : State) : Nat := ledgerBase s + 64 * s.u.crs.head

/-- The write of a record at the head of the ring. -/
def recordWrite (s : State) (r : StepRec) : Held := { fn := some r.own, ws := [(ledgerHead s, recordBytes s r)] }

/-- The oldest closed record has its history programs behind it and room at the head of the ring. -/
structure LedgerReady (s : State) (r : StepRec) (rest : List StepRec) : Prop where
  closed : s.u.crs.closed = r :: rest
  ready : r.ready = true
  place : ledgerPlace s ((recordBytes s r).length / 64) = some s.u.crs.head
  reached : memGone s (ledgerHead s) (recordBytes s r).length = false

section
variable {s : State} {r : StepRec} {rest : List StepRec} (h : LedgerReady s r rest)
include h

theorem LedgerReady.ledgerWrite : ledgerWrite s = (putDev (recordWrite s r) s).updCrs (fun c => { c with
    closed := rest, head := (s.u.crs.head + (recordBytes s r).length / 64) % (bitsOf (s.reg 0 0x500040) 63 48 * 16384)
    written := SMap.set r.own (max (SMap.get 0 r.own c.written) r.step.toNat) c.written }) := by
  unfold Machine.ledgerWrite
  simp only [h.closed, h.ready, h.place, Bool.not_true, Bool.false_eq_true, if_false, ne_eq, not_true_eq_false, List.nil_append]
  rfl

theorem LedgerReady.kept : heldLost s (recordWrite s r) = false := by simp [heldLost, recordWrite, h.reached]

theorem LedgerReady.putDev_calm (hcalm : s.Calm) : putDev (recordWrite s r) s = s.putBytes (ledgerHead s) (recordBytes s r) :=
  Machine.putDev_calm hcalm h.kept

/-- While its memory takes no access the write waits (R234, R402, R415). -/
theorem LedgerReady.putDev_busy (hbusy : memBusy s (ledgerHead s) (recordBytes s r).length = true) :
    putDev (recordWrite s r) s = s.updHost (fun t => { t with hostw := t.hostw ++ [recordWrite s r] }) := by
  rw [putDev, h.kept, if_neg Bool.false_ne_true]
  exact if_pos (by simp [recordWrite, hbusy])

/-- So it does in the host's window while the link is down. -/
theorem LedgerReady.memBusy_host (hdown : s.u.host.st ≠ 2) (hlo : 0x400000000000 ≤ ledgerHead s) (hhi : ledgerHead s < 0x800000000000) :
    memBusy s (ledgerHead s) (recordBytes s r).length = true := by
  have hpos := recordBytes_nonempty s r
  have hhits : hitsHost (ledgerHead s) (recordBytes s r).length = true := by
    rw [hitsHost, decide_eq_true hhi, decide_eq_true (by omega)]
    rfl
  have hup : linkGone s = false := by
    have hreached := h.reached
    rw [memGone, hhits, Bool.true_and, Bool.or_eq_false_iff] at hreached
    obtain ⟨hlink, -⟩ := hreached
    exact hlink
  simp [memBusy, hostBusy, hhits, hup, hdown]

end

theorem ledgerDrain_none {s : State} (h : s.u.crs.closed = []) (t : State) : ledgerDrain s.u.crs.closed.length t = t := by
  rw [h]
  rfl

end Sys2Proof.Machine
end

section
open Sys2Proof Sys2Proof.Machine

/-- Settles O42, a clause at a time: the writes of the arms' and the ledger's registers do no more than their rows say, `fireKind_next` gives what
a due entry does, and each kind's effect is a lemma of its own. -/
theorem armedEventsAndLedger : Obligations.ArmedEventsAndLedger := by
  unfold Obligations.ArmedEventsAndLedger
  refine ⟨fun s v => ⟨?_, ?_, ?_, ?_, ?_⟩, fun s v => ⟨?_, ?_, ?_⟩⟩
  · intro e hkind hgood hcalm
    exact congrArg Host.Outcome.next ((write64_crsArm3 s v).trans (armPush_accepted hcalm hkind hgood))
  · intro harmed
    exact congrArg Host.Outcome.next ((write64_crsArmStatus s v).trans (undrain_armed (any_handover_filter harmed)))
  · exact congrArg Host.Outcome.next (write64_crsArmStatus s v)
  · intro a k i hnext hruns hkind honce hi u
    have hfire : fireKind k s = fireEffect a u := fireKind_next hnext hruns hkind honce
    have hexec : exec i s = .next (fireKind k s) := by
      simp only [List.mem_cons, Prod.mk.injEq, List.not_mem_nil, or_false] at hi
      rcases hi with ⟨rfl, rfl⟩ | ⟨rfl, rfl⟩ | ⟨rfl, rfl⟩ | ⟨rfl, rfl⟩ | ⟨rfl, rfl⟩ | ⟨rfl, rfl⟩ | ⟨rfl, rfl⟩ | ⟨rfl, rfl⟩ | ⟨rfl, rfl⟩ | ⟨rfl, rfl⟩
      all_goals rfl
    exact hexec.trans (congrArg Host.Outcome.next hfire)
  · intro a u hcalm
    dsimp only
    refine ⟨fun hk hclear => ?_, fun hk hvalid => ?_, fun hk hjob hsnap hlost hopen hslices => ?_, fun hk hscopes e he => ?_, fun hk hnone hhere => ?_,
      fun hk => ⟨fun ht hdone => ?_, fun ht gr hg hdone => ?_⟩, fun hk hconvs gr hg => ?_, fun hk he => ?_, fun hk hq hfits => ?_⟩
    · rw [fireEffect_epochFence u hk]
      exact epochFence_clear hcalm (Nat.mod_lt _ (by decide)) hclear _
    · rw [fireEffect_pattern u hk]
      exact patternArm_valid hvalid _
    · obtain ⟨j, hj⟩ := Option.isSome_iff_exists.1 hjob
      obtain ⟨hnumber, hrecord⟩ := stepFires_first hj hsnap hlost hopen hslices (BitVec.ofNat 64 (armArg a.e))
      rw [fireEffect_step u hk, guardRead_noErr hcalm.noErr, hj]
      exact ⟨hnumber, congrArg _ hrecord⟩
    · rw [fireEffect_history u hk, historyFires_local hscopes]
      exact eng_launchHistory _ 0 _ u he
    · rw [fireEffect_snapshot u hk, snapArm_here hnone hhere]
      rfl
    · exact (fireEffect_deadline u hk).trans ((if_pos ht).trans (updateDeadline_done hcalm.noErr hdone))
    · exact (fireEffect_deadline u hk).trans ((if_neg ht).trans (groupDeadline_done hg hdone))
    · rw [fireEffect_notBefore u hk]
      exact notBefore_noConvs hg hconvs _
    · exact (fireEffect_bench u hk).trans (benchFires_enters hcalm.noErr he _ _)
    · exact (fireEffect_signal u hk).trans (signalFires_fits hq hfits _)
  · intro hcalm r rest hclosed hready b at_ hreached hplace
    have h : LedgerReady s r rest := ⟨hclosed, hready, hplace, hreached⟩
    have hwrite := h.ledgerWrite
    rw [h.putDev_calm hcalm] at hwrite
    have hcrs : (s.putBytes (ledgerHead s) (recordBytes s r)).u.crs = s.u.crs := by rw [State.putBytes_u hcalm.noErr]
    refine ⟨_, congrArg Host.Outcome.next hwrite, hcalm.noErr.correctable.bytes_putBytes _ _,
      fun x hx => (State.byte_putBytes hcalm.noErr _ _ x).trans (if_neg hx), rfl, rfl, ?_⟩
    exact (SMap.get_set_same 0 r.own _ _).trans (congrArg (fun c : CrsSt => max (SMap.get 0 r.own c.written) r.step.toNat) hcrs)
  · intro r rest hclosed hready b at_ hreached hwaits hplace
    have h : LedgerReady s r rest := ⟨hclosed, hready, hplace, hreached⟩
    have hbusy : memBusy s (ledgerHead s) (recordBytes s r).length = true :=
      hwaits.elim id (fun ⟨hdown, hlo, hhi⟩ => h.memBusy_host hdown hlo hhi)
    have hwrite := h.ledgerWrite
    rw [h.putDev_busy hbusy] at hwrite
    exact ⟨_, congrArg Host.Outcome.next hwrite, rfl, rfl, rfl⟩
  · intro hclosed
    exact congrArg Host.Outcome.next ((write64_crsLedgerPtr s v).trans (ledgerDrain_none hclosed _))

end

/-! ### No event touches the links (R370 to R374) -/

section
namespace Sys2Proof.Machine

open Sys2Proof

theorem foldl_net {α : Type} {f : State → α → State} (h : ∀ s a, (f s a).u.net = s.u.net) (l : List α) (s : State) :
    (l.foldl f s).u.net = s.u.net := by
  induction l generalizing s with
  | nil => rfl
  | cons a r ih => rw [List.foldl_cons, ih, h]

theorem ite_net {s t u : State} {b : Prop} [Decidable b] (ht : t.u.net = s.u.net) (hu : u.u.net = s.u.net) : (if b then t else u).u.net = s.u.net := by
  split <;> assumption

/-! #### Memory -/

theorem State.putAll_net (s : State) (a : Nat) (l : List Byte) : (s.putAll a l).u.net = s.u.net := by rw [State.putAll_eq]

theorem State.settleSector_net (a n : Nat) (s : State) (sec : Nat) : (State.settleSector a n s sec).u.net = s.u.net := by
  have hput := State.putAll_net s (256 * sec) (s.sectorRead sec).data
  unfold State.settleSector
  dsimp only
  split_ifs
  · rfl
  · rfl
  · exact hput
  · exact hput
  · rfl

theorem State.settleWord_net (a n : Nat) (s : State) (w : Nat) : (State.settleWord a n s w).u.net = s.u.net := by
  unfold State.settleWord
  dsimp only
  split_ifs
  · rfl
  · exact State.putAll_net s _ _
  · rfl
  · rfl

theorem State.putKept_net (s : State) (a : Nat) (l : List Byte) : (s.putKept a l).u.net = s.u.net := by
  induction l generalizing s a with
  | nil => rfl
  | cons b r ih =>
    rw [State.putKept, ih]
    split <;> rfl

theorem State.putBytes_net (s : State) (a : Nat) (l : List Byte) : (s.putBytes a l).u.net = s.u.net := by
  rw [State.putBytes, State.inject_eq]
  unfold State.putRaw
  split
  · exact State.putAll_net s a l
  · exact (State.putKept_net _ a l).trans ((foldl_net (State.settleWord_net a _) _ _).trans (foldl_net (State.settleSector_net a _) _ s))

theorem freeBytes_net (a n : Nat) (s : State) : (freeBytes a n s).u.net = s.u.net := by
  unfold freeBytes
  exact foldl_net (fun _ _ => by rfl) _ s

theorem State.msix_net (s : State) (f v : Nat) : (s.msix f v).u.net = s.u.net := by
  unfold State.msix
  dsimp only
  split_ifs <;> rfl

theorem putHeld_net (h : Held) (s : State) : (putHeld h s).u.net = s.u.net := by
  have hput := foldl_net (fun t (w : Nat × List Byte) => State.putBytes_net t w.1 w.2) h.ws s
  unfold putHeld
  cases h.msg with
  | none => exact hput
  | some m => exact (State.msix_net _ m.1 m.2).trans hput

theorem putDev_net (h : Held) (s : State) : (putDev h s).u.net = s.u.net := by
  unfold putDev
  split_ifs
  · rfl
  · rfl
  · exact putHeld_net h s

/-! #### Stopping an owner -/

theorem freezeMasters_net (p : Nat) (s : State) : (freezeMasters p s).u.net = s.u.net := by
  refine Eq.trans (b := NetSt.mk _ _ _ _ _ _) rfl (foldl_net (f := fun s c => (State.freezeCoreAt c s).updCore c _) (fun _ _ => rfl) (s.coresOf p) s)

theorem abandonOwner_net (p : Nat) (s : State) : (abandonOwner p s).u.net = s.u.net := by
  unfold abandonOwner spoil
  exact foldl_net (fun t c => foldl_net (fun t (r : Nat × Nat) => freeBytes_net r.1 r.2 t) (convArea s c) t) _ _

theorem cancelArms_net (p : Nat) (s : State) : (cancelArms p s).u.net = s.u.net := by
  unfold cancelArms undrain
  split <;> rfl

theorem closeStep_net (p flags : Nat) (ready : Bool) (s : State) : (closeStep p flags ready s).u.net = s.u.net := by
  unfold closeStep
  split <;> rfl

theorem applyConvictions_net (s : State) : (applyConvictions s).u.net = s.u.net := by
  unfold applyConvictions
  exact ite_net rfl (foldl_net (fun _ _ => by rfl) _ s)

theorem State.finish_net (s : State) (c : Disp) (status : Nat) : (s.finish c status).u.net = s.u.net := putDev_net _ _

theorem stopOwner_net (p : Nat) (s : State) : (stopOwner p s).u.net = s.u.net := by
  have hhalt : ∀ (l : List Nat) t, (l.foldl (fun s c => State.haltCoreAt c s) t).u.net = t.u.net := foldl_net (fun _ _ => by rfl)
  have hdrop : ∀ t, (readyClosed p (cancelArms p (dropLaunches p (abandonOwner p t)))).u.net = t.u.net :=
    fun t => (cancelArms_net p (dropLaunches p (abandonOwner p t))).trans (abandonOwner_net p t)
  have hend : ∀ (l : List Disp) t, (applyConvictions (l.foldl (fun s d => s.finish d 0xFF) t)).u.net = t.u.net :=
    fun l t => (applyConvictions_net _).trans (foldl_net (fun s d => State.finish_net s d 0xFF) l t)
  have hnotice : ∀ (t : State) f, ((t.updFltOwner p f).out (.stopNotice p)).u.net = t.u.net := fun _ _ => rfl
  unfold stopOwner
  refine ite_net rfl (ite_net ?_ ?_)
  · rw [closeStep_net, hend, hdrop, hhalt]
    rfl
  · rw [hnotice, hend, hdrop, hhalt]
    rfl

/-! #### Events -/

theorem toRings_net (own : Option Nat) (r : BitVec 256) (s : State) : (toRings own r s).u.net = s.u.net := by
  have hdev : (toDevRing r s).u.net = s.u.net := by
    unfold toDevRing
    split
    · exact putDev_net _ s
    · rfl
  have hown : ∀ p t, (toOwnRing p r t).u.net = t.u.net := by
    intro p t
    unfold toOwnRing
    dsimp only
    split
    · exact putDev_net _ t
    · rfl
  cases own with
  | none => exact hdev
  | some p => exact (hown p _).trans hdev

theorem consequence_net (cls : Nat) (fatal8 : Bool) (own : Option Nat) (s : State) : (consequence cls fatal8 own s).u.net = s.u.net := by
  unfold consequence
  split_ifs
  · rfl
  · exact foldl_net (fun t p => stopOwner_net p t) _ s
  · cases own with
    | none => rfl
    | some p => exact stopOwner_net p s
  · rfl

theorem countEvent_net (cls : Nat) (own : Option Nat) (s : State) : (countEvent cls own s).u.net = s.u.net := by
  unfold countEvent
  split <;> rfl

theorem State.raise1_net (s : State) (code src : Nat) (own : Option Nat) (d0 d1 : W64) : (s.raise1 code src own d0 d1).u.net = s.u.net := by
  unfold State.raise1
  dsimp only
  generalize Option.filter (fun p => decide (p < 16)) own = own
  refine (consequence_net _ _ own _).trans ?_
  have hcount := fun f => show ((countEvent (code / 4096) own s).updFlt f).u.net = s.u.net from countEvent_net _ own s
  have hrec : ∀ (o : Option (BitVec 256)) (t : State), (match o with
      | some r => toRings own r t
      | none => t).u.net = t.u.net := by
    intro o t
    cases o with
    | none => rfl
    | some r => exact toRings_net own r t
  cases own with
  | none => exact (hrec _ _).trans (hcount _)
  | some p =>
    exact ite_net ((freezeMasters_net p _).trans ((toRings_net _ _ _).trans ((hrec _ _).trans (hcount _)))) ((hrec _ _).trans (hcount _))

theorem flushLost_net (s : State) : (flushLost s).u.net = s.u.net :=
  foldl_net (fun t p => State.raise1_net t 0x8703 0x7000 (some p) 0 0) _ (s.updCrs (fun t => { t with lost := [] }))

@[simp] theorem State.raise_net (s : State) (code src : Nat) (own : Option Nat) (d0 d1 : W64) : (s.raise code src own d0 d1).u.net = s.u.net := by
  have hlow : (flushLost (s.raise1 code src own d0 d1)).u.net = s.u.net := (flushLost_net _).trans (State.raise1_net s code src own d0 d1)
  exact ite_net ((State.raise1_net _ _ _ _ _ _).trans hlow) hlow

@[simp] theorem lnkEvent_net (code l : Nat) (own : Option Nat) (h : BitVec 192) (s : State) : (lnkEvent code l own h s).u.net = s.u.net :=
  State.raise_net _ _ _ _ _ _

end Sys2Proof.Machine
end

/-! ### Reads of links after updates -/

section
namespace Sys2Proof.Machine

open Sys2Proof

theorem State.link_of_net {s t : State} (h : t.u.net = s.u.net) (k : Nat) : t.link k = s.link k := by rw [State.link, State.link, h]

@[simp] theorem State.link_setLink_same (s : State) (l : Nat) (x : Link) : (s.setLink l x).link l = x := SMap.get_set_same _ _ _ _

theorem State.link_setLink_other (s : State) {l k : Nat} (h : k ≠ l) (x : Link) : (s.setLink l x).link k = s.link k :=
  SMap.get_set_other _ (Ne.symm h) _ _

@[simp] theorem State.link_updLink_same (s : State) (l : Nat) (f : Link → Link) : (s.updLink l f).link l = f (s.link l) :=
  s.link_setLink_same l _

theorem State.link_updLink_other (s : State) {l k : Nat} (h : k ≠ l) (f : Link → Link) : (s.updLink l f).link k = s.link k :=
  s.link_setLink_other h _

@[simp] theorem State.link_updTx_same (s : State) (l : Nat) (f : LinkTx → LinkTx) :
    (s.updTx l f).link l = { s.link l with tx := f (s.link l).tx } := s.link_setLink_same l _

/-- Light, engines and the packets at this hop are no part of a link. -/
theorem State.link_updNet (s : State) {f : NetSt → NetSt} (h : ∀ n, (f n).links = n.links) (k : Nat) : (s.updNet f).link k = s.link k :=
  congrArg (SMap.get ({} : Link) k) (h s.u.net)

@[simp] theorem State.link_raise (s : State) (code src : Nat) (own : Option Nat) (d0 d1 : W64) (k : Nat) :
    (s.raise code src own d0 d1).link k = s.link k := State.link_of_net (State.raise_net _ _ _ _ _ _) k

@[simp] theorem link_lnkEvent (code l : Nat) (own : Option Nat) (h : BitVec 192) (s : State) (k : Nat) :
    (lnkEvent code l own h s).link k = s.link k := State.link_raise _ _ _ _ _ _ k

theorem State.updLink_updLink (s : State) (l : Nat) (f g : Link → Link) : (s.updLink l f).updLink l g = s.updLink l (fun x => g (f x)) := by
  unfold State.updLink
  rw [State.link_setLink_same]
  simp [State.setLink, State.updNet, State.updU]

theorem State.updLink_congr {s : State} {l : Nat} {f g : Link → Link} (h : f (s.link l) = g (s.link l)) : s.updLink l f = s.updLink l g :=
  congrArg (s.setLink l) h

/-- A link whose state an update changes is reported by source 8 (R422). -/
theorem State.updLinkSt_changed {s : State} {l : Nat} {f : Link → Link} (h : (f (s.link l)).st ≠ (s.link l).st) :
    s.updLinkSt l f = (s.updLink l f).pend 8 := by
  rw [State.updLinkSt, decide_eq_true h]
  rfl

/-- What may be raised by the way is no part of the links. -/
theorem State.updLinkSt_net (s : State) (l : Nat) (f : Link → Link) : (s.updLinkSt l f).u.net = (s.updLink l f).u.net := by
  unfold State.updLinkSt State.pendIf
  split <;> rfl

@[simp] theorem State.link_updLinkSt_same (s : State) (l : Nat) (f : Link → Link) : (s.updLinkSt l f).link l = f (s.link l) :=
  (State.link_of_net (s.updLinkSt_net l f) l).trans (s.link_updLink_same l f)

/-! #### The light of the groups -/

theorem State.light_updNet (s : State) {f : NetSt → NetSt} (h : ∀ n, (f n).light = n.light) : (s.updNet f).u.net.light = s.u.net.light := h _

theorem State.light_updLinkSt (s : State) (l : Nat) (f : Link → Link) : (s.updLinkSt l f).u.net.light = s.u.net.light := by
  rw [State.updLinkSt_net]
  rfl

/-! #### What one link's command leaves alone -/

/-- From s to t no other link than l has changed, nor memory, nor a register. -/
structure OnlyLink (l : Nat) (s t : State) : Prop where
  link : ∀ k, k ≠ l → t.link k = s.link k
  mem : t.mem = s.mem
  regs : t.regs = s.regs

theorem OnlyLink.others {l : Nat} {s t : State} (h : OnlyLink l s t) : (∀ k, k ≠ l → t.link k = s.link k) ∧ t.mem = s.mem ∧ t.regs = s.regs :=
  ⟨h.link, h.mem, h.regs⟩

theorem OnlyLink.refl (l : Nat) (s : State) : OnlyLink l s s := ⟨fun _ _ => rfl, rfl, rfl⟩

theorem OnlyLink.trans {l : Nat} {s t u : State} (h : OnlyLink l s t) (h' : OnlyLink l t u) : OnlyLink l s u :=
  ⟨fun k hk => (h'.link k hk).trans (h.link k hk), h'.mem.trans h.mem, h'.regs.trans h.regs⟩

theorem OnlyLink.ite {l : Nat} {s t u : State} {b : Prop} [Decidable b] (h : OnlyLink l s t) (h' : OnlyLink l s u) : OnlyLink l s (if b then t else u) := by
  split <;> assumption

theorem OnlyLink.setLink (s : State) (l : Nat) (x : Link) : OnlyLink l s (s.setLink l x) := ⟨fun _ hk => s.link_setLink_other hk x, rfl, rfl⟩

theorem OnlyLink.updLink (s : State) (l : Nat) (f : Link → Link) : OnlyLink l s (s.updLink l f) := .setLink s l _

theorem OnlyLink.updTx (s : State) (l : Nat) (f : LinkTx → LinkTx) : OnlyLink l s (s.updTx l f) := .setLink s l _

theorem OnlyLink.updNet (s : State) (l : Nat) {f : NetSt → NetSt} (h : ∀ n, (f n).links = n.links) : OnlyLink l s (s.updNet f) :=
  ⟨fun k _ => s.link_updNet h k, rfl, rfl⟩

theorem OnlyLink.updLinkSt (s : State) (l : Nat) (f : Link → Link) : OnlyLink l s (s.updLinkSt l f) := by
  unfold State.updLinkSt State.pendIf
  exact .ite ((OnlyLink.updLink s l f).trans ⟨fun _ _ => rfl, rfl, rfl⟩) (.updLink s l f)

theorem OnlyLink.draw (s : State) (l : Nat) : OnlyLink l s s.draw.2 := ⟨fun _ _ => rfl, rfl, rfl⟩

theorem OnlyLink.pend (s : State) (l n : Nat) : OnlyLink l s (s.pend n) := ⟨fun _ _ => rfl, rfl, rfl⟩

/-! #### Key agreement and rekeying (R436) -/

/-- The message with which this side opens a key agreement. -/
def helloMsg (s : State) : List Byte :=
  s.u.ctl.certs ++ leBytes 32 (Config.authNonce s.draw.1).toNat ++ leBytes 384 (Config.authPublic s.draw.1).toNat

theorem authHello_eq (l : Nat) (s : State) :
    authHello l s = authSend l (helloMsg s) (s.draw.2.updLink l (fun x => { x with hello := helloMsg s, peerHello := [] })) := rfl

theorem link_authSend (l : Nat) (msg : List Byte) (s : State) : ∃ q, (authSend l msg s).link l = { s.link l with tx := { (s.link l).tx with q } } :=
  ⟨_, s.link_updTx_same l _⟩

theorem link_authHello (l : Nat) (s : State) : ∃ q, (authHello l s).link l =
    { s.link l with hello := helloMsg s, peerHello := [], tx := { (s.link l).tx with q } } := by
  obtain ⟨q, h⟩ := link_authSend l (helloMsg s) (s.draw.2.updLink l (fun x => { x with hello := helloMsg s, peerHello := [] }))
  rw [State.link_updLink_same] at h
  exact ⟨q, h⟩

/-- The messages of a key agreement are sent on its own link. -/
theorem OnlyLink.authHello (l : Nat) (s : State) : OnlyLink l s (authHello l s) := by
  rw [authHello_eq, authSend]
  exact ((OnlyLink.draw s l).trans (.updLink _ l _)).trans (.updTx _ l _)

theorem OnlyLink.rekeyStart (l : Nat) (s : State) : OnlyLink l s (rekeyStart l s) := .ite (.authHello l s) (.refl l s)

/-- A rekey that starts queues its messages and changes nothing else of the link. -/
theorem link_rekeyStart (l : Nat) (s : State) : ∃ hello peerHello q, (rekeyStart l s).link l =
    { s.link l with hello, peerHello, tx := { (s.link l).tx with q } } := by
  unfold rekeyStart
  dsimp only
  split
  · obtain ⟨q, h⟩ := link_authHello l s
    exact ⟨_, _, q, h⟩
  · exact ⟨_, _, _, rfl⟩

theorem rekeyStart_plain {l : Nat} {s : State} (h : (s.link l).enc = false) : rekeyStart l s = s := if_neg (by simp [h])

end Sys2Proof.Machine
end

/-! ### Sending a flit (R269 to R275) -/

section
namespace Sys2Proof.Machine

open Sys2Proof

/-- What a flit of link x tells of the credits returned: no byte advances by more than 255 (R274). -/
def toldNow (x : Link) : List Nat := (List.range 4).map (fun v => min (nth 0 x.rx.ret v) (nth 0 x.tx.told v + 255))

theorem link_emit (l seq vc : Nat) (sop eop time null : Bool) (pay : List Byte) (s : State) : (emit l seq vc sop eop time null pay s).link l =
    { s.link l with outs := (s.link l).outs ++ [flitBytes (s.link l) (toldNow (s.link l)) seq vc sop eop time null pay]
                    tx := { (s.link l).tx with told := toldNow (s.link l), nak := false } } := s.link_updLink_same l _

theorem OnlyLink.emit (l seq vc : Nat) (sop eop time null : Bool) (pay : List Byte) (s : State) : OnlyLink l s (emit l seq vc sop eop time null pay s) :=
  .updLink s l _

section
variable {s : State} {l : Nat} (hup : (s.link l).st = lkUp) (htime : (s.link l).tx.time = [])
include hup htime

theorem flitSend_idle (hresend : (s.link l).tx.resend = none) (hvc : pickVc (s.link l) = none) :
    flitSend l s = emit l 0 0 false false false true zeroPay s := by
  simp [flitSend, hup, htime, hresend, hvc, lkUp]

theorem flitSend_new (hresend : (s.link l).tx.resend = none) {v : Nat} {rot : List Nat} (hvc : pickVc (s.link l) = some (v, rot)) :
    flitSend l s = sendNew l v rot s := by
  simp [flitSend, hup, htime, hresend, hvc, lkUp]

theorem flitSend_again {r : Nat} {f : RFlit} (hresend : (s.link l).tx.resend = some r) (hf : (s.link l).tx.buf[r]? = some f) :
    flitSend l s = sendAgain l r f s := by
  simp [flitSend, hup, htime, hresend, hf, lkUp]

end

theorem flitSend_exchange {s : State} {l : Nat} (h : (s.link l).st = 3) : flitSend l s =
    emit l 0 0 false false false true (leBytes 244 (Config.exchangePayload s.devAddr l (bitOf (lnkCfg s l) 62)).toNat) s := if_pos h

/-- Sealing a packet moves the link's counts and nothing else of it (R289). -/
theorem startHead_link (x : Link) (t : TxPkt) : (startHead x t).1 = { x with keys := (startHead x t).1.keys } := by
  unfold startHead
  split
  · rfl
  · dsimp only
    split <;> rfl

theorem startHead_sop (x : Link) (t : TxPkt) : (startHead x t).2.2 = t.rest.isNone := by
  unfold startHead
  cases t.rest <;> rfl

/-- The link once its next flit, of VC v, has left the queues: SEQ, the rotation, the credit and the retry buffer (R271, R274, R275). -/
def afterNew (now v : Nat) (rot : List Nat) (x : Link) (t : TxPkt) (more : List TxPkt) (pay : List Byte) (rest : List (List Byte)) : Link :=
  { x with keys := (startHead x t).1.keys, tx := stallMark now { x.tx with
      seq := (x.tx.seq + 1) % 4096, rot, q := SMap.set v (if rest.isEmpty then more else { t with rest := some rest } :: more) x.tx.q
      cred := setAt x.tx.cred v (nth 0 x.tx.cred v - 1)
      buf := x.tx.buf ++ [{ seq := x.tx.seq, vc := v, sop := t.rest.isNone, eop := rest.isEmpty, pay, tag := t.hop.pkt.tag, hdr := t.hop.pkt.hdr }] } }

theorem sendNew_flit {s : State} {l v : Nat} {t : TxPkt} {more : List TxPkt} {pay : List Byte} {rest : List (List Byte)} (rot : List Nat)
    (hq : txq (s.link l) v = t :: more)
    (hkey : (s.link l).enc = false ∨ t.rest.isSome = true ∨ nth 0 (s.link l).keys.txN (s.link l).keys.cur < 2 ^ 63)
    (hhead : (startHead (s.link l) t).2.1 = pay :: rest) :
    sendNew l v rot s = rekeyStart l (emit l (s.link l).tx.seq v t.rest.isNone rest.isEmpty false false pay
      (s.setLink l (afterNew s.course.toNat v rot (s.link l) t more pay rest))) := by
  have hlive : ((s.link l).enc && t.rest.isNone && decide (2 ^ 63 ≤ nth 0 (s.link l).keys.txN (s.link l).keys.cur)) = false := by
    rcases hkey with henc | hsome | hcount
    · simp [henc]
    · simp [Option.isSome_iff_ne_none.1 hsome]
    · rw [decide_eq_false (not_le.2 hcount), Bool.and_false]
  simp only [sendNew, hq, hlive, hhead, Bool.false_eq_true, if_false]
  rw [startHead_sop, startHead_link]
  rfl

/-- Packets that go back to the hop leave their link's queues, and nothing else of it changes (R285). -/
theorem link_reroute (l : Nat) (s : State) : ∃ q stall, (reroute l s).link l = { s.link l with tx := { (s.link l).tx with q, stall } } := by
  unfold reroute
  exact ⟨_, _, (State.link_updNet _ (by exact fun _ => rfl) l).trans (s.link_updTx_same l _)⟩

theorem light_reroute (l : Nat) (s : State) : (reroute l s).u.net.light = s.u.net.light := by
  unfold Machine.reroute
  exact State.light_updNet _ (by exact fun _ => rfl)

theorem OnlyLink.reroute (l : Nat) (s : State) : OnlyLink l s (reroute l s) := by
  unfold Machine.reroute
  exact (OnlyLink.updTx s l _).trans (.updNet _ l (by exact fun _ => rfl))

theorem link_toRetrain (l : Nat) (s : State) : ∃ authing q stall, (toRetrain l s).link l =
    { s.link l with st := lkRetrain, authing, tx := { (s.link l).tx with q, stall } } := by
  obtain ⟨q, stall, h⟩ := link_reroute l (s.updLinkSt l (fun x => { x with st := lkRetrain, authing := x.st == 4 }))
  rw [State.link_updLinkSt_same] at h
  exact ⟨_, q, stall, h⟩

theorem OnlyLink.toRetrain (l : Nat) (s : State) : OnlyLink l s (toRetrain l s) := (OnlyLink.updLinkSt s l _).trans (.reroute l _)

/-- A flit sent again is the flit of the retry buffer, with the link word of now (R271). -/
theorem outs_sendAgain (l r : Nat) (f : RFlit) (s : State) : ((sendAgain l r f s).link l).outs =
    (s.link l).outs ++ [flitBytes (s.link l) (toldNow (s.link l)) f.seq f.vc f.sop f.eop false false f.pay] := by
  have houts : ∀ g : Link → Link, (∀ x, (g x).outs = x.outs) → (((emit l f.seq f.vc f.sop f.eop false false f.pay s).updLink l g).link l).outs =
      (s.link l).outs ++ [flitBytes (s.link l) (toldNow (s.link l)) f.seq f.vc f.sop f.eop false false f.pay] := fun g hg => by
    rw [State.link_updLink_same, hg, link_emit]
  unfold sendAgain
  dsimp only
  split
  · rw [link_lnkEvent]
    obtain ⟨authing, q, stall, h⟩ := link_toRetrain l ((emit l f.seq f.vc f.sop f.eop false false f.pay s).updLink l _)
    rw [h]
    exact houts _ (fun _ => rfl)
  · exact houts _ (fun _ => rfl)

end Sys2Proof.Machine
end

/-! ### Receiving a flit (R271, R274) -/

section
namespace Sys2Proof.Machine

open Sys2Proof

/-! #### The link word -/

theorem leNat_take_four (v : Nat) : leNat ((leBytes 256 v).take 4) = v % 2 ^ 32 := by
  have hfour : (leBytes 256 v).take 4 = leBytes 4 v := rfl
  rw [hfour, leNat_leBytes, show (256 : Nat) ^ 4 = 2 ^ 32 from rfl]

theorem testBit_word (f : BitVec 2048) {i : Nat} (h : i < 32) : (f.toNat % 2 ^ 32).testBit i = f.getLsbD i := by
  rw [Nat.testBit_mod_two_pow, decide_eq_true h, Bool.true_and, BitVec.getLsbD]

/-- The credit bytes of a flit (R274). -/
def creditBytes (f : BitVec 2048) : List Nat := ((leBytes 256 f.toNat).drop 4 |>.take 4).map (fun c => c.toNat)

/-! #### What a good flit's word and its FEC codewords change -/

/-- An acknowledgement ends the count of retrains and frees flits of the retry buffer (R271). -/
theorem takeAck_eq (ack : Nat) (x : Link) : takeAck ack x = { x with retrains := (takeAck ack x).retrains, tx := (takeAck ack x).tx } := by
  unfold takeAck
  split <;> rfl

/-- A link word changes the sender alone, and the count of retrains; its credit bytes are those last seen (R274). -/
theorem link_takeWord (l w : Nat) (cs : List Nat) (s : State) : ∃ retrains tx, tx.last = cs ∧
    (takeWord l w cs s).link l = { s.link l with retrains, tx } := by
  have hlink : (takeWord l w cs s).link l = _ := s.link_updLink_same l _
  rw [hlink]
  dsimp only
  split
  · rw [takeAck_eq]
    exact ⟨_, _, rfl, rfl⟩
  · rw [takeAck_eq]
    exact ⟨_, _, rfl, rfl⟩

theorem OnlyLink.takeWord (l w : Nat) (cs : List Nat) (s : State) : OnlyLink l s (takeWord l w cs s) := .updLink s l _

theorem link_fecSeen (l : Nat) (s : State) : ∃ fecCorr fecUnc, (fecSeen l s).link l = { s.link l with fecCorr, fecUnc } :=
  ⟨_, _, State.link_updLink_same s.draw.2.draw.2 l _⟩

theorem OnlyLink.fecSeen (l : Nat) (s : State) : OnlyLink l s (fecSeen l s) := by
  unfold Machine.fecSeen
  exact ((OnlyLink.draw s l).trans (.draw _ l)).trans (.updLink _ l _)

/-! #### What a sequenced flit does -/

/-- The state once the word and the credits of a good flit are taken. -/
def wordTaken (l : Nat) (f : BitVec 2048) (s : State) : State := takeWord l (f.toNat % 2 ^ 32) (creditBytes f) (fecSeen l s)

theorem link_wordTaken (l : Nat) (f : BitVec 2048) (s : State) : ∃ fecCorr fecUnc retrains tx, tx.last = creditBytes f ∧
    (wordTaken l f s).link l = { s.link l with fecCorr, fecUnc, retrains, tx } := by
  obtain ⟨fecCorr, fecUnc, hfec⟩ := link_fecSeen l s
  obtain ⟨retrains, tx, hlast, hword⟩ := link_takeWord l (f.toNat % 2 ^ 32) (creditBytes f) (fecSeen l s)
  rw [hfec] at hword
  exact ⟨fecCorr, fecUnc, retrains, tx, hlast, hword⟩

theorem OnlyLink.wordTaken (l : Nat) (f : BitVec 2048) (s : State) : OnlyLink l s (wordTaken l f s) :=
  (OnlyLink.fecSeen l s).trans (.takeWord l _ _ _)

/-- A sequenced flit on a link that is UP: one that is good and next in sequence is accepted, any other asks for a resend (R271). -/
theorem flitReceive_sequenced {s : State} {l : Nat} {f : BitVec 2048} (hup : (s.link l).st = lkUp) (hseq : f.getLsbD 29 = false) (hdata : f.getLsbD 30 = false) :
    flitReceive l f s =
      if flitGood (leBytes 256 f.toNat) = false then gapNak l (fecSeen l s)
      else if f.toNat % 2 ^ 32 % 4096 = (s.link l).rx.exp then
        acceptFlit l (f.toNat % 2 ^ 32 / 2 ^ 27 % 4) (f.getLsbD 25) (f.getLsbD 26) (((leBytes 256 f.toNat).drop 8).take 244)
          (wordTaken l f s)
      else gapNak l (wordTaken l f s) := by
  obtain ⟨fecCorr, fecUnc, hfec⟩ := link_fecSeen l s
  have hst : ((fecSeen l s).link l).st = lkUp := by rw [hfec, hup]
  have hexp : ((fecSeen l s).link l).rx.exp = (s.link l).rx.exp := by rw [hfec]
  simp only [flitReceive, hst, hexp, leNat_take_four, testBit_word f (show 25 < 32 by decide), testBit_word f (show 26 < 32 by decide),
    testBit_word f (show 29 < 32 by decide), testBit_word f (show 30 < 32 by decide), hseq, hdata]
  cases flitGood (leBytes 256 f.toNat) <;> simp [creditBytes, wordTaken]

/-- A gap is NAKed once. -/
theorem gapNak_first {s : State} {l : Nat} (h : (s.link l).rx.gap = false) :
    gapNak l s = s.updLink l (fun x => { x with rx := { x.rx with gap := true }, tx := { x.tx with nak := true } }) := if_neg (by simp [h])

/-- What of VC vc has come once a flit is accepted. -/
def partWith (x : Link) (vc : Nat) (sop : Bool) (pay : List Byte) : List (List Byte) :=
  if sop then [pay] else if (SMap.get [] vc x.rx.part).isEmpty then [] else SMap.get [] vc x.rx.part ++ [pay]

/-- The link once a flit is accepted: the next SEQ is expected, no gap is open, and no retrain counts (R271, R272). -/
structure Accepted (x y : Link) : Prop where
  exp : y.rx.exp = (x.rx.exp + 1) % 4096
  gap : y.rx.gap = false
  retrains : y.retrains = 0
  last : y.tx.last = x.tx.last
  enc : y.enc = x.enc

/-- A packet's start counts at the receiver's keys, whatever the flit (R289). -/
theorem Accepted.sealTake {x y : Link} (h : Accepted x y) (vc : Nat) (hdr : BitVec 192) : Accepted x (sealTake vc hdr y) := by
  obtain ⟨hexp, hgap, hretrains, hlast, henc⟩ := h
  unfold Machine.sealTake
  dsimp only
  split_ifs <;> exact ⟨hexp, hgap, hretrains, hlast, henc⟩

/-- An accepted flit changes its link, and with EOP what has come of its packet is a packet. -/
theorem acceptFlit_eq (l vc : Nat) (sop eop : Bool) (pay : List Byte) (s : State) : ∃ f n, Accepted (s.link l) (f (s.link l)) ∧
    acceptFlit l vc sop eop pay s = rekeyStart l (if eop && !(partWith (s.link l) vc sop pay).isEmpty
      then packetIn l vc n (partWith (s.link l) vc sop pay).flatten (s.updLink l f) else s.updLink l f) := by
  refine ⟨_, _, ?_, rfl⟩
  dsimp only
  split
  · refine Accepted.sealTake ?_ vc _
    exact ⟨rfl, rfl, rfl, rfl, rfl⟩
  · exact ⟨rfl, rfl, rfl, rfl, rfl⟩

/-- A flit that does not end its packet. -/
theorem acceptFlit_more (l vc : Nat) (sop : Bool) (pay : List Byte) (s : State) : ∃ f, Accepted (s.link l) (f (s.link l)) ∧
    acceptFlit l vc sop false pay s = rekeyStart l (s.updLink l f) := by
  obtain ⟨f, n, hf, h⟩ := acceptFlit_eq l vc sop false pay s
  exact ⟨f, hf, h⟩

/-- On a link without encryption a packet that is not sealed stands at this hop (R279, R289). -/
theorem packetIn_plain {s : State} {l : Nat} {b : List Byte} (henc : (s.link l).enc = false)
    (hplain : (byteField (BitVec.ofNat 192 (leNat (b.take 24))) 7 1).testBit 6 = false) (vc n : Nat) :
    let h := BitVec.ofNat 192 (leNat (b.take 24))
    packetIn l vc n b s = s.updNet (fun t => { t with hop := t.hop ++
      [{ pkt := { vc, hdr := putBytes h 7 1 (byteField h 7 1 % 64), body := ((b.drop 24).take (byteField h 14 2 + 4)).take (byteField h 14 2)
                  crc := BitVec.ofNat 32 (leNat (((b.drop 24).take (byteField h 14 2 + 4)).drop (byteField h 14 2))) }
         from_ := some l, flits := n }] }) := by
  simp [packetIn, henc, hplain]

theorem partWith_started {x : Link} {vc : Nat} {sop : Bool} (h : sop = true ∨ SMap.get [] vc x.rx.part ≠ []) (pay : List Byte) :
    partWith x vc sop pay = (if sop then [] else SMap.get [] vc x.rx.part) ++ [pay] := by
  unfold partWith
  cases sop with
  | true => rfl
  | false => simp [h.resolve_left Bool.false_ne_true]

/-- A flit that ends a packet which is not sealed, on a link without encryption: the packet stands at this hop. -/
theorem acceptFlit_whole {s : State} {l vc : Nat} {sop : Bool} (henc : (s.link l).enc = false) (hstart : sop = true ∨ SMap.get [] vc (s.link l).rx.part ≠ [])
    (pay : List Byte) :
    let b := ((if sop then [] else SMap.get [] vc (s.link l).rx.part) ++ [pay]).flatten
    let h := BitVec.ofNat 192 (leNat (b.take 24))
    (byteField h 7 1).testBit 6 = false → ∃ f n crc, Accepted (s.link l) (f (s.link l)) ∧
      acceptFlit l vc sop true pay s = (s.updLink l f).updNet (fun t => { t with hop := t.hop ++
        [{ pkt := { vc, hdr := putBytes h 7 1 (byteField h 7 1 % 64), body := (b.drop 24).take (byteField h 14 2), crc }, from_ := some l, flits := n }] }) := by
  intro b h hplain
  obtain ⟨f, n, hf, haccept⟩ := acceptFlit_eq l vc sop true pay s
  have hpart := partWith_started hstart pay
  have hsome : (true && !(partWith (s.link l) vc sop pay).isEmpty) = true := by simp [hpart]
  have hplainLink : ((s.updLink l f).link l).enc = false := by rw [State.link_updLink_same, hf.enc, henc]
  rw [if_pos hsome, hpart, packetIn_plain hplainLink hplain, List.take_take, Nat.min_eq_left (Nat.le_add_right _ 4),
    rekeyStart_plain ((congrArg Link.enc (State.link_updNet _ (by exact fun _ => rfl) l)).trans hplainLink)] at haccept
  exact ⟨f, n, _, hf, haccept⟩

end Sys2Proof.Machine
end

/-! ### TIME flits, the acknowledgement's time-out and the end of a retrain (R271 to R273) -/

section
namespace Sys2Proof.Machine

open Sys2Proof

/-- A TIME flit with a good CRC acts as its payload says (R254, R273). -/
theorem timeFlitReceive_good {s : State} {l : Nat} {f : BitVec 2048} (hst : (s.link l).st = 4 ∨ (s.link l).st = lkUp)
    (hgood : flitGood (leBytes 256 f.toNat) = true) (htime : f.getLsbD 29 = true) (tick : Nat) :
    timeFlitReceive l f tick s =
      let u := takeWord l (f.toNat % 2 ^ 32) (creditBytes f) s
      let pay := BitVec.ofNat 1952 (leNat (((leBytes 256 f.toNat).drop 8).take 244))
      if Config.timeKind pay = 0 then syncReceive l (Config.timeStamp pay) tick u
      else if Config.timeKind pay = 1 then u.updTx l (fun t => { t with time := t.time ++ [(2, (nowTicks s tick).toNat)] })
      else delayReply l (Config.timeT2 pay) (Config.timeStamp pay) (nowTicks s tick) u := by
  have hopen : (decide ((s.link l).st ≠ 4) && decide ((s.link l).st ≠ lkUp)) = false := by rcases hst with h | h <;> simp [h]
  simp only [timeFlitReceive, leNat_take_four, testBit_word f (show 29 < 32 by decide), hopen, hgood, htime]
  simp only [Bool.not_true, Bool.or_self, Bool.false_eq_true, if_false, creditBytes]
  split
  next h => rw [if_pos h]
  next h => rw [if_neg (by omega), if_pos h]
  next h0 h1 => rw [if_neg h0, if_neg h1]

/-- A retrain within the limit ends with the retry buffer's resend (R272). -/
theorem retrainDone_within {s : State} {l : Nat} (hst : (s.link l).st = lkRetrain) (h : (s.link l).retrains + 1 < bitsOf (lnkLimits s) 7 0) :
    retrainDone l s = s.updLinkSt l (fun x => resendAll { x with st := if x.authing then 4 else lkUp, authing := false, retrains := x.retrains + 1
                                                                 tx := { x.tx with buf := x.tx.buf.map (fun f => { f with tries := 0 }) } }) := by
  unfold retrainDone
  dsimp only
  rw [if_neg (not_not.2 hst), if_neg (not_le.2 h)]

end Sys2Proof.Machine
end

section
open Sys2Proof Sys2Proof.Machine

/-- Settles O43, a command at a time. A rekey that a count starts (R436) queues its messages and leaves what the clauses speak of alone. -/
theorem flitsAreSentAndTaken : Obligations.FlitsAreSentAndTaken := by
  unfold Obligations.FlitsAreSentAndTaken
  intro s l hl x crcOk word others
  refine ⟨?_, ?_, ?_, ?_, ?_, ?_, ?_, ?_, ?_⟩
  · intro hup htime hresend hvc
    exact (onLink_of_lt hl _).trans (congrArg _ (flitSend_idle hup htime hresend hvc))
  · intro hst
    exact (onLink_of_lt hl _).trans (congrArg _ (flitSend_exchange hst))
  · intro v rot t more pay rest hup htime hresend hvc hq hkey hhead
    refine ⟨_, (onLink_of_lt hl _).trans (congrArg _ ((flitSend_new hup htime hresend hvc).trans (sendNew_flit rot hq hkey hhead))), ?_⟩
    obtain ⟨hello, peerHello, q, hlink⟩ := link_rekeyStart l (emit l (s.link l).tx.seq v t.rest.isNone rest.isEmpty false false pay
      (s.setLink l (afterNew s.course.toNat v rot (s.link l) t more pay rest)))
    rw [link_emit, State.link_setLink_same] at hlink
    have honly := fun y => ((OnlyLink.setLink s l y).trans (.emit l (s.link l).tx.seq v t.rest.isNone rest.isEmpty false false pay _)).trans (.rekeyStart l _)
    rw [hlink]
    exact ⟨rfl, rfl, rfl, rfl, ⟨_, rfl⟩, (honly _).others⟩
  · intro r f hup htime hresend hf
    exact ⟨_, (onLink_of_lt hl _).trans (congrArg _ (flitSend_again hup htime hresend hf)), _, outs_sendAgain l r f s⟩
  · intro f hup hbad hseq hdata hgap
    have hgood : flitGood (leBytes 256 f.toNat) = false := decide_eq_false hbad
    obtain ⟨fecCorr, fecUnc, hfec⟩ := link_fecSeen l s
    have hgap' : ((fecSeen l s).link l).rx.gap = false := by rw [hfec]; exact hgap
    have hstep := (flitReceive_sequenced hup hseq hdata).trans ((if_pos hgood).trans (gapNak_first hgap'))
    refine ⟨_, (onLink_of_lt hl _).trans (congrArg _ hstep), ?_, ?_, ((OnlyLink.fecSeen l s).trans (.updLink _ l _)).others⟩
    · rw [State.link_updLink_same, hfec]
    · rw [State.link_updLink_same, hfec]
  · intro f hup hgood hseq hdata hnext vc pay
    have hgood' : flitGood (leBytes 256 f.toNat) ≠ false := by simpa [flitGood] using hgood
    have hstep := (onLink_of_lt hl _).trans (congrArg Host.Outcome.next ((flitReceive_sequenced hup hseq hdata).trans
      ((if_neg hgood').trans (if_pos hnext))))
    obtain ⟨fecCorr, fecUnc, retrains, tx, hlast, hword⟩ := link_wordTaken l f s
    refine ⟨fun hmore => ?_, ?_⟩
    · obtain ⟨g, hg, haccept⟩ := acceptFlit_more l vc (f.getLsbD 25) pay (wordTaken l f s)
      obtain ⟨hello, peerHello, q, hlink⟩ := link_rekeyStart l ((wordTaken l f s).updLink l g)
      rw [State.link_updLink_same] at hlink
      rw [hmore, haccept] at hstep
      refine ⟨_, hstep, ?_⟩
      rw [hlink]
      rw [hword] at hg
      rw [hword]
      exact ⟨hg.exp, hg.gap, hg.retrains, hg.last.trans hlast, (((OnlyLink.wordTaken l f s).trans (.updLink _ l g)).trans (.rekeyStart l _)).others⟩
    · intro heop henc hstart b h hplain
      have henc' : ((wordTaken l f s).link l).enc = false := by rw [hword]; exact henc
      have hrx : ((wordTaken l f s).link l).rx = x.rx := by rw [hword]
      obtain ⟨g, n, crc, hg, haccept⟩ := acceptFlit_whole henc' (hrx ▸ hstart) pay (hrx ▸ hplain)
      rw [heop, haccept] at hstep
      refine ⟨_, _, hstep, ?_, (((OnlyLink.wordTaken l f s).trans (.updLink _ l g)).trans (.updNet _ l (by exact fun _ => rfl))).others, rfl, rfl, rfl, ?_, ?_⟩
      · rw [State.link_updNet _ (by exact fun _ => rfl), State.link_updLink_same, hg.exp, hrx]
      · rw [hrx]
      · rw [hrx]
  · intro f tick hst hgood htime u pay
    exact (onLink_of_lt hl _).trans (congrArg _ (timeFlitReceive_good hst (decide_eq_true hgood) htime tick))
  · exact onLink_of_lt hl _
  · intro hst hmax
    refine ⟨_, (onLink_of_lt hl _).trans (congrArg _ (retrainDone_within hst hmax)), ?_⟩
    rw [State.link_updLinkSt_same]
    refine ⟨rfl, rfl, ?_, ?_, (OnlyLink.updLinkSt s l _).others⟩
    · simp [resendAll, x]
    · simp [resendAll, x]

end

/-! ### Packets at this hop (R274, R279, R283 to R286) -/

section
namespace Sys2Proof.Machine

open Sys2Proof

/-- The packet that a command takes, and what is left of the hop. -/
theorem takeHop_some {f : Hop → Bool} {s u : State} {h : Hop} (htake : takeHop f s = some (h, u)) :
    ∃ hop, u = s.updNet (fun n => { n with hop }) := by
  unfold takeHop at htake
  split at htake
  · cases htake
  · obtain ⟨g, -, hg⟩ := Option.map_eq_some_iff.1 htake
    cases hg
    exact ⟨_, rfl⟩

/-- Credits that are returned change what a link's receiver counts and no link's state (R274). -/
theorem freeFlits_eq (h : Hop) (s : State) : ∃ links, freeFlits h s = s.updNet (fun n => { n with links }) ∧
    ∀ k, ((freeFlits h s).link k).st = (s.link k).st := by
  unfold freeFlits
  cases h.from_ with
  | none => exact ⟨_, rfl, fun _ => rfl⟩
  | some l =>
    refine ⟨_, rfl, fun k => ?_⟩
    dsimp only
    by_cases hk : k = l
    · rw [hk, State.updRx, State.link_updLink_same]
    · rw [State.updRx, State.link_updLink_other _ hk]

/-- Once a packet is taken and its credits are returned, only what waits at the hop and the counts of links differ. -/
theorem taken_eq {f : Hop → Bool} {s u : State} {h : Hop} (htake : takeHop f s = some (h, u)) : ∃ net, freeFlits h u = s.updNet (fun _ => net) ∧
    net.hop = u.u.net.hop ∧ ∀ k, ((s.updNet (fun _ => net)).link k).st = (s.link k).st := by
  obtain ⟨hop, rfl⟩ := takeHop_some htake
  obtain ⟨links, heq, hst⟩ := freeFlits_eq h (s.updNet (fun n => { n with hop }))
  refine ⟨(freeFlits h (s.updNet (fun n => { n with hop }))).u.net, ?_, ?_, fun k => (State.link_of_net rfl k ▸ hst k)⟩
  · rw [heq]
    rfl
  · rw [heq]
    rfl

/-! #### Links that a packet may take -/

/-- They depend on the links' states alone. -/
theorem openLinks_updNet {s : State} {f : NetSt → NetSt} (hst : ∀ k, ((s.updNet f).link k).st = (s.link k).st) (h : Hop) (m : Nat) :
    openLinks (s.updNet f) h m = openLinks s h m :=
  List.filter_congr (fun k _ => by rw [hst k]; rfl)

theorem nth_mem {l : List Nat} {i : Nat} (h : i < l.length) : nth 0 l i ∈ l := by
  rw [nth, List.getD_eq_getElem _ _ h]
  exact List.getElem_mem h

/-- The best of a list by any comparison is one of it. -/
theorem foldl_pick_mem (better : Nat → Nat → Prop) [∀ b l, Decidable (better b l)] (l : List Nat) (a : Nat) :
    l.foldl (fun b l => if better b l then l else b) a ∈ a :: l := by
  refine List.foldlRecOn (motive := (· ∈ a :: l)) l _ List.mem_cons_self (fun b hb x hx => ?_)
  split
  · exact List.mem_cons_of_mem a hx
  · exact hb

/-- Every policy chooses one of the open links (R284). -/
theorem spread_mem (s : State) (policy : Nat) (p : Pkt) {up : List Nat} (h : up ≠ []) : spread s policy p up ∈ up := by
  have hpos : 0 < up.length := List.length_pos_iff.2 h
  unfold spread
  split
  · exact nth_mem (Nat.mod_lt _ hpos)
  · split
    next l hl => exact List.mem_of_find?_eq_some hl
    next =>
      rcases List.mem_cons.1 (foldl_pick_mem (fun b l => nth 0 (s.link b).tx.cred p.vc < nth 0 (s.link l).tx.cred p.vc) up (nth 0 up 0)) with heq | hmem
      · rw [heq]
        exact nth_mem hpos
      · exact hmem
  · exact nth_mem hpos

/-! #### Forwarding -/

/-- A packet in its VC's queue of a link, at the end. -/
def enqueue (l hops : Nat) (h : Hop) (s : State) : State :=
  s.updTx l (fun t => stallMark s.course.toNat { t with q := SMap.set h.pkt.vc (SMap.get [] h.pkt.vc t.q ++
    [{ hop := { h with pkt := { h.pkt with hdr := putBytes h.pkt.hdr 7 1 hops }, from_ := none, flits := 0 } }]) t.q })

theorem txq_enqueue (l hops : Nat) (h : Hop) (s : State) : txq ((enqueue l hops h s).link l) h.pkt.vc = txq (s.link l) h.pkt.vc ++
    [{ hop := { h with pkt := { h.pkt with hdr := putBytes h.pkt.hdr 7 1 hops }, from_ := none, flits := 0 } }] := by
  rw [enqueue, State.link_updTx_same]
  exact SMap.get_set_same _ _ _ _

theorem OnlyLink.enqueue (l hops : Nat) (h : Hop) (s : State) : OnlyLink l s (enqueue l hops h s) := .updTx s l _

/-- A packet within its limits of hops and age goes where the links allow (R283, R286). -/
theorem forwardHop_within {h : Hop} {u : State} (hhops : h.pkt.hops + (if h.from_.isSome then 1 else 0) ≤ bitsOf (lnkLimits (freeFlits h u)) 37 32)
    (hage : ((freeFlits h u).course.toNat % 65536 + 65536 - h.pkt.born) % 65536 ≤ bitsOf (lnkPat (freeFlits h u)) 47 32) :
    forwardHop h u = match hopLink (freeFlits h u) h with
      | none => pktEvent 0x8801 h (freeFlits h u)
      | some l => enqueue l (h.pkt.hops + (if h.from_.isSome then 1 else 0)) h (freeFlits h u) := by
  unfold forwardHop
  dsimp only
  rw [decide_eq_false (not_lt.2 hhops), decide_eq_false (not_lt.2 hage)]
  rfl

/-! #### Delivery -/

/-- A packet for this device is delivered where its CRC is good and its tag is held (R278, R279). -/
theorem deliverHop_good {h : Hop} {u : State} (hcrc : e2eCrc h.pkt.hdr h.pkt.body = h.pkt.crc)
    (htag : h.pkt.tag = 0 ∨ (((freeFlits h u).ownerOfTag h.pkt.tag).isSome = true ∧ (freeFlits h u).u.flt.out = false)) :
    deliverHop h u =
      let v := (freeFlits h u).updNet (fun n => { n with inbox := n.inbox ++ [h.pkt] })
      if h.pkt.tag = 0 then authTake h.pkt v else v := by
  unfold deliverHop
  simp only [hcrc, bne_self_eq_false, Bool.false_eq_true, if_false]
  by_cases h0 : h.pkt.tag = 0
  · rw [if_pos h0, if_pos h0]
  · obtain ⟨howner, hin⟩ := htag.resolve_left h0
    obtain ⟨o, ho⟩ := Option.isSome_iff_exists.1 howner
    simp [h0, ho, hin]

/-! ### A VC that waits for credit (R276) -/

theorem creditStall_not_due {s : State} {l v : Nat} (h : txq (s.link l) v = [] ∨ nth 0 (s.link l).tx.cred v ≠ 0 ∨
    (∀ c, SMap.find v (s.link l).tx.stall = some (c, false) → s.course.toNat < c + bitsOf (lnkLimits s) 63 48)) : creditStall l v s = s := by
  unfold creditStall
  dsimp only
  split
  next c hstall =>
    refine if_pos ?_
    rcases h with hnone | hcredit | hearly
    · simp [hnone]
    · simp [hcredit]
    · simp [hearly c hstall]
  next => rfl

/-- Packets of one tag wait: one event (R276). -/
theorem creditStall_one {s : State} {l v c : Nat} {t : TxPkt} (hq : txq (s.link l) v = [t]) (hcred : nth 0 (s.link l).tx.cred v = 0)
    (hstall : SMap.find v (s.link l).tx.stall = some (c, false)) (hdue : c + bitsOf (lnkLimits s) 63 48 ≤ s.course.toNat) :
    creditStall l v s = lnkEvent 0x8805 l (s.ownerOfTag t.hop.pkt.tag) t.hop.pkt.hdr
      (s.updTx l (fun y => { y with stall := SMap.set v (c, true) y.stall })) := by
  have htags : dedupe ([t].map (fun t => t.hop.pkt.tag)) = [t.hop.pkt.tag] := rfl
  have hnow : (decide (s.course.toNat < c + bitsOf (lnkLimits s) 63 48) || [t].isEmpty || decide (nth 0 (s.link l).tx.cred v ≠ 0)) = false := by
    simp [hcred, hdue]
  have hwaits : ([t].find? (fun (x : TxPkt) => x.hop.pkt.tag == t.hop.pkt.tag)) = some t := by simp
  simp only [creditStall, hstall, hq, hnow, htags, List.foldl_cons, List.foldl_nil, hwaits, Bool.false_eq_true, if_false]
  rfl

end Sys2Proof.Machine
end

section
open Sys2Proof Sys2Proof.Machine

/-- Settles O45: what a command takes from the hop leaves routes and open links as they were (`taken_eq`), and every policy's link is one of
those open (`spread_mem`). -/
theorem packetsAreRouted : Obligations.PacketsAreRouted := by
  unfold Obligations.PacketsAreRouted
  intro s
  refine ⟨?_, ?_, ?_, ?_⟩
  · intro h u htake v hops m pol hroute hhops hage l
    obtain ⟨net, hv, hhop, hst⟩ := taken_eq htake
    have hopen : openLinks v h m = openLinks s h m := by rw [show v = _ from hv]; exact openLinks_updNet hst h m
    have hvia : route v h.pkt.dst h.pkt.pat = some (.via m pol) := by rw [show v = _ from hv]; exact hroute
    have hforward : packetForward s = forwardHop h u := by rw [packetForward, htake]
    have hwithin : packetForward s = _ := hforward.trans (forwardHop_within (by rw [hv]; exact hhops) (by rw [hv]; exact hage))
    refine ⟨fun hsome => ?_, fun hnone => ?_⟩
    · have hlink : hopLink v h = some l := by
        rw [hopLink, hvia]
        dsimp only
        rw [hopen]
        cases hup : openLinks s h m with
        | nil => exact absurd hup hsome
        | cons k r => exact congrArg (fun up => some (spread v pol h.pkt up)) hup.symm
      have honly := OnlyLink.enqueue l hops h v
      refine ⟨_, congrArg Host.Outcome.next (hwithin.trans (by rw [hlink])), ?_, txq_enqueue l hops h v, honly.link, ?_, ?_, spread_mem v pol h.pkt hsome⟩
      · exact (congrArg NetSt.hop (congrArg (fun t => t.u.net) hv)).trans hhop
      · exact honly.mem.trans (by rw [show v = _ from hv]; rfl)
      · exact honly.regs.trans (by rw [show v = _ from hv]; rfl)
    · have hlink : hopLink v h = none := by
        rw [hopLink, hvia]
        dsimp only
        rw [hopen, hnone]
      exact congrArg Host.Outcome.next (hwithin.trans (by rw [hlink]))
  · intro h u htake hcrc htag v
    obtain ⟨net, hv, -, -⟩ := taken_eq htake
    have hdeliver : packetDeliver s = deliverHop h u := by rw [packetDeliver, htake]
    exact congrArg Host.Outcome.next (hdeliver.trans (deliverHop_good hcrc (by rw [hv]; exact htag)))
  · intro l hl v hquiet
    exact (onLink_of_lt hl _).trans (congrArg _ (creditStall_not_due hquiet))
  · intro l hl v t c hq hcred hstall hdue
    exact (onLink_of_lt hl _).trans (congrArg _ (creditStall_one hq hcred hstall hdue))

end

/-! ### Bring-up, step by step (R280, R281) -/

section
namespace Sys2Proof.Machine

open Sys2Proof

/-! #### LNK_CFG -/

theorem regAt_lnkCfg {l : Nat} (hl : l < 64) : regAt (Reg.lnkCfg l).off = some (.lnkCfg l) := by
  have hg : (linkOff l 0 - 0x800000) / 0x10000 = l / 8 := by unfold linkOff; omega
  have hq : (linkOff l 0 - 0x800000) % 0x10000 = 0x1000 + l % 8 * 0x100 := by unfold linkOff; omega
  have hlink : 8 * (l / 8) + (0x1000 + l % 8 * 0x100 - 0x1000) / 0x100 = l := by omega
  show regAt (linkOff l 0) = _
  rw [regAt_lnk (by unfold linkOff; omega) (by unfold linkOff; omega) (by unfold linkOff; omega), lnkAt, if_pos (by unfold linkOff; omega)]
  simp only [hg, hq, hlink]
  rw [if_neg (by omega), if_pos (by simp; omega), show (0x1000 + l % 8 * 0x100) % 0x100 = 0 by omega]
  rfl

theorem lnkCfg_stores {s : State} {l : Nat} (hl : l < s.nLinks) : (Reg.lnkCfg l).Stores s where
  found := regAt_lnkCfg (hl.trans_le s.nLinks_le)
  present := by simp [Reg.absent, hl]
  aligned := by simp only [Reg.off, linkOff]; omega
  fields := by simp [Reg.fields, rwF]
  held := rfl
  put x t := if_neg (show (Reg.lnkCfg l).bits .rw ||| (Reg.lnkCfg l).bits .rwl ≠ 0 by simp [Reg.bits, Reg.fields, rwF, RField.mask])

/-- The control complex's write that enables a DARK link sets its fields, and the link tries to calibrate (R280). -/
theorem write64_lnkCfg {s : State} {l : Nat} (hl : l < s.nLinks) (hst : (s.link l).st = 0) {v : W64} (hen : bitOf v 63 = true) :
    write64 .ctl (.lnkCfg l) v s = tryCalibrate l (s.setReg (linkOff l 0) (rwPut s (.lnkCfg l) v)) := by
  have hfree : regForbids s false (.lnkCfg l) (s.stored (.lnkCfg l)) (rwPut s (.lnkCfg l) v) v (2 ^ 64 - 1) = false := by simp [regForbids, hst]
  have hput : bitOf (rwPut s (.lnkCfg l) v) 63 = true := (bitOf_rwPut_rw s v rfl (by decide)).trans hen
  rw [write64_ctl_stores (lnkCfg_stores hl) hfree]
  simp only [regActs, enableWritten, hput, Bool.not_true, Bool.and_false, Bool.false_eq_true, if_false]
  rfl

/-- What a link waits for in DARK (R280, R451). -/
theorem tryCalibrate_ready {s : State} {l : Nat} (hl : l < s.nLinks) (hst : (s.link l).st = 0) (hen : bitOf (lnkCfg s l) 63 = true)
    (haddr : bitOf (lnkAddr s) 63 = true) (hlight : lightOk s l = true) (hloss : s.u.pow.loss = 0) :
    tryCalibrate l s = ((s.updLink l (fun x => { x with st := 1, fails := 0 })).pend 8).updNet (fun n => { n with engine := SMap.set (l / 8) 1 n.engine }) := by
  unfold tryCalibrate
  rw [if_pos (by simp [hl, hst, hen, haddr, hlight, hloss]), State.updLinkSt_changed ((show 1 ≠ 0 by decide).trans_eq hst.symm)]

theorem tryCalibrate_waits {s : State} {l : Nat} (h : bitOf (lnkAddr s) 63 = false ∨ lightOk s l = false ∨ s.u.pow.loss ≠ 0) : tryCalibrate l s = s := by
  refine if_neg ?_
  rcases h with haddr | hlight | hloss
  · simp [haddr]
  · simp [hlight]
  · simp [hloss]

/-! #### Steps -/

theorem calibrationDone_ok {s : State} {l : Nat} (h : (s.link l).st = 1) : calibrationDone l true s =
    ((s.updLink l (fun x => { x with st := 2, fails := 0 })).pend 8).updNet (fun n => { n with engine := SMap.set (l / 8) 2 n.engine }) := by
  unfold calibrationDone
  rw [if_neg (not_not.2 h), if_pos rfl, State.updLinkSt_changed ((show 2 ≠ 1 by decide).trans_eq h.symm)]

theorem trainingDone_ok {s : State} {l : Nat} (h : (s.link l).st = 2) : trainingDone l true s =
    (s.updLink l (fun x => { x with st := 3, fails := 0, tx := {}, rx := {} })).pend 8 := by
  unfold trainingDone
  rw [if_neg (not_not.2 h), if_pos rfl, State.updLinkSt_changed ((show 3 ≠ 2 by decide).trans_eq h.symm)]

/-- A step that fails is tried again three times (R280). -/
theorem stepFail_again {s : State} {l : Nat} (h : (s.link l).fails < 3) : stepFail l s = s.updLink l (fun x => { x with fails := x.fails + 1 }) :=
  if_neg (not_le.2 h)

theorem calibrationDone_fails {s : State} {l : Nat} (h : (s.link l).st = 1) : calibrationDone l false s = stepFail l s := by
  unfold calibrationDone
  rw [if_neg (not_not.2 h)]
  rfl

theorem trainingDone_fails {s : State} {l : Nat} (h : (s.link l).st = 2) : trainingDone l false s = stepFail l s := by
  unfold trainingDone
  rw [if_neg (not_not.2 h)]
  rfl

/-- The partner is another device, and the configured one where LNK_CFG asks for it (R280, R281). -/
theorem exchangeDone_partner {s : State} {l a p : Nat} (hst : (s.link l).st = 3) (ha : a < 2 ^ 20) (hp : p < 64) (hself : a ≠ s.devAddr)
    (hcfg : bitOf (lnkCfg s l) 61 = true → a = bitsOf (lnkCfg s l) 19 0 ∧ p = bitsOf (lnkCfg s l) 37 32) (enc : Bool) :
    exchangeDone l a p enc s =
      let on := enc || bitOf (lnkCfg s l) 62
      let u := (s.updLink l (fun x => { x with peerAddr := a, peerLink := p, st := if on then 4 else lkUp, enc := false })).pend 8
      if on then authHello l u else u := by
  have hgood : ((bitOf (lnkCfg s l) 61 && (decide (a ≠ bitsOf (lnkCfg s l) 19 0) || decide (p ≠ bitsOf (lnkCfg s l) 37 32))) || decide (a = s.devAddr)) = false := by
    cases hask : bitOf (lnkCfg s l) 61 with
    | false => simp [hself]
    | true =>
      obtain ⟨haddr, hlink⟩ := hcfg hask
      simp [← haddr, ← hlink, hself]
  have hnext : ∀ st, st ≠ 3 → (s.updLink l (fun x => { x with peerAddr := a, peerLink := p })).updLinkSt l (fun x => { x with st, enc := false }) =
      (s.updLink l (fun x => { x with peerAddr := a, peerLink := p, st, enc := false })).pend 8 := fun st hne => by
    rw [State.updLinkSt_changed (by rw [State.link_updLink_same]; exact hst.symm ▸ hne), State.updLink_updLink]
  unfold exchangeDone
  simp only [Nat.mod_eq_of_lt ha, Nat.mod_eq_of_lt hp, hst, ne_eq, not_true_eq_false, if_false]
  simp only [hgood, hnext 4 (by decide), hnext lkUp (by decide), Bool.false_eq_true, if_false]
  by_cases hon : (enc || bitOf (lnkCfg s l) 62) = true
  · simp only [hon, if_true]
  · simp only [hon, Bool.false_eq_true, if_false]

end Sys2Proof.Machine
end

/-! ### Losing a link (R285, R291) -/

section
namespace Sys2Proof.Machine

open Sys2Proof

/-- The events of a loss change no link. -/
theorem linkLost_net (l : Nat) (code : Option Nat) (more : List Nat) (s : State) : (linkLost l code more s).u.net = (dropLink l (reroute l s)).u.net := by
  unfold linkLost
  refine (foldl_net (fun t tag => lnkEvent_net _ _ _ _ t) _ _).trans ?_
  cases code with
  | none => rfl
  | some c => exact lnkEvent_net _ _ _ _ _

theorem link_dropLink_same (l : Nat) (s : State) : ((dropLink l s).link l).st = lkDown := by
  unfold dropLink
  rw [State.link_updNet _ (by exact fun _ => rfl), State.link_updLinkSt_same]

theorem OnlyLink.dropLink (l : Nat) (s : State) : OnlyLink l s (dropLink l s) := by
  unfold Machine.dropLink
  exact (OnlyLink.updLinkSt s l _).trans (.updNet _ l (by exact fun _ => rfl))

theorem link_linkDown_same (l : Nat) (code : Option Nat) (s : State) : ((linkDown l code s).link l).st = lkDown := by
  rw [linkDown, State.link_of_net (linkLost_net l code [] s)]
  exact link_dropLink_same l _

theorem link_linkDown_other {l k : Nat} (h : k ≠ l) (code : Option Nat) (s : State) : (linkDown l code s).link k = s.link k := by
  rw [linkDown, State.link_of_net (linkLost_net l code [] s)]
  exact ((OnlyLink.reroute l s).trans (.dropLink l _)).link k h

theorem light_linkDown (l : Nat) (code : Option Nat) (s : State) : (linkDown l code s).u.net.light = s.u.net.light := by
  rw [linkDown, linkLost_net, Machine.dropLink, State.light_updNet _ (by exact fun _ => rfl), State.light_updLinkSt, light_reroute]

end Sys2Proof.Machine
end

/-! ### Keys between two RTUs (R289, R290, R434, R436) -/

section
namespace Sys2Proof.Machine

open Sys2Proof

/-- A partner's chain and signature are valid, and this identity usable (R434, R436). -/
def peerValid (s : State) (ok : Bool) (c : Chain) : Bool := ok && chainOk s c && s.u.ctl.idUsable

theorem peerValid_iff (s : State) (ok : Bool) (c : Chain) : peerValid s ok c = true ↔
    ok = true ∧ c.signed = true ∧ sha256 c.root = s.u.ctl.rtuRoot ∧ gen7 c.part = true ∧ s.u.ctl.idUsable = true := by
  simp [peerValid, chainOk, and_assoc]

theorem peerValid_pend (s : State) (n : Nat) (ok : Bool) (c : Chain) : peerValid (s.pend n) ok c = peerValid s ok c := by
  simp only [peerValid, chainOk, State.pend_u]

theorem sendDir_pend (s : State) (n l : Nat) : sendDir (s.pend n) l = sendDir s l := rfl

section
variable {s : State} {l : Nat} {ok : Bool} {c : Chain}

theorem authDone_valid (hst : (s.link l).st = 4) (h : peerValid s ok c = true) (secret transcript : List Byte) :
    authDone l ok c secret transcript s =
      let d := sendDir s l
      let k := linkKey secret transcript
      (s.updLink l (fun x => { x with
        st := lkUp, enc := true, hello := [], peerHello := []
        keys := { tx := [k d 0, k d 1], rx := [k (1 - d) 0, k (1 - d) 1], salt := BitVec.ofNat 32 (beNat (hkdf secret transcript infoSalt 4)) } })).pend 8 := by
  unfold authDone
  rw [if_neg (not_not.2 hst), ← peerValid, if_pos h]
  exact State.updLinkSt_changed ((show lkUp ≠ 4 by decide).trans_eq hst.symm)

theorem authDone_invalid (hst : (s.link l).st = 4) (h : ¬ peerValid s ok c = true) (secret transcript : List Byte) :
    authDone l ok c secret transcript s = linkDown l (some 0x4804) s := by
  unfold authDone
  rw [if_neg (not_not.2 hst), ← peerValid, if_neg h]

/-- The keys once the idle index is installed for each direction (R289). -/
def rekeyed (k : Nat → Nat → BitVec 256) (d : Nat) (x : LinkKeys) : LinkKeys :=
  { x with
    tx := (List.range 2).map (fun n => if n = 1 - x.cur then k d (1 - x.cur) else nth 0 x.tx n), txN := setAt x.txN (1 - x.cur) 0, cur := 1 - x.cur
    rx := (List.range 2).map (fun n => if n = 1 - x.rxCur then k (1 - d) (1 - x.rxCur) else nth 0 x.rx n), rxN := setAt x.rxN (1 - x.rxCur) 0
    rxHeld := (List.range 2).map (fun n => decide (n = 1 - x.rxCur) || nth false x.rxHeld n) }

theorem rekey_valid (hup : (s.link l).st = lkUp) (henc : (s.link l).enc = true) (h : peerValid s ok c = true)
    (secret transcript : List Byte) : rekey l ok c secret transcript s =
      s.updLink l (fun x => { x with hello := [], peerHello := [], keys := rekeyed (linkKey secret transcript) (sendDir s l) x.keys }) := by
  unfold rekey rekeyed
  dsimp only
  rw [if_neg (by simp [hup, henc]), ← peerValid, if_pos h]
  exact State.updLink_congr rfl

theorem rekey_invalid (hup : (s.link l).st = lkUp) (henc : (s.link l).enc = true) (h : ¬ peerValid s ok c = true)
    (secret transcript : List Byte) : rekey l ok c secret transcript s = linkDown l (some 0x4804) s := by
  unfold rekey
  dsimp only
  rw [if_neg (by simp [hup, henc]), ← peerValid, if_neg h]

/-- Both commands signal source 4 where a partner's messages are awaited (R422). -/
theorem exec_authenticationDone (hl : l < s.nLinks) (hst : (s.link l).st = 4) (secret transcript : List Byte) :
    exec (.authenticationDone l ⟨ok, c⟩ secret transcript) s = .next (authDone l ok c secret transcript (s.pend 4)) := by
  have hexec : exec (.authenticationDone l ⟨ok, c⟩ secret transcript) s = execAuthenticationDone l ⟨ok, c⟩ secret transcript s := rfl
  rw [hexec, execAuthenticationDone, onLink_of_lt hl, State.pendIf, if_pos (decide_eq_true hst)]

theorem exec_rekey (hl : l < s.nLinks) (hup : (s.link l).st = lkUp) (henc : (s.link l).enc = true) (secret transcript : List Byte) :
    exec (.rekey l ⟨ok, c⟩ secret transcript) s = .next (rekey l ok c secret transcript (s.pend 4)) := by
  have hexec : exec (.rekey l ⟨ok, c⟩ secret transcript) s = execRekey l ⟨ok, c⟩ secret transcript s := rfl
  rw [hexec, execRekey, onLink_of_lt hl, State.pendIf, if_pos (by rw [decide_eq_true hup, henc]; rfl)]

end

theorem nth_map_two (f : Nat → BitVec 256) {i : Nat} (h : i < 2) : nth 0 ((List.range 2).map f) i = f i := by
  rw [nth, List.getD_eq_getElem _ _ (by simpa using h), List.getElem_map, List.getElem_range]

/-- The idle index holds its new key for each direction, and the one in use keeps what it held. -/
theorem rekeyed_keys (k : Nat → Nat → BitVec 256) (d : Nat) {x : LinkKeys} (hcur : x.cur < 2) (hrxCur : x.rxCur < 2) :
    nth 0 (rekeyed k d x).tx (1 - x.cur) = k d (1 - x.cur) ∧ nth 0 (rekeyed k d x).tx x.cur = nth 0 x.tx x.cur ∧
      nth 0 (rekeyed k d x).rx (1 - x.rxCur) = k (1 - d) (1 - x.rxCur) := by
  refine ⟨?_, ?_, ?_⟩
  · rw [rekeyed, nth_map_two _ (by omega), if_pos rfl]
  · rw [rekeyed, nth_map_two _ hcur, if_neg (by omega)]
  · rw [rekeyed, nth_map_two _ (by omega), if_pos rfl]

/-- Source n is pending once it is signalled (R422). -/
theorem pend_signalled (s : State) {n : Nat} (h : n < 9) : (s.pend n).u.ctl.pend.getLsbD n = true := by
  show (s.u.ctl.pend ||| BitVec.ofNat 9 (2 ^ n)).getLsbD n = true
  rw [BitVec.getLsbD_or, BitVec.getLsbD_ofNat, Nat.testBit_two_pow_self, decide_eq_true h, Bool.and_self, Bool.or_true]

end Sys2Proof.Machine
end

/-! ### Light (R268, R280) -/

section
namespace Sys2Proof.Machine

open Sys2Proof

theorem onGroup_of_lt {g : Nat} {s : State} (h : g < s.nGroups) (f : State → State) : onGroup g s f = .next (f s) := if_pos h

/-- Where each step gives its own link a state by the state that it had, and no other one, so does a run over links named once. -/
theorem foldl_st {step : State → Nat → State} {next : Nat → Nat} (hsame : ∀ s l, ((step s l).link l).st = next (s.link l).st)
    (hother : ∀ s l k, k ≠ l → ((step s l).link k).st = (s.link k).st) {ls : List Nat} (hnd : ls.Nodup) (s : State) (k : Nat) :
    ((ls.foldl step s).link k).st = if k ∈ ls then next (s.link k).st else (s.link k).st := by
  induction ls generalizing s with
  | nil => rfl
  | cons l r ih =>
    obtain ⟨hl, hr⟩ := List.nodup_cons.1 hnd
    rw [List.foldl_cons, ih hr]
    by_cases hk : k = l
    · rw [hk, if_neg hl, if_pos List.mem_cons_self, hsame]
    · rw [hother s l k hk]
      simp [hk]

/-- The n links from link a. -/
def linksFrom (a n : Nat) : List Nat := (List.range n).map (fun k => a + k)

theorem linksFrom_nodup (a n : Nat) : (linksFrom a n).Nodup := List.nodup_range.map (add_right_injective a)

theorem mem_linksFrom {a n k : Nat} (h : k < n) : a + k ∈ linksFrom a n := List.mem_map_of_mem (List.mem_range.2 h)

/-- A link that leaves the dark for a fibre out of limits goes down (R268). -/
def darken (s : State) (l : Nat) : State := if (s.link l).st = 0 || (s.link l).st = lkDown then s else linkDown l none s

theorem st_darken_same (s : State) (l : Nat) : ((darken s l).link l).st = if (s.link l).st = 0 then 0 else lkDown := by
  unfold darken
  by_cases hdark : (s.link l).st = 0
  · simp [hdark]
  · by_cases hdown : (s.link l).st = lkDown
    · simp [hdown, lkDown]
    · rw [if_neg (by simp [hdark, hdown]), if_neg hdark, link_linkDown_same]

theorem st_darken_other (s : State) (l k : Nat) (h : k ≠ l) : ((darken s l).link k).st = (s.link k).st := by
  unfold darken
  split
  · rfl
  · rw [link_linkDown_other h]

theorem light_darken (s : State) (l : Nat) : (darken s l).u.net.light = s.u.net.light := by
  unfold darken
  split
  · rfl
  · exact light_linkDown l none s

/-- The light of a group with a wavelength of a fibre out of limits, or within them. -/
def lightOut (m b : Nat) : Nat := if Nat.testBit m b then m - 2 ^ b else m
def lightIn (m b : Nat) : Nat := if Nat.testBit m b then m else m + 2 ^ b

theorem laserOut_eq {f n : Nat} (hf : f < 2) (hn : n < 4) (g : Nat) (s : State) : laserOut g f n s = (linksFrom (8 * g + 4 * f) 4).foldl darken
    (lnkEvent 0x4803 (8 * g + 4 * f) none 0 (s.updNet (fun t => { t with light := SMap.set g (lightOut (SMap.get 0 g s.u.net.light) (4 * f + n)) t.light }))) := by
  unfold laserOut
  rw [linksFrom, List.foldl_map, Nat.mod_eq_of_lt hf, Nat.mod_eq_of_lt hn]
  rfl

theorem light_laserOut {f n : Nat} (hf : f < 2) (hn : n < 4) (g : Nat) (s : State) :
    SMap.get 0 g (laserOut g f n s).u.net.light = lightOut (SMap.get 0 g s.u.net.light) (4 * f + n) := by
  rw [laserOut_eq hf hn]
  have hkeeps : ∀ (ls : List Nat) t, (ls.foldl darken t).u.net.light = t.u.net.light := fun ls t =>
    List.foldlRecOn (motive := fun u => u.u.net.light = t.u.net.light) ls _ rfl (fun u hu l _ => (light_darken u l).trans hu)
  rw [hkeeps, lnkEvent_net]
  exact SMap.get_set_same _ _ _ _

theorem st_laserOut {f n k : Nat} (hf : f < 2) (hn : n < 4) (hk : k < 4) (g : Nat) (s : State) :
    ((laserOut g f n s).link (8 * g + 4 * f + k)).st = 0 ∨ ((laserOut g f n s).link (8 * g + 4 * f + k)).st = lkDown := by
  rw [laserOut_eq hf hn, foldl_st (next := fun st => if st = 0 then 0 else lkDown) st_darken_same st_darken_other (linksFrom_nodup _ _), if_pos (mem_linksFrom hk)]
  split
  · exact .inl rfl
  · exact .inr rfl

theorem OnlyLink.tryCalibrate (l : Nat) (s : State) : OnlyLink l s (tryCalibrate l s) := by
  unfold Machine.tryCalibrate
  exact .ite ((OnlyLink.updLinkSt s l _).trans (.updNet _ l (by exact fun _ => rfl))) (.refl l s)

theorem light_tryCalibrate (l : Nat) (s : State) : (tryCalibrate l s).u.net.light = s.u.net.light := by
  unfold Machine.tryCalibrate
  split
  · rw [State.light_updNet _ (by exact fun _ => rfl), State.light_updLinkSt]
  · rfl

/-- From s to t no link outside group g has changed, nor the light, memory or a register. -/
structure OnlyGroup (g : Nat) (s t : State) : Prop where
  light : t.u.net.light = s.u.net.light
  mem : t.mem = s.mem
  regs : t.regs = s.regs
  link : ∀ j, j / 8 ≠ g → t.link j = s.link j

theorem OnlyGroup.calibrating (g : Nat) (s : State) : OnlyGroup g s ((List.range 8).foldl (fun s k => tryCalibrate (8 * g + k) s) s) := by
  refine List.foldlRecOn (motive := OnlyGroup g s) _ _ ⟨rfl, rfl, rfl, fun _ _ => rfl⟩ (fun t ht k hk => ?_)
  have hk := List.mem_range.1 hk
  have honly := OnlyLink.tryCalibrate (8 * g + k) t
  exact ⟨(light_tryCalibrate _ t).trans ht.light, honly.mem.trans ht.mem, honly.regs.trans ht.regs,
    fun j hj => (honly.link j (by omega)).trans (ht.link j hj)⟩

theorem laserIn_eq {f n : Nat} (hf : f < 2) (hn : n < 4) (g : Nat) (s : State) : laserIn g f n s = (List.range 8).foldl (fun s k => tryCalibrate (8 * g + k) s)
    (s.updNet (fun t => { t with light := SMap.set g (lightIn (SMap.get 0 g s.u.net.light) (4 * f + n)) t.light })) := by
  unfold laserIn
  rw [Nat.mod_eq_of_lt hf, Nat.mod_eq_of_lt hn]
  rfl

theorem light_laserIn {f n : Nat} (hf : f < 2) (hn : n < 4) (g : Nat) (s : State) :
    SMap.get 0 g (laserIn g f n s).u.net.light = lightIn (SMap.get 0 g s.u.net.light) (4 * f + n) := by
  rw [laserIn_eq hf hn, (OnlyGroup.calibrating g _).light]
  exact SMap.get_set_same _ _ _ _

/-- Light within its limits touches no other group. -/
theorem laserIn_others {f n : Nat} (hf : f < 2) (hn : n < 4) (g : Nat) (s : State) :
    (laserIn g f n s).mem = s.mem ∧ (laserIn g f n s).regs = s.regs ∧ ∀ j, j / 8 ≠ g → (laserIn g f n s).link j = s.link j := by
  rw [laserIn_eq hf hn]
  have honly := OnlyGroup.calibrating g (s.updNet (fun t => { t with light := SMap.set g (lightIn (SMap.get 0 g s.u.net.light) (4 * f + n)) t.light }))
  exact ⟨honly.mem, honly.regs, fun j hj => (honly.link j hj).trans (s.link_updNet (by exact fun _ => rfl) j)⟩

/-- A link that is UP goes through RETRAINING when the heaters cannot follow (R268). -/
def drift (s : State) (l : Nat) : State := if (s.link l).st = lkUp then toRetrain l s else s

theorem st_drift_same (s : State) (l : Nat) : ((drift s l).link l).st = if (s.link l).st = lkUp then lkRetrain else (s.link l).st := by
  unfold drift
  split
  · obtain ⟨authing, q, stall, h⟩ := link_toRetrain l s
    rw [h]
  · rfl

theorem st_drift_other (s : State) (l k : Nat) (h : k ≠ l) : ((drift s l).link k).st = (s.link k).st := by
  unfold drift
  split
  · rw [(OnlyLink.toRetrain l s).link k h]
  · rfl

theorem wavelengthDrift_eq (g : Nat) (s : State) : wavelengthDrift g s = (linksFrom (8 * g) 8).foldl drift s := by
  rw [linksFrom, List.foldl_map]
  rfl

theorem st_wavelengthDrift {k : Nat} (hk : k < 8) (g : Nat) (s : State) : ((wavelengthDrift g s).link (8 * g + k)).st =
    if (s.link (8 * g + k)).st = lkUp then lkRetrain else (s.link (8 * g + k)).st := by
  rw [wavelengthDrift_eq, foldl_st (next := fun st => if st = lkUp then lkRetrain else st) st_drift_same st_drift_other (linksFrom_nodup _ _),
    if_pos (mem_linksFrom hk)]

end Sys2Proof.Machine
end

section
open Sys2Proof Sys2Proof.Machine

/-- Settles O44, a command at a time: a change of state is `State.updLinkSt_changed`, a link that is lost goes down whatever events that brings
(`link_linkDown_same`), and the links of a fibre or a group take their turns apart (`foldl_st`). -/
theorem linksComeUpAndGoDown : Obligations.LinksComeUpAndGoDown := by
  unfold Obligations.LinksComeUpAndGoDown
  intro s l hl x
  refine ⟨?_, ?_, ?_, ?_, ?_, ?_, ?_⟩
  · intro v hst hen u
    have hwrite : exec (.linkEnable .ctl l v) s = .next (tryCalibrate l u) :=
      (if_pos (hl.trans_le s.nLinks_le)).trans (congrArg _ (write64_lnkCfg hl hst hen))
    have haddr : lnkAddr u = lnkAddr s := State.reg_setReg_other s 0 (by have := s.nLinks_le; unfold linkOff; omega) _
    have hcfg : bitOf (lnkCfg u l) 63 = true := by
      rw [lnkCfg, State.reg_setReg_same, bitOf_rwPut_rw s v rfl (by decide), hen]
    refine ⟨fun ha hlight hloss => ?_, fun hwaits => ?_⟩
    · exact hwrite.trans (congrArg _ (tryCalibrate_ready hl hst hcfg (haddr.symm ▸ ha) hlight hloss))
    · exact hwrite.trans (congrArg _ (tryCalibrate_waits (haddr.symm ▸ hwaits)))
  · intro hst
    exact (onLink_of_lt hl _).trans (congrArg _ (calibrationDone_ok hst))
  · intro hst
    exact (onLink_of_lt hl _).trans (congrArg _ (trainingDone_ok hst))
  · intro hfails
    refine ⟨fun hst => ?_, fun hst => ?_⟩
    · exact (onLink_of_lt hl _).trans (congrArg _ ((calibrationDone_fails hst).trans (stepFail_again hfails)))
    · exact (onLink_of_lt hl _).trans (congrArg _ ((trainingDone_fails hst).trans (stepFail_again hfails)))
  · intro a p enc hst ha hp hself hcfg on u
    exact (onLink_of_lt hl _).trans (congrArg _ (exchangeDone_partner hst ha hp hself hcfg enc))
  · intro ok c secret tr valid d k
    have hvalid : peerValid (s.pend 4) ok c = true ↔ valid := by
      rw [peerValid_pend]
      exact peerValid_iff s ok c
    refine ⟨fun hst hv => ?_, fun hst hv => ?_, fun hup henc hcur hrxCur hv => ?_, fun hup henc hv => ?_⟩
    · rw [exec_authenticationDone hl hst, authDone_valid (s := s.pend 4) hst (hvalid.2 hv), sendDir_pend]
      rfl
    · rw [exec_authenticationDone hl hst, authDone_invalid (s := s.pend 4) hst (mt hvalid.1 hv)]
      exact ⟨_, rfl, link_linkDown_same l _ _⟩
    · rw [exec_rekey hl hup henc, rekey_valid (s := s.pend 4) hup henc (hvalid.2 hv), sendDir_pend]
      have honly := fun f => (OnlyLink.pend s l 4).trans (.updLink (s.pend 4) l f)
      obtain ⟨htx, htxOld, hrx⟩ := rekeyed_keys k d hcur hrxCur
      refine ⟨_, rfl, ?_⟩
      rw [State.link_updLink_same]
      exact ⟨rfl, htx, htxOld, hrx, rfl, pend_signalled s (by decide), (honly _).others⟩
    · rw [exec_rekey hl hup henc, rekey_invalid (s := s.pend 4) hup henc (mt hvalid.1 hv)]
      exact ⟨_, rfl, link_linkDown_same l _ _⟩
  · intro g hg f hf n hn m b
    refine ⟨⟨_, onGroup_of_lt hg (laserOut g f n), light_laserOut hf hn g s, fun k hk => st_laserOut hf hn hk g s⟩,
      ⟨_, onGroup_of_lt hg (laserIn g f n), light_laserIn hf hn g s, laserIn_others hf hn g s⟩,
      ⟨_, onGroup_of_lt hg (wavelengthDrift g), fun k hk => st_wavelengthDrift hk g s⟩⟩

end

/-! ### Requests and drained pieces become conversations (R300, R301, R310, R311) -/

section
namespace Sys2Proof.Machine

open Sys2Proof

/-! #### Requests -/

/-- Each of the seven operations takes a request of its own number. -/
theorem exec_request (s : State) {op : Nat} {i : Instr} (h : (op, i) ∈ [(1, Instr.gather), (2, .broadcast), (4, .allToAll), (5, .pointToPoint),
    (6, .chainReduce), (7, .chainReduceScatter), (8, .courseBarrier)]) : exec i s = .next (takeReq op s) := by
  simp only [List.mem_cons, Prod.mk.injEq, List.not_mem_nil, or_false] at h
  obtain ⟨rfl, rfl⟩ | ⟨rfl, rfl⟩ | ⟨rfl, rfl⟩ | ⟨rfl, rfl⟩ | ⟨rfl, rfl⟩ | ⟨rfl, rfl⟩ | ⟨rfl, rfl⟩ := h <;> rfl

theorem pickReq_op {op : Nat} {l : List CReq} {r : CReq} (h : pickReq op l = some r) : byteField r.line 0 1 = op := by
  have hpicked := List.find?_some h
  rw [Bool.and_eq_true, decide_eq_true_eq] at hpicked
  exact hpicked.1

theorem takeReq_picked {s : State} {op : Nat} {r : CReq} (hroom : openCount s < 16384) (h : pickReq op s.creqs = some r) :
    takeReq op s = issueReq r s := by
  simp only [takeReq, h, if_neg (Nat.not_le.2 hroom)]

/-- The epoch of the group in force stops nothing (R298, R327). -/
theorem grpEpochBad_current {s : State} {g : Group} {epoch : Nat} (h : epoch = grEpoch g.e) (hcur : dormant s g = false) :
    grpEpochBad s g epoch = false := by
  simp [grpEpochBad, h, hcur]

/-- The request r no longer waits. -/
def withoutReq (r : CReq) (s : State) : State := { s with creqs := s.creqs.erase r }

/-- The conversation of a good request for group g, with its sequence number (R297, R300). -/
def reqConv (s : State) (g : Group) (r : CReq) (seq : Nat) : Conv where
  id := 0
  own := groupOwner s g
  gid := rqGroup r.line
  seq := seq
  op := byteField r.line 0 1
  rank := rqRank r.line
  pos := rqPos r.line
  ep := r.core
  backup := memberAs s g (rqRank r.line) r.core == some true
  hash := reqHash g r.line
  epoch := rqEpoch r.line
  sem := if r.core < 0x80 then some r.sem else none
  recv := if r.kind = 3 then decide (rqDst r.line ≠ 0) else decide (r.kind = 1)
  blk := r.line
  step := (s.jobOf (groupOwner s g)).step

/-- The sequence number that a request takes, and the state once it has (R297). -/
def reqSeq (g : Group) (r : CReq) (s : State) : Nat × State :=
  takeSeq (rqGroup r.line) (rqRank r.line) (rqPos r.line) (memberAs s g (rqRank r.line) r.core == some true) g s

/-- A request that passes every check of `issueReq`, as they stand once it no longer waits, begins its conversation. -/
theorem issueReq_begins {s t : State} {r : CReq} {g : Group} (ht : withoutReq r s = t) (he : t.NoErr) (hg : t.group (rqGroup r.line) = some g)
    (hgood : reqBad t r.kind r.core (if r.core < 0x80 then t.ownerOfCore r.core else none) r.line = false)
    (hepoch : rqEpoch r.line = grEpoch g.e) (hcur : dormant t g = false)
    (horder : posInOrder g (rqRank r.line) (rqPos r.line) (memberAs t g (rqRank r.line) r.core == some true) = true)
    (hareas : ∀ p ∈ reqAreas g r, memBusy t p.1 p.2.1 = false ∧ areaOut t (groupOwner t g) p = false) :
    issueReq r s = beginConv (reqConv t g r (reqSeq g r t).1) (reqSeq g r t).2 := by
  have hidle : (reqAreas g r).any (fun p => memBusy t p.1 p.2.1) = false :=
    List.any_eq_false.2 fun p hp => Bool.not_eq_true _ ▸ (hareas p hp).1
  have hreach : (reqAreas g r).find? (areaOut t (groupOwner t g)) = none :=
    List.find?_eq_none.2 fun p hp => Bool.not_eq_true _ ▸ (hareas p hp).2
  have hclean : ∀ l : List (Nat × Nat × Bool), l.findSome? (fun p => t.memUe p.1 p.2.1) = none := fun l =>
    List.findSome?_eq_none_iff.2 fun p _ => State.memUe_noErr he _ _
  have hread : ∀ l : List (Nat × Nat × Bool), l.foldl (fun s p => s.readNote p.1 p.2.1) t = t := fun l => by
    simpa only [List.foldl_map] using State.foldl_readNote_noErr he (l.map (fun p => (p.1, p.2.1)))
  simp only [withoutReq] at ht
  simp only [issueReq, ht, hgood, hg, grpEpochBad_current hepoch hcur, horder, hidle, hreach, hclean, hread, Bool.false_eq_true, if_false, Bool.not_true]
  rfl

/-! #### Drained arrays -/

/-- The array t no longer waits in the drain. -/
def withoutTile (t : Tile) (s : State) : State := { s with tiles := s.tiles.erase t }

section
variable {s : State} {chain : Bool} {t : Tile}
  (h : s.tiles.find? (fun t => t.chain == chain && (s.tiles.find? (fun u => u.core == t.core)) == some t &&
    decide (SMap.get 0 t.core s.u.col.staged < stageSlots s t.core)) = some t)
include h

theorem takeTile_picked (hroom : openCount s < 16384) :
    takeTile chain s = if chain then issueTile t (withoutTile t s) else (issueTile t (withoutTile t s)).mark t.own 4 := by
  simp only [takeTile, h, if_neg (Nat.not_le.2 hroom), withoutTile]

theorem chain_of_picked : t.chain = chain := by
  have hpicked := List.find?_some h
  simp only [Bool.and_eq_true, beq_iff_eq] at hpicked
  exact hpicked.1.1

end

/-- The conversation of a good drained array for group g, at a rank and position with a hash, and its sequence number (R182, R310). -/
def tileConv (s : State) (g : Group) (t : Tile) (rank pos hash seq : Nat) : Conv where
  id := 0
  kind := 1
  own := groupOwner s g
  gid := byteField t.arg 0 2 % 4096
  seq := seq
  op := if t.chain then 9 else 0xA
  rank := rank
  pos := pos
  ep := t.core
  backup := memberAs s g rank t.core == some true
  hash := hash
  epoch := byteField t.arg 2 2
  desc := tileDesc t
  array := t.array
  staged := true
  vals := tilePiece t
  outSide := if !t.chain && g.side then List.replicate g.n 0 else []
  step := (s.jobOf t.own).step

/-- The sequence number that a drained array takes, and the state once it has (R297). -/
def tileSeq (g : Group) (t : Tile) (rank pos : Nat) (s : State) : Nat × State :=
  takeSeq (byteField t.arg 0 2 % 4096) rank pos (memberAs s g rank t.core == some true) g s

/-- A drained array that passes every check of `issueTile` begins its conversation. -/
theorem issueTile_begins {s : State} {t : Tile} {g : Group} {rank pos hash : Nat} (hon : colOn s = true)
    (hg : s.group (byteField t.arg 0 2 % 4096) = some g) (hepoch : byteField t.arg 2 2 = grEpoch g.e) (hcur : dormant s g = false)
    (hshape : tileShape s g t = some (rank, pos, hash)) (hgood : tileBad s g t rank pos = false) :
    issueTile t s = beginConv (tileConv s g t rank pos hash (tileSeq g t rank pos s).1) (tileSeq g t rank pos s).2 := by
  simp only [issueTile, hon, hg, grpEpochBad_current hepoch hcur, hshape, hgood, Bool.not_true, Bool.false_eq_true, if_false]
  rfl

/-- CHAIN_STEP takes a chain's array, UPDATE_PIECE an update's. -/
theorem exec_tile (s : State) (chain : Bool) : exec (if chain then .chainStep else .updatePiece) s = .next (takeTile chain s) := by
  cases chain <;> rfl

/-! #### A conversation that waits for its gate -/

/-- With no packet waiting, none comes back to the inbox. -/
theorem requeueEarly_none {s : State} (h : s.u.col.early = []) (gid seq : Nat) : requeueEarly gid seq s = s := by
  have hcol : { s.u.col with early := [] } = s.u.col := by rw [← h]
  simp only [requeueEarly, State.updCol, State.updNet, State.updU, h, List.filter_nil, List.nil_append, hcol]

/-- A member's first position has none before it that hands on values (R309). -/
theorem find_prev_none {c : Conv} (h : c.pos = 0) (cs : List Conv) :
    cs.find? (fun d => d.gid == c.gid && d.seq == c.seq && d.rank == c.rank && d.pos + 1 == c.pos && d.backup == c.backup) = none :=
  List.find?_eq_none.2 fun d _ => by simp [h]

/-- The conversation as it begins: with the next number, its gate closed. -/
def gatedConv (c : Conv) (s : State) : Conv := { c with id := s.u.col.nextId, st := .gated, runs := [] }

/-- What a conversation that its gate holds adds to the engine (R304). -/
def withConv (c : Conv) (s : State) : State :=
  s.updCol (fun t => { t with
    convs := t.convs ++ [gatedConv c s], nextId := s.u.col.nextId + 1
    staged := if c.staged then SMap.set c.ep (SMap.get 0 c.ep t.staged + 1) t.staged else t.staged })

theorem beginConv_gated {c : Conv} {s : State} {g : Group} (hg : s.group c.gid = some g) (hlate : g.late = none)
    (hgone : s.u.col.gone.contains (c.gid, c.seq) = false) (hpos : c.pos = 0) (hearly : s.u.col.early = [])
    (hgate : isGated s g (gatedConv c s) = true) : beginConv c s = withConv c s := by
  rw [gatedConv] at hgate
  simp only [beginConv, hg, hlate, hgone, find_prev_none hpos, Option.elim, hgate, Bool.or_self, Bool.false_eq_true, if_false, if_true]
  exact requeueEarly_none (s := withConv c s) hearly _ _

end Sys2Proof.Machine
end

section
open Sys2Proof Sys2Proof.Machine

/-- Settles O46: a good request and a good drained array pass every check on the way to `beginConv` (`issueReq_begins`, `issueTile_begins`), and
a conversation that its gate holds is only added (`beginConv_gated`). -/
theorem collectiveRequestsBegin : Obligations.CollectiveRequestsBegin := by
  unfold Obligations.CollectiveRequestsBegin
  intro s g hroom he
  refine ⟨?_, ?_, ?_⟩
  · intro op i r hop hpick hg l own gown recv backup hgood hepoch hcur horder hareas q
    obtain rfl := pickReq_op hpick
    refine ⟨rfl, ?_⟩
    rw [exec_request s hop, takeReq_picked hroom hpick, issueReq_begins (t := withoutReq r s) rfl he hg hgood hepoch hcur horder hareas]
    rfl
  · intro chain t hpick hon gid epoch hg hepoch hcur rank pos hash hshape hgood backup q u
    obtain rfl := chain_of_picked hpick
    rw [exec_tile, takeTile_picked hpick hroom, issueTile_begins (s := withoutTile t s) hon hg hepoch hcur hshape hgood]
    rfl
  · intro c hg hlate hgone hpos hearly c1 t hgate
    have hbegun : t = withConv c s := beginConv_gated hg hlate hgone hpos hearly hgate
    rw [hbegun]
    exact ⟨rfl, rfl, rfl, rfl, rfl⟩
end

/-! ### A chunk signal past a semaphore's limit -/

section
namespace Sys2Proof.Machine

open Sys2Proof

/-- While the host link is up and both CXL ports are up with a target, no memory is out of reach for good (R402, R415). -/
theorem memGone_of_up {s : State} (hlink : linkGone s = false) (h0 : s.cxlUp 0 = true) (h1 : s.cxlUp 1 = true) (a n : Nat) : memGone s a n = false := by
  unfold memGone
  split <;> simp [hlink, h0, h1]

/-- A packet of a loaded group at the group's epoch, of a sequence that has not been abandoned, goes on to it (R298, R327). -/
theorem takePkt_current {p : Pkt} {s : State} {g : Group} (hon : colOn s = true) (hg : s.group p.cGid = some g)
    (hgone : s.u.col.gone.contains (p.cGid, p.cSeq) = false) (hepoch : p.cEpoch = grEpoch g.e) (hcur : dormant s g = false) :
    takePkt p s = (some g, s) := by
  simp only [takePkt, hon, hg, hgone, hepoch, hcur, Bool.not_true, Bool.false_eq_true, if_false, ne_eq, not_true_eq_false, decide_false, Bool.or_self]

/-- The only packet delivered is taken if it is of the type (R303). -/
theorem takeInbox_only {ty : Nat} {p : Pkt} {s : State} (hin : s.u.net.inbox = [p]) (hty : p.type = ty) :
    takeInbox ty s = some (p, s.updNet (fun n => { n with inbox := [] })) := by
  simp [takeInbox, takeInboxOf, hin, hty, State.updNet, State.updU]

/-- Group 7: rank 0 is core 0 of device 1, rank 1 core 0 of this device. -/
def gatherGroup : Group where
  e := BitVec.ofNat 512 (1 + 2 * 2 ^ 32 + 0xFFFFFFFF * 2 ^ 128)
  members := [1, 0]

/-- A gather of 8 bytes from each rank, begun by core 0, into 0x500000, with CSIG: each chunk of its result adds 1 to semaphore 0 (R300, R316). -/
def gatherSignalling : Conv where
  id := 1
  own := none
  gid := 7
  seq := 0
  op := 1
  rank := 1
  ep := 0
  hash := 0
  epoch := 0
  sem := some 1
  blk := BitVec.ofNat 512 (1 + 8 * 2 ^ 8 + 7 * 2 ^ 16 + 1 * 2 ^ 48 + 0x500000 * 2 ^ 176 + 8 * 2 ^ 256)

/-- What rank 0 sends to it: a COL_DATA packet of device 1. -/
def gatherData : Pkt := mkPkt { regs := [(0x880000, 1)] } 0 1 0 7 0 (colHdr 1 0 7 0 0 0 0 0 0 0 0 0 ++ [1, 2, 3, 4, 5, 6, 7, 8])

/-- The gather is open, and semaphore 0 of its core stands at its limit. The host link and the CXL ports are up, and the device ring is at
0x300000. -/
def semaphoreFull (inbox : List Pkt) : State where
  regs := [(0x400020, 0x1000000300000), (0xA00000, 1)]
  cores := [(0, { r := { sem := [(0, 0xFFFFFFFF)] }, seq := { run := .running } })]
  u := { net := { inbox }, col := { groups := [(7, gatherGroup)], convs := [gatherSignalling], nextId := 2 }
         host := { st := 2, cxl := [(0, { st := 2, target := true }), (1, { st := 2, target := true })] } }

theorem semaphoreFull_calm (inbox : List Pkt) : (semaphoreFull inbox).Calm where
  noErr := ⟨rfl, rfl⟩
  settled := ⟨fun _ h => absurd h List.not_mem_nil, (by decide : ∀ p ∈ (semaphoreFull []).u.host.cxl, p.2.st ≠ 3), rfl⟩
  unarmed := (by decide +kernel : bitOf ((semaphoreFull []).reg 0 0xC00018) 63 = false)

theorem semaphoreFull_quiet (inbox : List Pkt) : Quiet (semaphoreFull inbox) := fun n => by
  by_cases h : 0 = n
  · subst h
    rfl
  · simp [State.core, semaphoreFull, SMap.get, h]

theorem semaphoreFull_reached (inbox : List Pkt) (a n : Nat) : memGone (semaphoreFull inbox) a n = false := memGone_of_up rfl rfl rfl a n

theorem takeInbox_gatherData : takeInbox 1 (semaphoreFull [gatherData]) = some (gatherData, semaphoreFull []) :=
  takeInbox_only rfl (by decide +kernel)

theorem takePkt_gatherData : takePkt gatherData (semaphoreFull []) = (some gatherGroup, semaphoreFull []) :=
  takePkt_current (by decide +kernel) (by decide +kernel) (by decide +kernel) (by decide +kernel) (by decide +kernel)

theorem targets_gatherData : targets (semaphoreFull []) gatherGroup gatherData = [(gatherSignalling, 0, 0)] := by decide +kernel

/-- With the packet the result is whole: the two chunks to signal overflow the semaphore, and 0x851A goes into the device ring. -/
theorem byte_takeData_gatherData :
    (takeData gatherGroup gatherSignalling 0 0 gatherData (noteSeen gatherSignalling.id gatherData (semaphoreFull []))).byte 0x300000 = 0x1A := by
  decide +kernel

end Sys2Proof.Machine

open Sys2Proof.Machine

/-- Refutes O47: a packet of an unstamped gather is to leave the memory that writing its bytes leaves, but no premise keeps CSIG off. A chunk signal
past the semaphore's limit raises 0x851A (R149, R316), and the event's record is written to the device ring (R372). -/
theorem not_collectivePacketsAndGroups : ¬ Obligations.CollectivePacketsAndGroups := by
  unfold Obligations.CollectivePacketsAndGroups
  intro h
  obtain ⟨-, -, -, hpackets, -⟩ := h (semaphoreFull [gatherData]) 0 gatherGroup (semaphoreFull_calm _)
  obtain ⟨-, hplaced⟩ := hpackets 1 .colData gatherData (semaphoreFull []) (by decide) takeInbox_gatherData takePkt_gatherData (by decide +kernel)
    (by decide) (by decide +kernel) gatherSignalling 0 0 [] targets_gatherData (by decide +kernel) (by decide +kernel)
  have hmem := hplaced rfl (.inl rfl) (by decide +kernel) (by decide +kernel) (semaphoreFull_quiet _) (semaphoreFull_reached _)
  have hring := byte_takeData_gatherData
  rw [State.byte, hmem, ← State.byte, State.byte_putBytes (semaphoreFull_calm _).noErr, if_neg (by decide +kernel)] at hring
  exact absurd hring (by decide +kernel)
end

/-! ### What a write of memory leaves of the units (R13, R234, R353, R402) -/

section
namespace Sys2Proof.Machine

open Sys2Proof

/-- From s to t memory is written, and a message may follow: cores, owners, queues, the fault manager and the BAR2 accesses that wait stay. -/
structure MemWrite (s t : State) : Prop where
  part : t.part = s.part
  cores : t.cores = s.cores
  owners : t.owners = s.owners
  que : t.u.que = s.u.que
  flt : t.u.flt = s.u.flt
  barw : t.u.host.barw = s.u.host.barw

theorem MemWrite.of {s t : State} (h : (t.part, t.cores, t.owners, t.u.que, t.u.flt, t.u.host.barw) =
    (s.part, s.cores, s.owners, s.u.que, s.u.flt, s.u.host.barw)) : MemWrite s t := by
  simp only [Prod.mk.injEq] at h
  obtain ⟨hpart, hcores, howners, hque, hflt, hbarw⟩ := h
  exact ⟨hpart, hcores, howners, hque, hflt, hbarw⟩

theorem MemWrite.refl (s : State) : MemWrite s s := .of rfl

section
variable {s t : State} (h : MemWrite s t)
include h

theorem MemWrite.trans {u : State} (k : MemWrite t u) : MemWrite s u :=
  ⟨k.part.trans h.part, k.cores.trans h.cores, k.owners.trans h.owners, k.que.trans h.que, k.flt.trans h.flt, k.barw.trans h.barw⟩

theorem MemWrite.core (n : Nat) : t.core n = s.core n := by rw [State.core, State.core, h.cores]
theorem MemWrite.owner (p : Nat) : t.owner p = s.owner p := by rw [State.owner, State.owner, h.owners]
theorem MemWrite.fltOwner (p : Nat) : t.fltOwner p = s.fltOwner p := by rw [State.fltOwner, State.fltOwner, h.flt]

end

theorem MemWrite.foldl {α : Type} {f : State → α → State} (h : ∀ s a, MemWrite s (f s a)) (l : List α) (s : State) : MemWrite s (l.foldl f s) := by
  induction l generalizing s with
  | nil => exact .refl s
  | cons a r ih => exact (h s a).trans (ih (f s a))

theorem MemWrite.ite {s t u : State} {b : Prop} [Decidable b] (h : MemWrite s t) (k : MemWrite s u) : MemWrite s (if b then t else u) := by
  split <;> assumption

theorem MemWrite.putAll (s : State) (a : Nat) (l : List Byte) : MemWrite s (s.putAll a l) := by
  rw [State.putAll_eq]
  exact .of rfl

theorem MemWrite.settleSector (a n : Nat) (s : State) (sec : Nat) : MemWrite s (State.settleSector a n s sec) := by
  have hput : MemWrite s (s.putAll (256 * sec) (s.sectorRead sec).data) := .putAll s _ _
  unfold State.settleSector
  dsimp only
  refine .ite (.of (by rfl)) (.ite (.refl s) (.ite (hput.trans (.of (by rfl))) ?_))
  exact MemWrite.trans (MemWrite.ite hput (.refl s)) (.of (by rfl))

theorem MemWrite.settleWord (a n : Nat) (s : State) (w : Nat) : MemWrite s (State.settleWord a n s w) := by
  unfold State.settleWord
  exact .ite (.of (by rfl)) (.ite ((MemWrite.putAll s _ _).trans (.of (by rfl))) (.ite (.refl s) (.of (by rfl))))

theorem MemWrite.putKept (s : State) (a : Nat) (l : List Byte) : MemWrite s (s.putKept a l) := by
  induction l generalizing s a with
  | nil => exact .refl s
  | cons b r ih => exact (MemWrite.ite (.refl s) (.of (by rfl))).trans (ih _ _)

theorem MemWrite.putRaw (s : State) (a : Nat) (l : List Byte) : MemWrite s (s.putRaw a l) :=
  .ite (.putAll s a l) (((MemWrite.foldl (.settleSector a _) _ s).trans (.foldl (.settleWord a _) _ _)).trans (.putKept _ a l))

theorem MemWrite.inject (s : State) (a n : Nat) : MemWrite s (s.inject a n) := by
  rw [State.inject_eq]
  exact .of rfl

theorem MemWrite.putBytes (s : State) (a : Nat) (l : List Byte) : MemWrite s (s.putBytes a l) := (MemWrite.putRaw s a l).trans (.inject _ a _)

theorem MemWrite.wr (s : State) (a n v : Nat) : MemWrite s (s.wr a n v) := .putBytes s a _

theorem MemWrite.zero (s : State) (a n : Nat) : MemWrite s (s.zero a n) := .ite (.of (by rfl)) (.putRaw s a _)

theorem MemWrite.asOne {f : State → State} (hf : ∀ s, MemWrite s (f s)) (sp : List (Nat × Nat)) (s : State) : MemWrite s (State.asOne sp f s) := by
  have hregs : ∀ (r : W64) (t : State), MemWrite t { t with regs := SMap.set 0xC00018 r t.regs } := fun _ _ => .of rfl
  exact .ite ((((hregs _ s).trans (hf _)).trans (hregs _ _)).trans (.foldl (fun s (p : Nat × Nat) => .inject s p.1 p.2) sp _)) (hf s)

/-- The pool of an owner is made ready by writes of memory (R360). -/
theorem MemWrite.poolInit (cfg : Line) (s : State) : MemWrite s (poolInit cfg s) := by
  unfold Machine.poolInit
  split
  · exact .refl s
  · refine .ite (.refl s) (.asOne (fun t => ?_) _ s)
    exact (((MemWrite.foldl (fun t i => .wr t _ 4 _) _ t).trans (.zero _ _ _)).trans (.wr _ _ 4 _)).trans (.wr _ _ 4 0)

theorem MemWrite.poolStart (o : Owner) (s : State) : MemWrite s (poolStart o s) := by
  unfold Machine.poolStart
  split
  · exact .refl s
  · exact (MemWrite.wr s _ 64 _).trans (.poolInit _ _)

theorem MemWrite.msix (s : State) (f v : Nat) : MemWrite s (s.msix f v) := .ite (.refl s) (.ite (.ite (.of (by rfl)) (.refl s)) (.of (by rfl)))

/-- A write of the device's own, made, waiting or lost. -/
theorem MemWrite.putDev (h : Held) (s : State) : MemWrite s (putDev h s) := by
  have hheld : MemWrite s (putHeld h s) := by
    have hput := MemWrite.foldl (fun s (w : Nat × List Byte) => MemWrite.putBytes s w.1 w.2) h.ws s
    unfold Machine.putHeld
    cases h.msg with
    | none => exact hput
    | some m => exact hput.trans (.msix _ m.1 m.2)
  exact .ite (.refl s) (.ite (.of (by rfl)) hheld)

end Sys2Proof.Machine
end

/-! ### What an event and a leaving owner leave of owners and queues (R343, R350, R365) -/

section
namespace Sys2Proof.Machine

open Sys2Proof

/-- A queue in error stays so, and an owner that does not exist comes into being in no way. -/
structure Remains (s t : State) : Prop where
  err : ∀ q, (s.queue q).err = true → (t.queue q).err = true
  absent : ∀ p, (s.owner p).exists = false → (t.owner p).exists = false

theorem Remains.of {s t : State} (h : (t.owners, t.u.que.qs) = (s.owners, s.u.que.qs)) : Remains s t := by
  obtain ⟨howners, hqs⟩ := Prod.mk.inj h
  exact ⟨fun q => by rw [State.queue, State.queue, hqs]; exact id, fun p => by rw [State.owner, State.owner, howners]; exact id⟩

theorem Remains.refl (s : State) : Remains s s := .of rfl

theorem Remains.trans {s t u : State} (h : Remains s t) (k : Remains t u) : Remains s u :=
  ⟨fun q => k.err q ∘ h.err q, fun p => k.absent p ∘ h.absent p⟩

theorem Remains.foldl {α : Type} {f : State → α → State} (h : ∀ s a, Remains s (f s a)) (l : List α) (s : State) : Remains s (l.foldl f s) := by
  induction l generalizing s with
  | nil => exact .refl s
  | cons a r ih => exact (h s a).trans (ih (f s a))

theorem Remains.ite {s t u : State} {b : Prop} [Decidable b] (h : Remains s t) (k : Remains s u) : Remains s (if b then t else u) := by
  split <;> assumption

theorem MemWrite.remains {s t : State} (h : MemWrite s t) : Remains s t := .of (by rw [h.owners, h.que])

/-- An owner is set that exists already, or to one that does not. -/
theorem Remains.setOwner {s : State} {p : Nat} {o : Owner} (h : (s.owner p).exists = true ∨ o.exists = false) : Remains s (s.setOwner p o) := by
  refine ⟨fun _ => id, fun k hk => ?_⟩
  by_cases hp : p = k
  · subst hp
    rw [State.owner_setOwner_same]
    exact h.resolve_left (by simp [hk])
  · rw [State.owner_setOwner_other s hp]
    exact hk

theorem State.queue_updQueue_same (s : State) (q : Nat) (f : Queue → Queue) : (s.updQueue q f).queue q = f (s.queue q) := SMap.get_set_same _ _ _ _

theorem State.queue_updQueue_other (s : State) {q k : Nat} (h : q ≠ k) (f : Queue → Queue) : (s.updQueue q f).queue k = s.queue k :=
  SMap.get_set_other _ h _ _

theorem Remains.updQueue (s : State) (q : Nat) {f : Queue → Queue} (h : (s.queue q).err = true → (f (s.queue q)).err = true) : Remains s (s.updQueue q f) := by
  refine ⟨fun k hk => ?_, fun _ => id⟩
  by_cases hq : q = k
  · subst hq
    rw [State.queue_updQueue_same]
    exact h hk
  · rw [State.queue_updQueue_other s hq]
    exact hk

theorem Remains.setReg (s : State) (o : Nat) (v : W64) : Remains s (s.setReg o v) := .of rfl
theorem Remains.setCore (s : State) (n : Nat) (k : Core) : Remains s (s.setCore n k) := .of rfl
theorem Remains.updFlt (s : State) (f : FltSt → FltSt) : Remains s (s.updFlt f) := .of rfl
theorem Remains.updFltOwner (s : State) (p : Nat) (f : FltOwner → FltOwner) : Remains s (s.updFltOwner p f) := .of rfl
theorem Remains.updHost (s : State) (f : HostSt → HostSt) : Remains s (s.updHost f) := .of rfl
theorem Remains.out (s : State) (o : Out) : Remains s (s.out o) := .of rfl

theorem Remains.freeBytes (a n : Nat) (s : State) : Remains s (freeBytes a n s) := by
  unfold Machine.freeBytes
  exact .foldl (fun s i => .of (by rfl)) _ s

/-! #### Commands that complete -/

theorem Remains.finish (s : State) (c : Disp) (status : Nat) : Remains s (s.finish c status) := by
  have hdone : Remains s (s.draw.2.updQueue c.q (fun q => { q with done := (s.queue c.q).done + 1 })) :=
    Remains.trans (.of (by rfl)) (.updQueue s.draw.2 c.q id)
  exact (hdone.trans (.of (by rfl))).trans (MemWrite.putDev _ _).remains

theorem Remains.takeHead (q : Nat) (s : State) : Remains s (takeHead q s) :=
  (Remains.updQueue s q (by exact id)).trans (MemWrite.putDev _ _).remains

theorem Remains.abortQueue (p q : Nat) (s : State) : Remains s (abortQueue p q s) :=
  .ite (.refl s) (.foldl (fun s _ => (Remains.takeHead q s).trans (.finish _ _ _)) _ s)

/-! #### Stopping an owner -/

theorem Remains.abandonOwner (p : Nat) (s : State) : Remains s (abandonOwner p s) := by
  unfold Machine.abandonOwner spoil
  exact Remains.trans (.of (by rfl)) (.foldl (fun s c => .foldl (fun s (r : Nat × Nat) => .freeBytes r.1 r.2 s) _ s) _ _)

/-- A drain that ends makes an owner active again, which exists. -/
theorem Remains.undrain (s : State) : Remains s (undrain s) := by
  refine .ite (.refl s) ⟨fun _ => id, fun p hp => ?_⟩
  rw [State.owner, SMap.get_eq_find, SMap.find_map (fun o : Owner => if o.st == .draining then { o with st := .active } else o)]
  rw [State.owner, SMap.get_eq_find] at hp
  cases hfind : SMap.find p s.owners with
  | none => rfl
  | some o =>
    rw [hfind] at hp
    have hst : o.st = .absent := by simpa [Owner.exists] using hp
    simp [Owner.exists, hst]

theorem Remains.cancelArms (p : Nat) (s : State) : Remains s (cancelArms p s) := Remains.trans (.of (by rfl)) (.undrain _)

theorem Remains.closeStep (p flags : Nat) (ready : Bool) (s : State) : Remains s (closeStep p flags ready s) := by
  unfold Machine.closeStep
  split <;> exact .of rfl

theorem Remains.applyConvictions (s : State) : Remains s (applyConvictions s) :=
  .ite (.refl s) ((Remains.foldl (fun s _ => .setReg s _ _) _ s).trans (.updFlt _ _))

theorem Remains.dropLaunches (p : Nat) (s : State) : Remains s (dropLaunches p s) := .of rfl

theorem Remains.readyClosed (p : Nat) (s : State) : Remains s (readyClosed p s) := .of rfl

theorem Remains.stopOwner (p : Nat) (s : State) : Remains s (stopOwner p s) := by
  unfold Machine.stopOwner
  dsimp only
  split
  · exact .refl s
  · rename_i hstop
    have hexists : (s.owner p).exists = true := by simp at hstop; exact hstop.1
    have hhalt : Remains s (((s.setOwner p { s.owner p with st := .faulted }).coresOf p).foldl (fun s c => State.haltCoreAt c s)
        (s.setOwner p { s.owner p with st := .faulted })) := (Remains.setOwner (.inl hexists)).trans (.foldl (fun s c => .setCore s c _) _ _)
    have hdrop := ((hhalt.trans (.abandonOwner p _)).trans (.dropLaunches p _)).trans ((Remains.cancelArms p _).trans (.readyClosed p _))
    have hend := fun l => (hdrop.trans (.foldl (fun s d => Remains.finish s d 0xFF) l _)).trans (.applyConvictions _)
    exact .ite ((hend _).trans (.closeStep p 0 true _)) (((hend _).trans (.updFltOwner _ p _)).trans (.out _ _))

theorem Remains.freezeMasters (p : Nat) (s : State) : Remains s (freezeMasters p s) :=
  ((Remains.foldl (fun s c => ((Remains.setCore s c _).trans (.setCore _ c _)).trans (.setCore _ c _)) _ s).trans (.updHost _ _)).trans (.dropLaunches p _)

/-! #### Events -/

theorem Remains.toRings (own : Option Nat) (r : BitVec 256) (s : State) : Remains s (toRings own r s) := by
  have hdev : Remains s (toDevRing r s) := by
    unfold toDevRing
    split
    · exact (MemWrite.putDev _ s).remains.trans (.of (by rfl))
    · exact .of rfl
  have hown : ∀ p t, Remains t (toOwnRing p r t) := by
    intro p t
    unfold toOwnRing
    dsimp only
    split
    · exact (MemWrite.putDev _ t).remains.trans (.of (by rfl))
    · exact .of rfl
  cases own with
  | none => exact hdev
  | some p => exact hdev.trans (hown p _)

theorem Remains.consequence (cls : Nat) (fatal8 : Bool) (own : Option Nat) (s : State) : Remains s (consequence cls fatal8 own s) := by
  unfold Machine.consequence
  refine .ite (.ite (.of rfl) (Remains.trans (.foldl (fun s p => .stopOwner p s) _ s) (.of (by rfl)))) (.ite ?_ (.refl s))
  cases own with
  | none => exact .refl s
  | some p => exact .stopOwner p s

theorem Remains.raise1 (s : State) (code src : Nat) (own : Option Nat) (d0 d1 : W64) : Remains s (s.raise1 code src own d0 d1) := by
  unfold State.raise1
  dsimp only
  generalize Option.filter (fun p => decide (p < 16)) own = own
  refine Remains.trans ?_ (.consequence _ _ own _)
  have hcount : ∀ f, Remains s ((countEvent (code / 4096) own s).updFlt f) := fun f =>
    Remains.trans (t := countEvent (code / 4096) own s) (.ite (.of (by rfl)) (.refl s)) (.updFlt _ f)
  have hrec : ∀ (o : Option (BitVec 256)) (t : State), Remains t (match o with
      | some r => Machine.toRings own r t
      | none => t) := by
    intro o t
    cases o with
    | none => exact .refl t
    | some r => exact .toRings own r t
  cases own with
  | none => exact (hcount _).trans (hrec _ _)
  | some p =>
    have hwindow := fun o g f => ((hcount g).trans (hrec o _)).trans (.updFltOwner _ p f)
    exact .ite (((hwindow _ _ _).trans (.toRings _ _ _)).trans (.freezeMasters p _)) (hwindow _ _ _)

theorem Remains.flushLost (s : State) : Remains s (flushLost s) :=
  Remains.trans (.of (by rfl)) (.foldl (fun s p => Remains.raise1 s 0x8703 0x7000 (some p) 0 0) _ (s.updCrs (fun t => { t with lost := [] })))

theorem Remains.raise (s : State) (code src : Nat) (own : Option Nat) (d0 d1 : W64) : Remains s (s.raise code src own d0 d1) := by
  have hlow : ∀ f, Remains s ((Machine.flushLost (s.raise1 code src own d0 d1)).updFlt f) := fun f =>
    ((Remains.raise1 s code src own d0 d1).trans (.flushLost _)).trans (.updFlt _ f)
  exact .ite ((hlow _).trans (.raise1 _ _ _ _ _ _)) (hlow _)

/-! #### A leaving owner -/

theorem Remains.forgetLaunches (p : Nat) (s : State) : Remains s (forgetLaunches p s) := .of rfl

theorem Remains.unfreezeOwner (p : Nat) (s : State) : Remains s (unfreezeOwner p s) :=
  ((Remains.foldl (fun s c => .setCore s c _) _ s).trans (.updHost _ _)).trans (.forgetLaunches p _)

theorem Remains.leaveOwner (p : Nat) (s : State) : Remains s (leaveOwner p s) := by
  have hdisp : ∀ (l : List Disp) t, Remains t (l.foldl (fun s d => s.finish d 0xFF) t) := .foldl (fun s d => .finish s d 0xFF)
  have hqs : ∀ (l : SMap Queue) t, Remains t (l.foldl (fun s e => Machine.abortQueue p e.1 s) t) := .foldl (fun s e => .abortQueue p e.1 s)
  have hcores : ∀ (l : List Nat) t, Remains t (l.foldl (fun s c => clearCore c s) t) := .foldl (fun s c => .setCore s c _)
  have hclose : ∀ t, Remains t (closeStepEv p 0 true (Machine.readyClosed p t)) := fun t =>
    ((Remains.readyClosed p t).trans (.closeStep p 0 true _)).trans (.flushLost _)
  have hgone : ∀ tag cfg t, Remains t (dropOwner p (markDirty cfg (unloadGroups tag t))) := fun tag cfg t =>
    Remains.trans (.of (by rfl)) (.setOwner (.inr rfl))
  exact ((((((((Remains.cancelArms p s).trans (hdisp _ _)).trans (hqs _ _)).trans (.abandonOwner p _)).trans (.dropLaunches p _)).trans
    (.unfreezeOwner p _)).trans (hcores _ _)).trans (hclose _)).trans (hgone _ _ _)

end Sys2Proof.Machine
end

/-! ### Runs over a list of which each entry changes one unit -/

section
namespace Sys2Proof.Machine

open Sys2Proof

section
variable {α β : Type} {inv : State → Prop} {view : State → Nat → β} {key : α → Nat} {f : State → α → State} {l : List α}
  (hinv : ∀ s, inv s → ∀ a ∈ l, inv (f s a))
  (hother : ∀ s, inv s → ∀ a ∈ l, ∀ j, j ≠ key a → view (f s a) j = view s j)
include hinv hother

/-- A unit that no entry is of stays. -/
theorem foldl_unit_other {s : State} (hs : inv s) {j : Nat} (hj : j ∉ l.map key) : view (l.foldl f s) j = view s j := by
  induction l generalizing s with
  | nil => rfl
  | cons a r ih =>
    obtain ⟨hja, hjr⟩ : j ≠ key a ∧ j ∉ r.map key := by simpa only [List.map_cons, List.mem_cons, not_or] using hj
    have hrest := ih (fun s hs a ha => hinv s hs a (List.mem_cons_of_mem _ ha)) (fun s hs a ha => hother s hs a (List.mem_cons_of_mem _ ha))
      (hinv s hs a List.mem_cons_self) hjr
    exact hrest.trans (hother s hs a List.mem_cons_self j hja)

/-- The unit of an entry is changed by that entry alone, where no two entries are of one unit. -/
theorem foldl_unit_same {upd : α → β → β} (hsame : ∀ s, inv s → ∀ a ∈ l, view (f s a) (key a) = upd a (view s (key a)))
    (hnodup : (l.map key).Nodup) {s : State} (hs : inv s) {a : α} (ha : a ∈ l) : view (l.foldl f s) (key a) = upd a (view s (key a)) := by
  induction l generalizing s with
  | nil => exact absurd ha List.not_mem_nil
  | cons b r ih =>
    obtain ⟨hb, hr⟩ := List.nodup_cons.1 hnodup
    have hinv' := fun s hs a ha => hinv s hs a (List.mem_cons_of_mem b ha)
    have hother' := fun s hs a ha => hother s hs a (List.mem_cons_of_mem b ha)
    have hs' := hinv s hs b List.mem_cons_self
    rw [List.foldl_cons]
    rcases List.mem_cons.1 ha with rfl | ha
    · exact (foldl_unit_other hinv' hother' hs' hb).trans (hsame s hs a List.mem_cons_self)
    · have hne : key a ≠ key b := fun h => hb (h ▸ List.mem_map_of_mem ha)
      rw [ih hinv' hother' (fun s hs a ha => hsame s hs a (List.mem_cons_of_mem b ha)) hr hs' ha, hother s hs b List.mem_cons_self _ hne]

end

/-- What every step leaves, a run leaves. -/
theorem foldl_view {α β : Type} (view : State → β) {f : State → α → State} (h : ∀ s a, view (f s a) = view s) (l : List α) (s : State) :
    view (l.foldl f s) = view s := by
  induction l generalizing s with
  | nil => rfl
  | cons a r ih => rw [List.foldl_cons, ih, h]

end Sys2Proof.Machine
end

/-! ### Doorbells (R350, R351) -/

section
namespace Sys2Proof.Machine

open Sys2Proof

theorem onOwner_of_lt {p : Nat} {s : State} (h : p < s.nOwners) (f : State → State) : onOwner p s f = .next (f s) := if_pos h

theorem qdLog_le {cfg d : Line} (h : qdBad cfg d = false) : qdLog d ≤ 16 := by
  by_contra hlog
  simp [qdBad, show 16 < qdLog d by omega] at h

section
variable {s : State} {f q : Nat} {v : W64} (he : s.NoErr) (hfrozen : s.u.host.frozen.contains f = false) (hexists : (s.owner f).exists = true)
  (hholds : s.holds f q = true) (htail : (s.queue q).tail = (s.queue q).done) (hhead : (s.queue q).head = (s.queue q).done)
  (hvalid : Nat.testBit (qdFlags (s.line (qtableBase s + 64 * q))) 0 = true)
include he hfrozen hexists hholds htail hhead hvalid

/-- The doorbell of an idle queue reads a valid descriptor: the queue is in error where it is invalid otherwise or the tail moves too far. -/
theorem doorbell_idle : doorbell f q 0 8 v s =
    let d := s.line (qtableBase s + 64 * q)
    let dist := (v.toNat + 2 ^ 64 - (s.queue q).tail % 2 ^ 64) % 2 ^ 64
    if qdBad (s.owner f).cfg d then queueError f q s
    else if 2 ^ 63 ≤ dist || (s.queue q).done + 2 ^ qdLog d < (s.queue q).tail + dist then queueError f q s
    else s.updQueue q (fun x => { x with desc := d, tail := (s.queue q).tail + dist }) := by
  have hidle : (decide ((s.queue q).tail = (s.queue q).done) && decide ((s.queue q).head = (s.queue q).done)) = true := by simp [htail, hhead]
  unfold doorbell
  simp only [fnFrozen, hfrozen, hexists, hholds, hidle, guardRead_noErr he, if_true, hvalid]
  simp

/-- The doorbell of an idle queue with an invalid descriptor. -/
theorem doorbell_invalid (hbad : qdBad (s.owner f).cfg (s.line (qtableBase s + 64 * q)) = true) : doorbell f q 0 8 v s = queueError f q s := by
  rw [doorbell_idle he hfrozen hexists hholds htail hhead hvalid]
  exact if_pos hbad

section
variable (hgood : qdBad (s.owner f).cfg (s.line (qtableBase s + 64 * q)) = false)
include hgood

theorem doorbell_within (hdone : (s.queue q).done < 2 ^ 62) (hlo : (s.queue q).tail ≤ v.toNat)
    (hhi : v.toNat ≤ (s.queue q).done + 2 ^ qdLog (s.line (qtableBase s + 64 * q))) :
    doorbell f q 0 8 v s = s.updQueue q (fun x => { x with desc := s.line (qtableBase s + 64 * q), tail := v.toNat }) := by
  have hdist : (v.toNat + 2 ^ 64 - (s.queue q).tail % 2 ^ 64) % 2 ^ 64 = v.toNat - (s.queue q).tail := by have := v.isLt; omega
  have hdepth : 2 ^ qdLog (s.line (qtableBase s + 64 * q)) ≤ 2 ^ 16 := Nat.pow_le_pow_right (by omega) (qdLog_le hgood)
  have hnear : ¬ (2 ^ 63 ≤ v.toNat - (s.queue q).tail || decide ((s.queue q).done + 2 ^ qdLog (s.line (qtableBase s + 64 * q)) < v.toNat)) = true := by
    simp only [Bool.or_eq_true, decide_eq_true_eq]
    omega
  rw [doorbell_idle he hfrozen hexists hholds htail hhead hvalid]
  simp only [hdist, Nat.add_sub_cancel' hlo]
  exact (if_neg (by simp [hgood])).trans (if_neg hnear)

theorem doorbell_beyond (hdone : (s.queue q).done < 2 ^ 62) (hhi : (s.queue q).done + 2 ^ qdLog (s.line (qtableBase s + 64 * q)) < v.toNat) :
    doorbell f q 0 8 v s = queueError f q s := by
  have hlo : (s.queue q).tail ≤ v.toNat := htail ▸ (Nat.le_add_right _ _).trans hhi.le
  have hdist : (v.toNat + 2 ^ 64 - (s.queue q).tail % 2 ^ 64) % 2 ^ 64 = v.toNat - (s.queue q).tail := by have := v.isLt; omega
  have hfar : (2 ^ 63 ≤ v.toNat - (s.queue q).tail || decide ((s.queue q).done + 2 ^ qdLog (s.line (qtableBase s + 64 * q)) < v.toNat)) = true := by
    simp only [Bool.or_eq_true, decide_eq_true_eq]
    exact .inr hhi
  rw [doorbell_idle he hfrozen hexists hholds htail hhead hvalid]
  simp only [hdist, Nat.add_sub_cancel' hlo]
  exact (if_neg (by simp [hgood])).trans (if_pos hfar)

end

end

theorem doorbell_elsewhere {off n : Nat} (h : off ≠ 0 ∨ n ≠ 8) (f q : Nat) (v : W64) (s : State) : doorbell f q off n v s = s :=
  if_pos (by rcases h with h | h <;> simp [h])

/-- A queue in error stays in error while its owner stops (R351, R365). -/
theorem queueError_err (f q : Nat) (s : State) : ((queueError f q s).queue q).err = true :=
  (Remains.raise _ _ _ _ _ _).err q (congrArg Queue.err (State.queue_updQueue_same s q _))

end Sys2Proof.Machine
end

/-! ### What a dispatcher takes (R352 to R358, R361) -/

section
namespace Sys2Proof.Machine

open Sys2Proof

section
variable {s : State} {p q op : Nat} {x : Queue} {d : Disper} (he : s.NoErr) (hst : (s.owner p).st = .active)
  (hnext : nextQueue p s [0, 1, 2, 3] = some (q, x, d))
include he hst hnext

theorem dispatcher_invalid (hbad : cmdBad s (s.owner p).cfg (headCmd s x) = true) : dispatcher op p s =
    (updDisper p (fun _ => d) s).raise 0x8902 0x0000 (some p) (BitVec.ofNat 64 q) (BitVec.ofNat 64 x.head) := by
  simp [dispatcher, hst, guardRead_noErr he, hnext, hbad]

section
variable (hgood : cmdBad s (s.owner p).cfg (headCmd s x) = false)
include hgood

/-- A valid head of the operation asked for is taken. -/
theorem dispatcher_valid : cmdOp (headCmd s x) = op → dispatcher op p s =
    match op with
    | 1 => runDispatch p q x (headCmd s x) (updDisper p (fun _ => d) s)
    | 2 => (takeHead q (updDisper p (fun _ => d) s)).finish { q, i := x.head, own := p, cmd := headCmd s x, kernel := 0 } 0
    | _ => match cfgPool (s.owner p).cfg with
      | none => updDisper p (fun _ => d) s
      | some k =>
        let r := reserve k (cmdKernel (headCmd s x)) (cmdCount (headCmd s x)) (takeHead q (updDisper p (fun _ => d) s))
        r.2.finish { q, i := x.head, own := p, cmd := headCmd s x, kernel := 0 } r.1 := by
  intro hop
  unfold dispatcher
  rw [if_neg (by simp [hst]), guardRead_noErr he, hnext]
  exact (if_neg (by simp [hgood])).trans (if_neg (not_not.2 hop))

theorem dispatcher_dispatch (hop : cmdOp (headCmd s x) = 1) : dispatcher 1 p s = runDispatch p q x (headCmd s x) (updDisper p (fun _ => d) s) :=
  dispatcher_valid he hst hnext hgood hop

theorem dispatcher_fence (hop : cmdOp (headCmd s x) = 2) : dispatcher 2 p s =
    (takeHead q (updDisper p (fun _ => d) s)).finish { q, i := x.head, own := p, cmd := headCmd s x, kernel := 0 } 0 :=
  dispatcher_valid he hst hnext hgood hop

theorem dispatcher_reserve (hop : cmdOp (headCmd s x) = 3) {k : Nat} (hpool : cfgPool (s.owner p).cfg = some k) :
    let r := reserve k (cmdKernel (headCmd s x)) (cmdCount (headCmd s x)) (takeHead q (updDisper p (fun _ => d) s))
    dispatcher 3 p s = r.2.finish { q, i := x.head, own := p, cmd := headCmd s x, kernel := 0 } r.1 := by
  intro r
  rw [dispatcher_valid he hst hnext hgood hop, hpool]
  rfl

end

end

theorem dispatcher_inactive {s : State} {p : Nat} (h : (s.owner p).st ≠ .active) (op : Nat) : dispatcher op p s = s := if_pos (by simpa using h)

theorem commandExpire_inactive {s : State} {p : Nat} (h : (s.owner p).st ≠ .active) : commandExpire p s = s := if_pos (by simpa using h)

theorem runDispatch_expired {s : State} {x : Queue} {c : Line} (h : expired s x c = true) (p q : Nat) : runDispatch p q x c s =
    (takeHead q s).finish { q, i := x.head, own := p, cmd := c, kernel := cmdKernel c } 2 := if_pos h

/-! #### Cores that a dispatch starts (R96, R355, R357) -/

/-- Core k as the i-th of a dispatch whose first core is `first`. -/
def startedCore (i first q req arg wset entry : Nat) (k : Core) : Core :=
  { freshCore k with
    r := { s := [(0, BitVec.ofNat 64 arg), (1, BitVec.ofNat 64 q), (2, BitVec.ofNat 64 req), (3, BitVec.ofNat 64 i), (4, BitVec.ofNat 64 first),
      (5, if k.tag.toNat = wset then 1 else 0)] }
    seq := { (freshCore k).seq with run := .running, baddr := BitVec.ofNat 48 entry } }

theorem startCore_eq {s : State} {c entry : Nat} (h : fetchOk s c (BitVec.ofNat 48 entry) = true) (i first q req arg wset : Nat) :
    startCore c i first q req arg wset entry s = s.setCore c (startedCore i first q req arg wset entry (s.core c)) := by
  unfold startCore gotoAddr
  dsimp only
  refine (if_pos h).trans ?_
  rw [State.updSeq_eq, State.core_setCore_same, State.setCore_setCore]
  rfl

theorem State.edfBase_of_part {s t : State} (h : t.part = s.part) : t.edfBase = s.edfBase := by
  unfold State.edfBase State.gddrTop State.is96
  rw [h]

/-- Whether a bundle may lie at an address does not depend on what the part holds. -/
theorem fetchOk_of_part {s t : State} (h : t.part = s.part) (c : Nat) (a : Addr) : fetchOk t c a = fetchOk s c a := by
  unfold fetchOk
  rw [State.edfBase_of_part h]

/-- The run of `startCore` over the cores of a dispatch, in their order. -/
def startCores (cs : List Nat) (q req arg wset entry : Nat) (s : State) : State :=
  (List.range cs.length).foldl (fun s i => startCore (nth 0 cs i) i (nth 0 cs 0) q req arg wset entry s) s

section
variable {cs : List Nat} {s : State} {entry : Nat} (hfetch : ∀ n ∈ cs, fetchOk s n (BitVec.ofNat 48 entry) = true) (q req arg wset : Nat)
include hfetch

theorem startCore_of_part {t : State} (ht : t.part = s.part) {i : Nat} (hi : i ∈ List.range cs.length) :
    startCore (nth 0 cs i) i (nth 0 cs 0) q req arg wset entry t =
      t.setCore (nth 0 cs i) (startedCore i (nth 0 cs 0) q req arg wset entry (t.core (nth 0 cs i))) :=
  startCore_eq ((fetchOk_of_part ht _ _).trans (hfetch _ (nth_mem (List.mem_range.1 hi)))) i (nth 0 cs 0) q req arg wset

/-- Every other core is left. -/
theorem core_startCores_other {n : Nat} (hn : n ∉ cs) : (startCores cs q req arg wset entry s).core n = s.core n := by
  refine foldl_unit_other (inv := fun t => t.part = s.part) (view := State.core) (key := nth 0 cs) ?_ ?_ rfl ?_
  · intro t ht i hi
    rw [startCore_of_part hfetch q req arg wset ht hi]
    exact ht
  · intro t ht i hi j hj
    rw [startCore_of_part hfetch q req arg wset ht hi, State.core_setCore_other _ (Ne.symm hj)]
  · intro hmem
    obtain ⟨i, hi, rfl⟩ := List.mem_map.1 hmem
    exact hn (nth_mem (List.mem_range.1 hi))

/-- Core i of the dispatch is started as such. -/
theorem core_startCores_same (hnodup : cs.Nodup) {i n : Nat} (hi : cs[i]? = some n) :
    (startCores cs q req arg wset entry s).core n = startedCore i (nth 0 cs 0) q req arg wset entry (s.core n) := by
  obtain ⟨hlt, hget⟩ := List.getElem?_eq_some_iff.1 hi
  have hn : nth 0 cs i = n := by rw [nth, List.getD_eq_getElem _ _ hlt, hget]
  have hkeys : (List.range cs.length).map (nth 0 cs) = cs := by
    refine List.ext_getElem (by simp) (fun j h₁ h₂ => ?_)
    rw [List.getElem_map, List.getElem_range, nth, List.getD_eq_getElem _ _ h₂]
  rw [← hn]
  refine foldl_unit_same (inv := fun t => t.part = s.part) (view := State.core) (key := nth 0 cs)
    (upd := fun i k => startedCore i (nth 0 cs 0) q req arg wset entry k) ?_ ?_ ?_ (by rwa [hkeys]) rfl (List.mem_range.2 hlt)
  · intro t ht i hi
    rw [startCore_of_part hfetch q req arg wset ht hi]
    exact ht
  · intro t ht i hi j hj
    rw [startCore_of_part hfetch q req arg wset ht hi, State.core_setCore_other _ (Ne.symm hj)]
  · intro t ht i hi
    rw [startCore_of_part hfetch q req arg wset ht hi, State.core_setCore_same]

end

theorem updDisper_part (p : Nat) (f : Disper → Disper) (s : State) : (updDisper p f s).part = s.part := rfl
theorem updDisper_cores (p : Nat) (f : Disper → Disper) (s : State) : (updDisper p f s).cores = s.cores := rfl
theorem takeHead_part (q : Nat) (s : State) : (takeHead q s).part = s.part := (MemWrite.putDev _ _).part
theorem takeHead_cores (q : Nat) (s : State) : (takeHead q s).cores = s.cores := (MemWrite.putDev _ _).cores

/-- A DISPATCH without a batch that can be placed takes its head, is noted, and starts its cores. -/
theorem runDispatch_starts {s : State} {p q : Nat} {x : Queue} {c : Line} (hlate : expired s x c = false) (hbatch : cmdBatch c = false) {cs : List Nat}
    (hplace : placeKernel s (s.owner p).cfg (kernelEntry s (s.owner p).cfg (monitor s (s.owner p).cfg c).1) = some cs) :
    ∃ f g, runDispatch p q x c s = startCores ((List.range s.nCores).filter (fun k => cs.contains k)) q (byteField c 4 4) (byteField c 16 6)
      (kWset (kernelEntry s (s.owner p).cfg (monitor s (s.owner p).cfg c).1)) (kEntry (kernelEntry s (s.owner p).cfg (monitor s (s.owner p).cfg c).1))
      (updDisper p g ((takeHead q s).updQue f)) := by
  unfold runDispatch
  dsimp only
  rw [if_neg (by simp [hlate]), hplace]
  dsimp only
  cases cfgPool (s.owner p).cfg
  · exact ⟨_, _, rfl⟩
  · rw [hbatch]
    exact ⟨_, _, rfl⟩

/-- The cores that a DISPATCH without a batch starts, of those that it was placed on, and the rest (R357). -/
theorem core_runDispatch {s : State} {p q : Nat} {x : Queue} {c : Line} (hlate : expired s x c = false) (hbatch : cmdBatch c = false) {cs : List Nat}
    (hplace : placeKernel s (s.owner p).cfg (kernelEntry s (s.owner p).cfg (monitor s (s.owner p).cfg c).1) = some cs)
    (hfetch : ∀ n ∈ cs, fetchOk s n (BitVec.ofNat 48 (kEntry (kernelEntry s (s.owner p).cfg (monitor s (s.owner p).cfg c).1))) = true) :
    let order := (List.range s.nCores).filter (fun k => cs.contains k)
    let l := kernelEntry s (s.owner p).cfg (monitor s (s.owner p).cfg c).1
    (∀ i n, order[i]? = some n → (runDispatch p q x c s).core n =
      startedCore i (nth 0 order 0) q (byteField c 4 4) (byteField c 16 6) (kWset l) (kEntry l) (s.core n)) ∧
    (∀ n, n ∉ cs → (runDispatch p q x c s).core n = s.core n) := by
  intro order l
  obtain ⟨f, g, hstart⟩ := runDispatch_starts (q := q) hlate hbatch hplace
  have hpart : (updDisper p g ((takeHead q s).updQue f)).part = s.part := by rw [updDisper_part, State.updQue_part, takeHead_part]
  have hcore : ∀ n, (updDisper p g ((takeHead q s).updQue f)).core n = s.core n := fun n => by
    rw [State.core, updDisper_cores, State.updQue_cores, takeHead_cores, State.core]
  have hfetch' : ∀ n ∈ order, fetchOk (updDisper p g ((takeHead q s).updQue f)) n (BitVec.ofNat 48 (kEntry l)) = true := by
    intro n hn
    have hmem : n ∈ cs := by simpa using (List.mem_filter.1 hn).2
    exact (fetchOk_of_part hpart n _).trans (hfetch n hmem)
  have hnodup : order.Nodup := List.nodup_range.filter _
  rw [hstart]
  refine ⟨fun i n hi => ?_, fun n hn => ?_⟩
  · rw [core_startCores_same hfetch' _ _ _ _ hnodup hi, hcore]
  · have hn' : n ∉ order := fun h => hn (by simpa using (List.mem_filter.1 h).2)
    rw [core_startCores_other hfetch' _ _ _ _ hn', hcore]

/-! #### Commands that complete (R353, R358, R359) -/

/-- A dispatch without a batch whose every core is idle. -/
theorem dispatchDone_idle {s : State} (he : s.NoErr) {q i : Nat} {d : Disp} (hfind : s.u.que.disp.find? (fun d => d.q == q && d.i == i) = some d)
    (hcores : d.cores ≠ []) (hleft : d.left = []) (hbatch : cmdBatch d.cmd = false) :
    let ka := cfgKTable (s.owner d.own).cfg + 64 * d.kernel
    dispatchDone q i s = (s.wr (ka + 16) 4 (newEst (s.rd (ka + 16) 4) (d.stop - d.start))).finish d (if d.fb then 1 else 0) := by
  intro ka
  unfold dispatchDone
  rw [hfind]
  dsimp only
  rw [if_neg (by simp [hcores, hleft]), guardRead_noErr he, hbatch]
  cases cfgPool (s.owner d.own).cfg <;> rfl

/-- The first head that has reached its deadline completes with status 2. -/
theorem commandExpire_first {s : State} (he : s.NoErr) {p : Nat} (hst : (s.owner p).st = .active) {e : Nat × Queue}
    (hfind : (heads s p).find? (fun e => !cmdBad s (s.owner p).cfg (headCmd s e.2) && expired s e.2 (headCmd s e.2)) = some e) : commandExpire p s =
    (takeHead e.1 s).finish { q := e.1, i := e.2.head, own := p, cmd := headCmd s e.2, kernel := cmdKernel (headCmd s e.2) } 2 := by
  have hexpired : expired s e.2 (headCmd s e.2) = true := by
    have hhead := List.find?_some hfind
    rw [Bool.and_eq_true] at hhead
    exact hhead.2
  unfold commandExpire
  rw [if_neg (by simp [hst]), guardRead_noErr he]
  dsimp only
  rw [hfind]
  exact runDispatch_expired hexpired p e.1

/-! #### Reservations (R361) -/

theorem reserve_refused {s : State} {k : Nat} {n : Int} (hn : 0 < n) (hfree : (poolFree s k : Int) - poolReserved s k < n) (r : Nat) :
    reserve k r n s = (3, s) := (if_pos hn).trans (if_neg (by omega))

theorem reserve_returned {n : Int} (hn : n ≤ 0) (k r : Nat) (s : State) : (reserve k r n s).1 = 0 := by
  unfold reserve
  dsimp only
  rw [if_neg (by omega)]

end Sys2Proof.Machine

open Sys2Proof Sys2Proof.Machine

/-- Settles O48: the doorbell of an idle queue by its descriptor and its distance, a head by its operation, and the cores of a dispatch by
`core_runDispatch`; a queue in error stays so through the event that it raises (`Remains`). -/
theorem queuesAndDispatch : Obligations.QueuesAndDispatch := by
  unfold Obligations.QueuesAndDispatch
  intro s p hp he cfg
  have hrun : ∀ f : State → State, onOwner p s f = .next (f s) := onOwner_of_lt hp
  refine ⟨?_, ?_, ?_, ?_, ?_, ?_, ?_⟩
  · intro q v hlive hfrozen hexists hholds x d htail hhead hdone hvalid
    have hexec : exec (.doorbell p q 0 8 v) s = .next (doorbell p q 0 8 v s) := (hrun _).trans (congrArg _ (if_pos hlive))
    rw [hexec]
    refine ⟨fun hbad => congrArg _ (doorbell_invalid he hfrozen hexists hholds htail hhead hvalid hbad),
      fun hgood hlo hhi => congrArg _ (doorbell_within he hfrozen hexists hholds htail hhead hvalid hgood hdone hlo hhi), fun hgood hhi => ⟨_, rfl, ?_⟩⟩
    rw [doorbell_beyond he hfrozen hexists hholds htail hhead hvalid hgood hdone hhi]
    exact queueError_err p q s
  · intro q off n v hplace
    refine (hrun _).trans (congrArg _ ?_)
    rw [doorbell_elsewhere hplace, ite_self]
  · intro i hi hst
    have hdisp := fun op => dispatcher_inactive hst op
    have hexpire := commandExpire_inactive hst
    simp only [List.mem_cons, List.not_mem_nil, or_false] at hi
    rcases hi with rfl | rfl | rfl | rfl
    · exact (hrun _).trans (congrArg _ (hdisp 1))
    · exact (hrun _).trans (congrArg _ (hdisp 2))
    · exact (hrun _).trans (congrArg _ (hdisp 3))
    · exact (hrun _).trans (congrArg _ hexpire)
  · intro q x d hst hnext c s1
    refine ⟨fun hbad i hi => ?_, fun hgood => ⟨fun hop => ?_, fun hop k hpool => ?_, fun hop hlate => ?_, ?_⟩⟩
    · have hdisp := fun op => dispatcher_invalid (op := op) he hst hnext hbad
      simp only [List.mem_cons, List.not_mem_nil, or_false] at hi
      rcases hi with rfl | rfl | rfl
      · exact (hrun _).trans (congrArg _ (hdisp 1))
      · exact (hrun _).trans (congrArg _ (hdisp 2))
      · exact (hrun _).trans (congrArg _ (hdisp 3))
    · exact (hrun _).trans (congrArg _ (dispatcher_fence he hst hnext hgood hop))
    · exact (hrun _).trans (congrArg _ (dispatcher_reserve he hst hnext hgood hop hpool))
    · exact (hrun _).trans (congrArg _ ((dispatcher_dispatch he hst hnext hgood hop).trans (runDispatch_expired (s := s1) hlate p q)))
    · intro hop hlate hbatch cs hplace m l hfetch
      obtain ⟨hstarted, hothers⟩ := core_runDispatch (s := s1) (q := q) hlate hbatch hplace hfetch
      refine ⟨_, (hrun _).trans (congrArg _ (dispatcher_dispatch he hst hnext hgood hop)), fun n hn hmem => ?_, hothers, fun i n hi => ?_⟩
      · obtain ⟨i, hi⟩ := List.mem_iff_getElem?.1 (List.mem_filter.2 ⟨List.mem_range.2 hn, by simpa using hmem⟩ : n ∈ (List.range s.nCores).filter (fun k => cs.contains k))
        rw [hstarted i n hi]
        exact ⟨rfl, rfl, rfl, rfl, rfl, rfl, rfl⟩
      · rw [hstarted i n hi]
        exact ⟨rfl, rfl⟩
  · intro q i d hfind hcores hleft hbatch ka
    exact congrArg _ (dispatchDone_idle he hfind hcores hleft hbatch)
  · intro e hst hfind
    exact (hrun _).trans (congrArg _ (commandExpire_first he hst hfind))
  · exact fun k r n => ⟨fun hn hfree => reserve_refused hn hfree r, fun hn => reserve_returned hn k r s⟩
end

/-! ### Registers whose writes only act, where a condition forbids some (R18, R368) -/

section
namespace Sys2Proof.Machine

open Sys2Proof

/-- A register of the part that keeps no written field; its own condition may forbid a write. -/
structure Reg.KeepsNothing (r : Reg) (s : State) : Prop where
  found : regAt r.off = some r
  present : r.absent s = false
  aligned : r.off % 8 = 0
  fields : ∀ f ∈ r.fields, f.hi < 64 ∧ f.acc ≠ .rw ∧ f.acc ≠ .rwl

theorem Reg.KeepsNothing.unstored {r : Reg} {s : State} (h : r.KeepsNothing s) : r.bits .rw ||| r.bits .rwl = 0 := by
  rw [Reg.bits_eq_zero (fun f hf => have ⟨_, hrw, _⟩ := h.fields f hf; hrw), Reg.bits_eq_zero (fun f hf => have ⟨_, _, hrwl⟩ := h.fields f hf; hrwl), Nat.or_self]

/-- The control complex's write of such a register acts where it is not forbidden. -/
theorem write64_ctl_acts {r : Reg} {s : State} (h : r.KeepsNothing s) {v : W64}
    (hfree : ∀ o x m, regForbids s false r o x v m = false) :
    write64 .ctl r v s = regActs r (s.rwVal r) (newVal s r v (coverMask r.off 8)) v (coverMask r.off 8) s := by
  have hpart := partWo_whole (fun f hf => have ⟨hhi, _⟩ := h.fields f hf; hhi) r.off
  have hgood : writeBad s false .ctl r.off 8 v = false := by
    simp [writeBad, h.found, h.aligned, h.present, writeRight, hpart, lockHit_unstored h.unstored, placed, hfree]
  have hdo : writeDo r.off 8 v s = regActs r (s.rwVal r) (newVal s r v (coverMask r.off 8)) v (coverMask r.off 8) s := by
    simp [writeDo, h.found, h.present, placed, storeReg_unstored h.unstored]
  simp [write64, regWrite, fnMute, hgood, hdo]

theorem queMode_keepsNothing (s : State) : Reg.queMode.KeepsNothing s where
  found := rfl
  present := rfl
  aligned := rfl
  fields := by simp [Reg.fields, woF, roF]

theorem regAt_qpState {p : Nat} (hp : p < 16) : regAt (Reg.qpState p).off = some (.qpState p) := by
  show regAt (queOff p 0) = _
  unfold queOff
  rw [regAt_que (by omega) (by omega) (by omega), queAt, if_pos (by simp; omega), show (0x610000 + p * 0x100 + 0 - 0x600000 - 0x10000) / 0x100 = p by omega,
    show (0x610000 + p * 0x100 + 0 - 0x600000) % 0x100 = 0 by omega]
  rfl

theorem qpState_keepsNothing {s : State} {p : Nat} (hp : p < s.nOwners) : (Reg.qpState p).KeepsNothing s where
  found := regAt_qpState (hp.trans_le s.nOwners_le)
  present := by simp [Reg.absent, hp]
  aligned := by simp only [Reg.off, queOff]; omega
  fields := by simp [Reg.fields, woF, roF]

/-- NOW is bit 56; the index of the descriptor lies below (R344). -/
theorem bitsOf_index_now (v : W64) : bitsOf (v ||| 0x100000000000000) 55 48 = bitsOf v 55 48 := by
  refine bitsOf_congr (fun i hlo hhi => ?_)
  unfold bitOf
  rw [BitVec.getLsbD_or]
  interval_cases i <;> simp

/-- A write of QUE_MODE.NOW that names a good descriptor is a handover (R344). -/
theorem write64_queMode {s t : State} {v : W64} (h : modeNow (bitsOf v 55 48) s = some t) : write64 .ctl .queMode (v ||| 0x100000000000000) s = t := by
  have hnow : bitOf (v ||| 0x100000000000000) 56 = true := bitOf_or v _ (by decide)
  have hmode : modeNow (bitsOf (v ||| 0x100000000000000) 55 48) s = some t := by rw [bitsOf_index_now, h]
  have hfree : ∀ o x m, regForbids s false .queMode o x (v ||| 0x100000000000000) m = false := fun _ _ _ => by
    rw [regForbids, hnow, hmode]
    rfl
  rw [write64_ctl_acts (queMode_keepsNothing s) hfree]
  refine (if_pos hnow).trans ?_
  rw [hmode, Option.getD_some]

/-- A write of QUE_PART_STATE.RESET of a partition that it may name (R366). -/
theorem exec_quePartReset {s : State} {p : Nat} (hp : p < s.nOwners) (h : resetOk p s = true) (v : W64) : exec (.quePartReset .ctl p v) s = .next (resetOwner p s) := by
  have hreset : bitOf (v ||| 0x8000000000000000) 63 = true := bitOf_or v _ (by decide)
  have hwrite : write64 .ctl (.qpState p) (v ||| 0x8000000000000000) s = resetOwner p s := by
    rw [write64_ctl_acts (qpState_keepsNothing hp) (fun _ _ _ => by simp [regForbids, h])]
    exact if_pos hreset
  exact (if_pos (hp.trans_le s.nOwners_le)).trans (congrArg _ hwrite)

end Sys2Proof.Machine
end

/-! ### Handover (R338, R343, R344) -/

section
namespace Sys2Proof.Machine

open Sys2Proof

theorem applyConvictions_que (s : State) : (applyConvictions s).u.que = s.u.que := by
  have horBypass : ∀ (l : List (Nat × Nat)) t, (l.foldl (fun s e => orBypass (e.1 / 4) (e.1 % 4) e.2 s) t).u.que = t.u.que :=
    foldl_view (fun s => s.u.que) (fun _ _ => rfl)
  unfold applyConvictions
  dsimp only
  split
  · rfl
  · exact horBypass _ s

theorem mem_ownersIn {m p : Nat} : p ∈ ownersIn m ↔ p < 16 ∧ Nat.testBit m p = true := by
  rw [ownersIn, List.mem_filter, List.mem_range]

theorem ownersIn_nodup (m : Nat) : (ownersIn m).Nodup := List.nodup_range.filter _

/-! #### Entering -/

/-- The owners that enter, each with its image. -/
def enterOwners (ps : List Nat) (imgs : List Line) (s : State) : State := ps.foldl (fun s p => enterOwner p (imgs.getD p 0) s) s

theorem owner_enterOwner_other {p q : Nat} (h : q ≠ p) (cfg : Line) (s : State) : (enterOwner p cfg s).owner q = s.owner q :=
  State.owner_setOwner_other s (Ne.symm h) _

theorem owner_enterOwner_same (p : Nat) (cfg : Line) (s : State) : ∃ pool, (enterOwner p cfg s).owner p = { st := .creating, cfg, pool } :=
  ⟨_, State.owner_setOwner_same s p _⟩

theorem curEpoch_enterOwner_same (p : Nat) (cfg : Line) (s : State) : curEpoch (enterOwner p cfg s) p = cfgEpoch cfg := by
  have hlt : cfgEpoch cfg < 2 ^ 16 := Nat.mod_lt _ (by decide)
  have hreg : (enterOwner p cfg s).reg 0 (0xA00050 + 8 * p) = putBits (s.reg 0 (0xA00050 + 8 * p)) 15 0 (cfgEpoch cfg) :=
    State.reg_setReg_same (s.setOwner p { st := .creating, cfg, pool := ((cfgPool cfg).map (fun k => s.line k)).getD 0 }) 0 _ _
  rw [curEpoch, hreg, bitsOf_putBits_target, Nat.mod_eq_of_lt hlt]

theorem curEpoch_enterOwner_other {p q : Nat} (h : q ≠ p) (cfg : Line) (s : State) : curEpoch (enterOwner p cfg s) q = curEpoch s q := by
  have hreg : (enterOwner p cfg s).reg 0 (0xA00050 + 8 * q) = s.reg 0 (0xA00050 + 8 * q) :=
    State.reg_setReg_other (s.setOwner p { st := .creating, cfg, pool := ((cfgPool cfg).map (fun k => s.line k)).getD 0 }) 0 (by omega) _
  rw [curEpoch, hreg, curEpoch]

theorem owner_enterOwners_other {ps : List Nat} {p : Nat} (h : p ∉ ps) (imgs : List Line) (s : State) : (enterOwners ps imgs s).owner p = s.owner p :=
  foldl_unit_other (inv := fun _ => True) (view := State.owner) (key := fun p => p) (fun _ _ _ _ => trivial)
    (fun t _ a _ j hj => owner_enterOwner_other hj _ t) trivial (by rwa [List.map_id'])

/-- The state, the image and the epoch of an owner. -/
def entered (s : State) (p : Nat) : OwnSt × Line × Nat := ((s.owner p).st, (s.owner p).cfg, curEpoch s p)

/-- Each owner that enters is in creation with its image and the epoch of its image. -/
theorem enterOwners_same {ps : List Nat} (hps : ps.Nodup) {p : Nat} (hp : p ∈ ps) (imgs : List Line) (s : State) :
    ((enterOwners ps imgs s).owner p).st = .creating ∧ ((enterOwners ps imgs s).owner p).cfg = imgs.getD p 0 ∧
      curEpoch (enterOwners ps imgs s) p = cfgEpoch (imgs.getD p 0) := by
  have hother : ∀ t, True → ∀ a ∈ ps, ∀ j, j ≠ a → entered (enterOwner a (imgs.getD a 0) t) j = entered t j := by
    intro t _ a _ j hj
    rw [entered, owner_enterOwner_other hj, curEpoch_enterOwner_other hj, entered]
  have hsame : ∀ t, True → ∀ a ∈ ps, entered (enterOwner a (imgs.getD a 0) t) a = (.creating, imgs.getD a 0, cfgEpoch (imgs.getD a 0)) := by
    intro t _ a _
    obtain ⟨pool, howner⟩ := owner_enterOwner_same a (imgs.getD a 0) t
    rw [entered, howner, curEpoch_enterOwner_same]
  have hview : entered (enterOwners ps imgs s) p = (.creating, imgs.getD p 0, cfgEpoch (imgs.getD p 0)) :=
    foldl_unit_same (inv := fun _ => True) (view := entered) (key := fun p => p) (upd := fun a _ => (.creating, imgs.getD a 0, cfgEpoch (imgs.getD a 0)))
      (fun _ _ _ _ => trivial) hother hsame (by rwa [List.map_id']) trivial hp
  simpa only [entered, Prod.mk.injEq] using hview

theorem enterOwners_shared (ps : List Nat) (imgs : List Line) (s : State) : (enterOwners ps imgs s).u.que.shared = s.u.que.shared :=
  foldl_view (f := fun s p => enterOwner p (imgs.getD p 0) s) (fun s => s.u.que.shared) (fun _ _ => by rfl) ps s

/-! #### Leaving -/

theorem owner_leaveOwner_same (p : Nat) (s : State) : (leaveOwner p s).owner p = {} := State.owner_setOwner_same _ p _

/-- An owner that leaves is absent while the others leave. -/
theorem absent_foldl_leaveOwner {ps : List Nat} {p : Nat} (hp : p ∈ ps) (s : State) : ((ps.foldl (fun s p => leaveOwner p s) s).owner p).exists = false := by
  induction ps generalizing s with
  | nil => exact absurd hp List.not_mem_nil
  | cons a r ih =>
    rw [List.foldl_cons]
    rcases List.mem_cons.1 hp with rfl | hp
    · have hleft : ((leaveOwner p s).owner p).exists = false := by rw [owner_leaveOwner_same]; rfl
      have hrest : Remains (leaveOwner p s) (r.foldl (fun s p => leaveOwner p s) (leaveOwner p s)) := .foldl (fun s p => .leaveOwner p s) _ _
      exact hrest.absent p hleft
    · exact ih hp _

/-! #### The whole -/

/-- A handover that fits, from no exclusive owner and without RESUME: the leaving owners leave, and the entering ones enter. -/
theorem handover_fits {own : Option Nat} {d : Line} {imgs : List Line} {s : State} (hkind : hoKind d = 1 → (s.owner 0).exists = false ∨ s.u.que.shared = true)
    (hout : s.u.flt.out = false) (hrunning : s.u.flt.running = false) (hfits : handoverFits s d imgs (hoPreempt d) = true) (hresume : hoResume d = false) :
    ∃ f, handover own d imgs s = enterOwners (ownersIn (hoEnter d)) imgs (applyConvictions
      (((ownersIn (hoLeave d)).foldl (fun s p => leaveOwner p s) ((ownersIn (hoLeave d)).foldl (fun s p => cancelArms p s) s)).updQue f)) ∧
      ∀ t, (f t).shared = decide (hoKind d ≠ 2) ∧ (f t).qs = t.qs := by
  have hexc : (decide (hoKind d = 1) && !s.u.que.shared && (s.owner 0).exists) = false := by
    by_cases h : hoKind d = 1
    · rcases hkind h with h | h <;> simp [h]
    · simp [h]
  unfold handover
  simp only [hexc, hout, hrunning, hfits, hresume, Bool.false_and, Bool.or_false, Bool.not_true, Bool.false_eq_true, if_false]
  exact ⟨_, rfl, fun t => ⟨rfl, rfl⟩⟩

/-- The owners after such a handover, and its mode. -/
theorem handover_owners {own : Option Nat} {d : Line} {imgs : List Line} {s : State} (hkind : hoKind d = 1 → (s.owner 0).exists = false ∨ s.u.que.shared = true)
    (hout : s.u.flt.out = false) (hrunning : s.u.flt.running = false) (hfits : handoverFits s d imgs (hoPreempt d) = true) (hresume : hoResume d = false) :
    (∀ p ∈ ownersIn (hoEnter d), ((handover own d imgs s).owner p).st = .creating ∧ ((handover own d imgs s).owner p).cfg = imgs.getD p 0 ∧
        curEpoch (handover own d imgs s) p = cfgEpoch (imgs.getD p 0)) ∧
      (∀ p ∈ ownersIn (hoLeave d), p ∉ ownersIn (hoEnter d) → ((handover own d imgs s).owner p).exists = false) ∧
      (handover own d imgs s).u.que.shared = decide (hoKind d ≠ 2) := by
  obtain ⟨f, hhand, hf⟩ := handover_fits (own := own) hkind hout hrunning hfits hresume
  rw [hhand]
  refine ⟨fun p hp => enterOwners_same (ownersIn_nodup _) hp imgs _, fun p hleaves hnot => ?_, ?_⟩
  · rw [owner_enterOwners_other hnot]
    refine (Remains.applyConvictions _).absent p ?_
    rw [State.owner, State.updQue_owners, ← State.owner]
    exact absent_foldl_leaveOwner hleaves _
  · obtain ⟨hshared, _⟩ := hf ((ownersIn (hoLeave d)).foldl (fun s p => leaveOwner p s) ((ownersIn (hoLeave d)).foldl (fun s p => cancelArms p s) s)).u.que
    rw [enterOwners_shared, applyConvictions_que]
    exact hshared

/-- No owner at all, so no exclusive one. -/
theorem ownerList_nil {s : State} (h : s.ownerList = []) : (s.owner 0).exists = false := by
  have hnot := List.filter_eq_nil_iff.1 h 0 (by decide)
  simpa using hnot

/-- The images of a valid descriptor fit (R342). -/
theorem handoverFits_of_good {s : State} {d : Line} {imgs : List Line} (h : hoBad s d imgs = false) : handoverFits s d imgs (hoPreempt d) = true := by
  by_contra hnot
  simp [hoBad, hnot] at h

/-- NOW with no owner, no arm and a valid descriptor is a handover of no owner (R344). -/
theorem modeNow_good {s : State} {i : Nat} (hnone : s.ownerList = []) (harms : s.u.crs.arms = [])
    (hgood : hoBad s (readHandover s i).1 (readHandover s i).2 = false) : modeNow i s = some (handover none (readHandover s i).1 (readHandover s i).2 s) :=
  if_neg (by simp [hnone, harms, hgood])

/-- An entry is taken out of the armed ones. -/
def withoutArm (a : Arm) (s : State) : State := s.updCrs (fun c => { c with arms := c.arms.filter (fun b => b.seq != a.seq) })

/-- HANDOVER that is due once is the handover of its descriptor (R258). -/
theorem exec_handover_due {s : State} {a : Arm} (hnext : nextArm s = some a) (hruns : counterRuns s = true) (hkind : armKind a = 1) (honce : armRepeat a.e = false) :
    ∃ own, exec .handover s = .next (handover own a.desc a.imgs (withoutArm a s)) := by
  have heffect : ∃ own, fireEffect a (withoutArm a s) = handover own a.desc a.imgs (withoutArm a s) := by
    simp only [fireEffect, hkind]
    exact ⟨_, rfl⟩
  obtain ⟨own, heffect⟩ := heffect
  exact ⟨own, congrArg Host.Outcome.next ((fireKind_next hnext hruns hkind honce).trans heffect)⟩

end Sys2Proof.Machine
end

/-! ### A draining partition (R343) -/

section
namespace Sys2Proof.Machine

open Sys2Proof

theorem drainStart_only {s : State} {a : Arm} (harms : s.u.crs.arms = [a]) (hkind : armKind a = 1) : drainStart s = drainArm a s := by
  have hfilter : s.u.crs.arms.filter (fun a => armKind a == 1) = [a] := by rw [harms]; simp [hkind]
  rw [drainStart, hfilter]
  rfl

/-- A partition that stops dispatching. -/
def drainOwner (s : State) (p : Nat) : State := if (s.owner p).st == .active && s.u.que.shared then s.setOwner p { s.owner p with st := .draining } else s

theorem drainArm_eq (a : Arm) (s : State) : drainArm a s =
    if a.course ≤ s.course.toNat + hoDrain a.desc then (ownersIn (hoLeave a.desc)).foldl drainOwner s else s := rfl

theorem drainOwner_keeps (s : State) (p : Nat) : ((drainOwner s p).mem, (drainOwner s p).cores, (drainOwner s p).u) = (s.mem, s.cores, s.u) := by
  unfold drainOwner
  split <;> rfl

theorem drainArm_keeps (a : Arm) (s : State) : ((drainArm a s).mem, (drainArm a s).cores, (drainArm a s).u) = (s.mem, s.cores, s.u) := by
  rw [drainArm_eq]
  split
  · exact foldl_view (fun s => (s.mem, s.cores, s.u)) drainOwner_keeps _ s
  · rfl

theorem st_drainOwner_same {s : State} (h : s.u.que.shared = true) (p : Nat) :
    ((drainOwner s p).owner p).st = if (s.owner p).st = .active then .draining else (s.owner p).st := by
  unfold drainOwner
  by_cases hst : (s.owner p).st = .active
  · rw [if_pos hst, if_pos (by simp [hst, h]), State.owner_setOwner_same]
  · rw [if_neg hst, if_neg (by simp [hst])]

theorem owner_drainOwner_other (s : State) {p q : Nat} (h : q ≠ p) : (drainOwner s p).owner q = s.owner q := by
  unfold drainOwner
  split
  · exact State.owner_setOwner_other s (Ne.symm h) _
  · rfl

/-- Within the DRAIN courses of the arm its leaving partitions that are active drain, and nothing else does. -/
theorem st_drainArm {s : State} {a : Arm} (hwithin : a.course ≤ s.course.toNat + hoDrain a.desc) (h : s.u.que.shared = true) {p : Nat} (hp : p < 16) :
    ((drainArm a s).owner p).st = if Nat.testBit (hoLeave a.desc) p = true ∧ (s.owner p).st = .active then .draining else (s.owner p).st := by
  have hinv : ∀ t, t.u.que.shared = true → ∀ b ∈ ownersIn (hoLeave a.desc), (drainOwner t b).u.que.shared = true := fun t ht b _ => by
    have hkeeps := drainOwner_keeps t b
    rw [show (drainOwner t b).u = t.u by simpa only [Prod.mk.injEq] using (Prod.mk.inj (Prod.mk.inj hkeeps).2).2, ht]
  have hother : ∀ t, t.u.que.shared = true → ∀ b ∈ ownersIn (hoLeave a.desc), ∀ j, j ≠ b → ((drainOwner t b).owner j).st = (t.owner j).st :=
    fun t _ b _ j hj => by rw [owner_drainOwner_other t hj]
  rw [drainArm_eq, if_pos hwithin]
  by_cases hleave : Nat.testBit (hoLeave a.desc) p = true
  · have hsame := foldl_unit_same (view := fun t j => (t.owner j).st) (key := fun b => b) (upd := fun _ st => if st = OwnSt.active then OwnSt.draining else st)
      hinv hother (fun t ht b _ => st_drainOwner_same ht b) (by rw [List.map_id']; exact ownersIn_nodup _) h (mem_ownersIn.2 ⟨hp, hleave⟩)
    simpa only [hleave, true_and] using hsame
  · have hnot : p ∉ (ownersIn (hoLeave a.desc)).map (fun b => b) := by rw [List.map_id', mem_ownersIn]; exact fun hmem => hleave hmem.2
    rw [foldl_unit_other (view := fun t j => (t.owner j).st) (key := fun b => b) hinv hother h hnot, if_neg (fun hmem => hleave hmem.1)]

end Sys2Proof.Machine
end

/-! ### What a new owner finds (R347) -/

section
namespace Sys2Proof.Machine

open Sys2Proof

/-- From s to t the bytes that P names are cleared, and no other byte changes. -/
structure Wipes (P : Nat → Prop) (s t : State) : Prop where
  clean : t.Clean
  que : t.u.que = s.u.que
  wiped : ∀ x, P x → t.byte x = 0
  kept : ∀ x, ¬ P x → t.byte x = s.byte x

theorem Wipes.refl {s : State} (h : s.Clean) : Wipes (fun _ => False) s s := ⟨h, rfl, fun _ => False.elim, fun _ _ => rfl⟩

theorem Wipes.trans {P Q : Nat → Prop} {s t u : State} (h : Wipes P s t) (k : Wipes Q t u) : Wipes (fun x => P x ∨ Q x) s u where
  clean := k.clean
  que := k.que.trans h.que
  wiped x hx := by
    by_cases hq : Q x
    · exact k.wiped x hq
    · rw [k.kept x hq, h.wiped x (hx.resolve_right hq)]
  kept x hx := by
    obtain ⟨hp, hq⟩ := not_or.1 hx
    rw [k.kept x hq, h.kept x hp]

theorem Wipes.congr {P Q : Nat → Prop} {s t : State} (h : Wipes P s t) (hPQ : ∀ x, P x ↔ Q x) : Wipes Q s t :=
  ⟨h.clean, h.que, fun x hx => h.wiped x ((hPQ x).2 hx), fun x hx => h.kept x (fun hp => hx ((hPQ x).1 hp))⟩

theorem Wipes.foldl {α : Type} {P : α → Nat → Prop} {f : State → α → State} {q : QueSt} (hf : ∀ t : State, t.Clean → t.u.que = q → ∀ a, Wipes (P a) t (f t a))
    (l : List α) {s : State} (h : s.Clean) (hq : s.u.que = q) : Wipes (fun x => ∃ a ∈ l, P a x) s (l.foldl f s) := by
  induction l generalizing s with
  | nil => exact (Wipes.refl h).congr (fun x => by simp)
  | cons a r ih =>
    have hhead := hf s h hq a
    exact (hhead.trans (ih hhead.clean (hhead.que.trans hq))).congr (fun x => by simp)

theorem Wipes.zero {s : State} (h : s.Clean) (a n : Nat) : Wipes (fun x => a ≤ x ∧ x < a + n) s (s.zero a n) where
  clean := (h.zero a n).clean
  que := (MemWrite.zero s a n).que
  wiped x hx := by rw [State.byte_zero h.noErr, if_pos hx]
  kept x hx := by rw [State.byte_zero h.noErr, if_neg hx]

/-- Core c and its scratchpad as a new owner finds them. -/
def wipeCore (s : State) (c : Nat) : State := clearCore c (s.zero (spBase c) spSize)

theorem Wipes.wipeCore {s : State} (h : s.Clean) (c : Nat) : Wipes (fun x => spBase c ≤ x ∧ x < spBase c + spSize) s (wipeCore s c) := by
  have hzero := Wipes.zero h (spBase c) spSize
  exact ⟨hzero.clean.setCore c _, hzero.que, hzero.wiped, hzero.kept⟩

/-- The part of range r that another owner has held is cleared. -/
theorem Wipes.clearDirty {s : State} (h : s.Clean) (r : Nat × Nat) :
    Wipes (fun x => ∃ d ∈ s.u.que.dirty, r.1 ≤ x ∧ x < r.2 ∧ d.1 ≤ x ∧ x < d.2) s (clearDirty r s) := by
  refine Wipes.foldl (q := s.u.que) (fun t ht _ d => ?_) s.u.que.dirty h rfl
  dsimp only
  by_cases hmeet : max r.1 d.1 < min r.2 d.2
  · have hzero := Wipes.zero ht (max r.1 d.1) (min r.2 d.2 - max r.1 d.1)
    rw [if_pos hmeet, State.inject_unarmed hzero.clean.unarmed]
    exact hzero.congr (fun x => by omega)
  · rw [if_neg hmeet]
    exact (Wipes.refl ht).congr (fun x => ⟨False.elim, fun hx => by omega⟩)

theorem MemWrite.clearDirty (r : Nat × Nat) (s : State) : MemWrite s (clearDirty r s) :=
  .foldl (fun s _ => .ite ((MemWrite.zero s _ _).trans (.inject _ _ _)) (.refl s)) s.u.que.dirty s

theorem State.nCores_eq (s : State) : s.nCores = 8 * s.nClusters := by
  unfold State.nCores State.nClusters
  split <;> rfl

/-- The cores of an image's clusters that another owner has held. -/
def dirtyCores (cfg : Line) (s : State) : List Nat :=
  ((List.range s.nClusters).filter (fun k => Nat.testBit (cfgClusters cfg) k && Nat.testBit s.u.que.dirtyCl k)).flatMap (fun k => (List.range 8).map (fun i => 8 * k + i))

theorem mem_dirtyCores {cfg : Line} {s : State} {c : Nat} : c ∈ dirtyCores cfg s ↔
    c < s.nCores ∧ Nat.testBit (cfgClusters cfg) (c / 8) = true ∧ Nat.testBit s.u.que.dirtyCl (c / 8) = true := by
  simp only [dirtyCores, List.mem_flatMap, List.mem_filter, List.mem_range, List.mem_map, Bool.and_eq_true, s.nCores_eq]
  constructor
  · rintro ⟨k, ⟨hk, hbits⟩, i, hi, rfl⟩
    rw [show (8 * k + i) / 8 = k by omega]
    exact ⟨by omega, hbits⟩
  · rintro ⟨hc, hbits⟩
    exact ⟨c / 8, ⟨by omega, hbits⟩, c % 8, by omega, by omega⟩

/-- A core that is cleared keeps no tag and is idle. -/
theorem core_foldl_wipeCore {cs : List Nat} {c : Nat} {s : State} (h : c ∈ cs ∨ ((s.core c).tag = 0 ∧ (s.core c).seq.run = .idle)) :
    ((cs.foldl wipeCore s).core c).tag = 0 ∧ ((cs.foldl wipeCore s).core c).seq.run = .idle := by
  induction cs generalizing s with
  | nil => exact h.resolve_left List.not_mem_nil
  | cons b r ih =>
    refine ih ?_
    by_cases hb : b = c
    · right
      rw [hb, wipeCore, clearCore, State.core_setCore_same]
      exact ⟨rfl, rfl⟩
    · have hcore : (wipeCore s b).core c = s.core c := by
        rw [wipeCore, clearCore, State.core_setCore_other _ hb, (MemWrite.zero s _ _).core]
      rw [hcore]
      exact h.imp_left (fun hmem => (List.mem_cons.1 hmem).resolve_left (Ne.symm hb))

theorem foldl_wipeCore_keeps (cs : List Nat) (s : State) : ((cs.foldl wipeCore s).owners, (cs.foldl wipeCore s).u.host.barw) = (s.owners, s.u.host.barw) := by
  refine foldl_view (fun s => (s.owners, s.u.host.barw)) (fun t c => ?_) cs s
  have hzero := MemWrite.zero t (spBase c) spSize
  exact Prod.ext hzero.owners hzero.barw

end Sys2Proof.Machine
end

/-! ### OWNER_ACTIVE (R338, R347) -/

section
namespace Sys2Proof.Machine

open Sys2Proof

/-- Clusters and ranges of an image as a new owner finds them. -/
def cleared (cfg : Line) (s : State) : State := (cfgRanges cfg).foldl (fun s r => clearDirty r s) ((dirtyCores cfg s).foldl wipeCore s)

/-- An owner in creation that resumes nothing. -/
theorem ownerActive_creating {s : State} {p : Nat} (hst : (s.owner p).st = .creating) (hfresh : s.u.que.susp = none ∨ s.u.que.resuming = false ∨ p ≠ 0) :
    ownerActive p s = poolStart (s.owner p) ((cleared (s.owner p).cfg s).setOwner p { s.owner p with st := .active }) := by
  have hcores : ((List.range s.nClusters).filter (fun k => Nat.testBit (cfgClusters (s.owner p).cfg) k && Nat.testBit s.u.que.dirtyCl k)).foldl (fun s k =>
      (List.range 8).foldl (fun s i => clearCore (8 * k + i) (s.zero (spBase (8 * k + i)) spSize)) s) s = (dirtyCores (s.owner p).cfg s).foldl wipeCore s := by
    rw [dirtyCores, List.foldl_flatMap]
    simp only [List.foldl_map, wipeCore]
  unfold ownerActive
  dsimp only
  rw [if_neg (by simp [hst]), hcores]
  cases hsusp : s.u.que.susp with
  | none => rfl
  | some x =>
    have hback : ¬ (s.u.que.resuming && decide (p = 0)) = true := by
      rcases hfresh with h | h | h
      · rw [hsusp] at h
        exact absurd h (by simp)
      · simp [h]
      · simp [h]
    exact if_neg hback

/-- With no BAR2 access that waits there is nothing to drain. -/
theorem barDrain_none {s : State} (h : s.u.host.barw = []) (p : Nat) : barDrain p s = s := by
  have hnone : s.updHost (fun h => { h with barw := h.barw.filter (fun b => b.f != p) }) = s := by
    show { s with u := { s.u with host := { s.u.host with barw := s.u.host.barw.filter (fun b => b.f != p) } } } = s
    rw [h, List.filter_nil, ← h]
  unfold barDrain
  rw [hnone, h]
  exact ite_self s

theorem exec_ownerActive {s t : State} {p : Nat} (hp : p < s.nOwners) (ht : ownerActive p s = t) (hbarw : t.u.host.barw = []) :
    exec (.ownerActive p) s = .next t := by
  have hexec : exec (.ownerActive p) s = .next (barDrain p (ownerActive p s)) := onOwner_of_lt hp (fun s => barDrain p (ownerActive p s))
  rw [hexec, ht, barDrain_none hbarw]

theorem cleared_owners (cfg : Line) (s : State) : (cleared cfg s).owners = s.owners :=
  (MemWrite.foldl (fun s r => .clearDirty r s) (cfgRanges cfg) _).owners.trans (Prod.mk.inj (foldl_wipeCore_keeps _ s)).1

theorem cleared_barw (cfg : Line) (s : State) : (cleared cfg s).u.host.barw = s.u.host.barw :=
  (MemWrite.foldl (fun s r => .clearDirty r s) (cfgRanges cfg) _).barw.trans (Prod.mk.inj (foldl_wipeCore_keeps _ s)).2

theorem cleared_core {cfg : Line} {s : State} {c : Nat} (h : c ∈ dirtyCores cfg s) :
    ((cleared cfg s).core c).tag = 0 ∧ ((cleared cfg s).core c).seq.run = .idle := by
  rw [cleared, (MemWrite.foldl (fun s r => .clearDirty r s) (cfgRanges cfg) _).core]
  exact core_foldl_wipeCore (.inl h)

/-- What is cleared: the scratchpads of the dirty cores, and what dirty ranges share with the image's. -/
theorem Wipes.cleared {s : State} (h : s.Clean) (cfg : Line) : Wipes (fun x => (∃ c ∈ dirtyCores cfg s, spBase c ≤ x ∧ x < spBase c + spSize) ∨
    ∃ r ∈ cfgRanges cfg, ∃ d ∈ s.u.que.dirty, r.1 ≤ x ∧ x < r.2 ∧ d.1 ≤ x ∧ x < d.2) s (cleared cfg s) := by
  have hcores : Wipes (fun x => ∃ c ∈ dirtyCores cfg s, spBase c ≤ x ∧ x < spBase c + spSize) s ((dirtyCores cfg s).foldl Machine.wipeCore s) :=
    .foldl (fun t ht _ c => .wipeCore ht c) _ h rfl
  refine hcores.trans (Wipes.foldl (fun t ht hque r => ?_) _ hcores.clean hcores.que)
  have hrange := Wipes.clearDirty ht r
  rwa [hque] at hrange

/-- With nothing dirty nothing is cleared. -/
theorem cleared_nothing {cfg : Line} {s : State} (hcl : cfgClusters cfg &&& s.u.que.dirtyCl = 0) (hdirty : s.u.que.dirty = []) : cleared cfg s = s := by
  have hcores : dirtyCores cfg s = [] := by
    refine List.eq_nil_iff_forall_not_mem.2 (fun c hc => ?_)
    obtain ⟨_, hmine, hheld⟩ := mem_dirtyCores.1 hc
    have hboth := Nat.testBit_and (cfgClusters cfg) s.u.que.dirtyCl (c / 8)
    simp [hcl, hmine, hheld] at hboth
  have hranges : ∀ r, clearDirty r s = s := fun r => by rw [clearDirty, hdirty]; rfl
  rw [cleared, hcores]
  exact List.foldl_fixed' hranges _

end Sys2Proof.Machine
end

/-! ### Reset of a partition (R366) -/

section
namespace Sys2Proof.Machine

open Sys2Proof

/-- Where each step changes its own core by g and no other, a run over cores named once changes each of them by g. -/
theorem core_foldl {f : State → Nat → State} {g : Core → Core} (hf : ∀ s c, (f s c).cores = SMap.set c (g (s.core c)) s.cores) {cs : List Nat}
    (hcs : cs.Nodup) {c : Nat} (hc : c ∈ cs) (s : State) : (cs.foldl f s).core c = g (s.core c) := by
  have hother : ∀ t, True → ∀ a ∈ cs, ∀ j, j ≠ a → (f t a).core j = t.core j := fun t _ a _ j hj => by
    rw [State.core, hf, SMap.get_set_other _ (Ne.symm hj), State.core]
  have hsame : ∀ t, True → ∀ a ∈ cs, (f t a).core a = g (t.core a) := fun t _ a _ => by
    rw [State.core, hf, SMap.get_set_same]
  exact foldl_unit_same (inv := fun _ => True) (view := State.core) (key := fun c => c) (upd := fun _ k => g k) (fun _ _ _ _ => trivial) hother hsame
    (by rwa [List.map_id']) trivial hc

theorem State.coresOf_congr {s t : State} (h : (t.part, t.owners) = (s.part, s.owners)) (p : Nat) : t.coresOf p = s.coresOf p := by
  obtain ⟨hpart, howners⟩ := Prod.mk.inj h
  have hcores : t.nCores = s.nCores := by unfold State.nCores State.is96; rw [hpart]
  have howner : ∀ c, t.ownerOfCore c = s.ownerOfCore c := fun c => by
    unfold State.ownerOfCore State.ownerOfCluster State.ownerList State.owner
    rw [howners]
  unfold State.coresOf
  simp only [hcores, howner]

theorem mem_coresOf {s : State} {p c : Nat} : c ∈ s.coresOf p ↔ c < s.nCores ∧ s.ownerOfCore c = some p := by
  simp [State.coresOf]

theorem coresOf_nodup (s : State) (p : Nat) : (s.coresOf p).Nodup := List.nodup_range.filter _

/-! #### The stages of a reset -/

/-- A core at a halt (R103). -/
def haltedCore (k : Core) : Core :=
  { k with seq := if k.seq.run == .running || k.seq.run == .waiting || k.seq.run == .halted
      then { k.seq with run := .halted, openB := [], q := [], stalled := false } else k.seq }

/-- The cores of an owner halt and its commands are aborted. -/
def haltedOwner (p : Nat) (s : State) : State :=
  let t := (s.coresOf p).foldl (fun s c => State.haltCoreAt c s) s
  (t.u.que.disp.filter (fun d => d.own == p)).foldl (fun s d => s.finish d 0xFF) t

/-- A core unfrozen with its DMA queues. -/
def unfrozenCore (k : Core) : Core :=
  { k with seq := { k.seq with frozen := false }, dma := k.dma.map (fun e => (e.1, { e.2 with frozen := false })) }

/-- An idle core without a tag. -/
def idledCore (k : Core) : Core := { k with tag := 0, seq := { k.seq with run := .idle, ending := false, main := none, unmet := false } }

/-- Cores are idle and their scratchpads zero. -/
def idledCores (cs : List Nat) (s : State) : State := cs.foldl (fun s c => resetCore c (s.zero (spBase c) spSize)) s

/-- The queues of an owner of state s are empty. -/
def emptyQueues (s : State) (p : Nat) (t : State) : State :=
  t.updQue (fun t => { t with qs := t.qs.map (fun e => if s.holds p e.1 then (e.1, { e.2 with err := false, tail := e.2.done, head := e.2.done }) else e) })

/-- And their descriptors hold it (R350). -/
def writeHeads (s : State) (p : Nat) (t : State) : State :=
  (t.u.que.qs.filter (fun e => s.holds p e.1)).foldl (fun s e => s.wr (qtableBase s + 64 * e.1 + 24) 8 e.2.done) t

theorem resetOwner_eq (p : Nat) (s : State) : resetOwner p s = closeWindow p ((poolInit (s.owner p).cfg (writeHeads s p (emptyQueues s p
    (idledCores (s.coresOf p) (unfreezeOwner p (haltedOwner p s)))))).setOwner p { s.owner p with st := .active }) := rfl

theorem MemWrite.writeHeads (s : State) (p : Nat) (t : State) : MemWrite t (writeHeads s p t) :=
  .foldl (fun s (_ : Nat × Queue) => .wr s _ 8 _) _ t

theorem finish_keeps (s : State) (c : Disp) (status : Nat) : ((s.finish c status).part, (s.finish c status).owners, (s.finish c status).cores) =
    (s.part, s.owners, s.cores) := by
  have hwrite : ∀ h t, ((putDev h t).part, (putDev h t).owners, (putDev h t).cores) = (t.part, t.owners, t.cores) := fun h t => by
    have hput := MemWrite.putDev h t
    rw [hput.part, hput.owners, hput.cores]
  exact hwrite _ _

theorem foldl_finish_keeps (l : List Disp) (t : State) : ((l.foldl (fun s d => s.finish d 0xFF) t).part, (l.foldl (fun s d => s.finish d 0xFF) t).owners,
    (l.foldl (fun s d => s.finish d 0xFF) t).cores) = (t.part, t.owners, t.cores) :=
  foldl_view (fun s => (s.part, s.owners, s.cores)) (fun s d => finish_keeps s d 0xFF) l t

theorem haltedOwner_coresOf (p : Nat) (s : State) : (haltedOwner p s).coresOf p = s.coresOf p := by
  have hhalt : ∀ (l : List Nat) t, ((l.foldl (fun s c => State.haltCoreAt c s) t).part, (l.foldl (fun s c => State.haltCoreAt c s) t).owners) = (t.part, t.owners) :=
    foldl_view (fun s => (s.part, s.owners)) (fun _ _ => by rfl)
  refine State.coresOf_congr (Eq.trans ?_ (hhalt (s.coresOf p) s)) p
  have hfinish := foldl_finish_keeps (((s.coresOf p).foldl (fun s c => State.haltCoreAt c s) s).u.que.disp.filter (fun d => d.own == p))
    ((s.coresOf p).foldl (fun s c => State.haltCoreAt c s) s)
  simp only [Prod.mk.injEq] at hfinish ⊢
  obtain ⟨hpart, howners, _⟩ := hfinish
  exact ⟨hpart, howners⟩

section
variable {s : State} {p c : Nat} (hc : c ∈ s.coresOf p)
include hc

theorem core_haltedOwner : (haltedOwner p s).core c = haltedCore (s.core c) := by
  have hfinish := foldl_finish_keeps (((s.coresOf p).foldl (fun s c => State.haltCoreAt c s) s).u.que.disp.filter (fun d => d.own == p))
    ((s.coresOf p).foldl (fun s c => State.haltCoreAt c s) s)
  simp only [Prod.mk.injEq] at hfinish
  obtain ⟨_, _, hcores⟩ := hfinish
  have hhalted : (haltedOwner p s).cores = ((s.coresOf p).foldl (fun s c => State.haltCoreAt c s) s).cores := hcores
  rw [State.core, hhalted, ← State.core, core_foldl (g := haltedCore) (fun _ _ => rfl) (coresOf_nodup s p) hc]

theorem core_unfreezeOwner : (unfreezeOwner p s).core c = unfrozenCore (s.core c) :=
  core_foldl (g := unfrozenCore) (f := fun s c => s.updCore c unfrozenCore) (fun _ _ => rfl) (coresOf_nodup s p) hc s

end

theorem core_idledCores {cs : List Nat} (hcs : cs.Nodup) {c : Nat} (hc : c ∈ cs) (s : State) : (idledCores cs s).core c = idledCore (s.core c) := by
  refine core_foldl (g := idledCore) (fun t c => ?_) hcs hc s
  have hzero := MemWrite.zero t (spBase c) spSize
  show SMap.set c (idledCore ((t.zero (spBase c) spSize).core c)) (t.zero (spBase c) spSize).cores = _
  rw [hzero.core, hzero.cores]

/-- A core of an owner that is reset. -/
theorem core_resetOwner {s : State} {p c : Nat} (hc : c ∈ s.coresOf p) : (resetOwner p s).core c = idledCore (unfrozenCore (haltedCore (s.core c))) := by
  have hcloses : ∀ t o, (closeWindow p (State.setOwner t p o)).core c = t.core c := fun _ _ => rfl
  have hempties : ∀ t, (emptyQueues s p t).core c = t.core c := fun _ => rfl
  have hunfrozen : c ∈ (haltedOwner p s).coresOf p := by rwa [haltedOwner_coresOf]
  rw [resetOwner_eq, hcloses, (MemWrite.poolInit _ _).core, (MemWrite.writeHeads s p _).core, hempties, core_idledCores (coresOf_nodup s p) hc,
    core_unfreezeOwner hunfrozen, core_haltedOwner hc]

/-- The queues of an owner that is reset are empty and not in error. -/
theorem queues_resetOwner {s : State} {p : Nat} {e : Nat × Queue} (he : e ∈ (resetOwner p s).u.que.qs) (hmine : s.holds p e.1 = true) :
    e.2.err = false ∧ e.2.tail = e.2.done ∧ e.2.head = e.2.done := by
  have hcloses : ∀ t o, (closeWindow p (State.setOwner t p o)).u.que = t.u.que := fun _ _ => rfl
  rw [resetOwner_eq, hcloses, (MemWrite.poolInit _ _).que, (MemWrite.writeHeads s p _).que] at he
  obtain ⟨x, _, rfl⟩ := List.mem_map.1 he
  by_cases hx : s.holds p x.1 = true
  · rw [if_pos hx]
    exact ⟨rfl, rfl, rfl⟩
  · rw [if_neg hx] at hmine
    exact absurd hmine hx

theorem owner_resetOwner (p : Nat) (s : State) : (resetOwner p s).owner p = { s.owner p with st := .active } := State.owner_setOwner_same _ p _

theorem fltOwner_closeWindow (p : Nat) (s : State) :
    (closeWindow p s).fltOwner p = { s.fltOwner p with first := 0, ovf := 0, ovfCount := 0, handling := false, escalated := false } :=
  SMap.get_set_same _ p _ _

theorem fltOwner_resetOwner (p : Nat) (s : State) : ((resetOwner p s).fltOwner p).handling = false ∧ ((resetOwner p s).fltOwner p).first = 0 := by
  rw [resetOwner_eq, fltOwner_closeWindow]
  exact ⟨rfl, rfl⟩

end Sys2Proof.Machine

open Sys2Proof Sys2Proof.Machine

/-- Settles O49: the owners after a handover are those of handover_owners, what OWNER_ACTIVE clears is Wipes, draining is st_drainArm, and the stages of a
reset say what it leaves. -/
theorem ownersChange : Obligations.OwnersChange := by
  unfold Obligations.OwnersChange
  intro s v
  refine ⟨⟨?_, ?_⟩, ?_, ?_, ?_⟩
  · intro hnone harms hout hrunning h hgood hresume
    have habsent : (s.owner 0).exists = false := ownerList_nil hnone
    have hexec : exec (.queModeNow .ctl v) s = .next (write64 .ctl .queMode (v ||| 0x100000000000000) s) := rfl
    obtain ⟨henters, _, hshared⟩ := handover_owners (own := none) (fun _ => .inl habsent) hout hrunning (handoverFits_of_good hgood) hresume
    exact ⟨_, by rw [hexec, write64_queMode (modeNow_good hnone harms hgood)], henters, hshared⟩
  · intro a hnext harm hruns hpart hkind hresume hout hrunning hfits honce
    obtain ⟨own, hexec⟩ := exec_handover_due hnext hruns harm honce
    obtain ⟨henters, hleaves, hshared⟩ := handover_owners (s := withoutArm a s) (own := own) (fun _ => .inr hpart) hout hrunning hfits hresume
    refine ⟨_, hexec, henters, hleaves, hshared.trans ?_⟩
    rw [hkind]
    rfl
  · intro p hp o fresh
    refine ⟨fun hst hfresh hcl hdirty hbarw => ?_, fun hst hfresh hpool he hunarmed hbarw => ?_, fun hst hbarw => ?_⟩
    · refine exec_ownerActive hp ?_ ((MemWrite.poolStart _ _).barw.trans hbarw)
      rw [ownerActive_creating hst hfresh, cleared_nothing hcl hdirty]
    · have hcleared := Wipes.cleared ⟨he, hunarmed⟩ o.cfg
      have hactive : ownerActive p s = (cleared o.cfg s).setOwner p { o with st := .active } := by
        rw [ownerActive_creating hst hfresh, poolStart]
        dsimp only
        rw [hpool]
      refine ⟨_, exec_ownerActive hp hactive ((cleared_barw _ s).trans hbarw), ?_, ?_, ?_, ?_, ?_, ?_⟩
      · rw [State.owner_setOwner_same]
      · rw [State.owner_setOwner_same]
      · intro q hq
        rw [State.owner_setOwner_other _ (Ne.symm hq), State.owner, cleared_owners, State.owner]
      · intro c hc hmine hheld
        have hmem : c ∈ dirtyCores o.cfg s := mem_dirtyCores.2 ⟨hc, hmine, hheld⟩
        obtain ⟨htag, hrun⟩ := cleared_core hmem
        exact ⟨htag, hrun, fun x hlo hhi => hcleared.wiped x (.inl ⟨c, hmem, hlo, hhi⟩)⟩
      · exact fun r hr d hd x hr₁ hr₂ hd₁ hd₂ => hcleared.wiped x (.inr ⟨r, hr, d, hd, hr₁, hr₂, hd₁, hd₂⟩)
      · intro x hcores hranges
        refine hcleared.kept x ?_
        rintro (⟨c, hc, hlo, hhi⟩ | ⟨r, hr, d, hd, hx⟩)
        · obtain ⟨hc, hmine, hheld⟩ := mem_dirtyCores.1 hc
          exact hcores c hc hmine hheld ⟨hlo, hhi⟩
        · exact hranges r hr d hd hx
    · exact exec_ownerActive hp (if_pos (by simpa using hst)) hbarw
  · intro a harms hkind
    have hkeeps := drainArm_keeps a s
    simp only [Prod.mk.injEq] at hkeeps
    obtain ⟨hmem, hcores, _⟩ := hkeeps
    refine ⟨drainArm a s, congrArg _ (drainStart_only harms hkind), hmem, hcores, fun hearly => ?_, fun hwithin hshared p hp => st_drainArm hwithin hshared hp⟩
    exact if_neg (by omega)
  · intro p hp hok
    obtain ⟨hhandling, hfirst⟩ := fltOwner_resetOwner p s
    refine ⟨_, exec_quePartReset hp hok v, ?_, ?_, hhandling, hfirst, fun c hc hmine => ?_, fun e he hmine => queues_resetOwner he hmine⟩
    · rw [owner_resetOwner]
    · rw [owner_resetOwner]
    · rw [core_resetOwner (mem_coresOf.2 ⟨hc, hmine⟩)]
      exact ⟨rfl, rfl, rfl, rfl⟩
end
